-- ==== Sys2Proof/Word.lean ====
section
/-! DEFINITION. The words of the part and their plainest arithmetic. -/

namespace Sys2Proof

/-- A scalar, an address or a field of an engine register (07 R148). -/
abbrev Word := BitVec 64
/-- The contents of a vector register (07 R148). -/
abbrev VWord := BitVec 2048
/-- One byte of memory. -/
abbrev Byte := BitVec 8

/-- The low `n` bits set. -/
def lowMask (w n : Nat) : BitVec w := BitVec.ofNat w (2 ^ n - 1)

/-- The field [hi:lo] of a word, as a number (00 R3). -/
def bits {w : Nat} (x : BitVec w) (hi lo : Nat) : Nat := x.toNat / 2 ^ lo % 2 ^ (hi + 1 - lo)

end Sys2Proof
end

