-- ==== Sys2Proof/Syntax.lean ====
section
/-! DEFINITION. Every row of spec/opcode_table.json as one constructor of `Instr`: the slot operations with the
fields of Table fetch-5, their long forms, and the steps of the host, the engines, the fabric and the handlers. -/

namespace Sys2Proof

/-- A scalar register s0-s63. -/
abbrev SReg := Fin 64
/-- A vector register v0-v63. -/
abbrev VReg := Fin 64
/-- A 7-bit predicate field; 96-127 name nothing (05 R95). -/
abbrev PReg := Fin 128
/-- A 6-bit field that names a scale register; 16-63 name nothing (05 R95). -/
abbrev CReg := Fin 64
/-- A path tag (05 Table fetch-4). -/
abbrev Tag := Fin 8

/-- A descriptor chain given on a queue: the lengths of its two parts and the 64-byte command (03 R49, R50). -/
structure Chain where
  rlen : Nat
  wlen : Nat
  cmd  : BitVec 512
  deriving DecidableEq, Repr

/-- A write to a virtio configuration or transport register that has no row of its own (03 R43-R45). -/
inductive ConfigWrite where
  /-- the feature bits the driver accepts -/
  | driverFeatures (bits : BitVec 64)
  /-- the driver asks for FEATURES_OK -/
  | featuresOk
  /-- enable or disable a queue of the given size -/
  | queueSetup (q : Nat) (size : Nat) (enable : Bool)
  /-- the driver makes a chain available in a ring -/
  | available (q : Nat) (c : Chain)
  /-- any other register of the transport -/
  | other (offset : Nat) (value : BitVec 64)
  deriving DecidableEq, Repr

/-- What a request of the fabric names when it is performed (14 R296). -/
inductive Access where
  /-- request `id` of a context -/
  | request (id : Nat)
  /-- element `k` of copy `id` -/
  | element (id : Nat) (k : Nat)
  /-- inbound packet `id` -/
  | packet (id : Nat)
  deriving DecidableEq, Repr

/-- An active message that comes from another part (17 R350). -/
structure RemoteSend where
  part    : BitVec 12
  job     : BitVec 32
  ctx     : BitVec 16
  sender  : BitVec 16
  handler : BitVec 64
  prio    : Fin 4
  args    : Vector (BitVec 64) 8
  deriving DecidableEq, Repr

/-- What a flit of 64 bytes carries between parts (04 R81, R84, R85; log entry 24): one of the three flits of an active message, which
follow each other: its head, then four of its arguments each; at most 32 bytes of a copy's element, or their acknowledgement; a read of
an element, or at most 32 bytes of its data, none of them where the peer refuses. Copy, element and piece numbers are those of the part
that runs the copy. -/
inductive FlitBody where
  | messageHead (job : BitVec 32) (ctx sender : BitVec 16) (handler : BitVec 64) (prio : Fin 4)
  | messageArgs (last : Bool) (args : Vector (BitVec 64) 4)
  | copyWrite (offset : Nat) (data : List (BitVec 8)) (copy element piece : Nat)
  | copyAck (copy element piece : Nat)
  | copyRead (offset len copy element : Nat)
  | readData (data : Option (List (BitVec 8))) (copy element piece : Nat)
  deriving DecidableEq, Repr

/-- Class 1 traffic, delivered in order (04 R84). -/
def FlitBody.ordered : FlitBody → Bool
  | .messageHead .. | .messageArgs .. | .copyAck .. | .copyRead .. => true
  | .copyWrite .. | .readData .. => false

/-- The bytes of data in a flit. -/
abbrev flitData : Nat := 32
/-- The flit holds what it carries. -/
def FlitBody.fits : FlitBody → Bool
  | .copyWrite _ d _ _ _ => d.length ≤ flitData
  | .readData (some d) _ _ _ => d.length ≤ flitData
  | _ => true

/-- A flit of a Zyndel link (04 R81, R82, R84): its link-level number; the acknowledgement it carries of the other direction,
with whether the receiver asks for a replay from there; the end-to-end number of its source, destination and class. -/
structure Flit where
  seq      : Nat
  ack      : Nat
  again    : Bool
  source   : BitVec 12
  dest     : BitVec 12
  endToEnd : Nat
  body     : FlitBody
  deriving DecidableEq, Repr

/-- What a scrub pass finds in one block of an array (23 R400-R403). -/
inductive ArrayError where
  /-- the block's parity is right -/
  | clean
  /-- an error in one row of an array of a core, or of one that belongs to no core (a die cache, a switch table), which is rebuilt -/
  | corrected (core : Option Nat) (array : Nat)
  /-- an uncorrectable error that poisons granules of memory: those that an HBM code word, a die-cache row or a row of a core's
  slice covers -/
  | granules (core : Option Nat) (first count : Nat)
  /-- an uncorrectable error in an array of a context: item `ix` of its scalar (0), vector (1), predicate (2) or scale (3)
  registers, its engine register fields (4) or its loop stack (5) -/
  | registers (k : Nat) (file : Fin 6) (ix : Nat)
  /-- an uncorrectable error in a word of a tile -/
  | accumulator (core : Nat) (tile : Fin 16) (word : Fin 12288)
  /-- an uncorrectable error in a locked service store -/
  | serviceStore (core : Nat)
  /-- a corrected error in an instruction cache: the bundle at an address is fetched again -/
  | instruction (core array address : Nat)
  /-- an uncorrectable error in an instruction cache -/
  | instructionLost (core address : Nat)
  /-- an uncorrectable error in a queued vector of the stream bound to register 56 + `n` of a context -/
  | stream (k : Nat) (n : Fin 8) (index : Nat)
  /-- an uncorrectable error in a group's entry of a switch table: cluster 0-23, die 24-27, the spine 28 -/
  | switchTable (job group : Nat) (switch : Fin 29)
  deriving DecidableEq, Repr

/-- A unit that has power states (23 Table errors-2). -/
inductive PowerUnit where
  | core (core : Nat)
  | stack (stack : Nat)
  | layerGate (die layer : Nat)
  | layerOff (die layer : Nat)
  | die (die : Nat)
  deriving DecidableEq, Repr

/-- One constructor per row of spec/opcode_table.json. -/
inductive Instr where
  /-- the empty-mask bundle (05 R89) -/
  | nop (s : Fin 2)
  | add (d a b : SReg) (p : Tag)
  | sub (d a b : SReg) (p : Tag)
  | and (d a b : SReg) (p : Tag)
  | or (d a b : SReg) (p : Tag)
  | xor (d a b : SReg) (p : Tag)
  | andn (d a b : SReg) (p : Tag)
  | shl (d a b : SReg) (p : Tag)
  | shr (d a b : SReg) (p : Tag)
  | sra (d a b : SReg) (p : Tag)
  | rol (d a b : SReg) (p : Tag)
  | min (d a b : SReg) (p : Tag)
  | max (d a b : SReg) (p : Tag)
  | minn (d a b : SReg) (p : Tag)
  | maxn (d a b : SReg) (p : Tag)
  | addw (d a b : SReg) (p : Tag)
  | subw (d a b : SReg) (p : Tag)
  | clz (d a : SReg) (p : Tag)
  | ctz (d a : SReg) (p : Tag)
  | popc (d a : SReg) (p : Tag)
  | bswap (d a : SReg) (p : Tag)
  | mul (d a b : SReg) (p : Tag)
  | mulh (d a b : SReg) (p : Tag)
  | mulhn (d a b : SReg) (p : Tag)
  | addi (d a : SReg) (i : BitVec 11) (p : Tag)
  | andi (d a : SReg) (i : BitVec 11) (p : Tag)
  | ori (d a : SReg) (i : BitVec 11) (p : Tag)
  | xori (d a : SReg) (i : BitVec 11) (p : Tag)
  | shli (d a : SReg) (n : Fin 64) (p : Tag)
  | shri (d a : SReg) (n : Fin 64) (p : Tag)
  | srai (d a : SReg) (n : Fin 64) (p : Tag)
  | roli (d a : SReg) (n : Fin 64) (p : Tag)
  | ldi (d : SReg) (i : BitVec 11) (p : Tag)
  | cmp (d : PReg) (a b : SReg) (c : Fin 8) (p : Tag)
  | cmpAnd (d : PReg) (a b : SReg) (c : Fin 8) (p : Tag)
  | cmpi (d : PReg) (a : SReg) (c : Fin 8) (i : BitVec 7) (p : Tag)
  | pand (d a b : PReg) (p : Tag)
  | por (d a b : PReg) (p : Tag)
  | pxor (d a b : PReg) (p : Tag)
  | pandn (d a b : PReg) (p : Tag)
  | pnot (d a : PReg) (p : Tag)
  | pset (d : PReg) (p : Tag)
  | pclr (d : PReg) (p : Tag)
  | pfirst (d a : PReg) (p : Tag)
  | pfroms (d : PReg) (a b : SReg) (p : Tag)
  | pcount (d : Fin 128) (a : PReg) (p : Tag)
  | sels (d a b : SReg) (g : Fin 32) (p : Tag)
  | mfs (d : SReg) (n : Fin 2048) (p : Tag)
  | mts (a : SReg) (n : Fin 2048) (p : Tag)
  | loop (a : SReg) (e : Fin 2048) (p : Tag)
  | loopi (e : Fin 4096) (c : Fin 2048) (p : Tag)
  | brklp (p : Tag)
  | waitc (a : SReg) (n : Fin 2048) (p : Tag)
  | trap (c : BitVec 12) (p : Tag)
  | rft (p : Tag)
  | yield (p : Tag)
  | tend (p : Tag)
  | fencel (p : Tag)
  | fenceh (s : Fin 64) (p : Tag)
  | svc (c : BitVec 12) (p : Tag)
  | svcNop (p : Tag)
  | svcLog (p : Tag)
  | svcProbe (p : Tag)
  | svcTouch (p : Tag)
  | bt (c : PReg) (o : BitVec 22)
  | bf (c : PReg) (o : BitVec 22)
  | bany (c : PReg) (o : BitVec 22)
  | ball (c : PReg) (o : BitVec 22)
  | j (o : BitVec 22)
  | call (o : BitVec 22)
  | chk (c : Fin 128) (o : BitVec 22)
  | jr (l : Fin 2) (k : SReg)
  | ldb (d a : SReg) (o : BitVec 11) (p : Tag)
  | ldbn (d a : SReg) (o : BitVec 11) (p : Tag)
  | ldh (d a : SReg) (o : BitVec 11) (p : Tag)
  | ldhn (d a : SReg) (o : BitVec 11) (p : Tag)
  | ldw (d a : SReg) (o : BitVec 11) (p : Tag)
  | ldwn (d a : SReg) (o : BitVec 11) (p : Tag)
  | ldd (d a : SReg) (o : BitVec 11) (p : Tag)
  | stb (d a : SReg) (o : BitVec 11) (p : Tag)
  | sth (d a : SReg) (o : BitVec 11) (p : Tag)
  | stw (d a : SReg) (o : BitVec 11) (p : Tag)
  | std (d a : SReg) (o : BitVec 11) (p : Tag)
  | lds (d a : SReg) (o : BitVec 11) (p : Tag)
  | vld (d : VReg) (a : SReg) (o : BitVec 11) (p : Tag)
  | vst (d : VReg) (a : SReg) (o : BitVec 11) (p : Tag)
  | vlds (d : VReg) (a : SReg) (o : BitVec 11) (p : Tag)
  | vldb (d : VReg) (b : Fin 32) (x : SReg) (o : Fin 64) (p : Tag)
  | vstb (d : VReg) (b : Fin 32) (x : SReg) (o : Fin 64) (p : Tag)
  | vgath (d : VReg) (a : SReg) (b : VReg) (g : Fin 8) (w : Fin 4) (p : Tag)
  | vscat (d : VReg) (a : SReg) (b : VReg) (g : Fin 8) (w : Fin 4) (p : Tag)
  | ldfe (d a : SReg) (o : BitVec 11) (p : Tag)
  | ldfec (d a : SReg) (o : BitVec 11) (p : Tag)
  | vldfe (d : VReg) (a : SReg) (o : BitVec 11) (p : Tag)
  | vldfec (d : VReg) (a : SReg) (o : BitVec 11) (p : Tag)
  | stf (d a : SReg) (o : BitVec 11) (p : Tag)
  | vstf (d : VReg) (a : SReg) (o : BitVec 11) (p : Tag)
  | ldacq (d a : SReg) (s : Fin 8) (z : Fin 4) (p : Tag)
  | strel (d a : SReg) (s : Fin 8) (z : Fin 4) (p : Tag)
  | atomAdd (d a b : SReg) (r : Fin 2) (p : Tag)
  | atomMin (d a b : SReg) (r : Fin 2) (p : Tag)
  | atomMax (d a b : SReg) (r : Fin 2) (p : Tag)
  | atomMinn (d a b : SReg) (r : Fin 2) (p : Tag)
  | atomMaxn (d a b : SReg) (r : Fin 2) (p : Tag)
  | atomAnd (d a b : SReg) (r : Fin 2) (p : Tag)
  | atomOr (d a b : SReg) (r : Fin 2) (p : Tag)
  | atomXor (d a b : SReg) (r : Fin 2) (p : Tag)
  | atomSwap (d a b : SReg) (r : Fin 2) (p : Tag)
  | cas (d a b : SReg) (r : Fin 2) (p : Tag)
  | vatomAdd (d : VReg) (a : SReg) (b : VReg) (r : Fin 2) (p : Tag)
  | vatomAnd (d : VReg) (a : SReg) (b : VReg) (r : Fin 2) (p : Tag)
  | vatomOr (d : VReg) (a : SReg) (b : VReg) (r : Fin 2) (p : Tag)
  | vatomMax (d : VReg) (a : SReg) (b : VReg) (r : Fin 2) (p : Tag)
  | rkopen (d a : SReg) (p : Tag)
  | rkpub (a : SReg) (p : Tag)
  | rktake (d a : SReg) (p : Tag)
  | rkdrop (a : SReg) (p : Tag)
  | binit (d a b : SReg) (p : Tag)
  | barv (a : SReg) (p : Tag)
  | bwait (d a : SReg) (p : Tag)
  | pref (a : SReg) (o : BitVec 11) (p : Tag)
  | vadd (d a b : VReg) (t : Fin 4) (g : Fin 8) (p : Tag)
  | vsub (d a b : VReg) (t : Fin 4) (g : Fin 8) (p : Tag)
  | vmul (d a b : VReg) (t : Fin 4) (g : Fin 8) (p : Tag)
  | vfma (d a b : VReg) (t : Fin 4) (g : Fin 8) (p : Tag)
  | vfms (d a b : VReg) (t : Fin 4) (g : Fin 8) (p : Tag)
  | vfnma (d a b : VReg) (t : Fin 4) (g : Fin 8) (p : Tag)
  | vmin (d a b : VReg) (t : Fin 4) (g : Fin 8) (p : Tag)
  | vmax (d a b : VReg) (t : Fin 4) (g : Fin 8) (p : Tag)
  | vabs (d a : VReg) (t : Fin 4) (g : Fin 8) (p : Tag)
  | vneg (d a : VReg) (t : Fin 4) (g : Fin 8) (p : Tag)
  | vcmp (d : PReg) (a b : VReg) (t c : Fin 4) (p : Tag)
  | vand (d a b : VReg) (t : Fin 4) (g : Fin 8) (p : Tag)
  | vor (d a b : VReg) (t : Fin 4) (g : Fin 8) (p : Tag)
  | vxor (d a b : VReg) (t : Fin 4) (g : Fin 8) (p : Tag)
  | vshl (d a b : VReg) (t : Fin 4) (g : Fin 8) (p : Tag)
  | vshr (d a b : VReg) (t : Fin 4) (g : Fin 8) (p : Tag)
  | vsra (d a b : VReg) (t : Fin 4) (g : Fin 8) (p : Tag)
  | vsel (d a b : VReg) (t : Fin 4) (g : Fin 8) (p : Tag)
  | vadds (d a : VReg) (s : SReg) (t : Fin 4) (g : Fin 8) (p : Tag)
  | vmuls (d a : VReg) (s : SReg) (t : Fin 4) (g : Fin 8) (p : Tag)
  | vfmas (d a : VReg) (s : SReg) (t : Fin 4) (g : Fin 8) (p : Tag)
  | vbcast (d : VReg) (s : SReg) (t : Fin 4) (g : Fin 8) (p : Tag)
  | vext (d : SReg) (a : VReg) (b : SReg) (t : Fin 4) (p : Tag)
  | vins (d : VReg) (a b : SReg) (t : Fin 4) (p : Tag)
  | vperm (d a b : VReg) (t : Fin 4) (g : Fin 8) (p : Tag)
  | vslide (d a : VReg) (s : SReg) (t : Fin 4) (g : Fin 8) (p : Tag)
  | viota (d : VReg) (t : Fin 4) (g : Fin 8) (p : Tag)
  | vcvt (d a : VReg) (s t : Fin 4) (g : Fin 8) (p : Tag)
  | kunp (d a : VReg) (f : Fin 8) (r t : Fin 4) (p : Tag)
  | kunpq (d a : VReg) (r t : Fin 4) (c : Fin 16) (p : Tag)
  | klds (d : CReg) (a : SReg) (o : BitVec 11) (p : Tag)
  | kldss (d : CReg) (a : SReg) (o : BitVec 11) (p : Tag)
  | qpk (d a : VReg) (f : Fin 8) (r t n u : Fin 4) (p : Tag)
  | qpkq (d a : VReg) (r t : Fin 4) (c : Fin 16) (p : Tag)
  | qamax (d : CReg) (a : VReg) (r t : Fin 4) (c : Fin 16) (p : Tag)
  | qsts (d : CReg) (a : SReg) (o : BitVec 11) (p : Tag)
  | frcp (d a : VReg) (t : Fin 4) (g : Fin 8) (p : Tag)
  | frsq (d a : VReg) (t : Fin 4) (g : Fin 8) (p : Tag)
  | fsqrt (d a : VReg) (t : Fin 4) (g : Fin 8) (p : Tag)
  | fexp2 (d a : VReg) (t : Fin 4) (g : Fin 8) (p : Tag)
  | flog2 (d a : VReg) (t : Fin 4) (g : Fin 8) (p : Tag)
  | fsin (d a : VReg) (t : Fin 4) (g : Fin 8) (p : Tag)
  | fcos (d a : VReg) (t : Fin 4) (g : Fin 8) (p : Tag)
  | ftanh (d a : VReg) (t : Fin 4) (g : Fin 8) (p : Tag)
  | fsum (d a : VReg) (t : Fin 4) (g : Fin 8) (p : Tag)
  | fmaxr (d a : VReg) (t : Fin 4) (g : Fin 8) (p : Tag)
  | fminr (d a : VReg) (t : Fin 4) (g : Fin 8) (p : Tag)
  | fscan (d a : VReg) (t : Fin 4) (g : Fin 8) (p : Tag)
  | ewr (e : Fin 16) (a : SReg) (f : Fin 8) (p : Tag)
  | erd (e : Fin 16) (d : SReg) (f : Fin 8) (p : Tag)
  | copy (e : Fin 16) (a b : SReg) (c : Fin 64) (p : Tag)
  | copyRack (e : Fin 16) (a b : SReg) (c : Fin 64) (p : Tag)
  | bindIn (e : Fin 16) (a : SReg) (n : Fin 8) (p : Tag)
  | bindOut (e : Fin 16) (a : SReg) (n : Fin 8) (p : Tag)
  | unbind (n : Fin 8) (p : Tag)
  | mma (e : Fin 16) (a b : SReg) (t : Fin 16) (w : Fin 8) (p : Tag)
  | mmas (e : Fin 16) (a b : SReg) (t : Fin 16) (x : Fin 4) (p : Tag)
  | mzero (t : Fin 16) (p : Tag)
  | mld (e : Fin 16) (a : SReg) (t : Fin 16) (p : Tag)
  | mst (e : Fin 16) (a b : SReg) (t : Fin 16) (p : Tag)
  | mstRack (e : Fin 16) (a b : SReg) (t : Fin 16) (p : Tag)
  | mpri (q : Fin 4) (p : Tag)
  | spawn (e : Fin 16) (a b : SReg) (q : Fin 4) (p : Tag)
  | tset (a : SReg) (c : Fin 64) (p : Tag)
  | tdec (a b : SReg) (c : Fin 64) (p : Tag)
  | twait (c : Fin 64) (p : Tag)
  | gsend (e : Fin 16) (a : SReg) (p : Tag)
  | ready (a b : SReg) (p : Tag)
  | unready (a : SReg) (p : Tag)
  | asend (e : Fin 16) (a b : SReg) (p : Tag)
  | peel (a b : SReg) (c : Fin 64) (p : Tag)
  -- long forms: the last field is the surrendered word (05 R91)
  | addiLong (d a : SReg) (p : Tag) (imm : BitVec 32)
  | andiLong (d a : SReg) (p : Tag) (imm : BitVec 32)
  | oriLong (d a : SReg) (p : Tag) (imm : BitVec 32)
  | xoriLong (d a : SReg) (p : Tag) (imm : BitVec 32)
  | ldiLong (d : SReg) (p : Tag) (imm : BitVec 32)
  | ldhi (d a : SReg) (p : Tag) (imm : BitVec 32)
  | cmpiLong (d : PReg) (a : SReg) (c : Fin 8) (p : Tag) (imm : BitVec 32)
  | loopiLong (e : Fin 4096) (p : Tag) (imm : BitVec 32)
  | ldbLong (d a : SReg) (p : Tag) (imm : BitVec 32)
  | ldbnLong (d a : SReg) (p : Tag) (imm : BitVec 32)
  | ldhLong (d a : SReg) (p : Tag) (imm : BitVec 32)
  | ldhnLong (d a : SReg) (p : Tag) (imm : BitVec 32)
  | ldwLong (d a : SReg) (p : Tag) (imm : BitVec 32)
  | ldwnLong (d a : SReg) (p : Tag) (imm : BitVec 32)
  | lddLong (d a : SReg) (p : Tag) (imm : BitVec 32)
  | stbLong (d a : SReg) (p : Tag) (imm : BitVec 32)
  | sthLong (d a : SReg) (p : Tag) (imm : BitVec 32)
  | stwLong (d a : SReg) (p : Tag) (imm : BitVec 32)
  | stdLong (d a : SReg) (p : Tag) (imm : BitVec 32)
  | ldsLong (d a : SReg) (p : Tag) (imm : BitVec 32)
  | vldLong (d : VReg) (a : SReg) (p : Tag) (imm : BitVec 32)
  | vstLong (d : VReg) (a : SReg) (p : Tag) (imm : BitVec 32)
  | vldsLong (d : VReg) (a : SReg) (p : Tag) (imm : BitVec 32)
  | ldfeLong (d a : SReg) (p : Tag) (imm : BitVec 32)
  | ldfecLong (d a : SReg) (p : Tag) (imm : BitVec 32)
  | vldfeLong (d : VReg) (a : SReg) (p : Tag) (imm : BitVec 32)
  | vldfecLong (d : VReg) (a : SReg) (p : Tag) (imm : BitVec 32)
  | stfLong (d a : SReg) (p : Tag) (imm : BitVec 32)
  | vstfLong (d : VReg) (a : SReg) (p : Tag) (imm : BitVec 32)
  | prefLong (a : SReg) (p : Tag) (imm : BitVec 32)
  | vaddsLong (d a : VReg) (t : Fin 4) (g : Fin 8) (p : Tag) (imm : BitVec 32)
  | vmulsLong (d a : VReg) (t : Fin 4) (g : Fin 8) (p : Tag) (imm : BitVec 32)
  | vfmasLong (d a : VReg) (t : Fin 4) (g : Fin 8) (p : Tag) (imm : BitVec 32)
  | vbcastLong (d : VReg) (t : Fin 4) (g : Fin 8) (p : Tag) (imm : BitVec 32)
  | mproof (a : SReg) (t : Fin 16) (p : Tag) (imm : BitVec 32)
  -- steps of the host, the engines, the fabric and the handlers (spec/95)
  | queueNotification (q : Nat)
  | pin (q : BitVec 16)
  | unpin (q : BitVec 16)
  | configWrite (w : ConfigWrite)
  | loadImage (q : Nat) (c : Chain)
  | createJob (q : Nat) (c : Chain)
  | start (q : Nat) (c : Chain)
  | signal (q : Nat) (c : Chain)
  | preempt (q : Nat) (c : Chain)
  | resume (q : Nat) (c : Chain)
  | kill (q : Nat) (c : Chain)
  | copyIn (q : Nat) (c : Chain)
  | copyOut (q : Nat) (c : Chain)
  | hostCopyComplete (id : Nat)
  | setTolerance (q : Nat) (c : Chain)
  | queryPart (q : Nat) (c : Chain)
  | queryJob (q : Nat) (c : Chain)
  | queryBinding (q : Nat) (c : Chain)
  | queryClusterMap (q : Nat) (c : Chain)
  | queryAttestation (q : Nat) (c : Chain)
  | queryCertChain (q : Nat) (c : Chain)
  | queryErrorLog (q : Nat) (c : Chain)
  | peelRequest (q : Nat) (c : Chain)
  | inboundPostedWrite (r : Nat) (off : Nat) (data : List (Option (BitVec 8))) (ro : Bool)
  | inboundPacketRelease (id : Nat)
  | inboundPacketAck (id : Nat)
  | inboundRead (r : Nat) (off : Nat) (len : Nat) (tag : Nat)
  | deviceReset
  | bootComplete (ok : Bool)
  | poolTransactionTimeout (id : Nat) (k : Nat)
  | writeAck (id : Nat)
  | wallBusRealignment (die : Nat) (col : Nat)
  | realignmentDeferralEnd (die : Nat) (col : Nat)
  | realignmentPauseEnd (die : Nat) (col : Nat)
  | flitArrival (link : Nat) (ok : Bool) (f : Flit)
  | linkRetrain (link : Nat)
  | linkRetrainEnd (link : Nat)
  | coltempRefresh (die : Nat) (col : Nat) (t : BitVec 16)
  | instructionFetchComplete (k : Nat)
  | exposedResultLand (k : Nat)
  | longResultLand (id : Nat)
  | contextSelect (core : Nat)
  | waitcEnd (k : Nat)
  | contextIdle (k : Nat)
  | gatherBufferFlush (id : Nat)
  | fencehComplete (k : Nat)
  | remoteAccessPerform (x : Access)
  | translationWalkComplete (id : Nat)
  | routeStaleResend (id : Nat)
  | fullEmptyRequestArrival (id : Nat)
  | copyElementFault (id : Nat) (k : Nat)
  | copyElementReplay (id : Nat) (k : Nat)
  | copyComplete (id : Nat)
  | copyFailure (id : Nat)
  | copyByteReport (id : Nat) (n : Nat)
  | streamReadAhead (k : Nat) (n : Fin 8)
  | streamDrainWrite (k : Nat) (n : Fin 8)
  | matrixCommandStart (core : Nat)
  | matrixBoundary (core : Nat)
  | matrixCommandComplete (core : Nat)
  | mstComplete (id : Nat)
  | matrixFetchFault (core : Nat)
  | matrixPriorityAgeing (core : Nat) (id : Nat)
  | handoverStopAndHold (stack : Nat)
  | handoverQueueDrain (stack : Nat)
  | handoverWriteback (stack : Nat)
  | handoverTlbInvalidate (stack : Nat)
  | handoverOwnerFlip (stack : Nat)
  | handoverHeldRequests (stack : Nat)
  | handoverComplete (stack : Nat)
  | barrierArrival (id : Nat)
  | barvPhaseReturn (id : Nat)
  | counterDecrement (id : Nat)
  | taskStart (core : Nat)
  | taskPriorityAgeing (core : Nat) (slot : Nat)
  | launchArrival (id : Nat)
  | asendRemoteArrival (m : RemoteSend)
  | readinessUpdate (id : Nat)
  | groupMessageSteer (id : Nat)
  | memberCoreDelivery (id : Nat)
  | groupBounce (id : Nat)
  | refreshAnswer (id : Nat)
  | parkRelease (job : Nat) (g : Nat)
  | groupMessageAck (id : Nat)
  | eventEntry (k : Nat)
  | trapEntry (k : Nat)
  | lateFaultDelivery (k : Nat)
  | timerExpiry (k : Nat)
  | serviceContextEntry (core : Nat)
  | serviceContextReturn (core : Nat)
  | serviceDeadline (core : Nat)
  | preemptStopTimeout (job : Nat)
  | preemptImageWrite (job : Nat)
  | killGraceExpiry (job : Nat)
  | jobEnd (job : Nat)
  | scrubPass (e : ArrayError)
  | serviceStoreReload (core : Nat)
  | mgmtDataError (job : Option Nat)
  | powerStateEntry (u : PowerUnit)
  | powerStateWake (u : PowerUnit)
  | layerEmergencyOff (die : Nat) (layer : Nat)
  | rackControllerOperation (id : Nat)
  | barrierUnitRequest (id : Nat)
  | mstTileRead (core : Nat)
  | serviceStoreReloadDone (core : Nat)
  | cxlPortTraining (size : Nat)
  | launchAcknowledgement (id : Nat)
  deriving DecidableEq, Repr

end Sys2Proof
end

