-- ==== Sys2Proof/WellFormed.lean ====
section
/-! DEFINITION. When an instruction is one that decoding may give: the field limits of the class maps of
spec/05_bundles_and_opcode_map.md (R94-R103) and the parts of R207. The steps of the host and the engines carry no
encoded field, so nothing is asked of them here: their limits are outcomes of the step itself. -/

namespace Sys2Proof

/-- The elements of a packed run (09 R207): 256 for F8A, F8B and I8, 340 for F6, 512 for I4 and Q4N. -/
def packedElements (f : Fin 8) : Nat :=
  if f.val = 2 then 340 else if f.val = 3 ∨ f.val = 5 then 512 else 256

/-- The lanes of a lane type (09 R191). -/
def laneCount (t : Fin 4) : Nat := if t.val = 0 ∨ t.val = 3 then 64 else 128

/-- The part names elements inside the run (09 R207). -/
abbrev partOk (f : Fin 8) (r t : Fin 4) : Prop := (r.val + 1) * laneCount t ≤ packedElements f

/-- A broadcast immediate of a 16-bit type has zero high bits (05 R100). -/
abbrev shortPattern (t : Fin 4) (imm : BitVec 32) : Prop := laneCount t = 64 ∨ imm.toNat < 65536

/-- The field limits of every row. -/
def Instr.wellFormed : Instr → Bool
  | .nop _ => true
  | .add _ _ _ p => decide (p.val < 7)
  | .sub _ _ _ p => decide (p.val < 7)
  | .and _ _ _ p => decide (p.val < 7)
  | .or _ _ _ p => decide (p.val < 7)
  | .xor _ _ _ p => decide (p.val < 7)
  | .andn _ _ _ p => decide (p.val < 7)
  | .shl _ _ _ p => decide (p.val < 7)
  | .shr _ _ _ p => decide (p.val < 7)
  | .sra _ _ _ p => decide (p.val < 7)
  | .rol _ _ _ p => decide (p.val < 7)
  | .min _ _ _ p => decide (p.val < 7)
  | .max _ _ _ p => decide (p.val < 7)
  | .minn _ _ _ p => decide (p.val < 7)
  | .maxn _ _ _ p => decide (p.val < 7)
  | .addw _ _ _ p => decide (p.val < 7)
  | .subw _ _ _ p => decide (p.val < 7)
  | .clz _ _ p => decide (p.val < 7)
  | .ctz _ _ p => decide (p.val < 7)
  | .popc _ _ p => decide (p.val < 7)
  | .bswap _ _ p => decide (p.val < 7)
  | .mul _ _ _ p => decide (p.val < 7)
  | .mulh _ _ _ p => decide (p.val < 7)
  | .mulhn _ _ _ p => decide (p.val < 7)
  | .addi _ _ _ p => decide (p.val < 7)
  | .andi _ _ _ p => decide (p.val < 7)
  | .ori _ _ _ p => decide (p.val < 7)
  | .xori _ _ _ p => decide (p.val < 7)
  | .shli _ _ _ p => decide (p.val < 7)
  | .shri _ _ _ p => decide (p.val < 7)
  | .srai _ _ _ p => decide (p.val < 7)
  | .roli _ _ _ p => decide (p.val < 7)
  | .ldi _ _ p => decide (p.val < 7)
  | .cmp d _ _ c p => decide (d.val < 96 ∧ c.val < 6 ∧ p.val < 7)
  | .cmpAnd d _ _ c p => decide (d.val < 96 ∧ c.val < 6 ∧ p.val < 7)
  | .cmpi d _ c _ p => decide (d.val < 96 ∧ c.val < 6 ∧ p.val < 7)
  | .pand d a b p => decide (d.val < 96 ∧ a.val < 96 ∧ b.val < 96 ∧ p.val < 7)
  | .por d a b p => decide (d.val < 96 ∧ a.val < 96 ∧ b.val < 96 ∧ p.val < 7)
  | .pxor d a b p => decide (d.val < 96 ∧ a.val < 96 ∧ b.val < 96 ∧ p.val < 7)
  | .pandn d a b p => decide (d.val < 96 ∧ a.val < 96 ∧ b.val < 96 ∧ p.val < 7)
  | .pnot d a p => decide (d.val < 96 ∧ a.val < 96 ∧ p.val < 7)
  | .pset d p => decide (d.val < 96 ∧ p.val < 7)
  | .pclr d p => decide (d.val < 96 ∧ p.val < 7)
  | .pfirst d a p => decide (d.val < 96 ∧ a.val < 96 ∧ p.val < 7)
  | .pfroms d _ _ p => decide (d.val < 96 ∧ p.val < 7)
  | .pcount d a p => decide (a.val < 96 ∧ d.val < 64 ∧ p.val < 7)
  | .sels _ _ _ _ p => decide (p.val < 7)
  | .mfs _ n p => decide (n.val < 16 ∧ p.val < 7)
  | .mts _ n p => decide (n.val < 16 ∧ p.val < 7)
  | .loop _ _ p => decide (p.val < 7)
  | .loopi _ c p => decide (1 ≤ c.val ∧ p.val < 7)
  | .brklp p => decide (p.val < 7)
  | .waitc _ _ p => decide (p.val < 7)
  | .trap _ p => decide (p.val < 7)
  | .rft p => decide (p.val < 7)
  | .yield p => decide (p.val < 7)
  | .tend p => decide (p.val < 7)
  | .fencel p => decide (p.val < 7)
  | .fenceh s p => decide (s.val < 6 ∧ p.val < 7)
  | .svc c p => decide (3 < c.toNat ∧ p.val < 7)
  | .svcNop p => decide (p.val < 7)
  | .svcLog p => decide (p.val < 7)
  | .svcProbe p => decide (p.val < 7)
  | .svcTouch p => decide (p.val < 7)
  | .bt c _ => decide (c.val < 96)
  | .bf c _ => decide (c.val < 96)
  | .bany c _ => decide (c.val < 96)
  | .ball c _ => decide (c.val < 96)
  | .j _ => true
  | .call _ => true
  | .chk _ _ => true
  | .jr _ _ => true
  | .ldb _ _ _ p => decide (p.val < 7)
  | .ldbn _ _ _ p => decide (p.val < 7)
  | .ldh _ _ _ p => decide (p.val < 7)
  | .ldhn _ _ _ p => decide (p.val < 7)
  | .ldw _ _ _ p => decide (p.val < 7)
  | .ldwn _ _ _ p => decide (p.val < 7)
  | .ldd _ _ _ p => decide (p.val < 7)
  | .stb _ _ _ p => decide (p.val < 7)
  | .sth _ _ _ p => decide (p.val < 7)
  | .stw _ _ _ p => decide (p.val < 7)
  | .std _ _ _ p => decide (p.val < 7)
  | .lds _ _ _ p => decide (p.val < 7)
  | .vld _ _ _ p => decide (p.val < 7)
  | .vst _ _ _ p => decide (p.val < 7)
  | .vlds _ _ _ p => decide (p.val < 7)
  | .vldb _ _ _ _ p => decide (p.val < 7)
  | .vstb _ _ _ _ p => decide (p.val < 7)
  | .vgath _ _ _ _ w p => decide (w.val < 2 ∧ p.val < 7)
  | .vscat _ _ _ _ w p => decide (w.val < 2 ∧ p.val < 7)
  | .ldfe _ _ _ p => decide (p.val < 7)
  | .ldfec _ _ _ p => decide (p.val < 7)
  | .vldfe _ _ _ p => decide (p.val < 7)
  | .vldfec _ _ _ p => decide (p.val < 7)
  | .stf _ _ _ p => decide (p.val < 7)
  | .vstf _ _ _ p => decide (p.val < 7)
  | .ldacq _ _ s _ p => decide (s.val < 6 ∧ p.val < 7)
  | .strel _ _ s _ p => decide (s.val < 6 ∧ p.val < 7)
  | .atomAdd _ _ _ _ p => decide (p.val < 7)
  | .atomMin _ _ _ _ p => decide (p.val < 7)
  | .atomMax _ _ _ _ p => decide (p.val < 7)
  | .atomMinn _ _ _ _ p => decide (p.val < 7)
  | .atomMaxn _ _ _ _ p => decide (p.val < 7)
  | .atomAnd _ _ _ _ p => decide (p.val < 7)
  | .atomOr _ _ _ _ p => decide (p.val < 7)
  | .atomXor _ _ _ _ p => decide (p.val < 7)
  | .atomSwap _ _ _ _ p => decide (p.val < 7)
  | .cas _ _ _ _ p => decide (p.val < 7)
  | .vatomAdd _ _ _ _ p => decide (p.val < 7)
  | .vatomAnd _ _ _ _ p => decide (p.val < 7)
  | .vatomOr _ _ _ _ p => decide (p.val < 7)
  | .vatomMax _ _ _ _ p => decide (p.val < 7)
  | .rkopen _ _ p => decide (p.val < 7)
  | .rkpub _ p => decide (p.val < 7)
  | .rktake d _ p => decide (d.val < 62 ∧ p.val < 7)
  | .rkdrop _ p => decide (p.val < 7)
  | .binit _ _ _ p => decide (p.val < 7)
  | .barv _ p => decide (p.val < 7)
  | .bwait _ _ p => decide (p.val < 7)
  | .pref _ _ p => decide (p.val < 7)
  | .vadd _ _ _ _ _ p => decide (p.val < 7)
  | .vsub _ _ _ _ _ p => decide (p.val < 7)
  | .vmul _ _ _ _ _ p => decide (p.val < 7)
  | .vfma _ _ _ t _ p => decide (t.val < 3 ∧ p.val < 7)
  | .vfms _ _ _ t _ p => decide (t.val < 3 ∧ p.val < 7)
  | .vfnma _ _ _ t _ p => decide (t.val < 3 ∧ p.val < 7)
  | .vmin _ _ _ _ _ p => decide (p.val < 7)
  | .vmax _ _ _ _ _ p => decide (p.val < 7)
  | .vabs _ _ _ _ p => decide (p.val < 7)
  | .vneg _ _ _ _ p => decide (p.val < 7)
  | .vcmp d _ _ _ _ p => decide (d.val < 96 ∧ p.val < 7)
  | .vand _ _ _ t _ p => decide ((t.val = 1 ∨ t.val = 3) ∧ p.val < 7)
  | .vor _ _ _ t _ p => decide ((t.val = 1 ∨ t.val = 3) ∧ p.val < 7)
  | .vxor _ _ _ t _ p => decide ((t.val = 1 ∨ t.val = 3) ∧ p.val < 7)
  | .vshl _ _ _ t _ p => decide ((t.val = 1 ∨ t.val = 3) ∧ p.val < 7)
  | .vshr _ _ _ t _ p => decide ((t.val = 1 ∨ t.val = 3) ∧ p.val < 7)
  | .vsra _ _ _ t _ p => decide ((t.val = 1 ∨ t.val = 3) ∧ p.val < 7)
  | .vsel _ _ _ _ _ p => decide (p.val < 7)
  | .vadds _ _ _ _ _ p => decide (p.val < 7)
  | .vmuls _ _ _ _ _ p => decide (p.val < 7)
  | .vfmas _ _ _ t _ p => decide (t.val < 3 ∧ p.val < 7)
  | .vbcast _ _ _ _ p => decide (p.val < 7)
  | .vext _ _ _ _ p => decide (p.val < 7)
  | .vins _ _ _ _ p => decide (p.val < 7)
  | .vperm _ _ _ _ _ p => decide (p.val < 7)
  | .vslide _ _ _ _ _ p => decide (p.val < 7)
  | .viota _ _ _ p => decide (p.val < 7)
  | .vcvt _ _ s t _ p => decide (s ≠ t ∧ p.val < 7)
  | .kunp _ _ f r t p => decide (f.val < 6 ∧ f.val ≠ 3 ∧ partOk f r t ∧ p.val < 7)
  | .kunpq _ _ _ t _ p => decide (t.val < 3 ∧ p.val < 7)
  | .klds d _ _ p => decide (d.val < 16 ∧ p.val < 7)
  | .kldss d _ _ p => decide (d.val < 16 ∧ p.val < 7)
  | .qpk _ _ f r t n u p => decide (f.val < 6 ∧ f.val ≠ 3 ∧ partOk f r t ∧ n.val < 2 ∧ u.val < 2 ∧ p.val < 7)
  | .qpkq _ _ _ t _ p => decide (t.val < 3 ∧ p.val < 7)
  | .qamax d _ _ t _ p => decide (d.val < 16 ∧ t.val < 3 ∧ p.val < 7)
  | .qsts d _ _ p => decide (d.val < 16 ∧ p.val < 7)
  | .frcp _ _ t _ p => decide (t.val < 3 ∧ p.val < 7)
  | .frsq _ _ t _ p => decide (t.val < 3 ∧ p.val < 7)
  | .fsqrt _ _ t _ p => decide (t.val < 3 ∧ p.val < 7)
  | .fexp2 _ _ t _ p => decide (t.val < 3 ∧ p.val < 7)
  | .flog2 _ _ t _ p => decide (t.val < 3 ∧ p.val < 7)
  | .fsin _ _ t _ p => decide (t.val < 3 ∧ p.val < 7)
  | .fcos _ _ t _ p => decide (t.val < 3 ∧ p.val < 7)
  | .ftanh _ _ t _ p => decide (t.val < 3 ∧ p.val < 7)
  | .fsum _ _ t _ p => decide (t.val < 3 ∧ p.val < 7)
  | .fmaxr _ _ _ _ p => decide (p.val < 7)
  | .fminr _ _ _ _ p => decide (p.val < 7)
  | .fscan _ _ t _ p => decide (t.val < 3 ∧ p.val < 7)
  | .ewr _ _ _ p => decide (p.val < 7)
  | .erd _ _ _ p => decide (p.val < 7)
  | .copy _ _ _ _ p => decide (p.val < 7)
  | .copyRack _ _ _ _ p => decide (p.val < 7)
  | .bindIn _ _ _ p => decide (p.val < 7)
  | .bindOut _ _ _ p => decide (p.val < 7)
  | .unbind _ p => decide (p.val < 7)
  | .mma _ _ _ _ w p => decide (w.val < 7 ∧ p.val < 7)
  | .mmas _ _ _ _ x p => decide (x.val < 3 ∧ p.val < 7)
  | .mzero _ p => decide (p.val < 7)
  | .mld _ _ _ p => decide (p.val < 7)
  | .mst _ _ _ _ p => decide (p.val < 7)
  | .mstRack _ _ _ _ p => decide (p.val < 7)
  | .mpri _ p => decide (p.val < 7)
  | .spawn _ _ _ _ p => decide (p.val < 7)
  | .tset _ _ p => decide (p.val < 7)
  | .tdec _ _ _ p => decide (p.val < 7)
  | .twait _ p => decide (p.val < 7)
  | .gsend _ _ p => decide (p.val < 7)
  | .ready _ _ p => decide (p.val < 7)
  | .unready _ p => decide (p.val < 7)
  | .asend _ _ _ p => decide (p.val < 7)
  | .peel _ _ _ p => decide (p.val < 7)
  | .addiLong _ _ p _ => decide (p.val < 7)
  | .andiLong _ _ p _ => decide (p.val < 7)
  | .oriLong _ _ p _ => decide (p.val < 7)
  | .xoriLong _ _ p _ => decide (p.val < 7)
  | .ldiLong _ p _ => decide (p.val < 7)
  | .ldhi _ _ p _ => decide (p.val < 7)
  | .cmpiLong d _ c p _ => decide (d.val < 96 ∧ c.val < 6 ∧ p.val < 7)
  | .loopiLong _ p imm => decide (imm ≠ 0 ∧ p.val < 7)
  | .ldbLong _ _ p _ => decide (p.val < 7)
  | .ldbnLong _ _ p _ => decide (p.val < 7)
  | .ldhLong _ _ p _ => decide (p.val < 7)
  | .ldhnLong _ _ p _ => decide (p.val < 7)
  | .ldwLong _ _ p _ => decide (p.val < 7)
  | .ldwnLong _ _ p _ => decide (p.val < 7)
  | .lddLong _ _ p _ => decide (p.val < 7)
  | .stbLong _ _ p _ => decide (p.val < 7)
  | .sthLong _ _ p _ => decide (p.val < 7)
  | .stwLong _ _ p _ => decide (p.val < 7)
  | .stdLong _ _ p _ => decide (p.val < 7)
  | .ldsLong _ _ p _ => decide (p.val < 7)
  | .vldLong _ _ p _ => decide (p.val < 7)
  | .vstLong _ _ p _ => decide (p.val < 7)
  | .vldsLong _ _ p _ => decide (p.val < 7)
  | .ldfeLong _ _ p _ => decide (p.val < 7)
  | .ldfecLong _ _ p _ => decide (p.val < 7)
  | .vldfeLong _ _ p _ => decide (p.val < 7)
  | .vldfecLong _ _ p _ => decide (p.val < 7)
  | .stfLong _ _ p _ => decide (p.val < 7)
  | .vstfLong _ _ p _ => decide (p.val < 7)
  | .prefLong _ p _ => decide (p.val < 7)
  | .vaddsLong _ _ t _ p imm => decide (shortPattern t imm ∧ p.val < 7)
  | .vmulsLong _ _ t _ p imm => decide (shortPattern t imm ∧ p.val < 7)
  | .vfmasLong _ _ t _ p imm => decide (t.val < 3 ∧ shortPattern t imm ∧ p.val < 7)
  | .vbcastLong _ t _ p imm => decide (shortPattern t imm ∧ p.val < 7)
  | .mproof _ _ p _ => decide (p.val < 7)
  | .queueNotification _ => true
  | .pin _ => true
  | .unpin _ => true
  | .configWrite _ => true
  | .loadImage _ _ => true
  | .createJob _ _ => true
  | .start _ _ => true
  | .signal _ _ => true
  | .preempt _ _ => true
  | .resume _ _ => true
  | .kill _ _ => true
  | .copyIn _ _ => true
  | .copyOut _ _ => true
  | .hostCopyComplete _ => true
  | .setTolerance _ _ => true
  | .queryPart _ _ => true
  | .queryJob _ _ => true
  | .queryBinding _ _ => true
  | .queryClusterMap _ _ => true
  | .queryAttestation _ _ => true
  | .queryCertChain _ _ => true
  | .queryErrorLog _ _ => true
  | .peelRequest _ _ => true
  | .inboundPostedWrite _ _ _ _ => true
  | .inboundPacketRelease _ => true
  | .inboundPacketAck _ => true
  | .inboundRead _ _ _ _ => true
  | .deviceReset => true
  | .bootComplete _ => true
  | .poolTransactionTimeout _ _ => true
  | .writeAck _ => true
  | .wallBusRealignment _ _ => true
  | .realignmentDeferralEnd _ _ => true
  | .realignmentPauseEnd _ _ => true
  | .flitArrival _ _ f => f.body.fits
  | .linkRetrain _ => true
  | .linkRetrainEnd _ => true
  | .coltempRefresh _ _ _ => true
  | .instructionFetchComplete _ => true
  | .exposedResultLand _ => true
  | .longResultLand _ => true
  | .contextSelect _ => true
  | .waitcEnd _ => true
  | .contextIdle _ => true
  | .gatherBufferFlush _ => true
  | .fencehComplete _ => true
  | .remoteAccessPerform _ => true
  | .translationWalkComplete _ => true
  | .routeStaleResend _ => true
  | .fullEmptyRequestArrival _ => true
  | .copyElementFault _ _ => true
  | .copyElementReplay _ _ => true
  | .copyComplete _ => true
  | .copyFailure _ => true
  | .copyByteReport _ _ => true
  | .streamReadAhead _ _ => true
  | .streamDrainWrite _ _ => true
  | .matrixCommandStart _ => true
  | .matrixBoundary _ => true
  | .matrixCommandComplete _ => true
  | .mstComplete _ => true
  | .matrixFetchFault _ => true
  | .matrixPriorityAgeing _ _ => true
  | .handoverStopAndHold _ => true
  | .handoverQueueDrain _ => true
  | .handoverWriteback _ => true
  | .handoverTlbInvalidate _ => true
  | .handoverOwnerFlip _ => true
  | .handoverHeldRequests _ => true
  | .handoverComplete _ => true
  | .barrierArrival _ => true
  | .barvPhaseReturn _ => true
  | .counterDecrement _ => true
  | .taskStart _ => true
  | .taskPriorityAgeing _ _ => true
  | .launchArrival _ => true
  | .asendRemoteArrival _ => true
  | .readinessUpdate _ => true
  | .groupMessageSteer _ => true
  | .memberCoreDelivery _ => true
  | .groupBounce _ => true
  | .refreshAnswer _ => true
  | .parkRelease _ _ => true
  | .groupMessageAck _ => true
  | .eventEntry _ => true
  | .trapEntry _ => true
  | .lateFaultDelivery _ => true
  | .timerExpiry _ => true
  | .serviceContextEntry _ => true
  | .serviceContextReturn _ => true
  | .serviceDeadline _ => true
  | .preemptStopTimeout _ => true
  | .preemptImageWrite _ => true
  | .killGraceExpiry _ => true
  | .jobEnd _ => true
  | .scrubPass (.granules core g n) =>
    match core with
    | some c => c * 2 ^ 18 ≤ g && g + n ≤ (c + 1) * 2 ^ 18
    | none => 2 ^ 36 ≤ g && g + n ≤ 2 ^ 36 + 12 * 2 ^ 32
  | .scrubPass _ => true
  | .serviceStoreReload _ => true
  | .mgmtDataError _ => true
  | .powerStateEntry _ => true
  | .powerStateWake _ => true
  | .layerEmergencyOff _ _ => true
  | .rackControllerOperation _ => true
  | .barrierUnitRequest _ => true
  | .mstTileRead _ => true
  | .serviceStoreReloadDone _ => true
  | .cxlPortTraining _ => true
  | .launchAcknowledgement _ => true

end Sys2Proof
end

