-- ==== Sys2Proof/Decode.lean ====
section
/-! DEFINITION. Decoding of bundles (spec/05_bundles_and_opcode_map.md R88-R103) and, after it, the encoder.
A bundle is a header word and one word per set MASK bit. Every defect is rejected by its fate and, from the
template checks on, by the position it is found at (R96 steps 2-4). -/

namespace Sys2Proof

/-- The classes of slot positions (05 Table fetch-2). -/
inductive Cls where
  | x | m | v | k | q | f | t | b
  deriving DecidableEq, Repr

/-- The class of a position 0 (X0) to 13 (B3), in MASK order. -/
def posClass (p : Nat) : Cls :=
  match p with
  | 0 | 1 => .x
  | 2 | 3 => .m
  | 4 | 5 => .v
  | 6 => .k
  | 7 => .q
  | 8 => .f
  | 9 => .t
  | _ => .b

/-- The X class map (05 R97-R103): a short word, its fields not yet checked against their limits. -/
def decodeX (w : Nat) : Option Instr :=
  match w / 67108864 with
  | 1 =>
    if w / 8 % 32 = 0 then some (.add (Fin.ofNat 64 (w / 1048576)) (Fin.ofNat 64 (w / 16384)) (Fin.ofNat 64 (w / 256)) (Fin.ofNat 8 w))
    else if w / 8 % 32 = 1 then some (.sub (Fin.ofNat 64 (w / 1048576)) (Fin.ofNat 64 (w / 16384)) (Fin.ofNat 64 (w / 256)) (Fin.ofNat 8 w))
    else if w / 8 % 32 = 2 then some (.and (Fin.ofNat 64 (w / 1048576)) (Fin.ofNat 64 (w / 16384)) (Fin.ofNat 64 (w / 256)) (Fin.ofNat 8 w))
    else if w / 8 % 32 = 3 then some (.or (Fin.ofNat 64 (w / 1048576)) (Fin.ofNat 64 (w / 16384)) (Fin.ofNat 64 (w / 256)) (Fin.ofNat 8 w))
    else if w / 8 % 32 = 4 then some (.xor (Fin.ofNat 64 (w / 1048576)) (Fin.ofNat 64 (w / 16384)) (Fin.ofNat 64 (w / 256)) (Fin.ofNat 8 w))
    else if w / 8 % 32 = 5 then some (.andn (Fin.ofNat 64 (w / 1048576)) (Fin.ofNat 64 (w / 16384)) (Fin.ofNat 64 (w / 256)) (Fin.ofNat 8 w))
    else if w / 8 % 32 = 6 then some (.shl (Fin.ofNat 64 (w / 1048576)) (Fin.ofNat 64 (w / 16384)) (Fin.ofNat 64 (w / 256)) (Fin.ofNat 8 w))
    else if w / 8 % 32 = 7 then some (.shr (Fin.ofNat 64 (w / 1048576)) (Fin.ofNat 64 (w / 16384)) (Fin.ofNat 64 (w / 256)) (Fin.ofNat 8 w))
    else if w / 8 % 32 = 8 then some (.sra (Fin.ofNat 64 (w / 1048576)) (Fin.ofNat 64 (w / 16384)) (Fin.ofNat 64 (w / 256)) (Fin.ofNat 8 w))
    else if w / 8 % 32 = 9 then some (.rol (Fin.ofNat 64 (w / 1048576)) (Fin.ofNat 64 (w / 16384)) (Fin.ofNat 64 (w / 256)) (Fin.ofNat 8 w))
    else if w / 8 % 32 = 10 then some (.min (Fin.ofNat 64 (w / 1048576)) (Fin.ofNat 64 (w / 16384)) (Fin.ofNat 64 (w / 256)) (Fin.ofNat 8 w))
    else if w / 8 % 32 = 11 then some (.max (Fin.ofNat 64 (w / 1048576)) (Fin.ofNat 64 (w / 16384)) (Fin.ofNat 64 (w / 256)) (Fin.ofNat 8 w))
    else if w / 8 % 32 = 12 then some (.minn (Fin.ofNat 64 (w / 1048576)) (Fin.ofNat 64 (w / 16384)) (Fin.ofNat 64 (w / 256)) (Fin.ofNat 8 w))
    else if w / 8 % 32 = 13 then some (.maxn (Fin.ofNat 64 (w / 1048576)) (Fin.ofNat 64 (w / 16384)) (Fin.ofNat 64 (w / 256)) (Fin.ofNat 8 w))
    else if w / 8 % 32 = 14 then some (.addw (Fin.ofNat 64 (w / 1048576)) (Fin.ofNat 64 (w / 16384)) (Fin.ofNat 64 (w / 256)) (Fin.ofNat 8 w))
    else if w / 8 % 32 = 15 then some (.subw (Fin.ofNat 64 (w / 1048576)) (Fin.ofNat 64 (w / 16384)) (Fin.ofNat 64 (w / 256)) (Fin.ofNat 8 w))
    else if w / 8 % 2048 = 16 then some (.clz (Fin.ofNat 64 (w / 1048576)) (Fin.ofNat 64 (w / 16384)) (Fin.ofNat 8 w))
    else if w / 8 % 2048 = 17 then some (.ctz (Fin.ofNat 64 (w / 1048576)) (Fin.ofNat 64 (w / 16384)) (Fin.ofNat 8 w))
    else if w / 8 % 2048 = 18 then some (.popc (Fin.ofNat 64 (w / 1048576)) (Fin.ofNat 64 (w / 16384)) (Fin.ofNat 8 w))
    else if w / 8 % 2048 = 19 then some (.bswap (Fin.ofNat 64 (w / 1048576)) (Fin.ofNat 64 (w / 16384)) (Fin.ofNat 8 w))
    else if w / 8 % 32 = 20 then some (.mul (Fin.ofNat 64 (w / 1048576)) (Fin.ofNat 64 (w / 16384)) (Fin.ofNat 64 (w / 256)) (Fin.ofNat 8 w))
    else if w / 8 % 32 = 21 then some (.mulh (Fin.ofNat 64 (w / 1048576)) (Fin.ofNat 64 (w / 16384)) (Fin.ofNat 64 (w / 256)) (Fin.ofNat 8 w))
    else if w / 8 % 32 = 22 then some (.mulhn (Fin.ofNat 64 (w / 1048576)) (Fin.ofNat 64 (w / 16384)) (Fin.ofNat 64 (w / 256)) (Fin.ofNat 8 w))
    else none
  | 2 => some (.addi (Fin.ofNat 64 (w / 1048576)) (Fin.ofNat 64 (w / 16384)) (BitVec.ofNat 11 (w / 8)) (Fin.ofNat 8 w))
  | 3 => some (.andi (Fin.ofNat 64 (w / 1048576)) (Fin.ofNat 64 (w / 16384)) (BitVec.ofNat 11 (w / 8)) (Fin.ofNat 8 w))
  | 4 => some (.ori (Fin.ofNat 64 (w / 1048576)) (Fin.ofNat 64 (w / 16384)) (BitVec.ofNat 11 (w / 8)) (Fin.ofNat 8 w))
  | 5 => some (.xori (Fin.ofNat 64 (w / 1048576)) (Fin.ofNat 64 (w / 16384)) (BitVec.ofNat 11 (w / 8)) (Fin.ofNat 8 w))
  | 6 =>
    if w / 512 % 32 = 0 then some (.shli (Fin.ofNat 64 (w / 1048576)) (Fin.ofNat 64 (w / 16384)) (Fin.ofNat 64 (w / 8)) (Fin.ofNat 8 w))
    else if w / 512 % 32 = 8 then some (.shri (Fin.ofNat 64 (w / 1048576)) (Fin.ofNat 64 (w / 16384)) (Fin.ofNat 64 (w / 8)) (Fin.ofNat 8 w))
    else if w / 512 % 32 = 16 then some (.srai (Fin.ofNat 64 (w / 1048576)) (Fin.ofNat 64 (w / 16384)) (Fin.ofNat 64 (w / 8)) (Fin.ofNat 8 w))
    else if w / 512 % 32 = 24 then some (.roli (Fin.ofNat 64 (w / 1048576)) (Fin.ofNat 64 (w / 16384)) (Fin.ofNat 64 (w / 8)) (Fin.ofNat 8 w))
    else none
  | 7 =>
    if w / 16384 % 64 = 0 then some (.ldi (Fin.ofNat 64 (w / 1048576)) (BitVec.ofNat 11 (w / 8)) (Fin.ofNat 8 w))
    else none
  | 9 =>
    if w / 8 % 2 = 0 then some (.cmp (Fin.ofNat 128 (w / 524288)) (Fin.ofNat 64 (w / 8192)) (Fin.ofNat 64 (w / 128)) (Fin.ofNat 8 (w / 16)) (Fin.ofNat 8 w))
    else if w / 8 % 2 = 1 then some (.cmpAnd (Fin.ofNat 128 (w / 524288)) (Fin.ofNat 64 (w / 8192)) (Fin.ofNat 64 (w / 128)) (Fin.ofNat 8 (w / 16)) (Fin.ofNat 8 w))
    else none
  | 10 => some (.cmpi (Fin.ofNat 128 (w / 524288)) (Fin.ofNat 64 (w / 8192)) (Fin.ofNat 8 (w / 1024)) (BitVec.ofNat 7 (w / 8)) (Fin.ofNat 8 w))
  | 11 =>
    if w / 8 % 4 = 0 then some (.pand (Fin.ofNat 128 (w / 524288)) (Fin.ofNat 128 (w / 4096)) (Fin.ofNat 128 (w / 32)) (Fin.ofNat 8 w))
    else if w / 8 % 4 = 1 then some (.por (Fin.ofNat 128 (w / 524288)) (Fin.ofNat 128 (w / 4096)) (Fin.ofNat 128 (w / 32)) (Fin.ofNat 8 w))
    else if w / 8 % 4 = 2 then some (.pxor (Fin.ofNat 128 (w / 524288)) (Fin.ofNat 128 (w / 4096)) (Fin.ofNat 128 (w / 32)) (Fin.ofNat 8 w))
    else if w / 8 % 4 = 3 then some (.pandn (Fin.ofNat 128 (w / 524288)) (Fin.ofNat 128 (w / 4096)) (Fin.ofNat 128 (w / 32)) (Fin.ofNat 8 w))
    else none
  | 12 =>
    if w / 8 % 512 = 0 then some (.pnot (Fin.ofNat 128 (w / 524288)) (Fin.ofNat 128 (w / 4096)) (Fin.ofNat 8 w))
    else if w / 8 % 65536 = 1 then some (.pset (Fin.ofNat 128 (w / 524288)) (Fin.ofNat 8 w))
    else if w / 8 % 65536 = 2 then some (.pclr (Fin.ofNat 128 (w / 524288)) (Fin.ofNat 8 w))
    else if w / 8 % 512 = 3 then some (.pfirst (Fin.ofNat 128 (w / 524288)) (Fin.ofNat 128 (w / 4096)) (Fin.ofNat 8 w))
    else none
  | 13 =>
    if w / 8 % 16 = 0 then some (.pfroms (Fin.ofNat 128 (w / 524288)) (Fin.ofNat 64 (w / 8192)) (Fin.ofNat 64 (w / 128)) (Fin.ofNat 8 w))
    else none
  | 14 =>
    if w / 8 % 512 = 0 then some (.pcount (Fin.ofNat 128 (w / 524288)) (Fin.ofNat 128 (w / 4096)) (Fin.ofNat 8 w))
    else none
  | 15 => some (.sels (Fin.ofNat 64 (w / 1048576)) (Fin.ofNat 64 (w / 16384)) (Fin.ofNat 64 (w / 256)) (Fin.ofNat 32 (w / 8)) (Fin.ofNat 8 w))
  | 16 =>
    if w / 16384 % 64 = 0 then some (.mfs (Fin.ofNat 64 (w / 1048576)) (Fin.ofNat 2048 (w / 8)) (Fin.ofNat 8 w))
    else none
  | 17 =>
    if w / 1048576 % 64 = 0 then some (.mts (Fin.ofNat 64 (w / 16384)) (Fin.ofNat 2048 (w / 8)) (Fin.ofNat 8 w))
    else none
  | 18 =>
    if w / 1048576 % 64 = 0 then some (.loop (Fin.ofNat 64 (w / 16384)) (Fin.ofNat 2048 (w / 8)) (Fin.ofNat 8 w))
    else none
  | 19 => some (.loopi (Fin.ofNat 4096 (w / 16384)) (Fin.ofNat 2048 (w / 8)) (Fin.ofNat 8 w))
  | 20 =>
    if w / 8 % 8388608 = 0 then some (.brklp (Fin.ofNat 8 w))
    else none
  | 21 =>
    if w / 1048576 % 64 = 0 then some (.waitc (Fin.ofNat 64 (w / 16384)) (Fin.ofNat 2048 (w / 8)) (Fin.ofNat 8 w))
    else none
  | 22 =>
    if w / 8 % 8388608 = 1 then some (.rft (Fin.ofNat 8 w))
    else if w / 8 % 8388608 = 2 then some (.yield (Fin.ofNat 8 w))
    else if w / 8 % 8388608 = 3 then some (.tend (Fin.ofNat 8 w))
    else if w / 8 % 8388608 = 4 then some (.fencel (Fin.ofNat 8 w))
    else if w / 8 % 8388608 = 6 then some (.svcNop (Fin.ofNat 8 w))
    else if w / 8 % 8388608 = 38 then some (.svcLog (Fin.ofNat 8 w))
    else if w / 8 % 8388608 = 70 then some (.svcProbe (Fin.ofNat 8 w))
    else if w / 8 % 8388608 = 102 then some (.svcTouch (Fin.ofNat 8 w))
    else if w / 8 % 131072 = 5 then some (.fenceh (Fin.ofNat 64 (w / 1048576)) (Fin.ofNat 8 w))
    else if w / 1048576 % 64 = 0 ∧ w / 8 % 32 = 0 then some (.trap (BitVec.ofNat 12 (w / 256)) (Fin.ofNat 8 w))
    else if w / 1048576 % 64 = 0 ∧ w / 8 % 32 = 6 then some (.svc (BitVec.ofNat 12 (w / 256)) (Fin.ofNat 8 w))
    else none
  | _ => none

/-- The M class map (05 R97-R103): a short word, its fields not yet checked against their limits. -/
def decodeM (w : Nat) : Option Instr :=
  match w / 67108864 with
  | 1 => some (.ldb (Fin.ofNat 64 (w / 1048576)) (Fin.ofNat 64 (w / 16384)) (BitVec.ofNat 11 (w / 8)) (Fin.ofNat 8 w))
  | 2 => some (.ldbn (Fin.ofNat 64 (w / 1048576)) (Fin.ofNat 64 (w / 16384)) (BitVec.ofNat 11 (w / 8)) (Fin.ofNat 8 w))
  | 3 => some (.ldh (Fin.ofNat 64 (w / 1048576)) (Fin.ofNat 64 (w / 16384)) (BitVec.ofNat 11 (w / 8)) (Fin.ofNat 8 w))
  | 4 => some (.ldhn (Fin.ofNat 64 (w / 1048576)) (Fin.ofNat 64 (w / 16384)) (BitVec.ofNat 11 (w / 8)) (Fin.ofNat 8 w))
  | 5 => some (.ldw (Fin.ofNat 64 (w / 1048576)) (Fin.ofNat 64 (w / 16384)) (BitVec.ofNat 11 (w / 8)) (Fin.ofNat 8 w))
  | 6 => some (.ldwn (Fin.ofNat 64 (w / 1048576)) (Fin.ofNat 64 (w / 16384)) (BitVec.ofNat 11 (w / 8)) (Fin.ofNat 8 w))
  | 7 => some (.ldd (Fin.ofNat 64 (w / 1048576)) (Fin.ofNat 64 (w / 16384)) (BitVec.ofNat 11 (w / 8)) (Fin.ofNat 8 w))
  | 8 => some (.stb (Fin.ofNat 64 (w / 1048576)) (Fin.ofNat 64 (w / 16384)) (BitVec.ofNat 11 (w / 8)) (Fin.ofNat 8 w))
  | 9 => some (.sth (Fin.ofNat 64 (w / 1048576)) (Fin.ofNat 64 (w / 16384)) (BitVec.ofNat 11 (w / 8)) (Fin.ofNat 8 w))
  | 10 => some (.stw (Fin.ofNat 64 (w / 1048576)) (Fin.ofNat 64 (w / 16384)) (BitVec.ofNat 11 (w / 8)) (Fin.ofNat 8 w))
  | 11 => some (.std (Fin.ofNat 64 (w / 1048576)) (Fin.ofNat 64 (w / 16384)) (BitVec.ofNat 11 (w / 8)) (Fin.ofNat 8 w))
  | 12 => some (.lds (Fin.ofNat 64 (w / 1048576)) (Fin.ofNat 64 (w / 16384)) (BitVec.ofNat 11 (w / 8)) (Fin.ofNat 8 w))
  | 13 => some (.vld (Fin.ofNat 64 (w / 1048576)) (Fin.ofNat 64 (w / 16384)) (BitVec.ofNat 11 (w / 8)) (Fin.ofNat 8 w))
  | 14 => some (.vst (Fin.ofNat 64 (w / 1048576)) (Fin.ofNat 64 (w / 16384)) (BitVec.ofNat 11 (w / 8)) (Fin.ofNat 8 w))
  | 15 => some (.vlds (Fin.ofNat 64 (w / 1048576)) (Fin.ofNat 64 (w / 16384)) (BitVec.ofNat 11 (w / 8)) (Fin.ofNat 8 w))
  | 16 => some (.vldb (Fin.ofNat 64 (w / 1048576)) (Fin.ofNat 32 (w / 32768)) (Fin.ofNat 64 (w / 512)) (Fin.ofNat 64 (w / 8)) (Fin.ofNat 8 w))
  | 17 => some (.vstb (Fin.ofNat 64 (w / 1048576)) (Fin.ofNat 32 (w / 32768)) (Fin.ofNat 64 (w / 512)) (Fin.ofNat 64 (w / 8)) (Fin.ofNat 8 w))
  | 18 => some (.vgath (Fin.ofNat 64 (w / 1048576)) (Fin.ofNat 64 (w / 16384)) (Fin.ofNat 64 (w / 256)) (Fin.ofNat 8 (w / 32)) (Fin.ofNat 4 (w / 8)) (Fin.ofNat 8 w))
  | 19 => some (.vscat (Fin.ofNat 64 (w / 1048576)) (Fin.ofNat 64 (w / 16384)) (Fin.ofNat 64 (w / 256)) (Fin.ofNat 8 (w / 32)) (Fin.ofNat 4 (w / 8)) (Fin.ofNat 8 w))
  | 20 => some (.ldfe (Fin.ofNat 64 (w / 1048576)) (Fin.ofNat 64 (w / 16384)) (BitVec.ofNat 11 (w / 8)) (Fin.ofNat 8 w))
  | 21 => some (.ldfec (Fin.ofNat 64 (w / 1048576)) (Fin.ofNat 64 (w / 16384)) (BitVec.ofNat 11 (w / 8)) (Fin.ofNat 8 w))
  | 22 => some (.vldfe (Fin.ofNat 64 (w / 1048576)) (Fin.ofNat 64 (w / 16384)) (BitVec.ofNat 11 (w / 8)) (Fin.ofNat 8 w))
  | 23 => some (.vldfec (Fin.ofNat 64 (w / 1048576)) (Fin.ofNat 64 (w / 16384)) (BitVec.ofNat 11 (w / 8)) (Fin.ofNat 8 w))
  | 24 => some (.stf (Fin.ofNat 64 (w / 1048576)) (Fin.ofNat 64 (w / 16384)) (BitVec.ofNat 11 (w / 8)) (Fin.ofNat 8 w))
  | 25 => some (.vstf (Fin.ofNat 64 (w / 1048576)) (Fin.ofNat 64 (w / 16384)) (BitVec.ofNat 11 (w / 8)) (Fin.ofNat 8 w))
  | 26 =>
    if w / 256 % 64 = 0 then some (.ldacq (Fin.ofNat 64 (w / 1048576)) (Fin.ofNat 64 (w / 16384)) (Fin.ofNat 8 (w / 32)) (Fin.ofNat 4 (w / 8)) (Fin.ofNat 8 w))
    else none
  | 27 =>
    if w / 256 % 64 = 0 then some (.strel (Fin.ofNat 64 (w / 1048576)) (Fin.ofNat 64 (w / 16384)) (Fin.ofNat 8 (w / 32)) (Fin.ofNat 4 (w / 8)) (Fin.ofNat 8 w))
    else none
  | 28 =>
    if w / 16 % 16 = 0 then some (.atomAdd (Fin.ofNat 64 (w / 1048576)) (Fin.ofNat 64 (w / 16384)) (Fin.ofNat 64 (w / 256)) (Fin.ofNat 2 (w / 8)) (Fin.ofNat 8 w))
    else if w / 16 % 16 = 1 then some (.atomMin (Fin.ofNat 64 (w / 1048576)) (Fin.ofNat 64 (w / 16384)) (Fin.ofNat 64 (w / 256)) (Fin.ofNat 2 (w / 8)) (Fin.ofNat 8 w))
    else if w / 16 % 16 = 2 then some (.atomMax (Fin.ofNat 64 (w / 1048576)) (Fin.ofNat 64 (w / 16384)) (Fin.ofNat 64 (w / 256)) (Fin.ofNat 2 (w / 8)) (Fin.ofNat 8 w))
    else if w / 16 % 16 = 3 then some (.atomMinn (Fin.ofNat 64 (w / 1048576)) (Fin.ofNat 64 (w / 16384)) (Fin.ofNat 64 (w / 256)) (Fin.ofNat 2 (w / 8)) (Fin.ofNat 8 w))
    else if w / 16 % 16 = 4 then some (.atomMaxn (Fin.ofNat 64 (w / 1048576)) (Fin.ofNat 64 (w / 16384)) (Fin.ofNat 64 (w / 256)) (Fin.ofNat 2 (w / 8)) (Fin.ofNat 8 w))
    else if w / 16 % 16 = 5 then some (.atomAnd (Fin.ofNat 64 (w / 1048576)) (Fin.ofNat 64 (w / 16384)) (Fin.ofNat 64 (w / 256)) (Fin.ofNat 2 (w / 8)) (Fin.ofNat 8 w))
    else if w / 16 % 16 = 6 then some (.atomOr (Fin.ofNat 64 (w / 1048576)) (Fin.ofNat 64 (w / 16384)) (Fin.ofNat 64 (w / 256)) (Fin.ofNat 2 (w / 8)) (Fin.ofNat 8 w))
    else if w / 16 % 16 = 7 then some (.atomXor (Fin.ofNat 64 (w / 1048576)) (Fin.ofNat 64 (w / 16384)) (Fin.ofNat 64 (w / 256)) (Fin.ofNat 2 (w / 8)) (Fin.ofNat 8 w))
    else if w / 16 % 16 = 8 then some (.atomSwap (Fin.ofNat 64 (w / 1048576)) (Fin.ofNat 64 (w / 16384)) (Fin.ofNat 64 (w / 256)) (Fin.ofNat 2 (w / 8)) (Fin.ofNat 8 w))
    else none
  | 29 =>
    if w / 16 % 16 = 0 then some (.cas (Fin.ofNat 64 (w / 1048576)) (Fin.ofNat 64 (w / 16384)) (Fin.ofNat 64 (w / 256)) (Fin.ofNat 2 (w / 8)) (Fin.ofNat 8 w))
    else none
  | 30 =>
    if w / 16 % 16 = 0 then some (.vatomAdd (Fin.ofNat 64 (w / 1048576)) (Fin.ofNat 64 (w / 16384)) (Fin.ofNat 64 (w / 256)) (Fin.ofNat 2 (w / 8)) (Fin.ofNat 8 w))
    else if w / 16 % 16 = 1 then some (.vatomAnd (Fin.ofNat 64 (w / 1048576)) (Fin.ofNat 64 (w / 16384)) (Fin.ofNat 64 (w / 256)) (Fin.ofNat 2 (w / 8)) (Fin.ofNat 8 w))
    else if w / 16 % 16 = 2 then some (.vatomOr (Fin.ofNat 64 (w / 1048576)) (Fin.ofNat 64 (w / 16384)) (Fin.ofNat 64 (w / 256)) (Fin.ofNat 2 (w / 8)) (Fin.ofNat 8 w))
    else if w / 16 % 16 = 3 then some (.vatomMax (Fin.ofNat 64 (w / 1048576)) (Fin.ofNat 64 (w / 16384)) (Fin.ofNat 64 (w / 256)) (Fin.ofNat 2 (w / 8)) (Fin.ofNat 8 w))
    else none
  | 31 =>
    if w / 8 % 2048 = 0 then some (.rkopen (Fin.ofNat 64 (w / 1048576)) (Fin.ofNat 64 (w / 16384)) (Fin.ofNat 8 w))
    else none
  | 32 =>
    if w / 1048576 % 64 = 0 ∧ w / 8 % 2048 = 0 then some (.rkpub (Fin.ofNat 64 (w / 16384)) (Fin.ofNat 8 w))
    else none
  | 33 =>
    if w / 8 % 2048 = 0 then some (.rktake (Fin.ofNat 64 (w / 1048576)) (Fin.ofNat 64 (w / 16384)) (Fin.ofNat 8 w))
    else none
  | 34 =>
    if w / 1048576 % 64 = 0 ∧ w / 8 % 2048 = 0 then some (.rkdrop (Fin.ofNat 64 (w / 16384)) (Fin.ofNat 8 w))
    else none
  | 35 =>
    if w / 8 % 32 = 0 then some (.binit (Fin.ofNat 64 (w / 1048576)) (Fin.ofNat 64 (w / 16384)) (Fin.ofNat 64 (w / 256)) (Fin.ofNat 8 w))
    else none
  | 36 =>
    if w / 1048576 % 64 = 0 ∧ w / 8 % 2048 = 0 then some (.barv (Fin.ofNat 64 (w / 16384)) (Fin.ofNat 8 w))
    else none
  | 37 =>
    if w / 8 % 2048 = 0 then some (.bwait (Fin.ofNat 64 (w / 1048576)) (Fin.ofNat 64 (w / 16384)) (Fin.ofNat 8 w))
    else none
  | 38 =>
    if w / 1048576 % 64 = 0 then some (.pref (Fin.ofNat 64 (w / 16384)) (BitVec.ofNat 11 (w / 8)) (Fin.ofNat 8 w))
    else none
  | _ => none

/-- The V class map (05 R97-R103): a short word, its fields not yet checked against their limits. -/
def decodeV (w : Nat) : Option Instr :=
  match w / 67108864 with
  | 1 => some (.vadd (Fin.ofNat 64 (w / 1048576)) (Fin.ofNat 64 (w / 16384)) (Fin.ofNat 64 (w / 256)) (Fin.ofNat 4 (w / 64)) (Fin.ofNat 8 (w / 8)) (Fin.ofNat 8 w))
  | 2 => some (.vsub (Fin.ofNat 64 (w / 1048576)) (Fin.ofNat 64 (w / 16384)) (Fin.ofNat 64 (w / 256)) (Fin.ofNat 4 (w / 64)) (Fin.ofNat 8 (w / 8)) (Fin.ofNat 8 w))
  | 3 => some (.vmul (Fin.ofNat 64 (w / 1048576)) (Fin.ofNat 64 (w / 16384)) (Fin.ofNat 64 (w / 256)) (Fin.ofNat 4 (w / 64)) (Fin.ofNat 8 (w / 8)) (Fin.ofNat 8 w))
  | 4 => some (.vfma (Fin.ofNat 64 (w / 1048576)) (Fin.ofNat 64 (w / 16384)) (Fin.ofNat 64 (w / 256)) (Fin.ofNat 4 (w / 64)) (Fin.ofNat 8 (w / 8)) (Fin.ofNat 8 w))
  | 5 => some (.vfms (Fin.ofNat 64 (w / 1048576)) (Fin.ofNat 64 (w / 16384)) (Fin.ofNat 64 (w / 256)) (Fin.ofNat 4 (w / 64)) (Fin.ofNat 8 (w / 8)) (Fin.ofNat 8 w))
  | 6 => some (.vfnma (Fin.ofNat 64 (w / 1048576)) (Fin.ofNat 64 (w / 16384)) (Fin.ofNat 64 (w / 256)) (Fin.ofNat 4 (w / 64)) (Fin.ofNat 8 (w / 8)) (Fin.ofNat 8 w))
  | 7 => some (.vmin (Fin.ofNat 64 (w / 1048576)) (Fin.ofNat 64 (w / 16384)) (Fin.ofNat 64 (w / 256)) (Fin.ofNat 4 (w / 64)) (Fin.ofNat 8 (w / 8)) (Fin.ofNat 8 w))
  | 8 => some (.vmax (Fin.ofNat 64 (w / 1048576)) (Fin.ofNat 64 (w / 16384)) (Fin.ofNat 64 (w / 256)) (Fin.ofNat 4 (w / 64)) (Fin.ofNat 8 (w / 8)) (Fin.ofNat 8 w))
  | 9 =>
    if w / 256 % 64 = 0 then some (.vabs (Fin.ofNat 64 (w / 1048576)) (Fin.ofNat 64 (w / 16384)) (Fin.ofNat 4 (w / 64)) (Fin.ofNat 8 (w / 8)) (Fin.ofNat 8 w))
    else none
  | 10 =>
    if w / 256 % 64 = 0 then some (.vneg (Fin.ofNat 64 (w / 1048576)) (Fin.ofNat 64 (w / 16384)) (Fin.ofNat 4 (w / 64)) (Fin.ofNat 8 (w / 8)) (Fin.ofNat 8 w))
    else none
  | 11 => some (.vcmp (Fin.ofNat 128 (w / 524288)) (Fin.ofNat 64 (w / 8192)) (Fin.ofNat 64 (w / 128)) (Fin.ofNat 4 (w / 32)) (Fin.ofNat 4 (w / 8)) (Fin.ofNat 8 w))
  | 12 => some (.vand (Fin.ofNat 64 (w / 1048576)) (Fin.ofNat 64 (w / 16384)) (Fin.ofNat 64 (w / 256)) (Fin.ofNat 4 (w / 64)) (Fin.ofNat 8 (w / 8)) (Fin.ofNat 8 w))
  | 13 => some (.vor (Fin.ofNat 64 (w / 1048576)) (Fin.ofNat 64 (w / 16384)) (Fin.ofNat 64 (w / 256)) (Fin.ofNat 4 (w / 64)) (Fin.ofNat 8 (w / 8)) (Fin.ofNat 8 w))
  | 14 => some (.vxor (Fin.ofNat 64 (w / 1048576)) (Fin.ofNat 64 (w / 16384)) (Fin.ofNat 64 (w / 256)) (Fin.ofNat 4 (w / 64)) (Fin.ofNat 8 (w / 8)) (Fin.ofNat 8 w))
  | 15 => some (.vshl (Fin.ofNat 64 (w / 1048576)) (Fin.ofNat 64 (w / 16384)) (Fin.ofNat 64 (w / 256)) (Fin.ofNat 4 (w / 64)) (Fin.ofNat 8 (w / 8)) (Fin.ofNat 8 w))
  | 16 => some (.vshr (Fin.ofNat 64 (w / 1048576)) (Fin.ofNat 64 (w / 16384)) (Fin.ofNat 64 (w / 256)) (Fin.ofNat 4 (w / 64)) (Fin.ofNat 8 (w / 8)) (Fin.ofNat 8 w))
  | 17 => some (.vsra (Fin.ofNat 64 (w / 1048576)) (Fin.ofNat 64 (w / 16384)) (Fin.ofNat 64 (w / 256)) (Fin.ofNat 4 (w / 64)) (Fin.ofNat 8 (w / 8)) (Fin.ofNat 8 w))
  | 18 => some (.vsel (Fin.ofNat 64 (w / 1048576)) (Fin.ofNat 64 (w / 16384)) (Fin.ofNat 64 (w / 256)) (Fin.ofNat 4 (w / 64)) (Fin.ofNat 8 (w / 8)) (Fin.ofNat 8 w))
  | 19 => some (.vadds (Fin.ofNat 64 (w / 1048576)) (Fin.ofNat 64 (w / 16384)) (Fin.ofNat 64 (w / 256)) (Fin.ofNat 4 (w / 64)) (Fin.ofNat 8 (w / 8)) (Fin.ofNat 8 w))
  | 20 => some (.vmuls (Fin.ofNat 64 (w / 1048576)) (Fin.ofNat 64 (w / 16384)) (Fin.ofNat 64 (w / 256)) (Fin.ofNat 4 (w / 64)) (Fin.ofNat 8 (w / 8)) (Fin.ofNat 8 w))
  | 21 => some (.vfmas (Fin.ofNat 64 (w / 1048576)) (Fin.ofNat 64 (w / 16384)) (Fin.ofNat 64 (w / 256)) (Fin.ofNat 4 (w / 64)) (Fin.ofNat 8 (w / 8)) (Fin.ofNat 8 w))
  | 22 =>
    if w / 16384 % 64 = 0 then some (.vbcast (Fin.ofNat 64 (w / 1048576)) (Fin.ofNat 64 (w / 256)) (Fin.ofNat 4 (w / 64)) (Fin.ofNat 8 (w / 8)) (Fin.ofNat 8 w))
    else none
  | 23 =>
    if w / 8 % 8 = 0 then some (.vext (Fin.ofNat 64 (w / 1048576)) (Fin.ofNat 64 (w / 16384)) (Fin.ofNat 64 (w / 256)) (Fin.ofNat 4 (w / 64)) (Fin.ofNat 8 w))
    else none
  | 24 =>
    if w / 8 % 8 = 0 then some (.vins (Fin.ofNat 64 (w / 1048576)) (Fin.ofNat 64 (w / 16384)) (Fin.ofNat 64 (w / 256)) (Fin.ofNat 4 (w / 64)) (Fin.ofNat 8 w))
    else none
  | 25 => some (.vperm (Fin.ofNat 64 (w / 1048576)) (Fin.ofNat 64 (w / 16384)) (Fin.ofNat 64 (w / 256)) (Fin.ofNat 4 (w / 64)) (Fin.ofNat 8 (w / 8)) (Fin.ofNat 8 w))
  | 26 => some (.vslide (Fin.ofNat 64 (w / 1048576)) (Fin.ofNat 64 (w / 16384)) (Fin.ofNat 64 (w / 256)) (Fin.ofNat 4 (w / 64)) (Fin.ofNat 8 (w / 8)) (Fin.ofNat 8 w))
  | 27 =>
    if w / 256 % 4096 = 0 then some (.viota (Fin.ofNat 64 (w / 1048576)) (Fin.ofNat 4 (w / 64)) (Fin.ofNat 8 (w / 8)) (Fin.ofNat 8 w))
    else none
  | 28 =>
    if w / 1024 % 16 = 0 then some (.vcvt (Fin.ofNat 64 (w / 1048576)) (Fin.ofNat 64 (w / 16384)) (Fin.ofNat 4 (w / 256)) (Fin.ofNat 4 (w / 64)) (Fin.ofNat 8 (w / 8)) (Fin.ofNat 8 w))
    else none
  | _ => none

/-- The K class map (05 R97-R103): a short word, its fields not yet checked against their limits. -/
def decodeK (w : Nat) : Option Instr :=
  match w / 67108864 with
  | 1 =>
    if w / 8 % 16 = 0 then some (.kunp (Fin.ofNat 64 (w / 1048576)) (Fin.ofNat 64 (w / 16384)) (Fin.ofNat 8 (w / 2048)) (Fin.ofNat 4 (w / 512)) (Fin.ofNat 4 (w / 128)) (Fin.ofNat 8 w))
    else none
  | 2 =>
    if w / 2048 % 8 = 3 then some (.kunpq (Fin.ofNat 64 (w / 1048576)) (Fin.ofNat 64 (w / 16384)) (Fin.ofNat 4 (w / 512)) (Fin.ofNat 4 (w / 128)) (Fin.ofNat 16 (w / 8)) (Fin.ofNat 8 w))
    else none
  | 3 => some (.klds (Fin.ofNat 64 (w / 1048576)) (Fin.ofNat 64 (w / 16384)) (BitVec.ofNat 11 (w / 8)) (Fin.ofNat 8 w))
  | 4 => some (.kldss (Fin.ofNat 64 (w / 1048576)) (Fin.ofNat 64 (w / 16384)) (BitVec.ofNat 11 (w / 8)) (Fin.ofNat 8 w))
  | _ => none

/-- The Q class map (05 R97-R103): a short word, its fields not yet checked against their limits. -/
def decodeQ (w : Nat) : Option Instr :=
  match w / 67108864 with
  | 1 => some (.qpk (Fin.ofNat 64 (w / 1048576)) (Fin.ofNat 64 (w / 16384)) (Fin.ofNat 8 (w / 2048)) (Fin.ofNat 4 (w / 512)) (Fin.ofNat 4 (w / 128)) (Fin.ofNat 4 (w / 32)) (Fin.ofNat 4 (w / 8)) (Fin.ofNat 8 w))
  | 2 =>
    if w / 2048 % 8 = 3 then some (.qpkq (Fin.ofNat 64 (w / 1048576)) (Fin.ofNat 64 (w / 16384)) (Fin.ofNat 4 (w / 512)) (Fin.ofNat 4 (w / 128)) (Fin.ofNat 16 (w / 8)) (Fin.ofNat 8 w))
    else none
  | 3 =>
    if w / 2048 % 8 = 3 then some (.qamax (Fin.ofNat 64 (w / 1048576)) (Fin.ofNat 64 (w / 16384)) (Fin.ofNat 4 (w / 512)) (Fin.ofNat 4 (w / 128)) (Fin.ofNat 16 (w / 8)) (Fin.ofNat 8 w))
    else none
  | 4 => some (.qsts (Fin.ofNat 64 (w / 1048576)) (Fin.ofNat 64 (w / 16384)) (BitVec.ofNat 11 (w / 8)) (Fin.ofNat 8 w))
  | _ => none

/-- The F class map (05 R97-R103): a short word, its fields not yet checked against their limits. -/
def decodeF (w : Nat) : Option Instr :=
  match w / 67108864 with
  | 1 =>
    if w / 256 % 64 = 0 then some (.frcp (Fin.ofNat 64 (w / 1048576)) (Fin.ofNat 64 (w / 16384)) (Fin.ofNat 4 (w / 64)) (Fin.ofNat 8 (w / 8)) (Fin.ofNat 8 w))
    else none
  | 2 =>
    if w / 256 % 64 = 0 then some (.frsq (Fin.ofNat 64 (w / 1048576)) (Fin.ofNat 64 (w / 16384)) (Fin.ofNat 4 (w / 64)) (Fin.ofNat 8 (w / 8)) (Fin.ofNat 8 w))
    else none
  | 3 =>
    if w / 256 % 64 = 0 then some (.fsqrt (Fin.ofNat 64 (w / 1048576)) (Fin.ofNat 64 (w / 16384)) (Fin.ofNat 4 (w / 64)) (Fin.ofNat 8 (w / 8)) (Fin.ofNat 8 w))
    else none
  | 4 =>
    if w / 256 % 64 = 0 then some (.fexp2 (Fin.ofNat 64 (w / 1048576)) (Fin.ofNat 64 (w / 16384)) (Fin.ofNat 4 (w / 64)) (Fin.ofNat 8 (w / 8)) (Fin.ofNat 8 w))
    else none
  | 5 =>
    if w / 256 % 64 = 0 then some (.flog2 (Fin.ofNat 64 (w / 1048576)) (Fin.ofNat 64 (w / 16384)) (Fin.ofNat 4 (w / 64)) (Fin.ofNat 8 (w / 8)) (Fin.ofNat 8 w))
    else none
  | 6 =>
    if w / 256 % 64 = 0 then some (.fsin (Fin.ofNat 64 (w / 1048576)) (Fin.ofNat 64 (w / 16384)) (Fin.ofNat 4 (w / 64)) (Fin.ofNat 8 (w / 8)) (Fin.ofNat 8 w))
    else none
  | 7 =>
    if w / 256 % 64 = 0 then some (.fcos (Fin.ofNat 64 (w / 1048576)) (Fin.ofNat 64 (w / 16384)) (Fin.ofNat 4 (w / 64)) (Fin.ofNat 8 (w / 8)) (Fin.ofNat 8 w))
    else none
  | 8 =>
    if w / 256 % 64 = 0 then some (.ftanh (Fin.ofNat 64 (w / 1048576)) (Fin.ofNat 64 (w / 16384)) (Fin.ofNat 4 (w / 64)) (Fin.ofNat 8 (w / 8)) (Fin.ofNat 8 w))
    else none
  | 9 =>
    if w / 256 % 64 = 0 then some (.fsum (Fin.ofNat 64 (w / 1048576)) (Fin.ofNat 64 (w / 16384)) (Fin.ofNat 4 (w / 64)) (Fin.ofNat 8 (w / 8)) (Fin.ofNat 8 w))
    else none
  | 10 =>
    if w / 256 % 64 = 0 then some (.fmaxr (Fin.ofNat 64 (w / 1048576)) (Fin.ofNat 64 (w / 16384)) (Fin.ofNat 4 (w / 64)) (Fin.ofNat 8 (w / 8)) (Fin.ofNat 8 w))
    else none
  | 11 =>
    if w / 256 % 64 = 0 then some (.fminr (Fin.ofNat 64 (w / 1048576)) (Fin.ofNat 64 (w / 16384)) (Fin.ofNat 4 (w / 64)) (Fin.ofNat 8 (w / 8)) (Fin.ofNat 8 w))
    else none
  | 12 =>
    if w / 256 % 64 = 0 then some (.fscan (Fin.ofNat 64 (w / 1048576)) (Fin.ofNat 64 (w / 16384)) (Fin.ofNat 4 (w / 64)) (Fin.ofNat 8 (w / 8)) (Fin.ofNat 8 w))
    else none
  | _ => none

/-- The T class map (05 R97-R103): a short word, its fields not yet checked against their limits. -/
def decodeT (w : Nat) : Option Instr :=
  match w / 67108864 with
  | 1 =>
    if w / 64 % 1024 = 0 then some (.ewr (Fin.ofNat 16 (w / 4194304)) (Fin.ofNat 64 (w / 65536)) (Fin.ofNat 8 (w / 8)) (Fin.ofNat 8 w))
    else none
  | 2 =>
    if w / 65536 % 64 = 0 ∧ w / 64 % 16 = 0 then some (.erd (Fin.ofNat 16 (w / 4194304)) (Fin.ofNat 64 (w / 1024)) (Fin.ofNat 8 (w / 8)) (Fin.ofNat 8 w))
    else none
  | 3 =>
    if w / 8 % 2 = 0 then some (.copy (Fin.ofNat 16 (w / 4194304)) (Fin.ofNat 64 (w / 65536)) (Fin.ofNat 64 (w / 1024)) (Fin.ofNat 64 (w / 16)) (Fin.ofNat 8 w))
    else if w / 8 % 2 = 1 then some (.copyRack (Fin.ofNat 16 (w / 4194304)) (Fin.ofNat 64 (w / 65536)) (Fin.ofNat 64 (w / 1024)) (Fin.ofNat 64 (w / 16)) (Fin.ofNat 8 w))
    else none
  | 4 =>
    if w / 64 % 1024 = 0 then some (.bindIn (Fin.ofNat 16 (w / 4194304)) (Fin.ofNat 64 (w / 65536)) (Fin.ofNat 8 (w / 8)) (Fin.ofNat 8 w))
    else if w / 64 % 1024 = 1 then some (.bindOut (Fin.ofNat 16 (w / 4194304)) (Fin.ofNat 64 (w / 65536)) (Fin.ofNat 8 (w / 8)) (Fin.ofNat 8 w))
    else none
  | 5 =>
    if w / 64 % 1048576 = 0 then some (.unbind (Fin.ofNat 8 (w / 8)) (Fin.ofNat 8 w))
    else none
  | 6 => some (.mma (Fin.ofNat 16 (w / 4194304)) (Fin.ofNat 64 (w / 65536)) (Fin.ofNat 64 (w / 1024)) (Fin.ofNat 16 (w / 64)) (Fin.ofNat 8 (w / 8)) (Fin.ofNat 8 w))
  | 7 =>
    if w / 32 % 2 = 0 then some (.mmas (Fin.ofNat 16 (w / 4194304)) (Fin.ofNat 64 (w / 65536)) (Fin.ofNat 64 (w / 1024)) (Fin.ofNat 16 (w / 64)) (Fin.ofNat 4 (w / 8)) (Fin.ofNat 8 w))
    else none
  | 8 =>
    if w / 1024 % 65536 = 0 ∧ w / 8 % 8 = 0 then some (.mzero (Fin.ofNat 16 (w / 64)) (Fin.ofNat 8 w))
    else none
  | 9 =>
    if w / 1024 % 64 = 0 ∧ w / 8 % 8 = 0 then some (.mld (Fin.ofNat 16 (w / 4194304)) (Fin.ofNat 64 (w / 65536)) (Fin.ofNat 16 (w / 64)) (Fin.ofNat 8 w))
    else none
  | 10 =>
    if w / 8 % 8 = 0 then some (.mst (Fin.ofNat 16 (w / 4194304)) (Fin.ofNat 64 (w / 65536)) (Fin.ofNat 64 (w / 1024)) (Fin.ofNat 16 (w / 64)) (Fin.ofNat 8 w))
    else if w / 8 % 8 = 4 then some (.mstRack (Fin.ofNat 16 (w / 4194304)) (Fin.ofNat 64 (w / 65536)) (Fin.ofNat 64 (w / 1024)) (Fin.ofNat 16 (w / 64)) (Fin.ofNat 8 w))
    else none
  | 12 =>
    if w / 32 % 2097152 = 0 then some (.mpri (Fin.ofNat 4 (w / 8)) (Fin.ofNat 8 w))
    else none
  | 13 =>
    if w / 32 % 32 = 0 then some (.spawn (Fin.ofNat 16 (w / 4194304)) (Fin.ofNat 64 (w / 65536)) (Fin.ofNat 64 (w / 1024)) (Fin.ofNat 4 (w / 8)) (Fin.ofNat 8 w))
    else none
  | 14 =>
    if w / 4194304 % 16 = 0 ∧ w / 1024 % 64 = 0 ∧ w / 8 % 2 = 0 then some (.tset (Fin.ofNat 64 (w / 65536)) (Fin.ofNat 64 (w / 16)) (Fin.ofNat 8 w))
    else none
  | 15 =>
    if w / 4194304 % 16 = 0 ∧ w / 8 % 2 = 0 then some (.tdec (Fin.ofNat 64 (w / 65536)) (Fin.ofNat 64 (w / 1024)) (Fin.ofNat 64 (w / 16)) (Fin.ofNat 8 w))
    else none
  | 16 =>
    if w / 1024 % 65536 = 0 ∧ w / 8 % 2 = 0 then some (.twait (Fin.ofNat 64 (w / 16)) (Fin.ofNat 8 w))
    else none
  | 17 =>
    if w / 8 % 8192 = 0 then some (.gsend (Fin.ofNat 16 (w / 4194304)) (Fin.ofNat 64 (w / 65536)) (Fin.ofNat 8 w))
    else none
  | 18 =>
    if w / 4194304 % 16 = 0 ∧ w / 8 % 128 = 0 then some (.ready (Fin.ofNat 64 (w / 65536)) (Fin.ofNat 64 (w / 1024)) (Fin.ofNat 8 w))
    else none
  | 19 =>
    if w / 4194304 % 16 = 0 ∧ w / 8 % 8192 = 0 then some (.unready (Fin.ofNat 64 (w / 65536)) (Fin.ofNat 8 w))
    else none
  | 20 =>
    if w / 8 % 128 = 0 then some (.asend (Fin.ofNat 16 (w / 4194304)) (Fin.ofNat 64 (w / 65536)) (Fin.ofNat 64 (w / 1024)) (Fin.ofNat 8 w))
    else none
  | 21 =>
    if w / 4194304 % 16 = 0 ∧ w / 8 % 2 = 0 then some (.peel (Fin.ofNat 64 (w / 65536)) (Fin.ofNat 64 (w / 1024)) (Fin.ofNat 64 (w / 16)) (Fin.ofNat 8 w))
    else none
  | _ => none

/-- The B class map (05 R97-R103): a short word, its fields not yet checked against their limits. -/
def decodeB (w : Nat) : Option Instr :=
  match w / 536870912 with
  | 0 => some (.bt (Fin.ofNat 128 (w / 4194304)) (BitVec.ofNat 22 w))
  | 1 => some (.bf (Fin.ofNat 128 (w / 4194304)) (BitVec.ofNat 22 w))
  | 2 => some (.bany (Fin.ofNat 128 (w / 4194304)) (BitVec.ofNat 22 w))
  | 3 => some (.ball (Fin.ofNat 128 (w / 4194304)) (BitVec.ofNat 22 w))
  | 4 =>
    if w / 4194304 % 128 = 0 then some (.j (BitVec.ofNat 22 w))
    else none
  | 5 =>
    if w / 4194304 % 128 = 0 then some (.call (BitVec.ofNat 22 w))
    else none
  | 6 => some (.chk (Fin.ofNat 128 (w / 4194304)) (BitVec.ofNat 22 w))
  | 7 =>
    if w % 4194304 = 0 then some (.jr (Fin.ofNat 2 (w / 268435456)) (Fin.ofNat 64 (w / 4194304)))
    else none
  | _ => none

/-- The class map of a position's class. -/
def decodeShort (c : Cls) (w : Nat) : Option Instr :=
  match c with
  | .x => decodeX w
  | .m => decodeM w
  | .v => decodeV w
  | .k => decodeK w
  | .q => decodeQ w
  | .f => decodeF w
  | .t => decodeT w
  | .b => decodeB w

/-- A long form: the consumer's word with its short immediate zero, and the surrendered word (05 R91, R98-R102). -/
def decodeLong (c : Cls) (w : Nat) (imm : BitVec 32) : Option Instr :=
  match c with
  | .x =>
    match w / 67108864 with
    | 2 => if w / 8 % 2048 = 0 then some (.addiLong (Fin.ofNat 64 (w / 1048576)) (Fin.ofNat 64 (w / 16384)) (Fin.ofNat 8 w) imm) else none
    | 3 => if w / 8 % 2048 = 0 then some (.andiLong (Fin.ofNat 64 (w / 1048576)) (Fin.ofNat 64 (w / 16384)) (Fin.ofNat 8 w) imm) else none
    | 4 => if w / 8 % 2048 = 0 then some (.oriLong (Fin.ofNat 64 (w / 1048576)) (Fin.ofNat 64 (w / 16384)) (Fin.ofNat 8 w) imm) else none
    | 5 => if w / 8 % 2048 = 0 then some (.xoriLong (Fin.ofNat 64 (w / 1048576)) (Fin.ofNat 64 (w / 16384)) (Fin.ofNat 8 w) imm) else none
    | 7 => if w / 8 % 131072 = 0 then some (.ldiLong (Fin.ofNat 64 (w / 1048576)) (Fin.ofNat 8 w) imm) else none
    | 8 => if w / 8 % 2048 = 0 then some (.ldhi (Fin.ofNat 64 (w / 1048576)) (Fin.ofNat 64 (w / 16384)) (Fin.ofNat 8 w) imm) else none
    | 10 => if w / 8 % 128 = 0 then some (.cmpiLong (Fin.ofNat 128 (w / 524288)) (Fin.ofNat 64 (w / 8192)) (Fin.ofNat 8 (w / 1024)) (Fin.ofNat 8 w) imm) else none
    | 19 => if w / 8 % 2048 = 0 then some (.loopiLong (Fin.ofNat 4096 (w / 16384)) (Fin.ofNat 8 w) imm) else none
    | _ => none
  | .m =>
    match w / 67108864 with
    | 1 => if w / 8 % 2048 = 0 then some (.ldbLong (Fin.ofNat 64 (w / 1048576)) (Fin.ofNat 64 (w / 16384)) (Fin.ofNat 8 w) imm) else none
    | 2 => if w / 8 % 2048 = 0 then some (.ldbnLong (Fin.ofNat 64 (w / 1048576)) (Fin.ofNat 64 (w / 16384)) (Fin.ofNat 8 w) imm) else none
    | 3 => if w / 8 % 2048 = 0 then some (.ldhLong (Fin.ofNat 64 (w / 1048576)) (Fin.ofNat 64 (w / 16384)) (Fin.ofNat 8 w) imm) else none
    | 4 => if w / 8 % 2048 = 0 then some (.ldhnLong (Fin.ofNat 64 (w / 1048576)) (Fin.ofNat 64 (w / 16384)) (Fin.ofNat 8 w) imm) else none
    | 5 => if w / 8 % 2048 = 0 then some (.ldwLong (Fin.ofNat 64 (w / 1048576)) (Fin.ofNat 64 (w / 16384)) (Fin.ofNat 8 w) imm) else none
    | 6 => if w / 8 % 2048 = 0 then some (.ldwnLong (Fin.ofNat 64 (w / 1048576)) (Fin.ofNat 64 (w / 16384)) (Fin.ofNat 8 w) imm) else none
    | 7 => if w / 8 % 2048 = 0 then some (.lddLong (Fin.ofNat 64 (w / 1048576)) (Fin.ofNat 64 (w / 16384)) (Fin.ofNat 8 w) imm) else none
    | 8 => if w / 8 % 2048 = 0 then some (.stbLong (Fin.ofNat 64 (w / 1048576)) (Fin.ofNat 64 (w / 16384)) (Fin.ofNat 8 w) imm) else none
    | 9 => if w / 8 % 2048 = 0 then some (.sthLong (Fin.ofNat 64 (w / 1048576)) (Fin.ofNat 64 (w / 16384)) (Fin.ofNat 8 w) imm) else none
    | 10 => if w / 8 % 2048 = 0 then some (.stwLong (Fin.ofNat 64 (w / 1048576)) (Fin.ofNat 64 (w / 16384)) (Fin.ofNat 8 w) imm) else none
    | 11 => if w / 8 % 2048 = 0 then some (.stdLong (Fin.ofNat 64 (w / 1048576)) (Fin.ofNat 64 (w / 16384)) (Fin.ofNat 8 w) imm) else none
    | 12 => if w / 8 % 2048 = 0 then some (.ldsLong (Fin.ofNat 64 (w / 1048576)) (Fin.ofNat 64 (w / 16384)) (Fin.ofNat 8 w) imm) else none
    | 13 => if w / 8 % 2048 = 0 then some (.vldLong (Fin.ofNat 64 (w / 1048576)) (Fin.ofNat 64 (w / 16384)) (Fin.ofNat 8 w) imm) else none
    | 14 => if w / 8 % 2048 = 0 then some (.vstLong (Fin.ofNat 64 (w / 1048576)) (Fin.ofNat 64 (w / 16384)) (Fin.ofNat 8 w) imm) else none
    | 15 => if w / 8 % 2048 = 0 then some (.vldsLong (Fin.ofNat 64 (w / 1048576)) (Fin.ofNat 64 (w / 16384)) (Fin.ofNat 8 w) imm) else none
    | 20 => if w / 8 % 2048 = 0 then some (.ldfeLong (Fin.ofNat 64 (w / 1048576)) (Fin.ofNat 64 (w / 16384)) (Fin.ofNat 8 w) imm) else none
    | 21 => if w / 8 % 2048 = 0 then some (.ldfecLong (Fin.ofNat 64 (w / 1048576)) (Fin.ofNat 64 (w / 16384)) (Fin.ofNat 8 w) imm) else none
    | 22 => if w / 8 % 2048 = 0 then some (.vldfeLong (Fin.ofNat 64 (w / 1048576)) (Fin.ofNat 64 (w / 16384)) (Fin.ofNat 8 w) imm) else none
    | 23 => if w / 8 % 2048 = 0 then some (.vldfecLong (Fin.ofNat 64 (w / 1048576)) (Fin.ofNat 64 (w / 16384)) (Fin.ofNat 8 w) imm) else none
    | 24 => if w / 8 % 2048 = 0 then some (.stfLong (Fin.ofNat 64 (w / 1048576)) (Fin.ofNat 64 (w / 16384)) (Fin.ofNat 8 w) imm) else none
    | 25 => if w / 8 % 2048 = 0 then some (.vstfLong (Fin.ofNat 64 (w / 1048576)) (Fin.ofNat 64 (w / 16384)) (Fin.ofNat 8 w) imm) else none
    | 38 => if w / 1048576 % 64 = 0 ∧ w / 8 % 2048 = 0 then some (.prefLong (Fin.ofNat 64 (w / 16384)) (Fin.ofNat 8 w) imm) else none
    | _ => none
  | .v =>
    match w / 67108864 with
    | 19 => if w / 256 % 64 = 0 then some (.vaddsLong (Fin.ofNat 64 (w / 1048576)) (Fin.ofNat 64 (w / 16384)) (Fin.ofNat 4 (w / 64)) (Fin.ofNat 8 (w / 8)) (Fin.ofNat 8 w) imm) else none
    | 20 => if w / 256 % 64 = 0 then some (.vmulsLong (Fin.ofNat 64 (w / 1048576)) (Fin.ofNat 64 (w / 16384)) (Fin.ofNat 4 (w / 64)) (Fin.ofNat 8 (w / 8)) (Fin.ofNat 8 w) imm) else none
    | 21 => if w / 256 % 64 = 0 then some (.vfmasLong (Fin.ofNat 64 (w / 1048576)) (Fin.ofNat 64 (w / 16384)) (Fin.ofNat 4 (w / 64)) (Fin.ofNat 8 (w / 8)) (Fin.ofNat 8 w) imm) else none
    | 22 => if w / 256 % 4096 = 0 then some (.vbcastLong (Fin.ofNat 64 (w / 1048576)) (Fin.ofNat 4 (w / 64)) (Fin.ofNat 8 (w / 8)) (Fin.ofNat 8 w) imm) else none
    | _ => none
  | .t =>
    match w / 67108864 with
    | 11 => if w / 4194304 % 16 = 0 ∧ w / 1024 % 64 = 0 ∧ w / 8 % 8 = 0 then some (.mproof (Fin.ofNat 64 (w / 65536)) (Fin.ofNat 16 (w / 64)) (Fin.ofNat 8 w) imm) else none
    | _ => none
  | .k | .q | .f | .b => none

/-- The long-capable and long-only operations, by class and major opcode (05 R97-R102). -/
def longCapable (c : Cls) (major : Nat) : Bool :=
  match c with
  | .x => [2, 3, 4, 5, 7, 8, 10, 19].contains major
  | .m => [1, 2, 3, 4, 5, 6, 7, 8, 9, 10, 11, 12, 13, 14, 15, 20, 21, 22, 23, 24, 25, 38].contains major
  | .v => [19, 20, 21, 22].contains major
  | .t => [11].contains major
  | .k | .q | .f | .b => false

/-- The two fates decoding can give (05 R88-R97). -/
inductive DecodeFate where
  | illop
  | illbnd
  deriving DecidableEq, Repr

/-- An operation at a position of a bundle. -/
structure Slot where
  pos   : Nat
  instr : Instr
  deriving DecidableEq, Repr

/-- A decoded bundle: its stop bit, its length in bytes and its operations in MASK order (05 R88, R89). -/
structure Bundle where
  stop  : Bool
  len   : Nat
  slots : List Slot
  deriving DecidableEq, Repr

/-- Position `p` is declared in the header's MASK: bit 30 - p (05 Table fetch-2). -/
def maskHas (h : Nat) (p : Nat) : Bool := h / 2 ^ (30 - p) % 2 == 1

/-- The fourteen positions, in MASK order. -/
def positions : List Nat := [0, 1, 2, 3, 4, 5, 6, 7, 8, 9, 10, 11, 12, 13]

/-- The positions a header declares. -/
def present (h : Nat) : List Nat := positions.filter (maskHas h)

/-- The length of a bundle in bytes (05 R89). -/
def bundleLen (h : Nat) : Nat := 4 * (1 + (present h).length)

/-- The header checks: SIG and the zero field (05 R88). -/
def headerOk (h : Nat) : Bool := h % 256 == 0x5B && h / 256 % 32 == 0

/-- The templates of Table fetch-3: the L bit, its consumer and the position that surrenders its word. -/
def templates : List (Nat × Nat × Nat) := [(16, 0, 1), (15, 2, 3), (14, 4, 5), (13, 9, 8)]

/-- The L bit of a template is set. -/
def templateSet (h bit : Nat) : Bool := h / 2 ^ bit % 2 == 1

/-- The position surrenders its word. -/
def surrendered (h p : Nat) : Bool := templates.any fun t => templateSet h t.1 && t.2.2 == p

/-- The position that surrenders its word to consumer `p`, when its template is set. -/
def surrenderTo (h p : Nat) : Option Nat :=
  (templates.find? fun t => templateSet h t.1 && t.2.1 == p).map (·.2.2)

/-- The word at a position: the words after the header stand in MASK order. -/
def wordAt (h : Nat) (ws : List Nat) (p : Nat) : Nat :=
  ws.getD ((present h).takeWhile (· != p)).length 0

/-- The path tag of an operation's word; a B word carries none (05 R92). -/
def wordTag (p w : Nat) : Nat := if p < 10 then w % 8 else 0

/-- The template and path-tag checks at one position (05 R91, R93). Of a consumer whose surrendering position is absent the consumer is
named (DESIGN CHOICE, log entry 50). -/
def bndDefect (h : Nat) (ws : List Nat) (p : Nat) : Bool :=
  let w := wordAt h ws p
  let tag := wordTag p w
  if surrendered h p then false
  else
    (match surrenderTo h p with
     | some q => !maskHas h q || !longCapable (posClass p) (w / 67108864)
     | none => (posClass p == .x && w / 67108864 == 8) || (posClass p == .t && w / 67108864 == 11))
    || (1 ≤ tag && tag ≤ 4 && !maskHas h (9 + tag))
    || (tag == 6 && !positions.any fun q => 10 ≤ q && maskHas h q)

/-- A set template whose consumer is absent: the position named is the absent consumer's own (05 R91; DESIGN CHOICE,
log entry 50). -/
def templateDefect (h : Nat) (p : Nat) : Bool :=
  templates.any fun t => templateSet h t.1 && t.2.1 == p && !maskHas h p

/-- The operation at a position, or none: an undefined word, or a field outside its limits (05 R95, R97). -/
def decodeSlot (c : Cls) (w : Nat) (imm : Option (BitVec 32)) : Option Instr :=
  match (match imm with | none => decodeShort c w | some i => decodeLong c w i) with
  | some i => if i.wellFormed then some i else none
  | none => none

/-- A loop whose end lies before the end of its own bundle of `len` bytes (06 R135, R136; log entry 13). -/
def loopEndsShort (len : Nat) (i : Instr) : Bool :=
  match i with
  | .loop _ e _ => 4 * e.val < len
  | .loopi e _ _ | .loopiLong e _ _ => 4 * e.val < len
  | _ => false

/-- The words of a position, decoded: nothing at a surrendered position. -/
def decodeAt (h : Nat) (ws : List Nat) (p : Nat) : Option (Option Instr) :=
  if surrendered h p then some none
  else
    match decodeSlot (posClass p) (wordAt h ws p)
        ((surrenderTo h p).map fun q => BitVec.ofNat 32 (wordAt h ws q)) with
    | some i => if loopEndsShort (bundleLen h) i then none else some (some i)
    | none => none

/-- The operations of the present positions; the first that does not decode gives its position. -/
def decodeSlots (h : Nat) (ws : List Nat) : List Nat → Except Nat (List Slot)
  | [] => .ok []
  | p :: ps =>
    match decodeAt h ws p with
    | none => .error p
    | some o =>
      match decodeSlots h ws ps with
      | .error q => .error q
      | .ok l => .ok (match o with | none => l | some i => ⟨p, i⟩ :: l)

/-- A bundle from its words, header first: the checks of R96 steps 2 to 4 in their order. Position 15 is none. A path tag of 7 and a
short field of a long form that is not zero are found in step 4 (DESIGN CHOICE, log entry 50). -/
def decodeBundle (ws : List Nat) : Except (DecodeFate × Nat) Bundle :=
  match ws with
  | [] => .error (.illop, 15)
  | h :: rest =>
    if !headerOk h then .error (.illop, 15)
    else
      match positions.find? fun p => templateDefect h p || (maskHas h p && bndDefect h rest p) with
      | some p => .error (.illbnd, p)
      | none =>
        match decodeSlots h rest (present h) with
        | .error p => .error (.illop, p)
        | .ok l => .ok ⟨h / 2 ^ 31 % 2 == 1, bundleLen h, l⟩

/-- The class, the slot word and the surrendered word of an operation; none for a row without an encoding. -/
def slotWord : Instr → Option (Cls × Nat × Option (BitVec 32))
  | .nop _ => none
  | .add d a b p => some (.x, 67108864 + d.val * 1048576 + a.val * 16384 + b.val * 256 + p.val, none)
  | .sub d a b p => some (.x, 67108872 + d.val * 1048576 + a.val * 16384 + b.val * 256 + p.val, none)
  | .and d a b p => some (.x, 67108880 + d.val * 1048576 + a.val * 16384 + b.val * 256 + p.val, none)
  | .or d a b p => some (.x, 67108888 + d.val * 1048576 + a.val * 16384 + b.val * 256 + p.val, none)
  | .xor d a b p => some (.x, 67108896 + d.val * 1048576 + a.val * 16384 + b.val * 256 + p.val, none)
  | .andn d a b p => some (.x, 67108904 + d.val * 1048576 + a.val * 16384 + b.val * 256 + p.val, none)
  | .shl d a b p => some (.x, 67108912 + d.val * 1048576 + a.val * 16384 + b.val * 256 + p.val, none)
  | .shr d a b p => some (.x, 67108920 + d.val * 1048576 + a.val * 16384 + b.val * 256 + p.val, none)
  | .sra d a b p => some (.x, 67108928 + d.val * 1048576 + a.val * 16384 + b.val * 256 + p.val, none)
  | .rol d a b p => some (.x, 67108936 + d.val * 1048576 + a.val * 16384 + b.val * 256 + p.val, none)
  | .min d a b p => some (.x, 67108944 + d.val * 1048576 + a.val * 16384 + b.val * 256 + p.val, none)
  | .max d a b p => some (.x, 67108952 + d.val * 1048576 + a.val * 16384 + b.val * 256 + p.val, none)
  | .minn d a b p => some (.x, 67108960 + d.val * 1048576 + a.val * 16384 + b.val * 256 + p.val, none)
  | .maxn d a b p => some (.x, 67108968 + d.val * 1048576 + a.val * 16384 + b.val * 256 + p.val, none)
  | .addw d a b p => some (.x, 67108976 + d.val * 1048576 + a.val * 16384 + b.val * 256 + p.val, none)
  | .subw d a b p => some (.x, 67108984 + d.val * 1048576 + a.val * 16384 + b.val * 256 + p.val, none)
  | .clz d a p => some (.x, 67108992 + d.val * 1048576 + a.val * 16384 + p.val, none)
  | .ctz d a p => some (.x, 67109000 + d.val * 1048576 + a.val * 16384 + p.val, none)
  | .popc d a p => some (.x, 67109008 + d.val * 1048576 + a.val * 16384 + p.val, none)
  | .bswap d a p => some (.x, 67109016 + d.val * 1048576 + a.val * 16384 + p.val, none)
  | .mul d a b p => some (.x, 67109024 + d.val * 1048576 + a.val * 16384 + b.val * 256 + p.val, none)
  | .mulh d a b p => some (.x, 67109032 + d.val * 1048576 + a.val * 16384 + b.val * 256 + p.val, none)
  | .mulhn d a b p => some (.x, 67109040 + d.val * 1048576 + a.val * 16384 + b.val * 256 + p.val, none)
  | .addi d a i p => some (.x, 134217728 + d.val * 1048576 + a.val * 16384 + i.toNat * 8 + p.val, none)
  | .andi d a i p => some (.x, 201326592 + d.val * 1048576 + a.val * 16384 + i.toNat * 8 + p.val, none)
  | .ori d a i p => some (.x, 268435456 + d.val * 1048576 + a.val * 16384 + i.toNat * 8 + p.val, none)
  | .xori d a i p => some (.x, 335544320 + d.val * 1048576 + a.val * 16384 + i.toNat * 8 + p.val, none)
  | .shli d a n p => some (.x, 402653184 + d.val * 1048576 + a.val * 16384 + n.val * 8 + p.val, none)
  | .shri d a n p => some (.x, 402657280 + d.val * 1048576 + a.val * 16384 + n.val * 8 + p.val, none)
  | .srai d a n p => some (.x, 402661376 + d.val * 1048576 + a.val * 16384 + n.val * 8 + p.val, none)
  | .roli d a n p => some (.x, 402665472 + d.val * 1048576 + a.val * 16384 + n.val * 8 + p.val, none)
  | .ldi d i p => some (.x, 469762048 + d.val * 1048576 + i.toNat * 8 + p.val, none)
  | .cmp d a b c p => some (.x, 603979776 + d.val * 524288 + a.val * 8192 + b.val * 128 + c.val * 16 + p.val, none)
  | .cmpAnd d a b c p => some (.x, 603979784 + d.val * 524288 + a.val * 8192 + b.val * 128 + c.val * 16 + p.val, none)
  | .cmpi d a c i p => some (.x, 671088640 + d.val * 524288 + a.val * 8192 + c.val * 1024 + i.toNat * 8 + p.val, none)
  | .pand d a b p => some (.x, 738197504 + d.val * 524288 + a.val * 4096 + b.val * 32 + p.val, none)
  | .por d a b p => some (.x, 738197512 + d.val * 524288 + a.val * 4096 + b.val * 32 + p.val, none)
  | .pxor d a b p => some (.x, 738197520 + d.val * 524288 + a.val * 4096 + b.val * 32 + p.val, none)
  | .pandn d a b p => some (.x, 738197528 + d.val * 524288 + a.val * 4096 + b.val * 32 + p.val, none)
  | .pnot d a p => some (.x, 805306368 + d.val * 524288 + a.val * 4096 + p.val, none)
  | .pset d p => some (.x, 805306376 + d.val * 524288 + p.val, none)
  | .pclr d p => some (.x, 805306384 + d.val * 524288 + p.val, none)
  | .pfirst d a p => some (.x, 805306392 + d.val * 524288 + a.val * 4096 + p.val, none)
  | .pfroms d a b p => some (.x, 872415232 + d.val * 524288 + a.val * 8192 + b.val * 128 + p.val, none)
  | .pcount d a p => some (.x, 939524096 + d.val * 524288 + a.val * 4096 + p.val, none)
  | .sels d a b g p => some (.x, 1006632960 + d.val * 1048576 + a.val * 16384 + b.val * 256 + g.val * 8 + p.val, none)
  | .mfs d n p => some (.x, 1073741824 + d.val * 1048576 + n.val * 8 + p.val, none)
  | .mts a n p => some (.x, 1140850688 + a.val * 16384 + n.val * 8 + p.val, none)
  | .loop a e p => some (.x, 1207959552 + a.val * 16384 + e.val * 8 + p.val, none)
  | .loopi e c p => some (.x, 1275068416 + e.val * 16384 + c.val * 8 + p.val, none)
  | .brklp p => some (.x, 1342177280 + p.val, none)
  | .waitc a n p => some (.x, 1409286144 + a.val * 16384 + n.val * 8 + p.val, none)
  | .trap c p => some (.x, 1476395008 + c.toNat * 256 + p.val, none)
  | .rft p => some (.x, 1476395016 + p.val, none)
  | .yield p => some (.x, 1476395024 + p.val, none)
  | .tend p => some (.x, 1476395032 + p.val, none)
  | .fencel p => some (.x, 1476395040 + p.val, none)
  | .fenceh s p => some (.x, 1476395048 + s.val * 1048576 + p.val, none)
  | .svc c p => some (.x, 1476395056 + c.toNat * 256 + p.val, none)
  | .svcNop p => some (.x, 1476395056 + p.val, none)
  | .svcLog p => some (.x, 1476395312 + p.val, none)
  | .svcProbe p => some (.x, 1476395568 + p.val, none)
  | .svcTouch p => some (.x, 1476395824 + p.val, none)
  | .bt c o => some (.b, 0 + c.val * 4194304 + o.toNat, none)
  | .bf c o => some (.b, 536870912 + c.val * 4194304 + o.toNat, none)
  | .bany c o => some (.b, 1073741824 + c.val * 4194304 + o.toNat, none)
  | .ball c o => some (.b, 1610612736 + c.val * 4194304 + o.toNat, none)
  | .j o => some (.b, 2147483648 + o.toNat, none)
  | .call o => some (.b, 2684354560 + o.toNat, none)
  | .chk c o => some (.b, 3221225472 + c.val * 4194304 + o.toNat, none)
  | .jr l k => some (.b, 3758096384 + l.val * 268435456 + k.val * 4194304, none)
  | .ldb d a o p => some (.m, 67108864 + d.val * 1048576 + a.val * 16384 + o.toNat * 8 + p.val, none)
  | .ldbn d a o p => some (.m, 134217728 + d.val * 1048576 + a.val * 16384 + o.toNat * 8 + p.val, none)
  | .ldh d a o p => some (.m, 201326592 + d.val * 1048576 + a.val * 16384 + o.toNat * 8 + p.val, none)
  | .ldhn d a o p => some (.m, 268435456 + d.val * 1048576 + a.val * 16384 + o.toNat * 8 + p.val, none)
  | .ldw d a o p => some (.m, 335544320 + d.val * 1048576 + a.val * 16384 + o.toNat * 8 + p.val, none)
  | .ldwn d a o p => some (.m, 402653184 + d.val * 1048576 + a.val * 16384 + o.toNat * 8 + p.val, none)
  | .ldd d a o p => some (.m, 469762048 + d.val * 1048576 + a.val * 16384 + o.toNat * 8 + p.val, none)
  | .stb d a o p => some (.m, 536870912 + d.val * 1048576 + a.val * 16384 + o.toNat * 8 + p.val, none)
  | .sth d a o p => some (.m, 603979776 + d.val * 1048576 + a.val * 16384 + o.toNat * 8 + p.val, none)
  | .stw d a o p => some (.m, 671088640 + d.val * 1048576 + a.val * 16384 + o.toNat * 8 + p.val, none)
  | .std d a o p => some (.m, 738197504 + d.val * 1048576 + a.val * 16384 + o.toNat * 8 + p.val, none)
  | .lds d a o p => some (.m, 805306368 + d.val * 1048576 + a.val * 16384 + o.toNat * 8 + p.val, none)
  | .vld d a o p => some (.m, 872415232 + d.val * 1048576 + a.val * 16384 + o.toNat * 8 + p.val, none)
  | .vst d a o p => some (.m, 939524096 + d.val * 1048576 + a.val * 16384 + o.toNat * 8 + p.val, none)
  | .vlds d a o p => some (.m, 1006632960 + d.val * 1048576 + a.val * 16384 + o.toNat * 8 + p.val, none)
  | .vldb d b x o p => some (.m, 1073741824 + d.val * 1048576 + b.val * 32768 + x.val * 512 + o.val * 8 + p.val, none)
  | .vstb d b x o p => some (.m, 1140850688 + d.val * 1048576 + b.val * 32768 + x.val * 512 + o.val * 8 + p.val, none)
  | .vgath d a b g w p => some (.m, 1207959552 + d.val * 1048576 + a.val * 16384 + b.val * 256 + g.val * 32 + w.val * 8 + p.val, none)
  | .vscat d a b g w p => some (.m, 1275068416 + d.val * 1048576 + a.val * 16384 + b.val * 256 + g.val * 32 + w.val * 8 + p.val, none)
  | .ldfe d a o p => some (.m, 1342177280 + d.val * 1048576 + a.val * 16384 + o.toNat * 8 + p.val, none)
  | .ldfec d a o p => some (.m, 1409286144 + d.val * 1048576 + a.val * 16384 + o.toNat * 8 + p.val, none)
  | .vldfe d a o p => some (.m, 1476395008 + d.val * 1048576 + a.val * 16384 + o.toNat * 8 + p.val, none)
  | .vldfec d a o p => some (.m, 1543503872 + d.val * 1048576 + a.val * 16384 + o.toNat * 8 + p.val, none)
  | .stf d a o p => some (.m, 1610612736 + d.val * 1048576 + a.val * 16384 + o.toNat * 8 + p.val, none)
  | .vstf d a o p => some (.m, 1677721600 + d.val * 1048576 + a.val * 16384 + o.toNat * 8 + p.val, none)
  | .ldacq d a s z p => some (.m, 1744830464 + d.val * 1048576 + a.val * 16384 + s.val * 32 + z.val * 8 + p.val, none)
  | .strel d a s z p => some (.m, 1811939328 + d.val * 1048576 + a.val * 16384 + s.val * 32 + z.val * 8 + p.val, none)
  | .atomAdd d a b r p => some (.m, 1879048192 + d.val * 1048576 + a.val * 16384 + b.val * 256 + r.val * 8 + p.val, none)
  | .atomMin d a b r p => some (.m, 1879048208 + d.val * 1048576 + a.val * 16384 + b.val * 256 + r.val * 8 + p.val, none)
  | .atomMax d a b r p => some (.m, 1879048224 + d.val * 1048576 + a.val * 16384 + b.val * 256 + r.val * 8 + p.val, none)
  | .atomMinn d a b r p => some (.m, 1879048240 + d.val * 1048576 + a.val * 16384 + b.val * 256 + r.val * 8 + p.val, none)
  | .atomMaxn d a b r p => some (.m, 1879048256 + d.val * 1048576 + a.val * 16384 + b.val * 256 + r.val * 8 + p.val, none)
  | .atomAnd d a b r p => some (.m, 1879048272 + d.val * 1048576 + a.val * 16384 + b.val * 256 + r.val * 8 + p.val, none)
  | .atomOr d a b r p => some (.m, 1879048288 + d.val * 1048576 + a.val * 16384 + b.val * 256 + r.val * 8 + p.val, none)
  | .atomXor d a b r p => some (.m, 1879048304 + d.val * 1048576 + a.val * 16384 + b.val * 256 + r.val * 8 + p.val, none)
  | .atomSwap d a b r p => some (.m, 1879048320 + d.val * 1048576 + a.val * 16384 + b.val * 256 + r.val * 8 + p.val, none)
  | .cas d a b r p => some (.m, 1946157056 + d.val * 1048576 + a.val * 16384 + b.val * 256 + r.val * 8 + p.val, none)
  | .vatomAdd d a b r p => some (.m, 2013265920 + d.val * 1048576 + a.val * 16384 + b.val * 256 + r.val * 8 + p.val, none)
  | .vatomAnd d a b r p => some (.m, 2013265936 + d.val * 1048576 + a.val * 16384 + b.val * 256 + r.val * 8 + p.val, none)
  | .vatomOr d a b r p => some (.m, 2013265952 + d.val * 1048576 + a.val * 16384 + b.val * 256 + r.val * 8 + p.val, none)
  | .vatomMax d a b r p => some (.m, 2013265968 + d.val * 1048576 + a.val * 16384 + b.val * 256 + r.val * 8 + p.val, none)
  | .rkopen d a p => some (.m, 2080374784 + d.val * 1048576 + a.val * 16384 + p.val, none)
  | .rkpub a p => some (.m, 2147483648 + a.val * 16384 + p.val, none)
  | .rktake d a p => some (.m, 2214592512 + d.val * 1048576 + a.val * 16384 + p.val, none)
  | .rkdrop a p => some (.m, 2281701376 + a.val * 16384 + p.val, none)
  | .binit d a b p => some (.m, 2348810240 + d.val * 1048576 + a.val * 16384 + b.val * 256 + p.val, none)
  | .barv a p => some (.m, 2415919104 + a.val * 16384 + p.val, none)
  | .bwait d a p => some (.m, 2483027968 + d.val * 1048576 + a.val * 16384 + p.val, none)
  | .pref a o p => some (.m, 2550136832 + a.val * 16384 + o.toNat * 8 + p.val, none)
  | .vadd d a b t g p => some (.v, 67108864 + d.val * 1048576 + a.val * 16384 + b.val * 256 + t.val * 64 + g.val * 8 + p.val, none)
  | .vsub d a b t g p => some (.v, 134217728 + d.val * 1048576 + a.val * 16384 + b.val * 256 + t.val * 64 + g.val * 8 + p.val, none)
  | .vmul d a b t g p => some (.v, 201326592 + d.val * 1048576 + a.val * 16384 + b.val * 256 + t.val * 64 + g.val * 8 + p.val, none)
  | .vfma d a b t g p => some (.v, 268435456 + d.val * 1048576 + a.val * 16384 + b.val * 256 + t.val * 64 + g.val * 8 + p.val, none)
  | .vfms d a b t g p => some (.v, 335544320 + d.val * 1048576 + a.val * 16384 + b.val * 256 + t.val * 64 + g.val * 8 + p.val, none)
  | .vfnma d a b t g p => some (.v, 402653184 + d.val * 1048576 + a.val * 16384 + b.val * 256 + t.val * 64 + g.val * 8 + p.val, none)
  | .vmin d a b t g p => some (.v, 469762048 + d.val * 1048576 + a.val * 16384 + b.val * 256 + t.val * 64 + g.val * 8 + p.val, none)
  | .vmax d a b t g p => some (.v, 536870912 + d.val * 1048576 + a.val * 16384 + b.val * 256 + t.val * 64 + g.val * 8 + p.val, none)
  | .vabs d a t g p => some (.v, 603979776 + d.val * 1048576 + a.val * 16384 + t.val * 64 + g.val * 8 + p.val, none)
  | .vneg d a t g p => some (.v, 671088640 + d.val * 1048576 + a.val * 16384 + t.val * 64 + g.val * 8 + p.val, none)
  | .vcmp d a b t c p => some (.v, 738197504 + d.val * 524288 + a.val * 8192 + b.val * 128 + t.val * 32 + c.val * 8 + p.val, none)
  | .vand d a b t g p => some (.v, 805306368 + d.val * 1048576 + a.val * 16384 + b.val * 256 + t.val * 64 + g.val * 8 + p.val, none)
  | .vor d a b t g p => some (.v, 872415232 + d.val * 1048576 + a.val * 16384 + b.val * 256 + t.val * 64 + g.val * 8 + p.val, none)
  | .vxor d a b t g p => some (.v, 939524096 + d.val * 1048576 + a.val * 16384 + b.val * 256 + t.val * 64 + g.val * 8 + p.val, none)
  | .vshl d a b t g p => some (.v, 1006632960 + d.val * 1048576 + a.val * 16384 + b.val * 256 + t.val * 64 + g.val * 8 + p.val, none)
  | .vshr d a b t g p => some (.v, 1073741824 + d.val * 1048576 + a.val * 16384 + b.val * 256 + t.val * 64 + g.val * 8 + p.val, none)
  | .vsra d a b t g p => some (.v, 1140850688 + d.val * 1048576 + a.val * 16384 + b.val * 256 + t.val * 64 + g.val * 8 + p.val, none)
  | .vsel d a b t g p => some (.v, 1207959552 + d.val * 1048576 + a.val * 16384 + b.val * 256 + t.val * 64 + g.val * 8 + p.val, none)
  | .vadds d a s t g p => some (.v, 1275068416 + d.val * 1048576 + a.val * 16384 + s.val * 256 + t.val * 64 + g.val * 8 + p.val, none)
  | .vmuls d a s t g p => some (.v, 1342177280 + d.val * 1048576 + a.val * 16384 + s.val * 256 + t.val * 64 + g.val * 8 + p.val, none)
  | .vfmas d a s t g p => some (.v, 1409286144 + d.val * 1048576 + a.val * 16384 + s.val * 256 + t.val * 64 + g.val * 8 + p.val, none)
  | .vbcast d s t g p => some (.v, 1476395008 + d.val * 1048576 + s.val * 256 + t.val * 64 + g.val * 8 + p.val, none)
  | .vext d a b t p => some (.v, 1543503872 + d.val * 1048576 + a.val * 16384 + b.val * 256 + t.val * 64 + p.val, none)
  | .vins d a b t p => some (.v, 1610612736 + d.val * 1048576 + a.val * 16384 + b.val * 256 + t.val * 64 + p.val, none)
  | .vperm d a b t g p => some (.v, 1677721600 + d.val * 1048576 + a.val * 16384 + b.val * 256 + t.val * 64 + g.val * 8 + p.val, none)
  | .vslide d a s t g p => some (.v, 1744830464 + d.val * 1048576 + a.val * 16384 + s.val * 256 + t.val * 64 + g.val * 8 + p.val, none)
  | .viota d t g p => some (.v, 1811939328 + d.val * 1048576 + t.val * 64 + g.val * 8 + p.val, none)
  | .vcvt d a s t g p => some (.v, 1879048192 + d.val * 1048576 + a.val * 16384 + s.val * 256 + t.val * 64 + g.val * 8 + p.val, none)
  | .kunp d a f r t p => some (.k, 67108864 + d.val * 1048576 + a.val * 16384 + f.val * 2048 + r.val * 512 + t.val * 128 + p.val, none)
  | .kunpq d a r t c p => some (.k, 134223872 + d.val * 1048576 + a.val * 16384 + r.val * 512 + t.val * 128 + c.val * 8 + p.val, none)
  | .klds d a o p => some (.k, 201326592 + d.val * 1048576 + a.val * 16384 + o.toNat * 8 + p.val, none)
  | .kldss d a o p => some (.k, 268435456 + d.val * 1048576 + a.val * 16384 + o.toNat * 8 + p.val, none)
  | .qpk d a f r t n u p => some (.q, 67108864 + d.val * 1048576 + a.val * 16384 + f.val * 2048 + r.val * 512 + t.val * 128 + n.val * 32 + u.val * 8 + p.val, none)
  | .qpkq d a r t c p => some (.q, 134223872 + d.val * 1048576 + a.val * 16384 + r.val * 512 + t.val * 128 + c.val * 8 + p.val, none)
  | .qamax d a r t c p => some (.q, 201332736 + d.val * 1048576 + a.val * 16384 + r.val * 512 + t.val * 128 + c.val * 8 + p.val, none)
  | .qsts d a o p => some (.q, 268435456 + d.val * 1048576 + a.val * 16384 + o.toNat * 8 + p.val, none)
  | .frcp d a t g p => some (.f, 67108864 + d.val * 1048576 + a.val * 16384 + t.val * 64 + g.val * 8 + p.val, none)
  | .frsq d a t g p => some (.f, 134217728 + d.val * 1048576 + a.val * 16384 + t.val * 64 + g.val * 8 + p.val, none)
  | .fsqrt d a t g p => some (.f, 201326592 + d.val * 1048576 + a.val * 16384 + t.val * 64 + g.val * 8 + p.val, none)
  | .fexp2 d a t g p => some (.f, 268435456 + d.val * 1048576 + a.val * 16384 + t.val * 64 + g.val * 8 + p.val, none)
  | .flog2 d a t g p => some (.f, 335544320 + d.val * 1048576 + a.val * 16384 + t.val * 64 + g.val * 8 + p.val, none)
  | .fsin d a t g p => some (.f, 402653184 + d.val * 1048576 + a.val * 16384 + t.val * 64 + g.val * 8 + p.val, none)
  | .fcos d a t g p => some (.f, 469762048 + d.val * 1048576 + a.val * 16384 + t.val * 64 + g.val * 8 + p.val, none)
  | .ftanh d a t g p => some (.f, 536870912 + d.val * 1048576 + a.val * 16384 + t.val * 64 + g.val * 8 + p.val, none)
  | .fsum d a t g p => some (.f, 603979776 + d.val * 1048576 + a.val * 16384 + t.val * 64 + g.val * 8 + p.val, none)
  | .fmaxr d a t g p => some (.f, 671088640 + d.val * 1048576 + a.val * 16384 + t.val * 64 + g.val * 8 + p.val, none)
  | .fminr d a t g p => some (.f, 738197504 + d.val * 1048576 + a.val * 16384 + t.val * 64 + g.val * 8 + p.val, none)
  | .fscan d a t g p => some (.f, 805306368 + d.val * 1048576 + a.val * 16384 + t.val * 64 + g.val * 8 + p.val, none)
  | .ewr e a f p => some (.t, 67108864 + e.val * 4194304 + a.val * 65536 + f.val * 8 + p.val, none)
  | .erd e d f p => some (.t, 134217728 + e.val * 4194304 + d.val * 1024 + f.val * 8 + p.val, none)
  | .copy e a b c p => some (.t, 201326592 + e.val * 4194304 + a.val * 65536 + b.val * 1024 + c.val * 16 + p.val, none)
  | .copyRack e a b c p => some (.t, 201326600 + e.val * 4194304 + a.val * 65536 + b.val * 1024 + c.val * 16 + p.val, none)
  | .bindIn e a n p => some (.t, 268435456 + e.val * 4194304 + a.val * 65536 + n.val * 8 + p.val, none)
  | .bindOut e a n p => some (.t, 268435520 + e.val * 4194304 + a.val * 65536 + n.val * 8 + p.val, none)
  | .unbind n p => some (.t, 335544320 + n.val * 8 + p.val, none)
  | .mma e a b t w p => some (.t, 402653184 + e.val * 4194304 + a.val * 65536 + b.val * 1024 + t.val * 64 + w.val * 8 + p.val, none)
  | .mmas e a b t x p => some (.t, 469762048 + e.val * 4194304 + a.val * 65536 + b.val * 1024 + t.val * 64 + x.val * 8 + p.val, none)
  | .mzero t p => some (.t, 536870912 + t.val * 64 + p.val, none)
  | .mld e a t p => some (.t, 603979776 + e.val * 4194304 + a.val * 65536 + t.val * 64 + p.val, none)
  | .mst e a b t p => some (.t, 671088640 + e.val * 4194304 + a.val * 65536 + b.val * 1024 + t.val * 64 + p.val, none)
  | .mstRack e a b t p => some (.t, 671088672 + e.val * 4194304 + a.val * 65536 + b.val * 1024 + t.val * 64 + p.val, none)
  | .mpri q p => some (.t, 805306368 + q.val * 8 + p.val, none)
  | .spawn e a b q p => some (.t, 872415232 + e.val * 4194304 + a.val * 65536 + b.val * 1024 + q.val * 8 + p.val, none)
  | .tset a c p => some (.t, 939524096 + a.val * 65536 + c.val * 16 + p.val, none)
  | .tdec a b c p => some (.t, 1006632960 + a.val * 65536 + b.val * 1024 + c.val * 16 + p.val, none)
  | .twait c p => some (.t, 1073741824 + c.val * 16 + p.val, none)
  | .gsend e a p => some (.t, 1140850688 + e.val * 4194304 + a.val * 65536 + p.val, none)
  | .ready a b p => some (.t, 1207959552 + a.val * 65536 + b.val * 1024 + p.val, none)
  | .unready a p => some (.t, 1275068416 + a.val * 65536 + p.val, none)
  | .asend e a b p => some (.t, 1342177280 + e.val * 4194304 + a.val * 65536 + b.val * 1024 + p.val, none)
  | .peel a b c p => some (.t, 1409286144 + a.val * 65536 + b.val * 1024 + c.val * 16 + p.val, none)
  | .addiLong d a p imm => some (.x, 134217728 + d.val * 1048576 + a.val * 16384 + p.val, some imm)
  | .andiLong d a p imm => some (.x, 201326592 + d.val * 1048576 + a.val * 16384 + p.val, some imm)
  | .oriLong d a p imm => some (.x, 268435456 + d.val * 1048576 + a.val * 16384 + p.val, some imm)
  | .xoriLong d a p imm => some (.x, 335544320 + d.val * 1048576 + a.val * 16384 + p.val, some imm)
  | .ldiLong d p imm => some (.x, 469762048 + d.val * 1048576 + p.val, some imm)
  | .ldhi d a p imm => some (.x, 536870912 + d.val * 1048576 + a.val * 16384 + p.val, some imm)
  | .cmpiLong d a c p imm => some (.x, 671088640 + d.val * 524288 + a.val * 8192 + c.val * 1024 + p.val, some imm)
  | .loopiLong e p imm => some (.x, 1275068416 + e.val * 16384 + p.val, some imm)
  | .ldbLong d a p imm => some (.m, 67108864 + d.val * 1048576 + a.val * 16384 + p.val, some imm)
  | .ldbnLong d a p imm => some (.m, 134217728 + d.val * 1048576 + a.val * 16384 + p.val, some imm)
  | .ldhLong d a p imm => some (.m, 201326592 + d.val * 1048576 + a.val * 16384 + p.val, some imm)
  | .ldhnLong d a p imm => some (.m, 268435456 + d.val * 1048576 + a.val * 16384 + p.val, some imm)
  | .ldwLong d a p imm => some (.m, 335544320 + d.val * 1048576 + a.val * 16384 + p.val, some imm)
  | .ldwnLong d a p imm => some (.m, 402653184 + d.val * 1048576 + a.val * 16384 + p.val, some imm)
  | .lddLong d a p imm => some (.m, 469762048 + d.val * 1048576 + a.val * 16384 + p.val, some imm)
  | .stbLong d a p imm => some (.m, 536870912 + d.val * 1048576 + a.val * 16384 + p.val, some imm)
  | .sthLong d a p imm => some (.m, 603979776 + d.val * 1048576 + a.val * 16384 + p.val, some imm)
  | .stwLong d a p imm => some (.m, 671088640 + d.val * 1048576 + a.val * 16384 + p.val, some imm)
  | .stdLong d a p imm => some (.m, 738197504 + d.val * 1048576 + a.val * 16384 + p.val, some imm)
  | .ldsLong d a p imm => some (.m, 805306368 + d.val * 1048576 + a.val * 16384 + p.val, some imm)
  | .vldLong d a p imm => some (.m, 872415232 + d.val * 1048576 + a.val * 16384 + p.val, some imm)
  | .vstLong d a p imm => some (.m, 939524096 + d.val * 1048576 + a.val * 16384 + p.val, some imm)
  | .vldsLong d a p imm => some (.m, 1006632960 + d.val * 1048576 + a.val * 16384 + p.val, some imm)
  | .ldfeLong d a p imm => some (.m, 1342177280 + d.val * 1048576 + a.val * 16384 + p.val, some imm)
  | .ldfecLong d a p imm => some (.m, 1409286144 + d.val * 1048576 + a.val * 16384 + p.val, some imm)
  | .vldfeLong d a p imm => some (.m, 1476395008 + d.val * 1048576 + a.val * 16384 + p.val, some imm)
  | .vldfecLong d a p imm => some (.m, 1543503872 + d.val * 1048576 + a.val * 16384 + p.val, some imm)
  | .stfLong d a p imm => some (.m, 1610612736 + d.val * 1048576 + a.val * 16384 + p.val, some imm)
  | .vstfLong d a p imm => some (.m, 1677721600 + d.val * 1048576 + a.val * 16384 + p.val, some imm)
  | .prefLong a p imm => some (.m, 2550136832 + a.val * 16384 + p.val, some imm)
  | .vaddsLong d a t g p imm => some (.v, 1275068416 + d.val * 1048576 + a.val * 16384 + t.val * 64 + g.val * 8 + p.val, some imm)
  | .vmulsLong d a t g p imm => some (.v, 1342177280 + d.val * 1048576 + a.val * 16384 + t.val * 64 + g.val * 8 + p.val, some imm)
  | .vfmasLong d a t g p imm => some (.v, 1409286144 + d.val * 1048576 + a.val * 16384 + t.val * 64 + g.val * 8 + p.val, some imm)
  | .vbcastLong d t g p imm => some (.v, 1476395008 + d.val * 1048576 + t.val * 64 + g.val * 8 + p.val, some imm)
  | .mproof a t p imm => some (.t, 738197504 + a.val * 65536 + t.val * 64 + p.val, some imm)
  | .queueNotification _ => none
  | .pin _ => none
  | .unpin _ => none
  | .configWrite _ => none
  | .loadImage _ _ => none
  | .createJob _ _ => none
  | .start _ _ => none
  | .signal _ _ => none
  | .preempt _ _ => none
  | .resume _ _ => none
  | .kill _ _ => none
  | .copyIn _ _ => none
  | .copyOut _ _ => none
  | .hostCopyComplete _ => none
  | .setTolerance _ _ => none
  | .queryPart _ _ => none
  | .queryJob _ _ => none
  | .queryBinding _ _ => none
  | .queryClusterMap _ _ => none
  | .queryAttestation _ _ => none
  | .queryCertChain _ _ => none
  | .queryErrorLog _ _ => none
  | .peelRequest _ _ => none
  | .inboundPostedWrite _ _ _ _ => none
  | .inboundPacketRelease _ => none
  | .inboundPacketAck _ => none
  | .inboundRead _ _ _ _ => none
  | .deviceReset => none
  | .bootComplete _ => none
  | .poolTransactionTimeout _ _ => none
  | .writeAck _ => none
  | .wallBusRealignment _ _ => none
  | .realignmentDeferralEnd _ _ => none
  | .realignmentPauseEnd _ _ => none
  | .flitArrival _ _ _ => none
  | .linkRetrain _ => none
  | .linkRetrainEnd _ => none
  | .coltempRefresh _ _ _ => none
  | .instructionFetchComplete _ => none
  | .exposedResultLand _ => none
  | .longResultLand _ => none
  | .contextSelect _ => none
  | .waitcEnd _ => none
  | .contextIdle _ => none
  | .gatherBufferFlush _ => none
  | .fencehComplete _ => none
  | .remoteAccessPerform _ => none
  | .translationWalkComplete _ => none
  | .routeStaleResend _ => none
  | .fullEmptyRequestArrival _ => none
  | .copyElementFault _ _ => none
  | .copyElementReplay _ _ => none
  | .copyComplete _ => none
  | .copyFailure _ => none
  | .copyByteReport _ _ => none
  | .streamReadAhead _ _ => none
  | .streamDrainWrite _ _ => none
  | .matrixCommandStart _ => none
  | .matrixBoundary _ => none
  | .matrixCommandComplete _ => none
  | .mstComplete _ => none
  | .matrixFetchFault _ => none
  | .matrixPriorityAgeing _ _ => none
  | .handoverStopAndHold _ => none
  | .handoverQueueDrain _ => none
  | .handoverWriteback _ => none
  | .handoverTlbInvalidate _ => none
  | .handoverOwnerFlip _ => none
  | .handoverHeldRequests _ => none
  | .handoverComplete _ => none
  | .barrierArrival _ => none
  | .barvPhaseReturn _ => none
  | .counterDecrement _ => none
  | .taskStart _ => none
  | .taskPriorityAgeing _ _ => none
  | .launchArrival _ => none
  | .asendRemoteArrival _ => none
  | .readinessUpdate _ => none
  | .groupMessageSteer _ => none
  | .memberCoreDelivery _ => none
  | .groupBounce _ => none
  | .refreshAnswer _ => none
  | .parkRelease _ _ => none
  | .groupMessageAck _ => none
  | .eventEntry _ => none
  | .trapEntry _ => none
  | .lateFaultDelivery _ => none
  | .timerExpiry _ => none
  | .serviceContextEntry _ => none
  | .serviceContextReturn _ => none
  | .serviceDeadline _ => none
  | .preemptStopTimeout _ => none
  | .preemptImageWrite _ => none
  | .killGraceExpiry _ => none
  | .jobEnd _ => none
  | .scrubPass _ => none
  | .serviceStoreReload _ => none
  | .mgmtDataError _ => none
  | .powerStateEntry _ => none
  | .powerStateWake _ => none
  | .layerEmergencyOff _ _ => none
  | .rackControllerOperation _ => none
  | .barrierUnitRequest _ => none
  | .mstTileRead _ => none
  | .serviceStoreReloadDone _ => none
  | .cxlPortTraining _ => none
  | .launchAcknowledgement _ => none

/-- The position an operation of a class takes when it stands alone, and its header's MASK and L bits. -/
def soloHeader (c : Cls) (long : Bool) : Nat :=
  match c, long with
  | .x, false => 2 ^ 30
  | .x, true => 2 ^ 30 + 2 ^ 29 + 2 ^ 16
  | .m, false => 2 ^ 28
  | .m, true => 2 ^ 28 + 2 ^ 27 + 2 ^ 15
  | .v, false => 2 ^ 26
  | .v, true => 2 ^ 26 + 2 ^ 25 + 2 ^ 14
  | .t, false => 2 ^ 21
  | .t, true => 2 ^ 22 + 2 ^ 21 + 2 ^ 13
  | .k, _ => 2 ^ 24
  | .q, _ => 2 ^ 23
  | .f, _ => 2 ^ 22
  | .b, _ => 2 ^ 20

/-- The words of a one-operation bundle that ends its issue group; no words for a row without an encoding. -/
def encode (i : Instr) : List (BitVec 32) :=
  match i with
  | .nop s => [BitVec.ofNat 32 (s.val * 2 ^ 31 + 0x5B)]
  | _ =>
    match slotWord i with
    | none => []
    | some (c, w, none) => [BitVec.ofNat 32 (2 ^ 31 + soloHeader c false + 0x5B), BitVec.ofNat 32 w]
    | some (.t, w, some imm) => [BitVec.ofNat 32 (2 ^ 31 + soloHeader .t true + 0x5B), imm, BitVec.ofNat 32 w]
    | some (c, w, some imm) => [BitVec.ofNat 32 (2 ^ 31 + soloHeader c true + 0x5B), BitVec.ofNat 32 w, imm]

/-- The classes in the order a lone table word is tried in (the word does not name its class: log entry 5). -/
def tableClasses : List Cls := [.x, .m, .v, .t, .k, .q, .f, .b]

/-- The class and operation of a lone table word: a NOP header first, then the first class that decodes it. -/
def tableSlot (w : Nat) : Option (Cls × Instr) :=
  tableClasses.findSome? fun c => (decodeSlot c w none).map fun i => (c, i)

/-- The instruction the decoder reads from a table word of `nbits` bits. -/
def decodeTableWord (nbits w : Nat) : Option Instr :=
  let w := w % 2 ^ (if nbits ≤ 32 then nbits else 32)
  if w % 2 ^ 31 = 0x5B then some (.nop (Fin.ofNat 2 (w / 2 ^ 31)))
  else (tableSlot w).map (·.2)

/-- The words of a bundle that holds a lone table word, header first. -/
def tableBundle (nbits w : Nat) : List Nat :=
  let w := w % 2 ^ (if nbits ≤ 32 then nbits else 32)
  if w % 2 ^ 31 = 0x5B then [w]
  else
    match tableSlot w with
    | some (c, _) => [2 ^ 31 + soloHeader c false + 0x5B, w]
    | none => [w]

end Sys2Proof
end

