-- ==== Sys2Proof/Config.lean ====
section
/-! DEFINITION. What the part fixes at manufacture or in its flash, and the values the manual leaves open. None has a
body (the part's id is made from one that has none): nothing can be proved of its value, so a claim holds whatever it is (assumption log 2, 6, 7). -/

namespace Sys2Proof.Config

/-- A value the manual leaves open, fresh at every use: applied to State.free, which the use advances (log entry 2). -/
opaque freeValue : Nat → BitVec 2048

/-- The number of the spare column of each die, fused at manufacture (01 R9). -/
opaque spareColumn : Nat → Fin 25

/-- Where, within 2 units in the last place of the exact result, the F32 value of special function `f` (major opcode)
lies for the magnitude bits of an argument given as F32, with `t` the lane type: a fixed map of the part (09 R217; log
entry 7). Up to six values are so near; Special.nearCode numbers them. -/
opaque specialOffset (f t : Nat) : BitVec 32 → Fin 6

/-- The part's id on the Zyndel links, less one: ids are 1-4,095 (04 R81). -/
opaque partIndex : Fin 4095

/-- The part's id on the Zyndel links (04 R81). -/
def partId : BitVec 12 := BitVec.ofNat 12 (partIndex.val + 1)

/-- The links that the route table gives toward a destination part (04 R81, R83). -/
opaque routes : Nat → List (Fin 16)

/-- The part at the far end of a link, where the system configuration joins it to one (04 R81, R83). -/
opaque linkPart : Fin 16 → Option (BitVec 12)

/-- A link that the system configuration joins to another part. -/
def linkConfigured (l : Fin 16) : Bool := (linkPart l).isSome

/-- The layer that a unit which is no core counts as lying in (04 R72; log entry 45): the memory switch of die 0-3, the units of
cluster x − 4, or the I/O die (28). -/
opaque unitLayer : Nat → Fin 2

/-- The slice of a die cache that a line goes to: a hash of the line's physical address that software cannot observe (13 R279). -/
opaque sliceHash : Nat → Fin 8

/-- The stepping, less one: the first has revision ID 0x01 (01 R21). -/
opaque stepping : Fin 255

/-- The PCI revision ID, which identifies the stepping (01 R21). -/
def revision : BitVec 8 := BitVec.ofNat 8 (stepping.val + 1)

/-- The serial number, the security version and the three firmware digests of the attestation report (03 R70). -/
opaque serial : BitVec 128
opaque svn : BitVec 32
opaque digests : Vector (BitVec 512) 3

/-- The signature of an attestation report: a function of the bytes it covers (03 R70). -/
opaque signature : List (BitVec 8) → Vector (BitVec 8) 132

/-- The identity certificate chain (03 R69). -/
opaque certificates : List (BitVec 8)

/-- FEATURES[2]: attestation is available (03 R63). -/
opaque attestation : Bool

end Sys2Proof.Config
end

