-- ==== Sys2Proof/Machine/State.lean ====
section
/-! DEFINITION. The state of the part as plain data: everything the spec names (INVENTORY.md '## State' lists it with
its rule), the reasons a step can stop, and the state right after a device reset. -/

namespace Sys2Proof.Machine

/-- A sparse table: the entry of a key that is not listed is a default that the reader names. -/
abbrev Store (α : Type) := List (Nat × α)

/-! ## Names -/

/-- The trap causes (21 Table intr-4). -/
inductive Cause where
  | illop | illbnd | illdep | illbank | loopovf | loopunf
  | perm | page | align | sliceoff | bankrange | dfuse | stackown
  | rackid | groupid | parkfull | ue | proof | matrixbank | trap | event
  deriving DecidableEq, Repr

/-- The register files of a context and the core's tiles (06 Table issue-1, 21 Table intr-2). -/
inductive File where
  | scalar | vector | pred | scale | engine | special | tile
  deriving DecidableEq, Repr

/-- One item of Table issue-1; for an engine field landing, `ix` is 8 × register + field. -/
structure Item where
  file : File
  ix   : Nat
  deriving DecidableEq, Repr

/-- The handler epoch of an operation: the H in force at its issue, and the count of entries made until then (21 R382). -/
structure Epoch where
  handler : Bool
  entries : Nat
  deriving DecidableEq, Repr

/-- A fault found, with what attributes it (21 R382, 06 R111, R112). -/
structure FaultRec where
  cause     : Cause
  code      : BitVec 12
  addr      : Word
  bundle    : Word
  pos       : Nat
  late      : Bool
  epoch     : Epoch
  order     : Nat
  /-- the request of a long plain load: while its fault is not the one delivered, it stays a pending load (06 R112) -/
  load      : Option Nat
  deriving DecidableEq, Repr

/-! ## A request -/

/-- Where a request stands on its way (04 R73-R75, 14 R296, R298). -/
inductive ReqStatus where
  | gathered | walking | sent | held | performed | refused
  deriving DecidableEq, Repr

/-- A request of a context that is outstanding on the fabric (06 R120-R122), with the operands read at issue. -/
structure Req where
  id        : Nat
  ctx       : Nat
  op        : Instr
  addr      : Word
  arg1      : Word
  arg2      : Word
  vec1      : VWord
  vec2      : VWord
  guard     : BitVec 128
  args      : Vector Word 8
  prio      : Fin 4
  status    : ReqStatus
  /-- the pages of job space that it reaches, each with the die that its route bit sends it to (13 R281) -/
  ways      : List (Nat × Nat)
  /-- the pages whose part of it has been sent on: the response carries a route mark for them (20 R369) -/
  marks     : List Nat
  value     : VWord
  found     : Option (Cause × Word)
  /-- a plain load whose fault the context has found and that waits for the boundary (06 R112) -/
  faulted   : Bool
  bundle    : Word
  pos       : Nat
  epoch     : Epoch
  /-- the result is dropped when it arrives: the task has ended, or the destination is s0 at an entry -/
  discard   : Bool
  /-- outstanding at an entry: a result for s60-s63 or an arrival phase goes to the frame (21 R380, 15 R325) -/
  redirect  : Bool
  /-- its place in the order in which synchronising requests leave their cores (04 R74, R75); zero while its core holds it -/
  left      : Nat
  /-- the store at whose place in the gather buffer it stands, or itself (14 R298) -/
  line      : Nat
  /-- it enters the fabric only after every request of its context whose place in the order of issue lies below this (14 R303) -/
  after     : Nat
  /-- issued again, it enters the fabric only after every request of its context with a number below this: those that a FENCEL has put
  before what the context now issues (14 R303) -/
  again     : Nat
  /-- its place in the order of issue, which it keeps when RFT issues it again (06 R112) -/
  order     : Nat
  /-- the bundle that issued it: operations of one bundle share this number (00 R7) -/
  issue     : Nat
  deriving DecidableEq, Repr

/-- A prefetch of physical core `core` that has left its issue stage: the job and the address in it (10 R237). -/
structure Prefetch where
  core : Nat
  job  : Nat
  addr : Nat
  deriving DecidableEq, Repr

/-! ## A user context -/

/-- A scale register (09 R208). -/
structure Scale where
  bs : BitVec 1024
  ss : BitVec 32
  deriving DecidableEq, Repr

/-- A loop-stack entry (06 R134). -/
structure LoopEntry where
  count : Word
  start : Word
  stop  : Word
  deriving DecidableEq, Repr

/-- An exposed result in flight: it lands in context cycle `land` (06 R114). -/
structure Flight where
  dest  : Item
  value : VWord
  mask  : VWord
  df    : Bool
  flags : BitVec 6
  land  : Nat
  order : Nat
  deriving DecidableEq, Repr

/-- The binding of one of v56-v63 (10 R245-R249). -/
structure Stream where
  out     : Bool
  pattern : Vector Word 8
  base    : Word
  pos     : Nat
  queue   : List VWord
  /-- the fate that the read-ahead has met (10 R246) -/
  fault   : Option FaultRec
  /-- the header of the BIND bundle and the epoch it belongs to -/
  bundle  : Word
  epoch     : Epoch
  /-- its place in the order of issue -/
  order   : Nat
  deriving DecidableEq, Repr

/-- The states of a user context (06 Table issue-4); `ending` is a context after TEND and before IDLE (06 R145). -/
inductive CtxStatus where
  | idle | ready | running | waiting | serviced | ending
  deriving DecidableEq, Repr

/-- An arrival-phase record (15 R325): pending until the phase number returns. -/
structure Arrival where
  barrier : Nat
  phase   : Nat
  pending : Bool
  deriving DecidableEq, Repr

/-- A FENCEH in progress (14 R304): the requests it waits for, before (`points` false) and after the fence points of its
scope have been taken. -/
structure Fence where
  scope  : Nat
  points : Bool
  waits  : List Nat
  /-- elements of copies on their way to host memory or to another part, which a SYSTEM fence waits for (06 R146) -/
  writes : List (Nat × Nat)
  deriving DecidableEq, Repr

/-- What the hardware has raised in a context in one clock: event bits, and flags that came with no result of the context's
own cycles. An MTS that lands in the same clock clears none of them (07 R165). -/
structure Raised where
  clock  : Nat
  events : BitVec 4
  flags  : BitVec 6
  deriving DecidableEq, Repr

/-- The fault belongs to the code of a handler (21 R382, R384). -/
def FaultRec.inHandler (f : FaultRec) : Bool := f.epoch.handler

/-- A user context (07 R148, R164; 06 R123; 21 R372). -/
structure Ctx where
  s        : Vector Word 64
  sdf      : BitVec 64
  v        : Vector VWord 64
  vdf      : BitVec 64
  p        : Vector (BitVec 128) 96
  e        : Vector Word 128
  sc       : Vector Scale 16
  loops    : List LoopEntry
  pc       : Word
  ccyc     : Nat
  /-- CCYC as an MFS in the last bundle issued read it (22 R398) -/
  ccycLast : Nat
  fpstat   : BitVec 6
  tvec     : Word
  evec     : Word
  emask    : BitVec 4
  epend    : BitVec 4
  raised   : Raised
  tfbOff   : BitVec 8
  tcause   : BitVec 25
  taddr    : Word
  /-- the device time at which TIMER reaches zero; none while it is zero -/
  timerAt  : Option Nat
  h        : Bool
  en       : Bool
  /-- the entries made, which an epoch counts (21 R382) -/
  entries  : Nat
  status   : CtxStatus
  task     : Option Nat
  prio     : Fin 4
  mprio    : Fin 4
  /-- the matrix priority of the interrupted code, which RFT restores (11 R252) -/
  mprioSaved : Fin 4
  flights  : List Flight
  /-- the items written by earlier bundles of the current issue group -/
  group    : List Item
  waitc    : Nat
  fence    : Option Fence
  /-- requests with a lower number were issued before the last FENCEL (14 R303) -/
  fencel   : Nat
  /-- the entry to be made at this boundary: an issue-time or post-bundle trap -/
  trap     : Option FaultRec
  /-- the SVC code, or the YIELD, of a WAITC bundle whose empty cycles are not over -/
  svc      : Option (BitVec 12)
  yields   : Bool
  /-- late faults found and not yet delivered -/
  late     : List FaultRec
  /-- faults held in a handler's shadow or by R112 -/
  held     : List FaultRec
  /-- what the frame's HELD and PEND lists do not keep of the faults and the operations that the last entry put there: their
  epochs, and their places in the order of issue (21 R382, 06 R112) -/
  heldSaved : List FaultRec
  pendSaved : List Req
  /-- the bindings that the last entry put into its frame: what the frame keeps of one is neither its BIND's bundle and epoch nor
  its place in the order of issue (10 R249, 06 R111, R112) -/
  streamsSaved : Vector (Option Stream) 8
  /-- the boundary that follows an RFT: held faults come first (21 R385) -/
  afterRft : Bool
  streams  : Vector (Option Stream) 8
  arrivals : List Arrival
  committed : Bool
  /-- the last bundle was an iteration boundary, a YIELD or a TEND (21 R391) -/
  landing  : Bool
  /-- stopped for pre-emption -/
  stopped  : Bool
  /-- TIMER stands still: timerAt is the time that is left (21 R392) -/
  frozen   : Bool
  /-- the operations withdrawn at a stop, which RESUME reissues (21 R391, R395) -/
  withdrawn : List Req
  /-- the bundle at pc is in the instruction cache -/
  fetched  : Bool
  deriving DecidableEq, Repr

/-! ## A core -/

/-- The states of a task-table entry (17 Table tasks-1). -/
inductive TaskStatus where
  | free | reserved | waiting | ready | running
  deriving DecidableEq, Repr

/-- A task-table entry (17 R337); `sender` and `group` are the start values of s9 and s10. -/
structure Task where
  status  : TaskStatus
  handler : Word
  args    : Vector Word 8
  prio    : Fin 4
  boost   : Nat
  readyAt : Nat
  counter : Nat
  sender  : Word
  group   : Word
  bound   : Option Nat
  retried : Bool
  deriving DecidableEq, Repr

/-- A launch that has reached its core and waits for a FREE entry (17 R343); `req` is the request of a sender in this
part. -/
structure Launch where
  job  : Nat
  core : Nat
  task : Task
  req  : Option Nat
  /-- the clock at which the saved table of a PREEMPTED job has taken the task in: it has been READY since then (17 R350) -/
  arrived : Option Nat
  deriving DecidableEq, Repr

/-- What a matrix command is doing (11 R251-R255). -/
inductive MatrixPhase where
  | queued | running | writing
  deriving DecidableEq, Repr

/-- A matrix command with the operands read at issue (11 R252, R267). -/
structure MatrixCmd where
  id        : Nat
  ctx       : Nat
  op        : Instr
  layout    : Vector Word 8
  a         : Word
  b         : Word
  ss        : BitVec 32
  tile      : Nat
  prio      : Fin 4
  /-- while it is queued, the device time from which its wait for the next level counts; else the wait that counts toward it (R252) -/
  queuedAt  : Nat
  step      : Nat
  flags     : BitVec 6
  banks     : BitVec 32
  rack      : Option (Nat × Nat)
  counter   : Option Nat
  words     : Store (BitVec 32)
  wordsS32  : Bool
  wordsBad  : List Nat
  /-- the super-scale of a tile handle has been read (11 R261) -/
  scaled    : Bool
  phase     : MatrixPhase
  /-- the fate that the command has met (11 R262, R263) -/
  failed    : Option (Cause × Word)
  bundle    : Word
  epoch     : Epoch
  taskEnded : Bool
  deriving DecidableEq, Repr

/-- The causes of an entry to the service context (21 Table intr-6). -/
inductive ServiceCause where
  | walk (id : Nat)
  | fetch (k : Nat)
  | stream (k n order : Nat)
  | element (copy k : Nat)
  | operand (cmd : Nat)
  | proof (k : Nat) (seed : Word)
  | svc (k : Nat) (code : BitVec 12)
  deriving DecidableEq, Repr

/-- The units for which a core keeps dirty bits (21 R394): a vector register or a group of 8 predicates of one of its contexts,
a tile, a page of its slice with its marks. -/
inductive DirtyUnit where
  | vector (c r : Nat)
  | preds (c g : Nat)
  | tile (t : Nat)
  | page (p : Nat)
  deriving DecidableEq, Repr

/-- A core (01 R13): its binding, selector, task table, counters, matrix engine, service context and health. -/
structure Core where
  job       : Option Nat
  logical   : Nat
  holder    : Option (Fin 4)
  last      : Fin 4
  tasks     : Vector Task 64
  counters  : Vector Nat 64
  queue     : List MatrixCmd
  services  : List ServiceCause
  service   : Option (ServiceCause × Nat)
  storeOk   : Bool
  hold      : Bool
  fails     : BitVec 32
  /-- the device times of its corrected errors within the last second -/
  corrected : List Nat
  uncorrected : Nat
  marked    : Bool
  retired   : Bool
  gated     : Bool
  /-- the half clock as of its last bundle boundary (01 R20) -/
  half      : Bool
  /-- the addresses of the bundles that the instruction cache holds, the newest first (05 R86) -/
  icache    : List Nat
  /-- the units whose dirty bit is set (21 R394) -/
  dirty     : List DirtyUnit
  deriving DecidableEq, Repr

/-- An accumulator tile (11 R250, R251): words not listed are zero. -/
structure Tile where
  words : Store (BitVec 32)
  s32   : Bool
  busy  : Bool
  /-- the poisoned words, in order (11 R263) -/
  bad   : List Nat
  deriving DecidableEq, Repr

/-! ## A job -/

/-- A 64 KiB page of a job's space (02 R32, 10 R220). -/
structure Page where
  vpage    : Nat
  stack    : Nat
  frame    : Nat
  writable : Bool
  exec     : Bool
  resident : Bool
  deriving DecidableEq, Repr

/-- A tray of a rack (15 R329). -/
structure Tray where
  opened   : Bool
  fresh    : Bool
  pins     : Nat
  seq      : Nat
  time     : Nat
  draining : Bool
  deriving DecidableEq, Repr

/-- A rack (02 R35, 15 R329). `writer` and the pins name logical context ids; `command` is the rack-target command
that owns the open tray. -/
structure Rack where
  writer  : Nat
  size    : Nat
  base    : Word
  readers : Nat
  trays   : List Tray
  pins    : List (Nat × Nat)
  next    : Nat
  drops   : Nat
  command : Option Nat
  deriving DecidableEq, Repr

/-- A barrier (15 Table sync-2). `touched` says that the current phase has received an arrival or a byte; `nextParent`
is the PARENT that takes effect from the next phase (15 R324). -/
structure Barrier where
  level    : Fin 4
  home     : Nat
  ea       : Nat
  eb       : Nat
  pa       : Nat
  pb       : Nat
  phase    : Nat
  early    : Nat
  lastOver : Nat
  parent   : Nat
  nextParent : Nat
  touched  : Bool
  deriving DecidableEq, Repr

/-- A place on a group's tree (02 R36, 17 R354). -/
inductive Node where
  | core (c : Nat)
  | cluster (c : Nat)
  | die (d : Nat)
  | spine
  deriving DecidableEq, Repr

/-- A group message (17 R355-R358). -/
structure Message where
  id       : Nat
  job      : Nat
  group    : Nat
  sender   : Nat
  payload  : Vector Word 8
  prio     : Fin 4
  place    : Node
  /-- the child that returned the message and has not yet been accounted for -/
  returned : Option Node
  bounces  : Nat
  /-- its slot in the park area, while it stands there (17 R358) -/
  slot     : Nat
  /-- released from the head of the FIFO, whose slot it keeps -/
  released : Bool
  parked   : Bool
  bound    : Bool
  deriving DecidableEq, Repr

/-- A group (02 R36, 17 R351-R360). -/
structure Group where
  members : List Nat
  room    : List (Nat × Nat)
  root    : Node
  counts  : List (Node × Node × Nat)
  fifo    : List Message
  area    : List Message
  deriving DecidableEq, Repr

/-- A readiness update or a refresh answer on its way up a group's tree (17 R354, R357). -/
structure Update where
  id      : Nat
  job     : Nat
  group   : Nat
  child   : Node
  parent  : Node
  delta   : Int
  refresh : Bool
  deriving DecidableEq, Repr

/-- A tile-table entry (02 Table describe-4). -/
structure TileEntry where
  base   : Word
  stride : Word
  fmt    : Nat
  scale  : Word
  deriving DecidableEq, Repr

/-- The states of a job (03 R54). -/
inductive JobStatus where
  | created | running | preempted | ended
  deriving DecidableEq, Repr

/-- A core of a job as a pre-emption image holds it (21 Tables intr-8, intr-9). -/
structure SavedCore where
  core  : Core
  ctxs  : List Ctx
  tiles : List Tile
  slice : List (Nat × Byte)
  full  : List Nat
  bad   : List Nat
  /-- the requests of launches that wait for an entry -/
  reqs  : List Req
  deriving DecidableEq, Repr

/-- A command outstanding on a queue: the queue and its chain. -/
structure Pending where
  queue : Nat
  chain : Chain
  deriving DecidableEq, Repr

/-- A resident job (02, 03 R52-R60). -/
structure Job where
  id        : Nat
  queue     : Nat
  status    : JobStatus
  n         : Nat
  rot       : Nat
  binding   : List Nat
  /-- the binding that a pre-empted job had -/
  former    : List Nat
  holds     : List (Nat × Bool)
  park      : Nat
  pages     : List Page
  racks     : List Rack
  groups    : List Group
  barriers  : List Barrier
  tiles     : List TileEntry
  masks     : List (Nat × BitVec 16)
  winBase   : Word
  aperture  : Nat
  apertures : Nat
  poolOff   : Nat
  poolSize  : Nat
  lastCause : BitVec 25
  start     : Option Pending
  /-- outstanding KILLs with the device times at which their grace ends -/
  kill      : List (Pending × Nat)
  preempt   : Option (Pending × Nat)
  saved     : List SavedCore
  saveAt    : Option (Bool × Word)
  /-- the decrements of counters, by logical core, that host copies have made of a pre-empted job: RESUME makes them (log entry 17) -/
  owed      : List (Nat × Nat)
  deriving DecidableEq, Repr

/-! ## Commands and requests in progress -/

/-- A copy command (10 R240-R244). -/
structure Copy where
  id        : Nat
  ctx       : Nat
  pattern   : Vector Word 8
  src       : Word
  dst       : Word
  counter   : Nat
  long      : Bool
  banks     : BitVec 32
  rack      : Option (Nat × Nat)
  moved     : List Nat
  suspended : List (Nat × Bool)
  /-- how often a pool transaction of an element has been reissued (03 R67) -/
  retries   : Store Nat
  unreported : Nat
  /-- elements on their way to host memory or to another part, with their data -/
  sent      : List (Nat × List Byte)
  /-- the pieces of elements in flits that another part has acknowledged (04 R85) -/
  acked     : List (Nat × Nat)
  /-- elements whose data another part has been asked for, and the pieces that have come -/
  asked     : List Nat
  got       : List (Nat × Nat × List Byte)
  failed    : Option (Cause × Word)
  bundle    : Word
  epoch     : Epoch
  taskEnded : Bool
  deriving DecidableEq, Repr

/-- A host copy (03 R59). -/
structure HostCopy where
  id   : Nat
  job  : Nat
  into : Bool
  cmd  : Pending
  deriving DecidableEq, Repr

/-- Who asked for a hand-over (13 R282, 03 R61). -/
inductive HandoverSource where
  | context (id k counter : Nat) (arg : Word) (bundle : Word) (epoch : Epoch) (taskEnded discarded : Bool)
  | host (p : Pending)
  | jobEnd
  /-- its asker has been answered already: KILL has ended its job (13 R286) -/
  | answered
  deriving DecidableEq, Repr

/-- A hand-over of a physical stack (13 R283, R288): `step` 0 waits for its turn. -/
structure Handover where
  stack   : Nat
  job     : Nat
  toDie   : Nat
  step    : Nat
  /-- its request has reached the base die of the stack (13 R288) -/
  reached : Bool
  startAt : Nat
  source  : HandoverSource
  deriving DecidableEq, Repr

/-- A cached translation with its route (13 R281): `agent` is a physical core, or 256 + die for a walker. -/
structure Route where
  agent : Nat
  job   : Nat
  vpage : Nat
  die   : Nat
  deriving DecidableEq, Repr

/-! ## The host side and the part -/

/-- A completion written for a command (03 R49, R50). -/
structure Completion where
  queue  : Nat
  tag    : BitVec 64
  status : BitVec 16
  job    : BitVec 32
  result : List Byte
  used   : Nat
  deriving DecidableEq, Repr

/-- A virtqueue and its place in the mapper (03 R45-R48). -/
structure Queue where
  enabled  : Bool
  size     : Nat
  ring     : List Chain
  slot     : Bool
  pinned   : Bool
  notified : Nat
  kicks    : Bool
  deriving DecidableEq, Repr

/-- Where an inbound packet stands (03 R65). -/
inductive PacketStatus where
  | waiting | released | performed
  deriving DecidableEq, Repr

/-- An inbound packet (03 R65, 19 R363-R366). -/
structure Packet where
  id        : Nat
  requester : Nat
  write     : Nat
  offset    : Nat
  data      : List (Option Byte)
  relaxed   : Bool
  /-- a packet of the same write has been released (19 R364) -/
  begun     : Bool
  /-- the part, the copy, the element and the piece to which the write is acknowledged, where another part sent it (04 R85) -/
  reply     : Option (Nat × Nat × Nat × Nat)
  /-- the place of its first byte, as the ordering point has translated it for its release (19 R365) -/
  place     : Option Nat
  route     : Nat
  seq       : Nat
  status    : PacketStatus
  deriving DecidableEq, Repr

/-- A non-posted inbound read; `after` is the number of writes before it. -/
structure InboundRead where
  requester : Nat
  offset    : Nat
  len       : Nat
  tag       : Nat
  after     : Nat
  /-- the part, the copy and the element that the data go to, where another part reads (04 R85) -/
  reply     : Option (Nat × Nat × Nat)
  deriving DecidableEq, Repr

/-- A column (01 R19, 04 R77, R78). -/
structure Column where
  temp     : BitVec 16
  half     : Bool
  /-- the device time at which its next reading is due (01 R19) -/
  tempDue  : Nat
  dueAt    : Nat
  /-- the device time from which a due realignment is deferred -/
  deferred : Option Nat
  /-- the device time at which a realignment's pause began -/
  pausing  : Option Nat
  deriving DecidableEq, Repr

/-- A Zyndel link (04 R81-R83). -/
structure Link where
  trained : Bool
  /-- the link-level number of the next flit that it takes: it has acknowledged every number below -/
  expect  : Nat
  /-- it has discarded a flit, and asks for a replay from `expect` on (04 R82) -/
  ask     : Bool
  /-- the link-level sequence number of the next flit sent -/
  next    : Nat
  /-- the device times of its replays within the last millisecond -/
  replays : List Nat
  /-- flits sent and not acknowledged, in order -/
  unacked : List Flit
  /-- the device time at which its next scheduled retrain is due, but for the stagger -/
  dueAt   : Nat
  deriving DecidableEq, Repr

/-- An error-log entry (23 R413). -/
structure LogEntry where
  time : Nat
  kind : Nat
  core : Nat
  ctx  : Nat
  job  : Nat
  a    : Word
  b    : Word
  deriving DecidableEq, Repr

/-- HEALTH and JERR of the device-specific configuration (03 Tables host-2, host-6). -/
structure Health where
  ready    : Bool
  fwfail   : Bool
  replace  : Bool
  resetReq : Bool
  retired  : Nat
  spares   : List (Nat × Nat)
  jerrId   : Nat
  jerrCount : Nat
  jerrCode : Nat
  deriving DecidableEq, Repr

/-- The bundle now issuing (06 R128, R138): the model's working field. -/
structure Issue where
  key    : Nat
  h      : Word
  len    : Nat
  pos    : Nat
  taken  : Option Nat
  succ   : Word
  pop    : Bool
  push   : Option LoopEntry
  skip   : Option Word
  pops   : List Nat
  /-- the checks of R96 and the waits of Table issue-5 are passed for the whole bundle -/
  checked : Bool
  /-- memory, poison marks and the context's arrival-phase records as they stand at the issue of a checked bundle (00 R7) -/
  mem    : List Host.Cell
  bad    : List Nat
  arrivals : List Arrival
  /-- the number of the first request that the bundle makes, and whether a load or gather of it reads memory by a request (00 R7) -/
  first  : Nat
  reads  : Bool
  /-- the bytes that its synchronising accesses and full/empty loads access, as address and size (00 R7) -/
  late   : List (Nat × Nat)
  deriving DecidableEq, Repr

/-- What moves next: a step of a host, engine, fabric or handler row; a core's issue stage; device time alone; or the host,
which writes its memory or maps ranges of it for the part. -/
inductive Turn where
  | row (i : Instr)
  | issue (core : Nat)
  | pass (clocks : Nat)
  | hostWrite (iova : Nat) (data : List Byte)
  | hostMaps (ranges : List (Nat × Nat))
  deriving DecidableEq, Repr

/-- The whole part. -/
structure State where
  /-- clocks of 2.25 GHz since device reset; device time in ns is 4/9 of it (00 R4) -/
  clock     : Nat
  agenda    : List Turn
  cur       : Issue
  nextId    : Nat
  free      : Nat
  mem       : List Host.Cell
  full      : List Nat
  bad       : List Nat
  ctxs      : Store Ctx
  cores     : Store Core
  tiles     : Store Tile
  jobs      : List Job
  reqs      : List Req
  copies    : List Copy
  hostCopies : List HostCopy
  handovers : List Handover
  /-- stacks whose owner is port B, the other die (01 R15) -/
  portB     : List Nat
  routes    : List Route
  /-- the 256-byte lines of stacks that the cache of their owner's die holds, each with its dirty bit, the newest first
  (13 R279); what they hold stands in `mem` (13 R280) -/
  lines     : List (Nat × Bool)
  /-- lines written back that stand in a die's stack write queues (13 R283) -/
  writeQueue : List Nat
  messages  : List Message
  launches  : List Launch
  /-- withdrawn loads whose responses are still to come: each is discarded, but for its route mark (20 R369, 21 Table intr-3) -/
  ghosts    : List Req
  /-- prefetches that stand before wall buses that pause (04 R78) -/
  prefetches : List Prefetch
  updates   : List Update
  queues    : Store Queue
  images    : List (Nat × Word × Word)
  nextImage : Nat
  nextJob   : Nat
  completions : List Completion
  hostMap   : List (Nat × Nat)
  packets   : List Packet
  reads     : List InboundRead
  answers   : List (Nat × Option (List Byte))
  writes    : Nat
  routeSeq  : Store Nat
  columns   : Store Column
  links     : Store Link
  endToEnd  : Store Nat
  early     : List Flit
  /-- class 0 flits received, by source and end-to-end number (04 R84) -/
  bulk      : List (Nat × Nat)
  /-- the active message of which a part's flits are coming, with the arguments that have come (04 R84) -/
  coming    : Store RemoteSend
  /-- active messages of other parts that have come whole, in order, and have not reached their cores (17 R350) -/
  inbox     : List RemoteSend
  /-- flits that no link in use leads for, in order (04 R83) -/
  parked    : List Flit
  poolTrained : Option Nat
  tolerance : Nat
  driverFeatures : BitVec 64
  featuresOk : Bool
  transport : Store Word
  pinRefused : Bool
  generation : Nat
  health    : Health
  layersOff : List (Nat × Nat)
  layersGated : List (Nat × Nat)
  stacksAsleep : List Nat
  diesOff   : List Nat
  /-- the units whose condition for a power state holds, and since when (23 R410) -/
  idle      : List (PowerUnit × Nat)
  log       : List LogEntry
  deriving DecidableEq, Repr

/-! ## After reset -/

/-- A scale register at the model's value (09 R208 gives x; log entry 3). -/
def Scale.reset : Scale := ⟨0, 0⟩

/-- A user context before its first task: the values of Table scalar-5, and the model's where it gives none (log entry 3). -/
def Ctx.reset : Ctx where
  s := Vector.replicate 64 0
  sdf := 0
  v := Vector.replicate 64 0
  vdf := 0
  p := Vector.replicate 96 0
  e := Vector.replicate 128 0
  sc := Vector.replicate 16 Scale.reset
  loops := []
  pc := 0
  ccyc := 0
  ccycLast := 0
  fpstat := 0
  tvec := 0
  evec := 0
  emask := 0
  epend := 0
  raised := ⟨0, 0, 0⟩
  tfbOff := 0xFF
  tcause := 0
  taddr := 0
  timerAt := none
  h := false
  en := true
  entries := 0
  status := .idle
  task := none
  prio := 0
  mprio := 0
  mprioSaved := 0
  flights := []
  group := []
  waitc := 0
  fence := none
  fencel := 0
  trap := none
  svc := none
  yields := false
  late := []
  held := []
  heldSaved := []
  pendSaved := []
  streamsSaved := Vector.replicate 8 none
  afterRft := false
  streams := Vector.replicate 8 none
  arrivals := []
  committed := false
  landing := false
  stopped := false
  frozen := false
  withdrawn := []
  fetched := true

/-- A FREE task-table entry (17 Table tasks-1). -/
def Task.reset : Task where
  status := .free
  handler := 0
  args := Vector.replicate 8 0
  prio := 0
  boost := 0
  readyAt := 0
  counter := 0
  sender := 0
  group := 0
  bound := none
  retried := false

/-- A core that no job is bound to. -/
def Core.reset : Core where
  job := none
  logical := 0
  holder := none
  last := 0
  tasks := Vector.replicate 64 Task.reset
  counters := Vector.replicate 64 0
  queue := []
  services := []
  service := none
  storeOk := false
  hold := false
  fails := 0
  corrected := []
  uncorrected := 0
  marked := false
  retired := false
  gated := false
  half := false
  icache := []
  dirty := []

/-- A tile as START leaves it (11 R250). -/
def Tile.reset : Tile := ⟨[], false, false, []⟩

/-- A queue the driver has not enabled (03 R45). -/
def Queue.reset : Queue := ⟨false, 0, [], false, false, 0, true⟩

/-- A column with the model's reading (01 R19 gives x; log entry 3); its first refresh is due at device time 0, and
its realignments count from there, the first of column 0 being due at once (DESIGN CHOICE, log entry 51). -/
def Column.reset : Column := ⟨0, false, 0, 0, none, none⟩

/-- A link that is not trained (04 R83). -/
def Link.reset : Link := ⟨false, 0, false, 0, [], [], 10000000000⟩

/-- No bundle is issuing. -/
def Issue.reset : Issue := ⟨0, 0, 0, 0, none, 0, false, none, none, [], false, [], [], [], 0, false, []⟩

/-- HEALTH and JERR at reset (03 Tables host-2, host-6); retirements kept in flash (23 R409) come with the agenda. -/
def Health.reset : Health := ⟨false, false, false, false, 0, [], 0, 0, 0⟩

/-- The part right after a device reset: no job, every stack with its home die, firmware not yet verified. -/
def State.reset : State where
  clock := 0
  agenda := []
  cur := Issue.reset
  nextId := 1
  free := 0
  mem := []
  full := []
  bad := []
  ctxs := []
  cores := []
  tiles := []
  jobs := []
  reqs := []
  copies := []
  hostCopies := []
  handovers := []
  portB := []
  routes := []
  lines := []
  writeQueue := []
  messages := []
  launches := []
  ghosts := []
  prefetches := []
  updates := []
  queues := []
  images := []
  nextImage := 1
  nextJob := 1
  completions := []
  hostMap := []
  packets := []
  reads := []
  answers := []
  writes := 0
  routeSeq := []
  columns := []
  links := []
  endToEnd := []
  early := []
  bulk := []
  coming := []
  inbox := []
  parked := []
  poolTrained := none
  tolerance := 0
  driverFeatures := 0
  featuresOk := false
  transport := []
  pinRefused := false
  generation := 0
  health := Health.reset
  layersOff := []
  layersGated := []
  stacksAsleep := []
  diesOff := []
  idle := []
  log := []

/-! ## Stops -/

/-- The reasons a step stops with a fault. -/
inductive Fault where
  /-- Raised by a turn of the agenda that names the issue stage of a core no job is bound to: there is no such step.
  Safe: the part has no behaviour there. -/
  | unboundCore (core : Nat)
  deriving DecidableEq, Repr

/-- The reasons a step is refused. -/
inductive Refusal where
  /-- Raised by an arm of exec whose instruction has no meaning in the model. Safe: the run stops. -/
  | notModelled (mnemonic : String)
  deriving DecidableEq, Repr

end Sys2Proof.Machine
end

