-- ==== Sys2Proof/Machine/Store.lean ====
section
/-! DEFINITION. Sparse tables, the memory in its one canonical form, and sets of granules. -/

namespace Sys2Proof.Machine

/-! ## Sparse tables -/

/-- The entry of key `k`, or `d` where none is listed. -/
def look {α : Type} (d : α) : Store α → Nat → α
  | [], _ => d
  | (j, b) :: m, k => if k = j then b else look d m k

/-- The table with `a` at key `k`. -/
def put {α : Type} : Store α → Nat → α → Store α
  | [], k, a => [(k, a)]
  | (j, b) :: m, k, a =>
    if k = j then (k, a) :: m else if k < j then (k, a) :: (j, b) :: m else (j, b) :: put m k a

/-- The table without key `k`. -/
def drop {α : Type} : Store α → Nat → Store α
  | [], _ => []
  | (j, b) :: m, k => if k = j then drop m k else (j, b) :: drop m k

/-! ## Memory: addresses strictly rising, no entry equal to the zero an unlisted byte reads as (log entry 4) -/

/-- The canonical form of memory. -/
def wfMemory : List Host.Cell → Bool
  | [] => true
  | [(_, b)] => b != 0
  | (a, b) :: (a', b') :: m => (b != 0) && decide (a < a') && wfMemory ((a', b') :: m)

/-- The byte at a physical address. -/
abbrev readByte (m : List Host.Cell) (a : Nat) : Byte := look 0 m a

/-- Memory with the byte at `a` set; writing zero removes the entry. -/
def writeByte : List Host.Cell → Nat → Byte → List Host.Cell
  | [], a, v => if v = 0 then [] else [(a, v)]
  | (j, b) :: m, a, v =>
    if a = j then (if v = 0 then m else (a, v) :: m)
    else if a < j then (if v = 0 then (j, b) :: m else (a, v) :: (j, b) :: m)
    else (j, b) :: writeByte m a v

/-- The little-endian number in the `n` bytes at `a` (00 R3). -/
def readLE (m : List Host.Cell) (a : Nat) : Nat → Nat
  | 0 => 0
  | n + 1 => (readByte m a).toNat + 256 * readLE m (a + 1) n

/-- Memory with the low `n` bytes of `v` written little-endian at `a`. -/
def writeLE (m : List Host.Cell) (a : Nat) : Nat → Nat → List Host.Cell
  | 0, _ => m
  | n + 1, v => writeLE (writeByte m a (BitVec.ofNat 8 v)) (a + 1) n (v / 256)

/-- The bytes at `a`. -/
def readBytes (m : List Host.Cell) (a : Nat) : Nat → List Byte
  | 0 => []
  | n + 1 => readByte m a :: readBytes m (a + 1) n

/-- Memory with a list of bytes written from `a` on; an absent byte is left (a write mask). -/
def writeMasked (m : List Host.Cell) (a : Nat) : List (Option Byte) → List Host.Cell
  | [] => m
  | none :: l => writeMasked m (a + 1) l
  | some b :: l => writeMasked (writeByte m a b) (a + 1) l

/-- Memory with every byte of [lo, hi) zero. -/
def clearRange (m : List Host.Cell) (lo hi : Nat) : List Host.Cell :=
  m.filter fun c => c.1 < lo || hi ≤ c.1

/-- The bytes of a little-endian number. -/
def leBytes : Nat → Nat → List Byte
  | 0, _ => []
  | n + 1, v => BitVec.ofNat 8 v :: leBytes n (v / 256)

/-- The little-endian number of a list of bytes. -/
def ofBytes : List Byte → Nat
  | [] => 0
  | b :: l => b.toNat + 256 * ofBytes l

/-! ## Sets of numbers -/

/-- The set with `a`. -/
def include1 : List Nat → Nat → List Nat
  | [], a => [a]
  | b :: l, a => if a = b then b :: l else if a < b then a :: b :: l else b :: include1 l a

/-- The set with `n` numbers from `a` on. -/
def includeFrom (l : List Nat) (a : Nat) : Nat → List Nat
  | 0 => l
  | n + 1 => includeFrom (include1 l a) (a + 1) n

/-- The set without the numbers of [lo, hi). -/
def exclude (l : List Nat) (lo hi : Nat) : List Nat := l.filter fun a => a < lo || hi ≤ a

/-- Every number of [a, a + n) is in the set. -/
def includesAll (l : List Nat) (a : Nat) : Nat → Bool
  | 0 => true
  | n + 1 => l.contains a && includesAll l (a + 1) n

/-! ## Granules of 16 bytes (10 R222, 23 R402) -/

/-- The first granule of an access and the number it covers. -/
abbrev granule (a : Nat) : Nat := a / 16

/-- The granules that an access of `n` bytes at `a` touches. -/
def granules (a n : Nat) : Nat := if n = 0 then 0 else (a + n - 1) / 16 - a / 16 + 1

/-- The lowest poisoned byte among the `n` bytes at physical address `a`. -/
def poisonedAt (bad : List Nat) (a n : Nat) : Option Nat :=
  (bad.find? fun g => a / 16 ≤ g && g * 16 < a + n).map fun g => if g * 16 < a then a else g * 16

/-- The lowest poisoned byte of a granule that the access touches and does not cover whole. -/
def poisonedPart (bad : List Nat) (a n : Nat) : Option Nat :=
  (bad.find? fun g => a / 16 ≤ g && g * 16 < a + n && !(a ≤ g * 16 && g * 16 + 16 ≤ a + n)).map
    fun g => if g * 16 < a then a else g * 16

/-- The poison marks after a write: a granule written whole loses its poison (10 R225). -/
def healed (bad : List Nat) (a n : Nat) : List Nat := exclude bad ((a + 15) / 16) ((a + n) / 16)

end Sys2Proof.Machine
end

