-- ==== Sys2Proof/Machine/Base.lean ====
section
/-! DEFINITION. The named operations over the state: accessors, numbering, translation and the fates of accesses,
requests, task counters, the error log, completions and the end of a job. -/

namespace Sys2Proof.Machine

/-! ## Accessors -/

/-- Context `k` = 4 × physical core + context. -/
def ctxAt (s : State) (k : Nat) : Ctx := look Ctx.reset s.ctxs k
def setCtx (s : State) (k : Nat) (c : Ctx) : State := { s with ctxs := put s.ctxs k c }
/-- The physical core with id `n`. -/
def coreAt (s : State) (n : Nat) : Core := look Core.reset s.cores n
def setCore (s : State) (n : Nat) (c : Core) : State := { s with cores := put s.cores n c }
/-- Tile `t` of physical core `n`. -/
def tileAt (s : State) (n t : Nat) : Tile := look Tile.reset s.tiles (16 * n + t)
def setTile (s : State) (n t : Nat) (a : Tile) : State := { s with tiles := put s.tiles (16 * n + t) a }

/-- Context `k` changed by `f`. -/
def onCtx (s : State) (k : Nat) (f : Ctx → Ctx) : State := setCtx s k (f (ctxAt s k))
/-- Core `n` changed by `f`. -/
def onCore (s : State) (n : Nat) (f : Core → Core) : State := setCore s n (f (coreAt s n))

/-- The job with an id. -/
def jobAt (s : State) (id : Nat) : Option Job := s.jobs.find? fun j => j.id == id
/-- A job record replaced. -/
def setJob (s : State) (j : Job) : State := { s with jobs := s.jobs.map fun x => if x.id == j.id then j else x }
/-- The job bound to physical core `n`. -/
def jobOfCore (s : State) (n : Nat) : Option Job := (coreAt s n).job.bind (jobAt s)
/-- The job of context `k`. -/
def jobOfCtx (s : State) (k : Nat) : Option Job := jobOfCore s (k / 4)
/-- The logical context id of context `k` (07 Table scalar-5, CTXID). -/
def ctxId (s : State) (k : Nat) : Nat := 4 * (coreAt s (k / 4)).logical + k % 4
/-- The context `k` that has logical context id `c` in a job. -/
def ctxKey (j : Job) (c : Nat) : Nat := 4 * (j.binding[c / 4]?.getD 0) + c % 4
/-- The contexts of a job. -/
def jobCtxs (j : Job) : List Nat := j.binding.flatMap fun n => [4 * n, 4 * n + 1, 4 * n + 2, 4 * n + 3]

/-! ## Numbering (01 R12, R15, Table part-4) -/

def coreDie (n : Nat) : Nat := n / 64
def coreLayer (n : Nat) : Nat := n / 32 % 2
def coreCol (n : Nat) : Nat := n % 32
/-- A physical core id: columns 25-31 do not occur (01 Table part-1). -/
def isCoreId (n : Nat) : Bool := decide (n < 256) && decide (coreCol n < 25)
/-- The key of a column: 32 × die + column. -/
def colKey (n : Nat) : Nat := 32 * coreDie n + coreCol n
def homeDie (stack : Nat) : Nat := stack / 3 % 4
def otherDie (stack : Nat) : Nat := (stack / 3 + 1) % 4
/-- The die whose port the owner register of a stack names (13 R277). -/
def ownerDie (s : State) (stack : Nat) : Nat :=
  if s.portB.contains stack then otherDie stack else homeDie stack

/-- Device time in ns: 4/9 of the 2.25 GHz clock (00 R4). -/
def timeNow (s : State) : Nat := s.clock * 4 / 9
/-- Device time passes. -/
def passClocks (s : State) (n : Nat) : State := { s with clock := s.clock + n }
/-- The clocks a context cycle of a core takes: two at half clock (01 R18). -/
def cycleClocks (s : State) (n : Nat) : Nat := if (coreAt s n).half then 2 else 1
/-- A bundle boundary of core `n`: the clock of its column takes effect (01 R20). -/
def takeClock (s : State) (n : Nat) : State := onCore s n fun c => { c with half := (look Column.reset s.columns (colKey n)).half }

/-! ## The error log (23 R413) -/

/-- An entry is appended; the newest 4,096 are kept. -/
def logEntry (s : State) (kind core ctx job : Nat) (a b : Word) : State :=
  { s with log := (if 4096 ≤ s.log.length then s.log.drop 1 else s.log) ++ [(⟨timeNow s, kind, core, ctx, job, a, b⟩ : LogEntry)] }

/-- An entry about context `k`. -/
def logCtx (s : State) (kind k : Nat) (a b : Word) : State :=
  logEntry s kind (k / 4) (ctxId s k) ((coreAt s (k / 4)).job.getD 0) a b

/-! ## Completions (03 R49-R51, Table host-3) -/

abbrev stOk : Nat := 0
abbrev stMalformed : Nat := 1
abbrev stBadImage : Nat := 2
abbrev stResource : Nat := 3
abbrev stNoJob : Nat := 4
abbrev stWrongQ : Nat := 5
abbrev stState : Nat := 6
abbrev stFault : Nat := 7
abbrev stPoison : Nat := 8
abbrev stSigFail : Nat := 9
abbrev stStackOwn : Nat := 10
abbrev stAborted : Nat := 11
abbrev stJobErr : Nat := 12

/-- A completion is written; the used length is 16 plus the result bytes. -/
def complete (s : State) (p : Pending) (status job : Nat) (result : List Byte) : State :=
  { s with completions := s.completions ++ [⟨p.queue, BitVec.ofNat 64 (bits p.chain.cmd 127 64),
      BitVec.ofNat 16 status, BitVec.ofNat 32 job, result, 16 + result.length⟩] }

/-- HEALTH or JERR changed: config_generation advances (03 R63). -/
def configChanged (s : State) (h : Health) : State :=
  if h = s.health then s else { s with health := h, generation := s.generation + 1 }

/-! ## The address space (10 R219, 04 R79) -/

/-- The ranges of Table feed-1. -/
inductive Space where
  | job
  | pool (p : Nat)
  | host (iova : Nat)
  | slice (n off : Nat)
  | peer
  | nowhere
  deriving DecidableEq, Repr

/-- The range an address lies in. -/
def spaceOf (a : Nat) : Space :=
  if a < 13 * 2 ^ 48 then .job
  else if a < 14 * 2 ^ 48 then .pool (a - 13 * 2 ^ 48)
  else if a < 15 * 2 ^ 48 then .host (a - 14 * 2 ^ 48)
  else if a < 15 * 2 ^ 48 + 0x30000000 then .slice ((a - 15 * 2 ^ 48) / 2 ^ 22) (a % 2 ^ 22)
  else if a < 2 ^ 52 then .nowhere
  else .peer

/-- Physical addresses of the model: slices, stacks, the CXL pool and host memory side by side. -/
def slicePhys (core off : Nat) : Nat := core * 2 ^ 22 + off
def stackPhys (stack off : Nat) : Nat := 2 ^ 40 + stack * 2 ^ 36 + off
def poolPhys (off : Nat) : Nat := 2 ^ 44 + off
def hostPhys (iova : Nat) : Nat := 2 ^ 48 + iova
/-- A physical address lies in a slice. -/
def inSlice (pa : Nat) : Bool := pa < 2 ^ 30
/-- A physical address lies in a stack. -/
def inStack (pa : Nat) : Bool := 2 ^ 40 ≤ pa && pa < 2 ^ 44
/-- The stack of a physical address. -/
def physStack (pa : Nat) : Nat := (pa - 2 ^ 40) / 2 ^ 36

/-- The window address of offset `off` in logical core `n`'s slice. -/
def windowAddr (n off : Nat) : Nat := 15 * 2 ^ 48 + n * 2 ^ 22 + off

/-- The page of a job-space address. -/
def pageOf (j : Job) (a : Nat) : Option Page := j.pages.find? fun p => p.vpage == a / 65536
/-- The physical address of an address in a page. -/
def pagePhys (p : Page) (a : Nat) : Nat := stackPhys p.stack (p.frame * 65536 + a % 65536)

/-- Where a data access of a program goes, or the first fate of Table feed-2 that its address meets (10 R225). -/
def translate (j : Job) (a : Nat) (write : Bool) : Except Cause Nat :=
  match spaceOf a with
  | .job =>
    match pageOf j a with
    | none => .error .page
    | some p => if !p.resident then .error .page else if write && !p.writable then .error .perm else .ok (pagePhys p a)
  | .slice n off => if n < j.n then .ok (slicePhys (j.binding[n]?.getD 0) off) else .error .perm
  | _ => .error .perm

/-- A physical address lies in the slice of a core in a powered-off layer (10 Table feed-2, 23 R411). -/
def sliceOff (s : State) (pa : Nat) : Bool :=
  inSlice pa && s.layersOff.contains (coreDie (pa / 2 ^ 22), coreLayer (pa / 2 ^ 22))

/-- The fates of an access of `n` bytes at `a` that goes to physical address `pa`, in their order (log entry 9). -/
def physFate (s : State) (pa a n align : Nat) (write : Bool) : Option (Cause × Word) :=
  if a % align ≠ 0 then some (.align, BitVec.ofNat 64 a)
  else if sliceOff s pa then some (.sliceoff, BitVec.ofNat 64 a)
  else
    match (if write then poisonedPart s.bad pa n else poisonedAt s.bad pa n) with
    | some b => some (.ue, BitVec.ofNat 64 (a + (b - pa)))
    | none => none

/-- Where an access of `n` bytes at `a` goes, or the fate it meets with its failing address: a misaligned one has the fault ALIGN
wherever it would go (22 R396; log entry 9). -/
def access (s : State) (j : Job) (a n align : Nat) (write : Bool) : Except (Cause × Word) Nat :=
  if a % align ≠ 0 then .error (.align, BitVec.ofNat 64 a)
  else
    match translate j a write with
    | .error c => .error (c, BitVec.ofNat 64 a)
    | .ok pa =>
      match physFate s pa a n align write with
      | some e => .error e
      | none => .ok pa

/-- The stack is in a hand-over whose last step taken lies in [lo, hi] (13 R283). -/
def handing (s : State) (stack lo hi : Nat) : Bool := s.handovers.any fun h => h.stack == stack && lo ≤ h.step && h.step ≤ hi
/-- The stack that a job-space address lies in. -/
def stackOf (j : Job) (a : Nat) : Option Nat :=
  match spaceOf a with
  | .job => (pageOf j a).map (·.stack)
  | _ => none

/-! ## Columns, clusters and the wall buses (01 R10, R11, 04 R72, R78) -/

def columnAt (s : State) (die col : Nat) : Column := look Column.reset s.columns (32 * die + col)
def setColumn (s : State) (die col : Nat) (c : Column) : State := { s with columns := put s.columns (32 * die + col) c }

/-- The in-use columns of a die as manufactured, ascending. -/
def usedColumns (die : Nat) : List Nat := (List.range 25).filter fun c => c != (Config.spareColumn die).val

/-- The column that stands at the place of column `c`: the spare, where it replaces a retired one (DESIGN CHOICE, log entry 44: it
takes the retired column's place in its cluster's order, and its ports). -/
def standing (s : State) (die c : Nat) : Nat := if s.health.spares.contains (die, c) then (Config.spareColumn die).val else c

/-- The four columns of cluster `i` of a die as manufactured, ascending (01 R10). -/
def madeColumns (die i : Nat) : List Nat := ((usedColumns die).drop (4 * i)).take 4

/-- The four columns of cluster `i` of a die, in the order in which the cluster map lists them. -/
def clusterColumns (s : State) (die i : Nat) : List Nat := (madeColumns die i).map (standing s die)

/-- The physical core ids of a cluster in port order: of each column the upper core, then the lower one. -/
def clusterCores (s : State) (cl : Nat) : List Nat :=
  (clusterColumns s (cl / 6) (cl % 6)).flatMap fun c => [64 * (cl / 6) + c, 64 * (cl / 6) + 32 + c]

/-- The physical cluster of a core: 6 × die + its number in the die. A core of a replaced column, on which a pre-empted job ran, keeps
the cluster that it was made in: its groups' entries stand in that switch (02 R36). -/
def clusterOf (s : State) (n : Nat) : Nat :=
  let among := fun (columns : Nat → List Nat) => (List.range 6).find? fun i => (columns i).contains (coreCol n)
  6 * coreDie n + ((among (clusterColumns s (coreDie n))).getD ((among (madeColumns (coreDie n))).getD 0))

/-- An end of a packet's way: a core with its slice, or another unit: the memory switch of die 0-3, 4 + a cluster's units,
or the I/O die, 28. -/
inductive Agent where
  | core (n : Nat)
  | unit (x : Nat)
  deriving DecidableEq, Repr

/-- The layer an agent lies in; that of a unit that is no core is the part's (log entry 45). -/
def Agent.layer : Agent → Nat
  | .core n => coreLayer n
  | .unit x => (Config.unitLayer x).val

/-- The core over whose column a packet from `a` to `b` crosses, if their layers differ: the source, or the destination where
the source is no core. -/
def crossingCore (a b : Agent) : Option Nat :=
  match a, b with
  | .core n, _ => some n
  | .unit _, .core n => some n
  | .unit _, .unit _ => none

/-- A packet from `a` to `b` crosses the wall buses of column `col` of die `die`. -/
def crossesAt (die col : Nat) (a b : Agent) : Bool :=
  (crossingCore a b).any (fun n => coreDie n == die && coreCol n == col) && a.layer != b.layer

/-- A packet from `a` to `b` stands before wall buses that pause (04 R78). -/
def wayPaused (s : State) (a b : Agent) : Bool :=
  s.columns.any (fun c => c.2.pausing.isSome) && (crossingCore a b).any (fun n => (columnAt s (coreDie n) (coreCol n)).pausing.isSome) && a.layer != b.layer

/-- The agent that serves a physical address: a slice's core, the die that owns a stack, or the I/O die. -/
def agentOf (s : State) (pa : Nat) : Agent :=
  if inSlice pa then .core (pa / 2 ^ 22) else if inStack pa then .unit (ownerDie s (physStack pa)) else .unit 28

/-- The way from core `n` to a physical address, or the way back, stands before wall buses that pause. -/
def touchPaused (s : State) (n pa : Nat) : Bool :=
  wayPaused s (.core n) (agentOf s pa) || wayPaused s (agentOf s pa) (.core n)

/-! ## Flits sent (04 R81-R84) -/

def linkAt (s : State) (l : Nat) : Link := look Link.reset s.links l
def setLink (s : State) (l : Nat) (k : Link) : State := { s with links := put s.links l k }

/-- The links in use toward a part. -/
def routesTo (s : State) (part : Nat) : List Nat := ((Config.routes part).map (·.val)).filter fun l => (linkAt s l).trained

/-- A flit leaves by the first link in use toward its part, held there until it is acknowledged; with none, at the I/O die. It carries the
acknowledgement of what has come on that link, and asks for a replay where a flit has been discarded (04 R82). -/
def placeFlit (s : State) (f : Flit) : State :=
  match routesTo s f.dest.toNat with
  | [] => { s with parked := s.parked ++ [f] }
  | l :: _ => let k := linkAt s l; setLink s l { k with next := k.next + 1, unacked := k.unacked ++ [{ f with seq := k.next, ack := k.expect, again := k.ask }] }

/-- The key of the end-to-end numbers toward a part, of a class. -/
def sendKey (part : Nat) (ordered : Bool) : Nat := (if ordered then 2 ^ 16 else 2 ^ 17) + part
/-- The end-to-end number of the next flit toward a part. -/
def nextNumber (s : State) (part : Nat) (b : FlitBody) : Nat := look 0 s.endToEnd (sendKey part b.ordered)

/-- Traffic leaves for a part with the next end-to-end number of its class. -/
def launchFlit (s : State) (part : Nat) (b : FlitBody) : State :=
  let n := nextNumber s part b
  placeFlit { s with endToEnd := put s.endToEnd (sendKey part b.ordered) (n + 1) }
    ⟨0, 0, false, Config.partId, BitVec.ofNat 12 part, n, b⟩

/-- An item put into a set. -/
def addTo {α : Type} [BEq α] (l : List α) (a : α) : List α := if l.contains a then l else l ++ [a]

/-! ## Die caches (13 R278, R279) -/

/-- The lines of one of the 8 slices of a die's cache: 8 MiB of 256 bytes. -/
abbrev sliceLines : Nat := 32768
/-- The stack and the die of a line. -/
def lineStack (line : Nat) : Nat := physStack (256 * line)
def lineDie (s : State) (line : Nat) : Nat := ownerDie s (lineStack line)
/-- Two lines share a slice of a die's cache. -/
def sameSlice (s : State) (a b : Nat) : Bool := lineDie s a == lineDie s b && Config.sliceHash (256 * a) == Config.sliceHash (256 * b)

/-- A stack is accessed: it is awake, and its hold period begins again (23 Table errors-2). -/
def wakeStack (s : State) (stack : Nat) : State :=
  { s with stacksAsleep := s.stacksAsleep.filter (· != stack), idle := s.idle.filter fun x => x.1 != .stack stack }

/-- A full slice gives up its oldest line beside a new one; a dirty one is written back to its stack (log entry 42). -/
def evicted (s : State) (line : Nat) : State :=
  if s.lines.length ≤ sliceLines then s
  else
    let mine := s.lines.filter fun x => sameSlice s x.1 line
    if mine.length ≤ sliceLines then s
    else
      match mine.getLast? with
      | some x =>
        let s := { s with lines := s.lines.erase x }
        if x.2 then wakeStack { s with writeQueue := s.writeQueue ++ [x.1] } (lineStack x.1) else s
      | none => s

/-- An access to a line at its die's cache. A line that the cache does not hold is allocated, and read from its stack unless a store
covers it whole; a write makes it dirty (13 R279). -/
def touchLine (write : Bool) (l : List Nat) (s : State) (line : Nat) : State :=
  let held := s.lines.any fun x => x.1 == line
  let whole := write && (List.range 256).all fun i => l.contains (256 * line + i)
  let s := if held || whole then s else wakeStack s (lineStack line)
  evicted { s with lines := (line, write || s.lines.contains (line, true)) :: s.lines.filter fun x => x.1 != line } line

/-- Core `n` is awake, and its layer with it; their hold periods begin again (23 Table errors-2). -/
def ungate (s : State) (n : Nat) : State :=
  let at' := (coreDie n, coreLayer n)
  { onCore s n fun c => { c with gated := false } with
    layersGated := s.layersGated.filter (· != at'), idle := s.idle.filter fun x => x.1 != .core n && x.1 != .layerGate at'.1 at'.2 }
/-- An access to the slice of a gated core wakes it. -/
def wakeSlice (s : State) (n : Nat) : State := if (coreAt s n).gated then ungate s n else s

/-- Accesses at the physical addresses of some bytes go through the caches of the dies that own their stacks, and wake the cores whose
slices they reach. -/
def cached (s : State) (write : Bool) (l : List Nat) : State :=
  (((l.filter inStack).map (· / 256)).foldl include1 []).foldl (touchLine write l)
    ((((l.filter inSlice).map (· / 2 ^ 22)).foldl include1 []).foldl wakeSlice s)

/-- The little-endian number at a physical address. -/
def physRead (s : State) (pa n : Nat) : Nat := readLE s.mem pa n
/-- A write of `n` bytes; a granule written whole loses its poison. -/
def physWrite (s : State) (pa n v : Nat) : State :=
  { s with mem := writeLE s.mem pa n v, bad := healed s.bad pa n }
/-- The full bits of every granule the bytes touch, in a slice (10 R222). -/
def markFull (s : State) (pa n : Nat) : State :=
  if inSlice pa then { s with full := includeFrom s.full (granule pa) (granules pa n) } else s
/-- A write by an engine: a plain write that also marks slice granules full. -/
def engineWrite (s : State) (pa n v : Nat) : State := markFull (physWrite s pa n v) pa n

/-- The window address of the frame: what TFB reads as (07 Table scalar-5). -/
def tfb (s : State) (k : Nat) : Word :=
  BitVec.ofNat 64 (windowAddr (coreAt s (k / 4)).logical ((ctxAt s k).tfbOff.toNat * 2 ^ 14))
/-- The physical address of the frame in the own slice. -/
def framePhys (s : State) (k : Nat) : Nat := slicePhys (k / 4) ((ctxAt s k).tfbOff.toNat * 2 ^ 14)

/-! ## Requests -/

/-- A request record replaced. -/
def setReq (s : State) (r : Req) : State := { s with reqs := s.reqs.map fun x => if x.id == r.id then r else x }
def reqAt (s : State) (id : Nat) : Option Req := s.reqs.find? fun r => r.id == id
def dropReq (s : State) (id : Nat) : State := { s with reqs := s.reqs.filter fun r => r.id != id }
def copyAt (s : State) (id : Nat) : Option Copy := s.copies.find? fun c => c.id == id
def setCopy (s : State) (c : Copy) : State := { s with copies := s.copies.map fun x => if x.id == c.id then c else x }
def dropCopy (s : State) (id : Nat) : State := { s with copies := s.copies.filter fun c => c.id != id }

/-- A number that no request, copy or message has had. -/
def fresh (s : State) : State := { s with nextId := s.nextId + 1 }

/-- A value the manual leaves open: opaque, and fresh at every use (log entry 2). -/
def openValue (s : State) : VWord := Config.freeValue s.free
def openUsed (s : State) : State := { s with free := s.free + 1 }
/-- The open value `n` places on. -/
def openAt (s : State) (n : Nat) : VWord := Config.freeValue (s.free + n)

/-! ## Contexts -/

/-- A WAITING context that has an entry to make is READY: its bundle has not issued, and the entry comes before it
(21 R373; for a late fault log entry 36). A WAITING context whose condition clears is found by the selector (06 R124). -/
def wake (c : Ctx) : Ctx := if c.status = .waiting then { c with status := .ready } else c

/-! ## Task counters (17 R338, R339) -/

/-- A task-table entry WAITING on counter `c` becomes READY. -/
def releaseTask (now c : Nat) (t : Task) : Task :=
  if t.status = .waiting ∧ t.counter = c then { t with status := .ready, readyAt := now, boost := 0 } else t

/-- At clock `now` the core comes to hold the value `v` in counter `c`; when it becomes zero from START on, its WAITING entries
become READY and a TWAIT on it may return, in the same step. -/
def setCounterAt (s : State) (now n c v : Nat) : State :=
  let old := ((coreAt s n).counters[c]?).getD 0
  let s := onCore s n fun k => { k with counters := k.counters.setIfInBounds c v }
  if v = 0 ∧ old ≠ 0 ∧ (jobOfCore s n).any (fun j => j.status == .running) then
    onCore s n fun k => { k with tasks := k.tasks.map (releaseTask now c) }
  else s

/-- A counter set now. -/
def setCounter (s : State) (n c v : Nat) : State := setCounterAt s s.clock n c v

/-- A decrement stops at zero; a larger one is logged (17 R339). -/
def decrement (s : State) (n c amount : Nat) : State :=
  let old := ((coreAt s n).counters[c]?).getD 0
  let s' := setCounter s n c (old - amount)
  if old < amount then
    logEntry s' 11 n 0xFFFF ((coreAt s n).job.getD 0) (BitVec.ofNat 64 c) (BitVec.ofNat 64 amount)
  else s'

/-! ## Launches (17 R343) -/

/-- The lowest FREE entry of a task table. -/
def freeSlot (t : Vector Task 64) : Option Nat := (List.range 64).find? fun i => ((t[i]?).map (·.status)) == some .free

/-- A task enters a table's lowest FREE entry, so the task records of an image do in the order of their declarations (DESIGN CHOICE, log entry
46: neither 02 R41 nor 17 R342 says which FREE entry). -/
def enterEntry (t : Vector Task 64) (x : Task) : Option (Vector Task 64) := (freeSlot t).map fun i => t.setIfInBounds i x

/-- The first waiting launch of a logical core of a job, and the launches without it. -/
def takeLaunch (job core : Nat) : List Launch → Option (Launch × List Launch)
  | [] => none
  | l :: r => if l.job = job ∧ l.core = core then some (l, r) else (takeLaunch job core r).map fun x => (x.1, l :: x.2)

/-- Waiting launches of a bound core are entered in the order of their arrival while entries are FREE: READY from now on, or since a
pre-empted job's saved table took them in (17 R350). -/
def offer (s : State) (j : Job) (core : Nat) : Nat → State
  | 0 => s
  | n + 1 =>
    let p := j.binding[core]?.getD 0
    match takeLaunch j.id core s.launches with
    | none => s
    | some (l, rest) =>
      match enterEntry (coreAt s p).tasks { l.task with readyAt := l.arrived.getD s.clock } with
      | none => s
      | some t =>
        let s := onCore { s with launches := rest } p fun q => { q with tasks := t }
        let s := { s with reqs := s.reqs.map fun r => if some r.id = l.req then { r with status := .performed } else r }
        offer s j core n

/-- Entries of physical core `n` have become FREE: they are offered to the launches that wait. -/
def offerCore (s : State) (n : Nat) : State :=
  match jobOfCore s n with
  | some j => offer s j (coreAt s n).logical 64
  | none => s

/-! ## Faults found -/

/-- The number of a cause (21 Table intr-4). -/
def Cause.code : Cause → Nat
  | .illop => 1 | .illbnd => 2 | .illdep => 3 | .illbank => 4 | .loopovf => 5 | .loopunf => 6
  | .perm => 0x10 | .page => 0x11 | .align => 0x12 | .sliceoff => 0x13 | .bankrange => 0x15 | .dfuse => 0x16
  | .stackown => 0x17 | .rackid => 0x21 | .groupid => 0x22 | .parkfull => 0x23 | .ue => 0x30 | .proof => 0x31
  | .matrixbank => 0x38 | .trap => 0x40 | .event => 0x41

/-- TCAUSE as a fault sets it (07 Table scalar-5). -/
def FaultRec.tcause (f : FaultRec) : Nat :=
  f.cause.code + 2 ^ 8 * f.code.toNat + 2 ^ 20 * (f.pos % 16) + (if f.late then 2 ^ 24 else 0)

/-! ## Retirement (23 R409) -/

/-- The die's spare column stands in for no column yet. -/
def spareFree (s : State) (die : Nat) : Bool := !(s.health.spares.any fun x => x.1 == die)

/-- The service stores of the two cores of a column, which becomes active, are loaded where those of the part are (01 R13,
03 R69; DEDUCED, log entry 44). -/
def loadColumn (s : State) (die col : Nat) : State :=
  let load := fun (s : State) (n : Nat) => onCore s n fun c => { c with storeOk := c.storeOk || s.health.ready }
  load (load s (64 * die + col)) (64 * die + 32 + col)

/-- Core `n` is retired if it is marked and no job is bound to it: with its whole column where the spare stands in. A marked core of
the unused spare column itself is retired once that column stands in for another (DESIGN CHOICE, log entry 44). The cores of the
spare column are active from then on, and their service stores are loaded as those of every active core are (DEDUCED, log entry
44). -/
def retireCore (s : State) (n : Nat) : State :=
  let c := coreAt s n
  let other := if coreLayer n = 0 then n + 32 else n - 32
  if !c.marked || c.retired || c.job.isSome then s
  else if spareFree s (coreDie n) then
    if (coreAt s other).job.isSome || coreCol n == (Config.spareColumn (coreDie n)).val then s
    else
      let s := onCore (onCore s n fun c => { c with retired := true }) other fun c => { c with retired := true }
      let s := loadColumn s (coreDie n) (Config.spareColumn (coreDie n)).val
      logEntry (configChanged s { s.health with retired := s.health.retired + 2, spares := s.health.spares ++ [(coreDie n, coreCol n)] })
        6 n 0xFFFF 0 0 0
  else
    let s := onCore s n fun c => { c with retired := true }
    logEntry (configChanged s { s.health with retired := s.health.retired + 1, replace := true }) 6 n 0xFFFF 0 0 0

/-- CORE_RETIREMENT: every marked core that no job is bound to; those of a spare column that has come to stand in follow. -/
def retireMarked (s : State) : State := ((s.cores ++ s.cores).map (·.1)).foldl retireCore s

/-! ## The end of a job (03 R55, R56, 23 R412, 13 R289) -/

/-- What a PROOF entry does: the mismatch is logged (23 R408). -/
def logProof (s : State) (n k : Nat) (seed : Word) : State :=
  logEntry s 5 n (ctxId s k) ((coreAt s n).job.getD 0) seed (BitVec.ofNat 64 (coreAt s n).fails.toNat)

/-- The mismatches of core `n` whose PROOF entries still wait are logged before a job leaves it. -/
def logProofs (s : State) (n : Nat) : State :=
  (coreAt s n).services.foldl (fun s x => match x with | .proof k seed => logProof s n k seed | _ => s) s

/-- A core that a job leaves: its state goes, its counts of errors and its retirement mark stay. -/
def freeCore (c : Core) : Core :=
  { Core.reset with fails := c.fails, corrected := c.corrected, uncorrected := c.uncorrected, marked := c.marked,
                    retired := c.retired, gated := c.gated, last := c.last, storeOk := c.storeOk }

/-- Physical core `n` is freed: contexts, tiles and slice bytes are cleared (03 R56 step 4, R60). -/
def releaseCore (s : State) (n : Nat) : State :=
  let lo := slicePhys n 0
  let hi := slicePhys (n + 1) 0
  let s := onCore s n freeCore
  { s with ctxs := s.ctxs.filter fun e => e.1 / 4 != n
           tiles := s.tiles.filter fun e => e.1 / 16 != n
           mem := clearRange s.mem lo hi
           full := exclude s.full (lo / 16) (hi / 16)
           bad := exclude s.bad (lo / 16) (hi / 16) }

/-- A stack's bytes and poison marks become zero (23 R402), which accesses the stack (R410). -/
def zeroStack (s : State) (stack : Nat) : State :=
  let lo := stackPhys stack 0
  let hi := stackPhys (stack + 1) 0
  { wakeStack s stack with
           mem := clearRange s.mem lo hi, bad := exclude s.bad (lo / 16) (hi / 16)
           lines := s.lines.filter (fun x => lineStack x.1 != stack), writeQueue := s.writeQueue.filter fun x => lineStack x != stack }

/-- A stack of an ended job: zeroed and freed at once at its home die, else handed home first (13 R289). -/
def returnStack (id : Nat) (s : State) (stack : Nat) : State :=
  if ownerDie s stack = homeDie stack ∧ !(s.handovers.any fun h => h.stack == stack) then
    let s := zeroStack s stack
    match jobAt s id with
    | none => s
    | some j => setJob s { j with holds := j.holds.filter fun h => h.1 != stack }
  else
    { s with handovers := s.handovers ++ [⟨stack, id, homeDie stack, 0, true, s.clock, .jobEnd⟩] }

/-- A hand-over that has not begun step 1 is abandoned; one that has begun runs on, its decrement discarded and its host
command answered with the job's end (13 R286, 03 R56). -/
def dropHandover (id : Nat) (h : Handover) : Option Handover :=
  if h.job ≠ id then some h
  else if h.step = 0 then none
  else some { h with source := match h.source with
      | .context i k c a b ih te _ => .context i k c a b ih te true
      | .host _ => .answered
      | src => src }

/-- The other outstanding commands of a job complete with ABORTED (03 R56 step 3). -/
def abortCommands (s : State) (j : Job) : State :=
  let s := s.hostCopies.foldl (fun s h => if h.job = j.id then complete s h.cmd stAborted j.id [] else s) s
  let s := s.handovers.foldl (fun s h => match h.source with
      | .host p => if h.job = j.id then complete s p stAborted j.id [] else s
      | _ => s) s
  match j.preempt with
  | some (p, _) => complete s p stAborted j.id []
  | none => s

/-- The released packets into stacks that are to be zeroed count as performed: nobody sees their bytes (03 R56 step 4). -/
def endPackets (s : State) (j : Job) : State :=
  let mine := fun (p : Packet) => p.status == .released && p.place.any fun pa => j.holds.any fun h => h.1 == physStack pa
  { s with packets := s.packets.map fun p => if mine p then { p with status := .performed } else p }

/-- The messages of other parts that wait for an entry of a job which ends: their job does not exist any more (17 R350). -/
def refusedLaunches (s : State) (j : Job) : List Launch := s.launches.filter fun l => l.job == j.id && l.req.isNone

/-- The refusal of a message of another part is logged: its part, and the handler that it names (17 R350). -/
def logRefused (job : Nat) (s : State) (l : Launch) : State :=
  logEntry s 13 0xFF (4 * l.core + l.task.bound.getD 0) job (BitVec.ofNat 64 (l.task.sender.toNat / 2 ^ 16)) l.task.handler

/-- Everything a job holds is freed (03 R56 step 4): cores, requests, copies, messages, racks, groups, barriers,
apertures; its stacks go home. The job is ENDED. -/
def releaseJob (s : State) (j : Job) : State :=
  let gone := fun k => j.binding.contains (k / 4)
  let s := (refusedLaunches s j).foldl (logRefused j.id) (endPackets (j.binding.foldl logProofs s) j)
  let s := { s with
    reqs := s.reqs.filter fun r => !gone r.ctx
    ghosts := s.ghosts.filter fun r => !gone r.ctx
    prefetches := s.prefetches.filter fun x => x.job != j.id
    copies := s.copies.filter fun c => !gone c.ctx
    messages := s.messages.filter fun m => m.job != j.id
    launches := s.launches.filter fun l => l.job != j.id
    updates := s.updates.filter fun u => u.job != j.id
    hostCopies := s.hostCopies.filter fun h => h.job != j.id
    handovers := s.handovers.filterMap (dropHandover j.id)
    routes := s.routes.filter fun r => r.job != j.id }
  let s := j.binding.foldl releaseCore s
  let s := setJob s { j with status := .ended, binding := [], pages := [], racks := [], groups := [], barriers := [],
                             tiles := [], masks := [], apertures := 0, start := none, kill := [], preempt := none, former := [],
                             saved := [] }
  retireMarked ((j.holds.map (·.1)).foldl (returnStack j.id) s)

/-- The end of a job as KILL ends it (03 R56): with an end code the device ends it, START completes with JOBERR and
JERR is updated; without one START completes with ABORTED. -/
def abortJob (s : State) (id : Nat) (code : Option Nat) : State :=
  match jobAt s id with
  | none => s
  | some j =>
    if j.status = .ended then s
    else
      let s := match j.start, code with
        | some p, some c => complete s p stJobErr id (leBytes 8 (timeNow s) ++ leBytes 2 c)
        | some p, none => complete s p stAborted id []
        | none, _ => s
      let s := match code with
        | some c => configChanged (logEntry s 4 0xFF 0xFFFF id 0 (BitVec.ofNat 64 c))
            { s.health with jerrId := id, jerrCount := min 65535 (s.health.jerrCount + 1), jerrCode := c }
        | none => s
      let s := j.kill.foldl (fun s x => complete s x.1 stAborted id []) s
      releaseJob (abortCommands s j) j

/-! ## Late faults (06 R111, R112, 21 R382-R384) -/

/-- A fault put in its place in the order of R112: by the issue of its bundle, then MASK order. -/
def insertFault (f : FaultRec) : List FaultRec → List FaultRec
  | [] => [f]
  | g :: l => if g.order ≤ f.order then g :: insertFault f l else f :: g :: l
/-- Faults added to a held list in the order of R112. -/
def holdAll (held l : List FaultRec) : List FaultRec := l.foldl (fun h f => insertFault f h) held

/-- The running task of context `k` carries the retried mark. -/
def retriedTask (s : State) (k : Nat) : Bool :=
  match (ctxAt s k).task with
  | some t => ((coreAt s (k / 4)).tasks[t]?.getD Task.reset).retried
  | none => false

/-- A late fault of context `k` is found (06 R111): a UE of a task that carries the retried mark ends the job (23 R405); one that
belongs to interrupted code while a handler runs is held in its shadow, beside those that the frame lists, and a 33rd held fault
ends the job (21 R383); a waiting context becomes READY so that it is delivered, but stays WAITING while its fence is in progress
(14 R304). -/
def lateFault (s : State) (k : Nat) (f : FaultRec) : State :=
  if f.cause = .ue ∧ retriedTask s k = true then abortJob s ((coreAt s (k / 4)).job.getD 0) (some 0x84)
  else if (ctxAt s k).h && !f.inHandler then
    if 32 ≤ (ctxAt s k).heldSaved.length + (ctxAt s k).held.length then abortJob s ((coreAt s (k / 4)).job.getD 0) (some f.cause.code)
    else onCtx s k fun c => { c with held := insertFault { f with load := none } c.held }
  else onCtx s k fun c => if c.fence.isNone then wake { c with late := c.late ++ [f] } else { c with late := c.late ++ [f] }

/-- The handler epoch of the code that a context runs (21 R382). -/
def Ctx.epoch (c : Ctx) : Epoch := ⟨c.h, c.entries⟩

/-- The fault record of an operation of the bundle now issuing. -/
def faultNow (s : State) (cause : Cause) (addr : Word) (late : Bool) : FaultRec :=
  ⟨cause, 0, addr, s.cur.h, s.cur.pos, late, (ctxAt s s.cur.key).epoch, s.nextId, none⟩

/-- The operation now issuing has a late fault and no effect. -/
def lateNow (s : State) (cause : Cause) (addr : Word) : State := lateFault s s.cur.key (faultNow s cause addr true)

end Sys2Proof.Machine
end

