-- ==== Sys2Proof/Machine/Operands.lean ====
section
/-! DEFINITION. The operands: registers as an operation reads them, results in flight and their landing, immediates,
lanes and guards, and what each operation reads and writes (06 Table issue-1). -/

namespace Sys2Proof.Machine

/-! ## Registers (07 R148) -/

/-- A scalar register: s0 reads zero. -/
def sVal (c : Ctx) (r : Nat) : Word := if r = 0 then 0 else c.s[r]?.getD 0
/-- The deferred-fault bit of a scalar register: never set for s0. -/
def sDf (c : Ctx) (r : Nat) : Bool := r != 0 && c.sdf.getLsbD r
/-- A predicate: p0 reads all ones. -/
def pVal (c : Ctx) (r : Nat) : BitVec 128 := if r = 0 then BitVec.allOnes 128 else c.p[r]?.getD 0
/-- The number of bytes a stream's pattern holds (10 R245). -/
def patternBytes (f : Vector Word 8) : Nat :=
  let m := bits f[0] 15 8
  bits f[0] 7 0 * f[1].toNat * (if 2 ≤ m then f[2].toNat else 1) * (if 3 ≤ m then f[3].toNat else 1)
/-- The stream takes no more vectors: the last one is queued, or one is lost, and the binding has ended (10 R247). -/
def Stream.closed (st : Stream) : Bool := st.out && (st.fault.isSome || decide (patternBytes st.pattern ≤ st.pos + 256 * st.queue.length))
/-- An output stream has no vector to write, nor a fault to deliver. -/
def Stream.drained (st : Stream) : Bool := st.queue.isEmpty && st.fault.isNone
/-- The stream bound to a vector register, if any (10 R245). -/
def streamOf (c : Ctx) (r : Nat) : Option Stream :=
  if 56 ≤ r then ((c.streams[r - 56]?).getD none).filter fun st => !st.closed else none
/-- A vector register: the head of the queue where an input stream is bound (10 R246). -/
def vVal (c : Ctx) (r : Nat) : VWord :=
  match streamOf c r with
  | some st => if st.out then c.v[r]?.getD 0 else st.queue.head?.getD 0
  | none => c.v[r]?.getD 0
/-- The deferred-fault bit of a vector register; a register bound to an input stream has the bit that it had at BIND (DESIGN CHOICE,
log entry 53). -/
def vDf (c : Ctx) (r : Nat) : Bool := c.vdf.getLsbD r
/-- Field `j` of engine register `e` (10 R238). -/
def eVal (c : Ctx) (e j : Nat) : Word := c.e[8 * e + j]?.getD 0
/-- Eight things, given one by one. -/
def vec8 {α : Type} (f : Nat → α) : Vector α 8 := ⟨#[f 0, f 1, f 2, f 3, f 4, f 5, f 6, f 7], rfl⟩
/-- The eight fields of an engine register. -/
def eAll (c : Ctx) (e : Nat) : Vector Word 8 := vec8 (eVal c e)
def scVal (c : Ctx) (r : Nat) : Scale := c.sc[r]?.getD Scale.reset

/-- The state whose memory a bundle reads at its issue: that in which the checked bundle began (00 R7). -/
def asIssued (s : State) : State := if s.cur.checked then { s with mem := s.cur.mem, bad := s.cur.bad } else s
/-- The arrival-phase records of the issuing context as they stand at the issue of its bundle. -/
def arrivalsIssued (s : State) : List Arrival := if s.cur.checked then s.cur.arrivals else (ctxAt s s.cur.key).arrivals

/-- The context whose bundle is issuing, and its registers as read at issue. -/
abbrev me (s : State) : Ctx := ctxAt s s.cur.key
def readS (s : State) (r : Nat) : Word := sVal (me s) r
def readV (s : State) (r : Nat) : VWord := vVal (me s) r
def readP (s : State) (r : Nat) : BitVec 128 := pVal (me s) r
def deferS (s : State) (r : Nat) : Bool := sDf (me s) r
def deferV (s : State) (r : Nat) : Bool := vDf (me s) r

/-! ## Immediates -/

/-- sext(imm11, 11) and sext(imm32, 32) (07 R154). -/
abbrev ext11 (i : BitVec 11) : Word := i.signExtend 64
abbrev ext32 (i : BitVec 32) : Word := i.signExtend 64
/-- The address of a short M form: base plus scale times the offset (10 R224). -/
def shortAddr (s : State) (a : Nat) (k : Nat) (o : BitVec 11) : Word := readS s a + BitVec.ofNat 64 k * ext11 o
/-- The address of a long M form. -/
def longAddr (s : State) (a : Nat) (imm : BitVec 32) : Word := readS s a + ext32 imm

/-! ## Lanes (09 R191, R192) -/

/-- A vector of `n` lanes of `w` bits from the lane values. -/
def packLanes (w : Nat) : List Nat → Nat
  | [] => 0
  | x :: l => x % 2 ^ w + 2 ^ w * packLanes w l
/-- The lanes of a number. -/
def unpackLanes (w : Nat) : Nat → Nat → List Nat
  | 0, _ => []
  | n + 1, x => x % 2 ^ w :: unpackLanes w n (x / 2 ^ w)
/-- The width of a lane of a type. -/
def laneWidth (t : Fin 4) : Nat := if t.val = 0 ∨ t.val = 3 then 32 else 16
/-- The lanes of a vector register of type `t`. -/
def lanes (t : Fin 4) (x : VWord) : List Nat := unpackLanes (laneWidth t) (laneCount t) x.toNat
/-- Lane `i` is selected by a guard bit pattern: bit 2i for 32-bit lanes, bit i for 16-bit lanes. -/
def selected (w : Nat) (g : BitVec 128) (i : Nat) : Bool := g.getLsbD (if w = 32 then 2 * i else i)
/-- The write mask of the selected lanes. -/
def laneMask (w n : Nat) (sel : Nat → Bool) : VWord :=
  BitVec.ofNat 2048 (packLanes w ((List.range n).map fun i => if sel i then 2 ^ w - 1 else 0))

/-! ## Results in flight (06 R114-R116, R127) -/

/-- The context holds `x` with the bits of `mask` replaced by `v`. -/
def blend {w : Nat} (x v mask : BitVec w) : BitVec w := (x &&& ~~~mask) ||| (v &&& mask)

/-- Bit `i` of a set of deferred-fault bits. -/
def setDf (d : BitVec 64) (i : Nat) (b : Bool) : BitVec 64 :=
  if b then d ||| BitVec.ofNat 64 (2 ^ i) else d &&& ~~~(BitVec.ofNat 64 (2 ^ i))

/-- Device time in ns of a clock (00 R4). -/
def nsOf (clock : Nat) : Nat := clock * 4 / 9

/-- What the hardware raises in a context in a clock, beside what it has raised in the same clock (07 R165). -/
def Raised.add (r : Raised) (clock : Nat) (events : BitVec 4) (flags : BitVec 6) : Raised :=
  if clock < r.clock then r
  else if r.clock = clock then ⟨clock, r.events ||| events, r.flags ||| flags⟩ else ⟨clock, events, flags⟩

/-- Flags that come with no result of the context's own cycles are ORed into FPSTAT (07 R165). -/
def raiseFlags (clock : Nat) (c : Ctx) (flags : BitVec 6) : Ctx :=
  { c with fpstat := c.fpstat ||| flags, raised := c.raised.add clock 0 flags }

/-- The event bits and the flags that the hardware has raised in this very clock. -/
def raisedNow (clock : Nat) (c : Ctx) : BitVec 4 × BitVec 6 := if c.raised.clock = clock then (c.raised.events, c.raised.flags) else (0, 0)

/-- TIMER set to `n` ns: zero stops it (07 R165). The deadline in device time is kept, or while TIMER stands still the ns left. -/
def timerSet (now : Nat) (frozen : Bool) (n : Nat) : Option Nat := if n = 0 then none else some (if frozen then n else now + n)

/-- TIMER has reached zero and EPEND.TIMER is not yet set. -/
def timerDue (now : Nat) (c : Ctx) : Bool := !c.frozen && c.timerAt.any fun t => t ≤ now

/-- TIMER has reached zero: EPEND.TIMER is set (07 R165). -/
def expireTimer (clock : Nat) (c : Ctx) : Ctx := { c with timerAt := none, epend := c.epend ||| 1, raised := c.raised.add clock 1 0 }

/-- The value lands in special register `n` under the access codes of Table scalar-5 (07 R163-R166): what the hardware raises
in the same clock stays raised, and a TIMER that has reached zero sets its event first. -/
def landSpecial (clock : Nat) (c : Ctx) (n : Nat) (v : Word) : Ctx :=
  match n with
  | 5 => { c with fpstat := v.setWidth 6 ||| (raisedNow clock c).2 }
  | 6 => { c with tvec := v &&& ~~~3 }
  | 7 => { c with evec := v &&& ~~~3 }
  | 8 => { c with emask := v.setWidth 4 }
  | 9 => { c with epend := (c.epend &&& ~~~(v.setWidth 4) &&& 7) ||| (v.setWidth 4 &&& 8) ||| (raisedNow clock c).1 }
  | 10 => { c with tfbOff := (v >>> 14).setWidth 8 }
  | 11 => { c with tcause := v.setWidth 25 }
  | 12 => { c with taddr := v }
  | 13 =>
    let c := if timerDue (nsOf clock) c then expireTimer clock c else c
    { c with timerAt := timerSet (nsOf clock) c.frozen v.toNat }
  | _ => c

/-- A scale register as the 1,056 bits of a flight: BS then SS. -/
def scaleBits (x : Scale) : VWord := BitVec.ofNat 2048 (x.bs.toNat + 2 ^ 1024 * x.ss.toNat)
def scaleOf (x : VWord) : Scale := ⟨x.setWidth 1024, (x >>> 1024).setWidth 32⟩

/-- A vector lands in register `r`: at the tail of the queue of an output stream bound to it (10 R247), which keeps no deferred-fault
bit: the register's own bit stays as it is (DESIGN CHOICE, log entry 53). -/
def landVector (c : Ctx) (r : Nat) (v mask : VWord) (df : Bool) : Ctx :=
  let c' := { c with v := c.v.setIfInBounds r (blend (c.v[r]?.getD 0) v mask), vdf := setDf c.vdf r df }
  match streamOf c r with
  | some st =>
    if st.out then
      { c with streams := c.streams.setIfInBounds (r - 56) (some { st with queue := st.queue ++ [v] }) }
    else c'
  | none => c'

/-- One result lands: value, deferred-fault bit and flags together. -/
def landFlight (clock : Nat) (c : Ctx) (f : Flight) : Ctx :=
  let c := match f.dest.file with
    | .scalar =>
      if f.dest.ix = 0 then c
      else { c with s := c.s.setIfInBounds f.dest.ix (f.value.setWidth 64), sdf := setDf c.sdf f.dest.ix f.df }
    | .vector => landVector c f.dest.ix f.value f.mask f.df
    | .pred => if f.dest.ix = 0 then c else { c with p := c.p.setIfInBounds f.dest.ix (f.value.setWidth 128) }
    | .scale => { c with sc := c.sc.setIfInBounds f.dest.ix
                           (scaleOf (blend (scaleBits (scVal c f.dest.ix)) f.value f.mask)) }
    | .engine => { c with e := c.e.setIfInBounds f.dest.ix (f.value.setWidth 64) }
    | .special => landSpecial clock c f.dest.ix (f.value.setWidth 64)
    | .tile => c
  { c with fpstat := c.fpstat ||| f.flags }

/-- A result that is due: it is seen by the bundle of the next context cycle. -/
def dueFlight (c : Ctx) (f : Flight) : Bool := f.land ≤ c.ccyc + 1

/-- An MTS to FPSTAT is applied before flags landing in the same cycle (07 R165); otherwise landing order, and among
results of one cycle the order of issue (06 R116). -/
def flightBefore (f g : Flight) : Bool :=
  f.land < g.land || (f.land == g.land &&
    ((f.dest == ⟨.special, 5⟩ && g.dest != ⟨.special, 5⟩)
      || (!(g.dest == ⟨.special, 5⟩ && f.dest != ⟨.special, 5⟩) && f.order ≤ g.order)))

/-- A result put in its place in landing order. -/
def insertFlight (f : Flight) : List Flight → List Flight
  | [] => [f]
  | g :: l => if flightBefore f g then f :: g :: l else g :: insertFlight f l

/-- The results of a context in landing order. -/
def inOrder (l : List Flight) : List Flight := l.foldr insertFlight []

/-- Every due result lands. -/
def landDue (clock : Nat) (c : Ctx) : Ctx :=
  (inOrder (c.flights.filter (dueFlight c))).foldl (landFlight clock) { c with flights := c.flights.filter fun f => !dueFlight c f }

/-- The operation now issuing sends a result toward `dest`, to land `lat` context cycles after its own (06 R114).
A destination s0 or p0 is written by nothing (07 R148), but its flags land. -/
def result (s : State) (dest : Item) (lat : Nat) (value mask : VWord) (df : Bool) (flags : BitVec 6) : State :=
  { onCtx s s.cur.key fun c =>
      { c with flights := c.flights ++ [⟨dest, value, mask, df, flags, c.ccyc + 1 + lat, s.nextId⟩] } with
    nextId := s.nextId + 1 }

/-- A scalar result. -/
def resultS (s : State) (d lat : Nat) (v : Word) (df : Bool) : State :=
  if d = 0 then s else result s ⟨.scalar, d⟩ lat (v.setWidth 2048) (BitVec.allOnes 2048) df 0
/-- A predicate result that raises no flags; the flags of a VCMP travel with its result even toward p0 (Vector, execVcmp). -/
def resultP (s : State) (d lat : Nat) (v : BitVec 128) : State :=
  if d = 0 then s else result s ⟨.pred, d⟩ lat (v.setWidth 2048) (BitVec.allOnes 2048) false 0
/-- A vector result: the bits of `mask` are written. -/
def resultV (s : State) (d lat : Nat) (v mask : VWord) (df : Bool) (flags : BitVec 6) : State :=
  result s ⟨.vector, d⟩ lat v mask df flags

/-! ## What each operation reads and writes (06 Table issue-1) -/

/-- The registers an operation reads and writes, by file; `strict` says that a deferred-faulted scalar or vector
source traps DFUSE at issue (07 R149, 09 R193, 10 R224, 15 R313, 17 R344). -/
structure Uses where
  tag : Tag := 0
  rs : List Nat := []
  rv : List Nat := []
  rp : List Nat := []
  rc : List Nat := []
  re : List Nat := []
  rt : List Nat := []
  rx : List Nat := []
  ws : List Nat := []
  wv : List Nat := []
  wp : List Nat := []
  wc : List Nat := []
  we : List Nat := []
  wt : List Nat := []
  wx : List Nat := []
  strict : Bool := false
  /-- a guarded or partial write of a vector register (09 R193, 10 R247) -/
  part : Bool := false
  /-- a write of every lane of a vector register under a guard g ≠ 0 (09 R218, 10 R247) -/
  guarded : Bool := false

def usesAlu3 (d a b : SReg) (p : Tag) : Uses := { tag := p, rs := [a, b], ws := [d] }
def usesAlu2 (d a : SReg) (p : Tag) : Uses := { tag := p, rs := [a], ws := [d] }
def usesLoad (d a : SReg) (p : Tag) : Uses := { tag := p, rs := [a], ws := [d], strict := true }
def usesSpec (d a : SReg) (p : Tag) : Uses := { tag := p, rs := [a], ws := [d] }
def usesStore (d a : SReg) (p : Tag) : Uses := { tag := p, rs := [a, d], strict := true }
def usesVload (d : VReg) (a : SReg) (p : Tag) : Uses := { tag := p, rs := [a], wv := [d], strict := true }
def usesVstore (d : VReg) (a : SReg) (p : Tag) : Uses := { tag := p, rs := [a], rv := [d], strict := true }
def usesAtom (d a b : SReg) (p : Tag) : Uses := { tag := p, rs := [a, b], ws := [d], strict := true }
def usesVatom (d : VReg) (a : SReg) (b : VReg) (p : Tag) : Uses :=
  { tag := p, rs := [a], rv := [b, d], wv := [d], strict := true }
def usesV3 (d a b : VReg) (g : Fin 8) (p : Tag) : Uses :=
  { tag := p, rv := [a, b], rp := [g], wv := [d], part := g.val != 0 }
def usesFma (d a b : VReg) (g : Fin 8) (p : Tag) : Uses :=
  { tag := p, rv := [a, b, d], rp := [g], wv := [d], part := g.val != 0 }
def usesV2 (d a : VReg) (g : Fin 8) (p : Tag) : Uses := { tag := p, rv := [a], rp := [g], wv := [d], part := g.val != 0 }
def usesVs (d a : VReg) (x : SReg) (g : Fin 8) (p : Tag) : Uses :=
  { tag := p, rs := [x], rv := [a], rp := [g], wv := [d], part := g.val != 0 }
def usesF (d a : VReg) (g : Fin 8) (p : Tag) : Uses := { tag := p, rv := [a], rp := [g], wv := [d], part := g.val != 0 }
/-- A reduction writes every lane (09 R218). -/
def usesRed (d a : VReg) (g : Fin 8) (p : Tag) : Uses := { tag := p, rv := [a], rp := [g], wv := [d], guarded := g.val != 0 }
def usesP3 (d a b : PReg) (p : Tag) : Uses := { tag := p, rp := [a, b], wp := [d] }

/-- The scale register that an MMA of pair 2 without a tile handle reads: f2[23:16] (06 Table issue-1, 11 R267). -/
def mmaScale (c : Ctx) (e : Fin 16) (w : Fin 8) : List Nat :=
  if w.val = 2 ∧ bits (eVal c e 2) 0 0 = 0 then [bits (eVal c e 2) 23 16] else []

/-- What a slot operation reads and writes; none for a step of the host, the engines or the fabric. -/
def uses (c : Ctx) : Instr → Option Uses
  | .nop _ => some {}
  | .add d a b p | .sub d a b p | .and d a b p | .or d a b p | .xor d a b p | .andn d a b p | .shl d a b p
  | .shr d a b p | .sra d a b p | .rol d a b p | .min d a b p | .max d a b p | .minn d a b p | .maxn d a b p
  | .addw d a b p | .subw d a b p | .mul d a b p | .mulh d a b p | .mulhn d a b p => some (usesAlu3 d a b p)
  | .clz d a p | .ctz d a p | .popc d a p | .bswap d a p => some (usesAlu2 d a p)
  | .addi d a _ p | .andi d a _ p | .ori d a _ p | .xori d a _ p => some (usesAlu2 d a p)
  | .shli d a _ p | .shri d a _ p | .srai d a _ p | .roli d a _ p => some (usesAlu2 d a p)
  | .addiLong d a p _ | .andiLong d a p _ | .oriLong d a p _ | .xoriLong d a p _ | .ldhi d a p _ => some (usesAlu2 d a p)
  | .ldi d _ p | .ldiLong d p _ => some { tag := p, ws := [d] }
  | .cmp d a b _ p => some { tag := p, rs := [a, b], wp := [d], strict := true }
  | .cmpAnd d a b _ p => some { tag := p, rs := [a, b], rp := [d], wp := [d], strict := true }
  | .cmpi d a _ _ p | .cmpiLong d a _ p _ => some { tag := p, rs := [a], wp := [d], strict := true }
  | .pand d a b p | .por d a b p | .pxor d a b p | .pandn d a b p => some (usesP3 d a b p)
  | .pnot d a p | .pfirst d a p => some { tag := p, rp := [a], wp := [d] }
  | .pset d p | .pclr d p => some { tag := p, wp := [d] }
  | .pfroms d a b p => some { tag := p, rs := [a, b], wp := [d], strict := true }
  | .pcount d a p => some { tag := p, rp := [a], ws := [d] }
  | .sels d a b g p => some { tag := p, rs := [a, b], rp := [g], ws := [d] }
  | .mfs d n p => some { tag := p, rx := [n], ws := [d] }
  | .mts a n p => some { tag := p, rs := [a], wx := [n], strict := true }
  | .loop a _ p => some { tag := p, rs := [a], strict := true }
  | .loopi _ _ p | .loopiLong _ p _ | .brklp p | .trap _ p | .rft p | .yield p | .tend p | .fencel p | .fenceh _ p
  | .svc _ p | .svcNop p | .svcLog p | .svcProbe p | .svcTouch p => some { tag := p }
  | .waitc a _ p => some { tag := p, rs := [a], strict := true }
  | .bt c _ | .bf c _ | .bany c _ | .ball c _ => some { rp := [c] }
  | .j _ => some {}
  | .call _ => some { ws := [63] }
  | .chk c _ => some (if c.val < 64 then { rs := [c] } else { rv := [c.val - 64] })
  | .jr l k => some { rs := [k], ws := if l.val = 1 then [63] else [], strict := true }
  | .ldb d a _ p | .ldbn d a _ p | .ldh d a _ p | .ldhn d a _ p | .ldw d a _ p | .ldwn d a _ p | .ldd d a _ p
  | .ldfe d a _ p | .ldfec d a _ p => some (usesLoad d a p)
  | .ldbLong d a p _ | .ldbnLong d a p _ | .ldhLong d a p _ | .ldhnLong d a p _ | .ldwLong d a p _
  | .ldwnLong d a p _ | .lddLong d a p _ | .ldfeLong d a p _ | .ldfecLong d a p _ => some (usesLoad d a p)
  | .ldacq d a _ _ p => some (usesLoad d a p)
  | .stb d a _ p | .sth d a _ p | .stw d a _ p | .std d a _ p | .stf d a _ p | .strel d a _ _ p => some (usesStore d a p)
  | .stbLong d a p _ | .sthLong d a p _ | .stwLong d a p _ | .stdLong d a p _ | .stfLong d a p _ =>
    some (usesStore d a p)
  | .lds d a _ p | .ldsLong d a p _ => some (usesSpec d a p)
  | .vld d a _ p | .vldfe d a _ p | .vldfec d a _ p => some (usesVload d a p)
  | .vldLong d a p _ | .vldfeLong d a p _ | .vldfecLong d a p _ => some (usesVload d a p)
  | .vlds d a _ p | .vldsLong d a p _ => some { usesVload d a p with strict := false }
  | .vst d a _ p | .vstf d a _ p | .vstLong d a p _ | .vstfLong d a p _ => some (usesVstore d a p)
  | .vldb d _ x _ p => some (usesVload d x p)
  | .vstb d _ x _ p => some (usesVstore d x p)
  | .vgath d a b g _ p => some { tag := p, rs := [a], rv := [b], rp := [g], wv := [d], part := g.val != 0 }
  | .vscat d a b g _ p => some { tag := p, rs := [a], rv := [b, d], rp := [g], strict := true }
  | .atomAdd d a b _ p | .atomMin d a b _ p | .atomMax d a b _ p | .atomMinn d a b _ p | .atomMaxn d a b _ p
  | .atomAnd d a b _ p | .atomOr d a b _ p | .atomXor d a b _ p | .atomSwap d a b _ p => some (usesAtom d a b p)
  | .cas d a b _ p => some { usesAtom d a b p with rs := [a, b, d] }
  | .vatomAdd d a b _ p | .vatomAnd d a b _ p | .vatomOr d a b _ p | .vatomMax d a b _ p => some (usesVatom d a b p)
  | .rkopen d a p => some (usesLoad d a p)
  | .rktake d a p => some { tag := p, rs := [a], ws := [d, d.val + 1, d.val + 2], strict := true }
  | .rkpub a p | .rkdrop a p | .barv a p => some { tag := p, rs := [a], strict := true }
  | .binit d a b p => some { tag := p, rs := [a, b, d], strict := true }
  | .bwait d a p => some (usesLoad d a p)
  | .pref a _ p | .prefLong a p _ => some { tag := p, rs := [a] }
  | .vadd d a b _ g p | .vsub d a b _ g p | .vmul d a b _ g p | .vmin d a b _ g p | .vmax d a b _ g p
  | .vand d a b _ g p | .vor d a b _ g p | .vxor d a b _ g p | .vshl d a b _ g p | .vshr d a b _ g p
  | .vsra d a b _ g p | .vperm d a b _ g p => some (usesV3 d a b g p)
  | .vfma d a b _ g p | .vfms d a b _ g p | .vfnma d a b _ g p => some (usesFma d a b g p)
  | .vabs d a _ g p | .vneg d a _ g p | .vcvt d a _ _ g p => some (usesV2 d a g p)
  | .vcmp d a b _ _ p => some { tag := p, rv := [a, b], wp := [d], strict := true }
  | .vsel d a b _ g p => some { tag := p, rv := [a, b], rp := [g], wv := [d] }
  | .vadds d a x _ g p | .vmuls d a x _ g p | .vslide d a x _ g p => some (usesVs d a x g p)
  | .vfmas d a x _ g p => some { usesVs d a x g p with rv := [a, d] }
  | .vbcast d x _ g p => some { tag := p, rs := [x], rp := [g], wv := [d], part := g.val != 0 }
  | .vaddsLong d a _ g p _ | .vmulsLong d a _ g p _ => some (usesV2 d a g p)
  | .vfmasLong d a _ g p _ => some { usesV2 d a g p with rv := [a, d] }
  | .vbcastLong d _ g p _ | .viota d _ g p => some { tag := p, rp := [g], wv := [d], part := g.val != 0 }
  | .vext d a b _ p => some { tag := p, rs := [b], rv := [a], ws := [d] }
  | .vins d a b _ p => some { tag := p, rs := [a, b], rv := [d], wv := [d], part := true }
  | .kunp d a _ _ _ p => some { tag := p, rv := [a], wv := [d] }
  | .kunpq d a _ _ c p => some { tag := p, rv := [a], rc := [c], wv := [d] }
  | .klds d a _ p | .kldss d a _ p => some { tag := p, rs := [a], wc := [d], strict := true }
  | .qpk d a _ _ _ _ _ p => some { tag := p, rv := [a, d], wv := [d], part := true }
  | .qpkq d a _ _ c p => some { tag := p, rv := [a, d], rc := [c], wv := [d], part := true }
  | .qamax d a _ _ c p => some { tag := p, rv := [a], rc := [c], wc := [d], strict := true }
  | .qsts d a _ p => some { tag := p, rs := [a], rc := [d], strict := true }
  | .frcp d a _ g p | .frsq d a _ g p | .fsqrt d a _ g p | .fexp2 d a _ g p | .flog2 d a _ g p | .fsin d a _ g p
  | .fcos d a _ g p | .ftanh d a _ g p => some (usesF d a g p)
  | .fsum d a _ g p | .fmaxr d a _ g p | .fminr d a _ g p | .fscan d a _ g p => some (usesRed d a g p)
  | .ewr e a _ p => some { tag := p, rs := [a], we := [e], strict := true }
  | .erd e d _ p => some { tag := p, re := [e], ws := [d] }
  | .copy e a b _ p | .copyRack e a b _ p => some { tag := p, rs := [a, b], re := [e], strict := true }
  | .bindIn e a _ p | .bindOut e a _ p => some { tag := p, rs := [a], re := [e], strict := true }
  | .unbind _ p => some { tag := p }
  | .mma e a b t w p => some { tag := p, rs := [a, b], re := [e], rc := mmaScale c e w, rt := [t], wt := [t], strict := true }
  | .mmas e a b t _ p => some { tag := p, rs := [a, b], re := [e], rt := [t], wt := [t], strict := true }
  | .mzero t p => some { tag := p, wt := [t] }
  | .mld e a t p => some { tag := p, rs := [a], re := [e], wt := [t], strict := true }
  | .mst e a b t p | .mstRack e a b t p => some { tag := p, rs := [a, b], re := [e], rt := [t], wt := [t], strict := true }
  | .mproof a t p _ => some { tag := p, rs := [a], wt := [t], strict := true }
  | .mpri _ p => some { tag := p }
  | .spawn e a b _ p | .asend e a b p => some { tag := p, rs := [a, b], re := [e], strict := true }
  | .tset a _ p | .unready a p => some { tag := p, rs := [a], strict := true }
  | .tdec a b _ p | .ready a b p | .peel a b _ p => some { tag := p, rs := [a, b], strict := true }
  | .twait _ p => some { tag := p }
  | .gsend e a p => some { tag := p, rs := [a], re := [e], strict := true }
  | _ => none

/-- The items of Table issue-1 an operation reads: s0 and p0 are never counted (06 R107). -/
def Uses.reads (u : Uses) : List Item :=
  ((u.rs.filter (· != 0)).map (Item.mk .scalar ·)) ++ u.rv.map (Item.mk .vector ·) ++ ((u.rp.filter (· != 0)).map (Item.mk .pred ·)) ++
  u.rc.map (Item.mk .scale ·) ++ u.re.map (Item.mk .engine ·) ++ u.rt.map (Item.mk .tile ·) ++ u.rx.map (Item.mk .special ·)

/-- The items an operation writes. -/
def Uses.writes (u : Uses) : List Item :=
  ((u.ws.filter (· != 0)).map (Item.mk .scalar ·)) ++ u.wv.map (Item.mk .vector ·) ++ ((u.wp.filter (· != 0)).map (Item.mk .pred ·)) ++
  u.wc.map (Item.mk .scale ·) ++ u.we.map (Item.mk .engine ·) ++ u.wt.map (Item.mk .tile ·) ++ u.wx.map (Item.mk .special ·)

/-- What a slot operation reads and writes; nothing for other rows. -/
def usesOf (c : Ctx) (i : Instr) : Uses := (uses c i).getD {}

/-- The scalar and vector registers that a long operation marks pending (06 R121). -/
def longDests (i : Instr) : List Item :=
  let u := usesOf Ctx.reset i
  (u.ws.filter (· != 0)).map (Item.mk .scalar ·) ++ u.wv.map (Item.mk .vector ·)

end Sys2Proof.Machine
end

