-- ==== Sys2Proof/Machine/Ops.lean ====
section
/-! DEFINITION. Taking an exception and returning from one, as one shared operation each: the trap frame
(21 Table intr-1), flight records and pending entries (Tables intr-2, intr-3), the double trap, replay, and RFT. -/

namespace Sys2Proof.Machine

/-! ## Requests at an entry (21 Table intr-3) -/

/-- A plain long load. -/
def isPlainLoad (i : Instr) : Bool :=
  match i with
  | .ldb .. | .ldbn .. | .ldh .. | .ldhn .. | .ldw .. | .ldwn .. | .ldd .. | .lds .. | .vld .. | .vlds ..
  | .ldbLong .. | .ldbnLong .. | .ldhLong .. | .ldhnLong .. | .ldwLong .. | .ldwnLong .. | .lddLong .. | .ldsLong ..
  | .vldLong .. | .vldsLong .. => true
  | _ => false

/-- A load of the LDFE family. -/
def isFullEmpty (i : Instr) : Bool :=
  match i with
  | .ldfe .. | .ldfec .. | .vldfe .. | .vldfec .. | .ldfeLong .. | .ldfecLong .. | .vldfeLong .. | .vldfecLong .. => true
  | _ => false

def isBwait (i : Instr) : Bool := match i with | .bwait .. => true | _ => false
def isBarv (i : Instr) : Bool := match i with | .barv .. => true | _ => false

/-- A long operation that names no register: a load into s0. -/
def intoS0 (i : Instr) : Bool := (longDests i).isEmpty

/-- The KIND of the pending entry an outstanding operation makes at entry, or at a stop; none if it is not withdrawn. A full/empty load
is withdrawn while it is held or travels: one that its slice has served or refused is not (21 Table intr-3). A BWAIT of a task that has
ended is withdrawn only while its unit has not answered it, which a stop alone can meet (06 R145, 21 R391): no later task's entry does. A
full/empty load into s0 goes by the row of the long loads into s0, and not by its family's (DESIGN CHOICE, log entry 57). -/
def pendKind (r : Req) : Option Nat :=
  if isBwait r.op then (if r.discard && r.status == .performed then none else some 3)
  else if r.discard then none
  else if isPlainLoad r.op then (if intoS0 r.op then none else some 1)
  else if isFullEmpty r.op then (if r.status == .performed || r.status == .refused || intoS0 r.op then none else some 2)
  else none

/-- The slot word of an operation. -/
def slotBits (i : Instr) : Nat := match slotWord i with | some (_, w, _) => w | none => 0

/-- A request put in its place in issue order. -/
def insertReq (r : Req) : List Req → List Req
  | [] => [r]
  | q :: l => if r.id ≤ q.id then r :: q :: l else q :: insertReq r l
/-- Requests in issue order. -/
def issueOrder (l : List Req) : List Req := l.foldr insertReq []

/-! ## Kinds of access (14 Table consistency-2) -/

/-- An acquire (14 Table consistency-2). -/
def isAcquire (i : Instr) : Bool :=
  match i with
  | .ldacq .. | .rkopen .. | .rktake .. | .bwait .. => true
  | .atomAdd _ _ _ r _ | .atomMin _ _ _ r _ | .atomMax _ _ _ r _ | .atomMinn _ _ _ r _ | .atomMaxn _ _ _ r _
  | .atomAnd _ _ _ r _ | .atomOr _ _ _ r _ | .atomXor _ _ _ r _ | .atomSwap _ _ _ r _ | .cas _ _ _ r _ => r.val == 1
  | .vatomAdd _ _ _ r _ | .vatomAnd _ _ _ r _ | .vatomOr _ _ _ r _ | .vatomMax _ _ _ r _ => r.val == 1
  | _ => false

/-- A request that carries release order: performed only after everything its context issued before it (14 R300). -/
def isRelease (i : Instr) : Bool :=
  match i with
  | .strel .. | .rkpub .. | .rktake .. | .rkdrop .. | .barv .. | .spawn .. | .gsend .. | .asend .. | .tdec .. => true
  | .atomAdd .. | .atomMin .. | .atomMax .. | .atomMinn .. | .atomMaxn .. | .atomAnd .. | .atomOr .. | .atomXor ..
  | .atomSwap .. | .cas .. | .vatomAdd .. | .vatomAnd .. | .vatomOr .. | .vatomMax .. => isAcquire i
  | _ => false

def isStrel (i : Instr) : Bool := match i with | .strel .. => true | _ => false
/-- A synchronising access to memory (14 Table consistency-2). -/
def isSyncAccess (i : Instr) : Bool :=
  match i with
  | .ldacq .. | .strel .. | .atomAdd .. | .atomMin .. | .atomMax .. | .atomMinn .. | .atomMaxn .. | .atomAnd ..
  | .atomOr .. | .atomXor .. | .atomSwap .. | .cas .. | .vatomAdd .. | .vatomAnd .. | .vatomOr .. | .vatomMax .. => true
  | _ => false

def isRackOp (i : Instr) : Bool :=
  match i with | .rkopen .. | .rkpub .. | .rktake .. | .rkdrop .. => true | _ => false
def isBarrierOp (i : Instr) : Bool := match i with | .binit .. | .bwait .. => true | _ => false
/-- A launch of a task, or a message that becomes one. -/
def isLaunch (i : Instr) : Bool := match i with | .spawn .. | .asend .. | .gsend .. => true | _ => false
/-- A request of the kinds that take a deterministic path and have a place in the order of synchronising accesses (04 R74,
14 R299). -/
def isSyncReq (i : Instr) : Bool :=
  isSyncAccess i || isRackOp i || isBarrierOp i || isBarv i || isLaunch i || (match i with | .tdec .. => true | _ => false)

/-! ## Leaving the core (10 R220, 14 R298, R303) -/

/-- The route that a core has cached for a job-space page (13 R281). -/
def cachedRoute (s : State) (agent job vpage : Nat) : Option Nat :=
  (s.routes.find? fun r => r.agent == agent && r.job == job && r.vpage == vpage).map (·.die)

/-- A translation cached by a core and by its die's walker, replacing what they held for the page (13 R281). -/
def cacheRoute (s : State) (core job vpage die : Nat) : State :=
  let agents := [core, 256 + coreDie core]
  { s with routes := (s.routes.filter fun r => !(agents.contains r.agent && r.job == job && r.vpage == vpage)) ++
      agents.map fun a => ⟨a, job, vpage, die⟩ }

/-- The die that a walk of a page finds: that of an entry which the die's walker holds, else the owner as it stands. -/
def walkDie (s : State) (j : Job) (core a : Nat) : Option Nat :=
  (stackOf j a).map fun st => (cachedRoute s (256 + coreDie core) j.id (a / 65536)).getD (ownerDie s st)

/-- A marked response updates the entries of a page at a core and at its die's walker, where they still hold one (20 R369). -/
def markPage (s : State) (core job vpage die : Nat) : State :=
  { s with routes := s.routes.map fun x =>
      if (x.agent == core || x.agent == 256 + coreDie core) && x.job == job && x.vpage == vpage then { x with die := die } else x }

/-- The pages that some addresses lie in. -/
def pagesOf (l : List Nat) : List Nat := (l.map (· / 65536)).foldl addTo []

/-- The route entries after an access of core `n` itself, an engine's or a fetch, to a page: its walk has installed them where it
held none; a stale one has had the access sent on, and its marked response has updated them (13 R281, R285, 20 R369). -/
def touchPage (j : Job) (n : Nat) (s : State) (vpage : Nat) : State :=
  match stackOf j (65536 * vpage) with
  | none => s
  | some st =>
    let d := ownerDie s st
    match cachedRoute s n j.id vpage with
    | some x => if x = d then s else markPage s n j.id vpage d
    | none => cacheRoute s n j.id vpage d

/-- A marked response updates the cached routes of its pages at the core and at its die's walker (20 R369). -/
def markRoute (s : State) (r : Req) : State :=
  (r.ways.filter fun w => r.marks.contains w.1).foldl (fun s w => markPage s (r.ctx / 4) ((coreAt s (r.ctx / 4)).job.getD 0) w.1 w.2) s

/-- Accesses of core `n` itself at some addresses of its job leave their route entries. -/
def touchRoutes (s : State) (j : Job) (n : Nat) (l : List Nat) : State := (pagesOf l).foldl (touchPage j n) s

/-- A prefetch reaches its die: the line comes into the cache of the die that owns it, unless the access would fail, names a slice, or meets
a hand-over, which it does not wait for (10 R237). -/
def prefetchLine (s : State) (x : Prefetch) : State :=
  match jobOfCore s x.core with
  | none => s
  | some j =>
    match access s j x.addr 1 1 false with
    | .error _ => s
    | .ok pa =>
      if j.id != x.job || !inStack pa || handing s (physStack pa) 1 5 then s else touchRoutes (cached s false [pa]) j x.core [x.addr]

/-- The place that a prefetch goes to. -/
def prefetchPlace (s : State) (x : Prefetch) : Option Nat :=
  (jobOfCore s x.core).bind fun j => match access s j x.addr 1 1 false with
    | .ok pa => some pa
    | .error _ => none

/-- A prefetch whose way pauses waits in its switch (04 R78); any other reaches its die. -/
def sendPrefetch (s : State) (x : Prefetch) : State :=
  if (prefetchPlace s x).any (touchPaused s x.core) then { s with prefetches := s.prefetches ++ [x] } else prefetchLine s x

/-- The prefetches that waited go on, those whose ways still pause wait again. -/
def prefetchesReached (s : State) : State := s.prefetches.foldl sendPrefetch { s with prefetches := [] }

/-- A store that stands first for its line in the gather buffer; those gathered after it go with it (14 R298). -/
def Req.heads (r : Req) : Bool := r.status == .gathered && r.line == r.id

/-- The request has still to enter the fabric: it waits in the gather buffer or for its walk, or its core holds it for what it must
follow (04 R75). -/
def Req.inCore (r : Req) : Bool := r.heads || r.status == .walking || (r.status == .sent && isSyncReq r.op && r.left == 0)

/-- A FENCEL puts request `q` before request `r` of its context: one issued before it, of those that `r` has not been issued again
behind; or, where `r` is issued again, one that the last FENCEL of the context follows (14 R303). -/
def fencedBefore (r q : Req) : Bool := q.ctx == r.ctx && q.id < r.id && (q.order < r.after || q.id < r.again)
/-- No request that a FENCEL puts before request `r` has still to enter the fabric (14 R303). -/
def mayEnter (s : State) (r : Req) : Bool := !(s.reqs.any fun q => fencedBefore r q && q.inCore)

/-- The request leaves its core as number `n`; a release is held until what it must follow is settled (04 R75). -/
def departs (n : Nat) (r : Req) : Req := { r with status := .sent, left := if isRelease r.op then 0 else n }

/-- A request enters the fabric: at once for a slice address or a cached translation, else by a walk (10 R220). -/
def sendReq (s : State) (r : Req) : Req :=
  if !mayEnter s r then { r with status := .walking }
  else
    match spaceOf r.addr.toNat with
    | .job =>
      match cachedRoute s (r.ctx / 4) ((coreAt s (r.ctx / 4)).job.getD 0) (r.addr.toNat / 65536) with
      | some d => { departs r.id r with ways := [(r.addr.toNat / 65536, d)] }
      | none => { r with status := .walking }
    | _ => departs r.id r

/-- The gathered stores of the contexts that `covers` names are sent (14 R298). -/
def flushGathered (s : State) (covers : Nat → Bool) : State :=
  { s with reqs := s.reqs.map fun r => if covers r.ctx && r.heads then sendReq s r else r }

/-! ## Full and empty granules (10 R232-R236) -/

/-- The bytes a full/empty load covers. -/
def feBytes (i : Instr) : Nat := match i with | .vldfe .. | .vldfec .. | .vldfeLong .. | .vldfecLong .. => 256 | _ => 8
/-- The C forms clear the granules. -/
def feClears (i : Instr) : Bool := match i with | .ldfec .. | .ldfecLong .. | .vldfec .. | .vldfecLong .. => true | _ => false

/-- The physical address of a slice-window address of the job on core `n`. -/
def windowPhys (s : State) (n : Nat) (a : Word) : Option Nat :=
  match spaceOf a.toNat, jobOfCore s n with
  | .slice m off, some j => if m < j.n then some (slicePhys (j.binding[m]?.getD 0) off) else none
  | _, _ => none

/-- A held request is served in one step when every granule it covers is full: it reads the bytes, and a C form clears
the granules; poison met is its fate. -/
def serveOne (s : State) (r : Req) : State :=
  match windowPhys s (r.ctx / 4) r.addr with
  | none => s
  | some pa =>
    let n := feBytes r.op
    if r.status == .held && includesAll s.full (granule pa) (granules pa n) then
      match poisonedAt s.bad pa n with
      | some b => setReq s { r with status := .refused, found := some (.ue, r.addr + BitVec.ofNat 64 (b - pa)) }
      | none =>
        let s := setReq s { r with status := .performed, value := BitVec.ofNat 2048 (physRead s pa n) }
        if feClears r.op then { s with full := exclude s.full (granule pa) (granule pa + granules pa n) } else s
    else s

/-- The held requests are served in the order of their arrival (10 R233). -/
def serveHeld (s : State) : State := s.reqs.foldl serveOne s

/-! ## Engine writes of an output queue (10 R247, R249) -/

/-- The pattern offsets (source side or destination side) of byte `n` of a pattern's byte sequence (10 R239). -/
def patternOffset (f : Vector Word 8) (dst : Bool) (n : Nat) : Int :=
  let z := bits f[0] 7 0
  let e := n / z
  let c1 := f[1].toNat
  let c2 := f[2].toNat
  let i1 := e % c1
  let i2 := if 2 ≤ bits f[0] 15 8 then e / c1 % c2 else 0
  let i3 := if 3 ≤ bits f[0] 15 8 then e / c1 / c2 else 0
  let t1 := (if dst then f[6] else f[4]).toInt
  let t2 := (if dst then f[7] else f[5]).toInt
  z * i1 + t1 * i2 + t2 * i3 + (n % z : Nat)

/-- The address of byte `n` of a pattern from a base, modulo 2^64. -/
def patternAddr (f : Vector Word 8) (base : Word) (dst : Bool) (n : Nat) : Nat :=
  (base + BitVec.ofInt 64 (patternOffset f dst n)).toNat

/-- The addresses of the bytes of a stream's vector at position `pos`, in pattern order. -/
def streamAddrs (st : Stream) (pos : Nat) : List Nat :=
  (List.range 256).map fun i => patternAddr st.pattern st.base st.out (pos + i)
/-- The physical addresses of those of some addresses that have one. -/
def placesOf (j : Job) (write : Bool) (l : List Nat) : List Nat := l.filterMap fun a => (translate j a write).toOption

/-- The number in the bytes at a list of physical addresses. -/
def gatherBytesAt (m : List Host.Cell) : List Nat → Nat
  | [] => 0
  | a :: l => (readByte m a).toNat + 256 * gatherBytesAt m l

/-- A number written to a list of physical addresses, by an engine: full bits are set. -/
def scatterBytesAt (s : State) (v : Nat) : List Nat → State
  | [] => s
  | a :: l => scatterBytesAt (markFull { s with mem := writeByte s.mem a (BitVec.ofNat 8 v) } a 1) (v / 256) l

/-- Every byte of a granule is in a list of addresses. -/
def coversGranule (l : List Nat) (g : Nat) : Bool := (List.range 16).all fun i => l.contains (16 * g + i)
/-- The granules of a set of poison marks that a list of addresses meets. -/
def badAmong (bad : List Nat) (l : List Nat) : List Nat := bad.filter fun g => l.any fun a => a / 16 == g

/-- The fate of one byte of a run of an engine's accesses (10 Table feed-2); `l` are the places of the run: a write that covers a
poisoned granule whole has none. -/
def byteFate (s : State) (j : Job) (write : Bool) (l : List Nat) (a : Nat) : Option Cause :=
  match translate j a write with
  | .error c => some c
  | .ok pa =>
    if sliceOff s pa then some .sliceoff
    else if s.bad.contains (pa / 16) && !(write && coversGranule l (pa / 16)) then some .ue
    else none

/-- The fate at the lowest failing address among some (10 R225). -/
def lowestFate (f : Nat → Option Cause) : List Nat → Option (Cause × Nat)
  | [] => none
  | a :: l =>
    match f a, lowestFate f l with
    | some c, some x => if a ≤ x.2 then some (c, a) else some x
    | some c, none => some (c, a)
    | none, x => x

/-- The fate of a stream's vector at a position. -/
def streamFate (s : State) (j : Job) (st : Stream) (pos : Nat) : Option (Cause × Word) :=
  let l := streamAddrs st pos
  (lowestFate (byteFate s j st.out (placesOf j st.out l)) l).map fun x => (x.1, BitVec.ofNat 64 x.2)

/-- The fate is one that the walker offers to the service context first (10 R220): a translation of the job space. -/
def walkable (e : Cause × Word) : Bool :=
  (e.1 == .page || e.1 == .perm) && (match spaceOf e.2.toNat with | .job => true | _ => false)

/-- A transfer of a stream of core `n` goes through the caches of the dies that own what it reaches, and leaves its route
entries. -/
def streamTouch (s : State) (j : Job) (n : Nat) (st : Stream) (pos : Nat) : State :=
  touchRoutes (cached s st.out (placesOf j st.out (streamAddrs st pos))) j n (streamAddrs st pos)

/-- A transfer that fails on poison has reached its places (20 R369). -/
def poisonTouch (s : State) (j : Job) (n : Nat) (st : Stream) (pos : Nat) (e : Cause × Word) : State :=
  if e.1 = .ue then streamTouch s j n st pos else s

/-- The vector of an input stream at a position, or its fate: poison too (10 R246). -/
def streamRead (s : State) (j : Job) (st : Stream) (pos : Nat) : Except (Cause × Word) VWord :=
  match streamFate s j st pos with
  | some e => .error e
  | none => .ok (BitVec.ofNat 2048 (gatherBytesAt s.mem (placesOf j st.out (streamAddrs st pos))))

/-- A vector written by an output stream, or its fate: a write that covers part of a poisoned granule writes nothing
(23 R402). -/
def streamWrite (s : State) (j : Job) (st : Stream) (pos : Nat) (v : VWord) : Except (Cause × Word) State :=
  match streamFate s j st pos with
  | some e => .error e
  | none =>
    let l := placesOf j st.out (streamAddrs st pos)
    .ok (scatterBytesAt { s with bad := s.bad.filter fun g => !coversGranule l g } v.toNat l)

/-- The fault record of stream `st`: POS = T (10 R246, R247). -/
def streamFaultRec (st : Stream) (e : Cause × Word) : FaultRec := ⟨e.1, 0, e.2, st.bundle, 9, true, st.epoch, st.order, none⟩

/-- The position of the vector that a stream transfers next. -/
def transferPos (st : Stream) : Nat := if st.out then st.pos else st.pos + 256 * st.queue.length

/-- The fate of a stream's next transfer: after the last vector that an output queue still holds, that of one lost in it. -/
def nextFate (s : State) (j : Job) (st : Stream) : Option (Cause × Word) :=
  if st.out && st.queue.isEmpty then st.fault.map fun f => (f.cause, f.addr) else streamFate s j st (transferPos st)

/-- The head vector of output stream `n` of context `k` is written to memory; a fate is a late fault and the vectors
after it are not written (10 R247): the binding ends, so that later results go to the register (DESIGN CHOICE, log entry 55). The stream is gone once its last vector is written, or after TEND its last queued one
(R248). -/
def drainOne (s : State) (k n : Nat) : State :=
  match jobOfCtx s k, ((ctxAt s k).streams[n]?).getD none with
  | some j, some st =>
    match st.queue with
    | [] =>
      match st.fault with
      | some f => lateFault (onCtx s k fun x => { x with streams := x.streams.setIfInBounds n none }) k f
      | none => s
    | v :: q =>
      match streamWrite s j st st.pos v with
      | .error e =>
        lateFault (onCtx (poisonTouch s j (k / 4) st st.pos e) k fun x => { x with streams := x.streams.setIfInBounds n none }) k (streamFaultRec st e)
      | .ok s =>
        let s := streamTouch s j (k / 4) st st.pos
        let st := { st with pos := st.pos + 256, queue := q }
        let rest := if patternBytes st.pattern ≤ st.pos || (ctxAt s k).status == .ending && q.isEmpty then none else some st
        onCtx s k fun x => { x with streams := x.streams.setIfInBounds n rest }
  | _, _ => s

/-- Every queued vector of every output stream of a context is written. -/
def drainStreams (s : State) (k : Nat) : State :=
  [0, 1, 2, 3, 4, 5, 6, 7].foldl (fun s n => [0, 1, 2, 3, 4, 5, 6, 7].foldl (fun s _ =>
    match ((ctxAt s k).streams[n]?).getD none with
    | some st => if st.out then drainOne s k n else s
    | none => s) s) s

/-! ## The frame (21 R378) -/

/-- A write mask as the frame keeps it: bit i covers `n` bits of data. -/
def coarseMask (m : VWord) (n count : Nat) : Nat :=
  packLanes 1 ((List.range count).map fun i => if m.getLsbD (n * i) then 1 else 0)

/-- The mask a frame's bits stand for. -/
def fineMask (m n count : Nat) : VWord :=
  BitVec.ofNat 2048 (packLanes n ((List.range count).map fun i => if m / 2 ^ i % 2 = 1 then 2 ^ n - 1 else 0))

/-- FILE of Table intr-2; engine fields and special registers land one cycle after issue and make no record. -/
def fileNo : File → Nat
  | .scalar => 0 | .vector => 1 | .pred => 2 | .scale => 3 | _ => 4

/-- Word 0 of a flight record (21 Table intr-2). -/
def recordWord (ccyc : Nat) (f : Flight) : Nat :=
  f.dest.ix + 2 ^ 7 * fileNo f.dest.file + (if f.df then 2 ^ 10 else 0) + 2 ^ 11 * (f.land - (ccyc + 1))
    + 2 ^ 16 * f.flags.toNat

/-- The slot of a flight record: 256 data bytes and a write mask. -/
def slotValue (f : Flight) : Nat :=
  match f.dest.file with
  | .vector => f.value.toNat + 2 ^ 2048 * coarseMask f.mask 16 128
  | .pred => f.value.toNat % 2 ^ 128 + 2 ^ 2048 * (2 ^ 128 - 1)
  | .scale => f.value.toNat % 2 ^ 1056 + 2 ^ 2048 * coarseMask f.mask 8 132
  | _ => 0

/-- One write of the frame. -/
abbrev Patch := Nat × Nat × Nat

/-- The records of the flights, from record `j` on. -/
def recordPatches (ccyc j : Nat) : List Flight → List Patch
  | [] => []
  | f :: l =>
    (0x100 + 16 * j, 8, recordWord ccyc f) ::
    (0x108 + 16 * j, 8, if f.dest.file = .scalar then f.value.toNat % 2 ^ 64 else 0) ::
    (0x400 + 288 * j, 288, slotValue f) :: recordPatches ccyc (j + 1) l

/-- The pending entries, from entry `j` on. -/
def pendPatches (j : Nat) : List Req → List Patch
  | [] => []
  | r :: l =>
    (0x2000 + 16 * j, 8, slotBits r.op + 2 ^ 32 * ((pendKind r).getD 0)) ::
    (0x2008 + 16 * j, 8, if isBwait r.op then r.arg2.toNat % 2 ^ 32 + 2 ^ 32 * (r.addr.toNat % 256) else r.addr.toNat) ::
    pendPatches (j + 1) l

def loopPatches (j : Nat) : List LoopEntry → List Patch
  | [] => []
  | e :: l => (0x60 + 24 * j, 8, e.count.toNat) :: (0x68 + 24 * j, 8, e.start.toNat) ::
      (0x70 + 24 * j, 8, e.stop.toNat) :: loopPatches (j + 1) l

def streamPatches (n : Nat) : List (Option Stream) → List Patch
  | [] => []
  | none :: l => streamPatches (n + 1) l
  | some st :: l =>
    (0x2800 + 96 * n, 64, packLanes 64 (st.pattern.toList.map (·.toNat))) :: (0x2840 + 96 * n, 8, st.base.toNat) ::
    (0x2848 + 96 * n, 8, st.pos) :: (0x2850 + 96 * n, 8, if st.out then 3 else 1) :: streamPatches (n + 1) l

def arrivePatches (l : List Arrival) : List Patch :=
  (l.filter fun a => !a.pending).map fun a => (0x3200 + 4 * a.barrier, 4, a.phase)

def heldPatches (j : Nat) : List FaultRec → List Patch
  | [] => []
  | f :: l => (0x3600 + 32 * j, 8, f.tcause) :: (0x3608 + 32 * j, 8, f.addr.toNat) ::
      (0x3610 + 32 * j, 8, f.bundle.toNat) :: heldPatches (j + 1) l

/-- The writes of the frame at physical address `at`. -/
def applyPatches (m : List Host.Cell) (base : Nat) (l : List Patch) : List Host.Cell :=
  l.foldl (fun m p => writeLE m (base + p.1) p.2.1 p.2.2) m

/-- The whole frame of a context (21 Table intr-1), with the count that its CCYC field holds. -/
def framePatches (c : Ctx) (ccyc : Nat) (flights : List Flight) (pend : List Req) (held : List FaultRec)
    (cause : Nat) (addr bundle : Word) : List Patch :=
  [(0, 8, c.pc.toNat), (8, 8, cause), (0x10, 8, addr.toNat), (0x18, 8, bundle.toNat), (0x20, 8, ccyc),
   (0x28, 2, flights.length), (0x2A, 2, pend.length), (0x2C, 1, c.loops.length),
   (0x2D, 1, bits c.sdf 63 60), (0x2E, 2, held.length),
   (0x40, 8, (sVal c 60).toNat), (0x48, 8, (sVal c 61).toNat), (0x50, 8, (sVal c 62).toNat), (0x58, 8, (sVal c 63).toNat)]
  ++ loopPatches 0 c.loops.reverse ++ recordPatches c.ccyc 0 flights ++ pendPatches 0 pend
  ++ streamPatches 0 c.streams.toList ++ arrivePatches c.arrivals ++ heldPatches 0 held

/-! ## Entry to a handler (21 R375) -/

/-- The destination has a long operation of the context outstanding (06 R121). -/
def pendingItem (s : State) (k : Nat) (x : Item) : Bool :=
  s.reqs.any fun r => r.ctx == k && !r.discard && (longDests r.op).contains x

/-- A result superseded by a later long operation to its destination makes no record (21 R379). -/
def superseded (s : State) (k : Nat) (f : Flight) : Bool :=
  s.reqs.any fun r => r.ctx == k && !r.discard && f.order < r.id && (longDests r.op).contains f.dest

/-- What an entry and a stop do with the exposed results of context `k`: those that are due land, and those that a later long
operation supersedes are discarded, their flags raised (21 R379, R391). -/
def settleFlights (s : State) (k : Nat) : State :=
  let s := onCtx s k (landDue s.clock)
  onCtx s k fun c => { raiseFlags s.clock c ((c.flights.filter (superseded s k)).foldl (fun x f => x ||| f.flags) 0) with
    flights := c.flights.filter fun f => !superseded s k f }

/-- The operations of context `k` that an entry or a stop withdraws, in issue order (21 R380). -/
def withdrawnOf (s : State) (k : Nat) : List Req := issueOrder (s.reqs.filter fun r => r.ctx == k && (pendKind r).isSome)

/-- A load that has left its core: its response is still to come (21 Table intr-3). -/
def Req.answers (r : Req) : Bool :=
  isPlainLoad r.op && !r.faulted && !r.ways.isEmpty && (r.status == .sent || r.status == .held || r.status == .performed || r.status == .refused)

/-- The withdrawn operations are gone; the response of a load that has left its core still arrives, is discarded, and updates the cached
routes with the mark that it carries (20 R369, 21 Table intr-3). -/
def withdraw (s : State) (k : Nat) : State :=
  { s with ghosts := s.ghosts ++ (withdrawnOf s k).filter Req.answers
           reqs := s.reqs.filter fun r => !(r.ctx == k && (pendKind r).isSome) }

/-- An operation that a stop withdrew is issued again by context `k`, at its saved address, with number `id`: it enters the fabric behind
those that a FENCEL put before it, and behind those with a number below `fencel`, which the context's last FENCEL put before what it
issues now (21 R395, 14 R303). -/
def reissued (k id fencel : Nat) (r : Req) : Req :=
  { r with ctx := k, id := id, line := id, left := 0, again := fencel, ways := [], marks := [], faulted := false, found := none, status := .walking }

/-- The operations that the stop of context `k` withdrew are issued again: with its first bundle after RESUME, or what comes in its
place (21 R395). -/
def reissue (s : State) (k : Nat) : State :=
  let l := (ctxAt s k).withdrawn
  if l.isEmpty || (ctxAt s k).stopped then s
  else
    { onCtx s k fun c => { c with withdrawn := [] } with
      reqs := s.reqs ++ l.zipIdx.map fun x => reissued k (s.nextId + x.2) (ctxAt s k).fencel x.1
      nextId := s.nextId + l.length }

/-- What comes before an entry of context `k` (21 R375): its exposed results are settled (06 R114), its output queues are
written and what they fill is served (10 R232, R249), and its gathered stores are sent (14 R298). -/
def prepareEntry (s : State) (k : Nat) : State :=
  flushGathered (serveHeld (drainStreams (settleFlights (reissue s k) k) k)) (· == k)

/-- The entry of context `k`: the frame, TCAUSE and TADDR, s60-s62, an empty loop stack, H and EN, and the handler's
address as the PC. `held` are the held faults the frame lists. -/
def enter (s : State) (k cause : Nat) (addr bundle handler : Word) (held : List FaultRec) : State :=
  let c := ctxAt s k
  let pend := withdrawnOf s k
  let frame := tfb s k
  let base := framePhys s k
  let mem := applyPatches (clearRange s.mem base (base + 0x4000)) base (framePatches c c.ccycLast c.flights pend held cause addr bundle)
  let s := withdraw s k
  let c' := { c with
    flights := [], streams := Vector.replicate 8 none, loops := [], group := []
    tcause := BitVec.ofNat 25 cause, taddr := addr
    s := ((c.s.setIfInBounds 60 frame).setIfInBounds 61 (BitVec.ofNat 64 cause)).setIfInBounds 62 addr
    sdf := setDf (setDf (setDf c.sdf 60 false) 61 false) 62 false
    h := true, en := false, entries := c.entries + 1, pc := handler, trap := none, held := [], heldSaved := held, pendSaved := pend
    streamsSaved := c.streams, arrivals := [], committed := true, mprioSaved := c.mprio
    afterRft := false, fetched := false, status := if c.status = .waiting then .ready else c.status }
  let reqs := s.reqs.map fun r => if r.ctx = k then { r with redirect := true } else r
  let s := setCtx { s with mem := mem, bad := healed s.bad base 0x4000, reqs := reqs } k c'
  match jobOfCtx s k with
  | some j => setJob s { j with lastCause := BitVec.ofNat 25 cause }
  | none => s

/-! ## The end of a task, and its replay (06 R145, 23 R405) -/

/-- The context gives up the issue stage of its core. -/
def leaveStage (s : State) (k : Nat) : State :=
  onCore s (k / 4) fun n =>
    { n with holder := if n.holder = some (Fin.ofNat 4 k) then none else n.holder, last := Fin.ofNat 4 k }

/-! ## The stop of a context for pre-emption (21 R391) -/

/-- Context `k` stops: it gives up the stage, its exposed results are settled, its TIMER stands still, and its loads, full/empty
loads and BWAITs are withdrawn; a fence that waited for one of them goes on without it (DESIGN CHOICE, log entry 17). -/
def stopCtx (s : State) (k : Nat) : State :=
  if (ctxAt s k).stopped || (jobOfCtx s k).isNone then s
  else
    let s := settleFlights s k
    let c := ctxAt s k
    let held := withdrawnOf s k
    let s := setCtx (withdraw s k) k { c with
      stopped := true, frozen := true, timerAt := if c.frozen then c.timerAt else c.timerAt.map (· - timeNow s), withdrawn := c.withdrawn ++ held
      status := if c.status = .running ∨ c.status = .waiting then .ready else c.status }
    if c.status = .running then leaveStage s k else s

/-- A context that stops at once: it is READY, WAITING or IDLE, or has issued its TEND; but while the service context of its core
runs, pre-emption waits (21 R389). -/
def stopsNow (s : State) (k : Nat) : Bool :=
  (coreAt s (k / 4)).service.isNone &&
  match (ctxAt s k).status with | .ready | .waiting | .idle | .ending => true | _ => false

/-- The contexts of a job that stop at once. -/
def stopReady (s : State) (j : Job) : State := (jobCtxs j).foldl (fun s k => if stopsNow s k then stopCtx s k else s) s

/-- A request after its context's task has ended: its result is discarded when it arrives; a full/empty load held at its
slice is withdrawn (10 R234), one that still travels is performed if it can be served. -/
def endRequest (k : Nat) (r : Req) : Option Req :=
  if r.ctx ≠ k then some r
  else if r.faulted || (isFullEmpty r.op && r.status == .held) then none
  else some { r with discard := true }

/-- The streams of a context after TEND: only output queues that are still to be written (10 R248). -/
def endStream (x : Option Stream) : Option Stream :=
  match x with
  | some st => if st.out && !st.drained then some st else none
  | none => none

/-- A hand-over whose context's task has ended. -/
def endHandover (k : Nat) (h : Handover) : Handover :=
  match h.source with
  | .context i q c a b ih _ d => if q = k then { h with source := .context i q c a b ih true d } else h
  | _ => h

/-- The oldest of the faults found: the one whose bundle issued first, then MASK order (06 R112). -/
def firstFault : List FaultRec → Option FaultRec
  | [] => none
  | f :: l =>
    match firstFault l with
    | none => some f
    | some g => if g.order < f.order then some g else some f

/-- The oldest fault of a handler's code that a context has found and not been delivered: it ends the job even where the task has
ended (21 R384). -/
def handlerFault (c : Ctx) : Option FaultRec := firstFault ((c.late ++ c.held ++ c.heldSaved).filter (·.inHandler))

/-- The running task of context `k` ends (06 R145, 15 R336): results in flight are discarded, the loop stack is emptied,
streams are unbound, gathered stores are sent; what it issued proceeds to completion. Its table entry becomes `entry` of
what it was. The empty cycles of a WAITC beside the TEND are dropped with it (DESIGN CHOICE, log entry 40), and so is a late fault that is
found and not delivered, that of an access of TEND's own bundle too: there is no boundary after it (DEDUCED, log entry 11). -/
def finishTask (s : State) (k : Nat) (entry : Task → Task) : State :=
  let c := ctxAt s k
  let s := flushGathered s (· == k)
  let s := { s with
    reqs := s.reqs.filterMap (endRequest k)
    copies := s.copies.map fun x => if x.ctx = k then { x with taskEnded := true } else x
    handovers := s.handovers.map (endHandover k) }
  let s := onCore s (k / 4) fun q => { q with
    queue := q.queue.map fun m => if m.ctx = k then { m with taskEnded := true } else m
    tasks := match c.task with | some t => q.tasks.setIfInBounds t (entry (q.tasks[t]?.getD Task.reset)) | none => q.tasks }
  leaveStage (setCtx s k { c with
    status := .ending, task := none, flights := [], loops := [], group := [], waitc := 0, late := [], held := [], heldSaved := [], pendSaved := []
    streamsSaved := Vector.replicate 8 none, svc := none, yields := false, trap := none, afterRft := false, landing := true, h := false, en := true, streams := c.streams.map endStream }) k

/-- The tray of an abandoned rack-target command becomes FREE; nothing is published (23 R405, 15 R333). -/
def freeTray (cmd t : Nat) (r : Rack) : Rack :=
  { r with
    command := if r.command = some cmd then none else r.command
    trays := r.trays.modify t fun x => { x with draining := false, opened := x.opened && r.command != some cmd } }

/-- The trays of some abandoned commands become FREE. -/
def freeTrays (l : List (Nat × Nat × Nat)) (racks : List Rack) : List Rack :=
  l.foldl (fun rs x => rs.modify x.2.1 (freeTray x.1 x.2.2)) racks

/-- The tray that RKOPEN opened for writer `w` becomes FREE; a tray of a rack-target command stays with it (15 R333). -/
def endTray (w : Nat) (r : Rack) : Rack :=
  if r.writer = w ∧ r.command = none then { r with trays := r.trays.map fun t => { t with opened := false } } else r

/-- Field `i` of a command's layout. -/
def MatrixCmd.field (m : MatrixCmd) (i : Nat) : Nat := (m.layout[i]?.getD 0).toNat
/-- The command reads B through a tile handle. -/
def MatrixCmd.handle (m : MatrixCmd) : Bool := (match m.op with | .mma .. => true | _ => false) && m.field 2 % 2 == 1

/-- `count` blocks of 256 free bytes written from a physical address on (log entry 2). -/
def scramble (s : State) (pa : Nat) : Nat → State
  | 0 => s
  | n + 1 => scramble (openUsed (markFull (physWrite s pa 256 (openValue s).toNat) pa 256)) (pa + 256) n

/-- The staging range of banks 28 to 31 holds unspecified values after a tile-handle MMA (11 R261). -/
def unstage (s : State) (n : Nat) (m : MatrixCmd) : State :=
  if m.handle then
    [0x390000, 0x3B0000, 0x3D0000, 0x3F0000].foldl (fun s o => scramble s (slicePhys n o) 256) s
  else s

/-- The commands of the running task of context `k` are abandoned (23 R405 step 2): they leave their queues, their tiles are
not busy with them any more, and the trays they and RKOPEN opened become FREE. A tile-handle MMA that was under way has spoilt its staging
range (11 R261). -/
def abandonCommands (s : State) (k : Nat) : State :=
  let n := k / 4
  let copies := s.copies.filter fun x => x.ctx == k && !x.taskEnded
  let cmds := (coreAt s n).queue.filter fun m => m.ctx == k && !m.taskEnded
  let trays := copies.filterMap (fun x => x.rack.map fun r => (x.id, r.1, r.2)) ++ cmds.filterMap fun m => m.rack.map fun r => (m.id, r.1, r.2)
  let s := { s with copies := s.copies.filter fun x => !(x.ctx == k && !x.taskEnded) }
  let s := onCore s n fun q => { q with queue := q.queue.filter fun m => !(m.ctx == k && !m.taskEnded) }
  let s := (cmds.filter fun m => m.phase != .writing).foldl (fun s m => setTile s n m.tile { tileAt s n m.tile with busy := false }) s
  let s := (cmds.filter fun m => m.phase != .queued).foldl (fun s m => unstage s n m) s
  match jobOfCore s n with
  | some j => setJob s { j with racks := (freeTrays trays j.racks).map (endTray (ctxId s k)) }
  | none => s

/-- The task of context `k` is abandoned for replay (23 R405): it ends as TEND ends it, and its entry is READY again. -/
def replayTask (s : State) (k : Nat) : State :=
  logCtx (finishTask (abandonCommands s k) k fun t => { t with status := .ready, readyAt := s.clock, boost := 0, retried := true }) 3 k 0 0

/-- A fault that would be delivered to context `k`: a double trap or a trap with TVEC zero ends the job (21 R376, R384; so does that of a
PEEL which 20 R371 has wait until KILL: log entry 56);
a UE of a replayable task replays it, and of a retried task ends the job (23 R405); otherwise the trap handler is
entered. `held` are the held faults the frame lists. -/
def takeTrap (s : State) (k : Nat) (f : FaultRec) (held : List FaultRec) : State :=
  let c := ctxAt s k
  let job := (coreAt s (k / 4)).job.getD 0
  if f.cause = .ue ∧ retriedTask s k = true then abortJob s job (some 0x84)
  else if f.inHandler then abortJob s job (some f.cause.code)
  else if f.cause = .ue ∧ c.committed = false ∧ c.h = false then replayTask s k
  else if c.tvec = 0 then abortJob s job (some f.cause.code)
  else enter s k f.tcause f.addr f.bundle c.tvec held

/-- An event entry: CAUSE 0x41, CODE the events taken, POS 15 (21 R375). -/
def takeEvent (s : State) (k : Nat) (held : List FaultRec) : State :=
  let c := ctxAt s k
  enter s k (0x41 + 2 ^ 8 * (c.epend &&& c.emask).toNat + 2 ^ 20 * 15) 0 c.pc c.evec held

/-- An event is enabled and pending: the conditions of 21 R373 but for the issue stage and EVEC. -/
def eventPends (c : Ctx) : Bool := !c.h && c.en && !c.stopped && (c.epend &&& c.emask) != 0 && c.status != .idle
/-- An event can be taken once the context holds the issue stage (21 R373). -/
def eventReady (c : Ctx) : Bool := eventPends c && c.evec != 0

/-- A WAITING context with an event enabled and pending becomes READY, whatever its EVEC (21 R373), but for one whose fence is in
progress (14 R304). -/
def wakeForEvent (c : Ctx) : Ctx := if eventPends c && c.fence.isNone then wake c else c

/-- Event bits are raised. -/
def raiseEvents (clock : Nat) (c : Ctx) (b : BitVec 4) : Ctx := wakeForEvent { c with epend := c.epend ||| b, raised := c.raised.add clock b 0 }

/-- The clock of the ns at which a countdown that ends at device time `t` reaches zero. -/
def clockAt (t : Nat) : Nat := (9 * t + 3) / 4
/-- A TIMER that has reached zero sets EPEND.TIMER, in that ns (07 R165). -/
def timerEvent (now : Nat) (c : Ctx) : Ctx :=
  if timerDue now c then raiseEvents (clockAt (c.timerAt.getD 0)) { c with timerAt := none } 1 else c
/-- Every TIMER that has reached zero sets its event. -/
def noteTimers (s : State) : State :=
  if s.ctxs.any fun x => timerDue (timeNow s) x.2 then (s.ctxs.map (·.1)).foldl (fun s k => onCtx s k (timerEvent (timeNow s))) s else s

/-- A candidate for an entry stands at this boundary of a context (21 R374). -/
inductive Candidate where
  | held (f : FaultRec)
  | late (f : FaultRec)
  | trap (f : FaultRec)
  | event
  deriving DecidableEq, Repr

/-- The candidate that is taken: a held fault after RFT, a late fault, the post-bundle trap, an event. No entry is
made while a fence of the context is in progress (14 R304). -/
def candidate (c : Ctx) : Option Candidate :=
  if c.fence.isSome || c.status == .serviced || c.status == .idle || c.status == .ending then none
  else
    match (if c.afterRft then c.held.head? else none), firstFault c.late, c.trap with
    | some f, _, _ => some (.held f)
    | none, some f, _ => some (.late f)
    | none, none, some f => some (.trap f)
    | none, none, none => if eventReady c then some .event else none

/-- The faults a frame records: a held plain load stays a pending load instead (06 R112). -/
def recorded (l : List FaultRec) : List FaultRec := l.filter fun f => f.load.isNone
/-- The load whose fault is delivered is no longer pending. -/
def dropLoad (s : State) (f : FaultRec) : State := match f.load with | some id => dropReq s id | none => s

/-- A TRAP that is not taken at this boundary; a fault of a bundle that has not issued is found again (21 R374). -/
def heldTrap (c : Ctx) : List FaultRec := c.trap.toList.filter fun f => f.cause == .trap

/-- The faults that the entry of a candidate leaves held, in the order of R112: those held already, those found and not
taken, and a TRAP not taken. -/
def leftHeld (c : Ctx) (x : Candidate) : List FaultRec :=
  holdAll (match x with | .held _ => c.held.drop 1 | _ => c.held)
    (recorded (match x with | .late f => c.late.erase f | _ => c.late) ++ (match x with | .trap _ => [] | _ => heldTrap c))

/-- The entry of one candidate, once what comes before an entry is done; a 33rd held fault ends the job (21 R383). -/
def takeCandidate (s : State) (k : Nat) (x : Candidate) : State :=
  let s := prepareEntry s k
  let rest := leftHeld (ctxAt s k) x
  match rest[32]? with
  | some g => abortJob s ((coreAt s (k / 4)).job.getD 0) (some g.cause.code)
  | none =>
    let s := onCtx s k fun c => { c with held := [], late := [], trap := none }
    match x with
    | .held f => takeTrap s k { f with late := true } rest
    | .late f => takeTrap (dropLoad s f) k f rest
    | .trap f => takeTrap s k f rest
    | .event => takeEvent s k rest

/-! ## RFT (21 R381) -/

/-- What reads the number in `n` bytes at an offset of a frame, or of an area of a pre-emption image that is laid out as one. -/
abbrev Reader := Nat → Nat → Nat

/-- A field of the frame in the slice, as it stands when the RFT bundle issues. -/
def frameField (s : State) (k off n : Nat) : Nat := physRead (asIssued s) (framePhys s k + off) n

/-- A record whose REG, FILE or REM is out of its range. -/
def badRecord (w : Nat) : Bool :=
  let reg := w % 128
  let file := w / 2 ^ 7 % 8
  let rem := w / 2 ^ 11 % 8
  3 < file || rem == 0 || (file < 2 && 63 < reg) || (file == 2 && 95 < reg) || (file == 3 && 15 < reg)

/-- The frame is malformed: RFT traps ILLOP. -/
def frameMalformed (s : State) (k : Nat) : Bool :=
  let nrec := frameField s k 0x28 2
  let npend := frameField s k 0x2A 2
  24 < nrec || 127 < npend || 6 < frameField s k 0x2C 1 || 32 < frameField s k 0x2E 2
    || (List.range nrec).any (fun j => badRecord (frameField s k (0x100 + 16 * j) 8))
    || (List.range npend).any fun j => 3 < frameField s k (0x2000 + 16 * j) 8 / 2 ^ 32 % 16

/-- RFT waits until every result redirected into SAVED and every pending arrival phase is in the frame. -/
def rftWaits (s : State) (k : Nat) : Bool :=
  s.reqs.any fun r => r.ctx == k && r.redirect && !r.discard &&
    (isBarv r.op || (longDests r.op).any fun x => x.file == .scalar && 60 ≤ x.ix)

/-- A flight from record `j`: it lands REM cycles after cycle `h` + 1, that of the successor where no WAITC stands beside the RFT (log
entry 40). Its operation issued
before all that the handler did, which its place in the order of issue says. -/
def recordFlight (f : Reader) (h j : Nat) : Flight :=
  let w := f (0x100 + 16 * j) 8
  let slot := f (0x400 + 288 * j) 288
  let (file, value, mask) : File × Nat × VWord :=
    match w / 2 ^ 7 % 8 with
    | 0 => (.scalar, f (0x108 + 16 * j) 8, BitVec.allOnes 2048)
    | 1 => (.vector, slot % 2 ^ 2048, fineMask (slot / 2 ^ 2048) 16 128)
    | 2 => (.pred, slot % 2 ^ 128, BitVec.allOnes 2048)
    | _ => (.scale, slot % 2 ^ 1056, fineMask (slot / 2 ^ 2048) 8 132)
  ⟨⟨file, w % 128⟩, BitVec.ofNat 2048 value, mask, w / 2 ^ 10 % 2 == 1, BitVec.ofNat 6 (w / 2 ^ 16),
   h + 1 + w / 2 ^ 11 % 8, 0⟩

/-- A result of the handler that would land on the register of a record in the same cycle: the record's value remains (21 R381). -/
def underRecord (l : List Flight) (f : Flight) : Flight :=
  match l.filter fun g => g.land == f.land && g.dest == f.dest with
  | [] => f
  | g :: m =>
    match f.dest.file with
    | .vector | .scale => { f with mask := f.mask &&& ~~~((g :: m).foldl (fun x y => x ||| y.mask) 0), df := g.df }
    | _ => { f with dest := ⟨.scalar, 0⟩ }

/-- The operation of pending entry `j` of a frame of context `k`, at its saved address, with number `n + j`. It is the operation that the
entry withdrew, in its place in `old`: it keeps its bundle and position, its epoch, its place in the order of issue (21 R382), its
place behind a FENCEL, to which the last FENCEL of the context is added (14 R303), and that its result is discarded (06 R145), which are free values, or none, only for an entry that
software made (log entry 31). -/
def pendReq (s : State) (f : Reader) (k n : Nat) (old : List Req) (j : Nat) : Option Req :=
  let w := f (0x2000 + 16 * j) 8
  let a := f (0x2008 + 16 * j) 8
  if w / 2 ^ 32 % 16 = 0 then none
  else
    match decodeSlot .m (w % 2 ^ 32) none with
    | none => none
    | some op =>
      let bw := isBwait op
      let r := old[j]?
      some { id := n + j, ctx := k, op := op
             addr := BitVec.ofNat 64 (if bw then a / 2 ^ 32 % 256 else a)
             arg1 := if bw then 1 else 0, arg2 := BitVec.ofNat 64 (if bw then a % 2 ^ 32 else 0), vec1 := 0, vec2 := 0, guard := 0
             args := Vector.replicate 8 0, prio := 0
             status := .walking, ways := [], marks := [], value := 0, found := none
             faulted := false, bundle := (r.map (·.bundle)).getD ((openAt s (2 * j)).setWidth 64)
             pos := (r.map (·.pos)).getD (2 + bits (openAt s (2 * j + 1)) 0 0), epoch := (r.map (·.epoch)).getD ⟨false, (ctxAt s k).entries⟩
             discard := (r.map (·.discard)).getD false, redirect := false, left := 0, line := n + j
             after := (r.map (·.after)).getD 0, again := (ctxAt s k).fencel
             order := (r.map (·.order)).getD (n + j), issue := (r.map (·.issue)).getD (n + j) }

/-- The loop stack of a frame, its top first. -/
def frameLoops (f : Reader) : List LoopEntry :=
  (List.range (f 0x2C 1)).reverse.map fun j =>
    ⟨BitVec.ofNat 64 (f (0x60 + 24 * j) 8), BitVec.ofNat 64 (f (0x68 + 24 * j) 8), BitVec.ofNat 64 (f (0x70 + 24 * j) 8)⟩

/-- The binding of register 56 + `n` in a frame of context `k`: `old` is what the binding was, whose bundle, epoch and place in the order
of issue it keeps (06 R111, R112); those of a binding that software put into the frame are free values, or of now (log entry 31). -/
def frameStream (s : State) (f : Reader) (k : Nat) (old : Nat → Option Stream) (n : Nat) : Option Stream :=
  let st := f (0x2850 + 96 * n) 8
  if st % 2 = 0 then none
  else some { out := st / 2 % 2 == 1
              pattern := vec8 fun i => BitVec.ofNat 64 (f (0x2800 + 96 * n + 8 * i) 8)
              base := BitVec.ofNat 64 (f (0x2840 + 96 * n) 8)
              pos := f (0x2848 + 96 * n) 8, queue := [], fault := none
              bundle := ((old n).map (·.bundle)).getD ((openAt s (256 + n)).setWidth 64)
              epoch := ((old n).map (·.epoch)).getD ⟨false, (ctxAt s k).entries⟩, order := ((old n).map (·.order)).getD s.nextId }

/-- The arrival-phase records of a frame. -/
def frameArrivals (f : Reader) : List Arrival :=
  (List.range 256).filterMap fun b =>
    let ph := f (0x3200 + 4 * b) 4
    if ph = 0 then none else some ⟨b, ph, false⟩

/-- The number of a cause, back to its name. -/
def causeOf (n : Nat) : Cause :=
  match n with
  | 1 => .illop | 2 => .illbnd | 3 => .illdep | 4 => .illbank | 5 => .loopovf | 6 => .loopunf
  | 0x10 => .perm | 0x11 => .page | 0x12 => .align | 0x13 => .sliceoff | 0x15 => .bankrange | 0x16 => .dfuse
  | 0x17 => .stackown | 0x21 => .rackid | 0x22 => .groupid | 0x23 => .parkfull | 0x30 => .ue | 0x31 => .proof
  | 0x38 => .matrixbank | 0x40 => .trap | _ => .event

/-- Held fault `j` of a frame of context `k`, with the epoch and the place in the order of issue that it had in `old`. -/
def frameHeld (s : State) (f : Reader) (k : Nat) (old : List FaultRec) (j : Nat) : FaultRec :=
  let t := f (0x3600 + 32 * j) 8
  let r := old[j]?
  ⟨causeOf (t % 256), BitVec.ofNat 12 (t / 2 ^ 8), BitVec.ofNat 64 (f (0x3608 + 32 * j) 8),
   BitVec.ofNat 64 (f (0x3610 + 32 * j) 8), t / 2 ^ 20 % 16, t / 2 ^ 24 % 2 == 1,
   (r.map (·.epoch)).getD ⟨false, (ctxAt s k).entries⟩, (r.map (·.order)).getD 0, none⟩

/-- Return from a handler, once the other operations of the RFT bundle have issued: the PC, the loop stack, s60-s63,
the arrival-phase records, the flight records, the pending loads and the stream bindings come from the frame. -/
def returnFromTrap (s : State) (k : Nat) : State :=
  let c := ctxAt s k
  let f := frameField s k
  let h := c.ccyc + c.waitc
  let records := (List.range (f 0x28 2)).map (recordFlight f h)
  let sdf := f 0x2D 1
  let saved := fun i => BitVec.ofNat 64 (f (0x40 + 8 * i) 8)
  let c' := { c with
    pc := BitVec.ofNat 64 (f 0 8)
    loops := frameLoops f
    s := (((c.s.setIfInBounds 60 (saved 0)).setIfInBounds 61 (saved 1)).setIfInBounds 62 (saved 2)).setIfInBounds 63 (saved 3)
    sdf := setDf (setDf (setDf (setDf c.sdf 60 (sdf % 2 = 1)) 61 (sdf / 2 % 2 = 1)) 62 (sdf / 4 % 2 = 1)) 63 (sdf / 8 % 2 = 1)
    arrivals := frameArrivals f
    flights := records ++ c.flights.map (underRecord records)
    streams := vec8 (frameStream s f k fun n => (c.streamsSaved[n]?).getD none)
    held := holdAll ((List.range (f 0x2E 2)).map (frameHeld s f k c.heldSaved)) c.held, heldSaved := [], pendSaved := []
    streamsSaved := Vector.replicate 8 none, h := false, en := true, afterRft := true, mprio := c.mprioSaved, group := [], fetched := false }
  setCtx { s with reqs := s.reqs ++ (List.range (f 0x2A 2)).filterMap (pendReq s f k (s.nextId + 64) c.pendSaved), nextId := s.nextId + 256, free := s.free + 264 } k c'

end Sys2Proof.Machine
end

