-- ==== Sys2Proof/Machine/Issue.lean ====
section
/-! DEFINITION. The issue of a bundle (06 R105-R140): fetch, the checks of R96 in their order, the engine waits of
Table issue-5, the path tags, and the retirement of the bundle. -/

namespace Sys2Proof.Machine

/-- What becomes of a bundle that is about to issue. -/
inductive Verdict where
  | go
  | wait
  | trap (f : FaultRec)
  | late (f : FaultRec)

/-- An operation at its position. -/
abbrev Op := Nat × Instr

/-! ## Path tags and branch tests (05 R92, R93, 06 R129-R133) -/

/-- The operation executes under its path tag. -/
def executes (taken : Option Nat) (p : Tag) : Bool :=
  match p.val with
  | 0 => true
  | 5 => taken.isNone
  | 6 => taken.isSome
  | 7 => false
  | n => taken == some (9 + n)

/-- A branch test is true against the state at issue. -/
def testTrue (c : Ctx) : Instr → Bool
  | .bt g _ => (pVal c g).getLsbD 0
  | .bf g _ => !(pVal c g).getLsbD 0
  | .bany g _ => pVal c g != 0
  | .ball g _ => pVal c g == BitVec.allOnes 128
  | .j _ | .call _ | .jr _ _ => true
  | .chk g _ => if g.val < 64 then sDf c g else vDf c (g.val - 64)
  | _ => false

/-- The first true test in the order B0 to B3. -/
def firstTaken (c : Ctx) : List Op → Option Nat
  | [] => none
  | (p, i) :: l => if 10 ≤ p && testTrue c i then some p else firstTaken c l

/-- A branch test. -/
def isTest (i : Instr) : Bool :=
  match i with
  | .bt .. | .bf .. | .bany .. | .ball .. | .j .. | .call .. | .chk .. | .jr .. => true
  | _ => false

/-- TRAP, RFT, YIELD, TEND or SVC (06 R141). -/
def isSys1 (i : Instr) : Bool :=
  match i with
  | .trap .. | .rft .. | .yield .. | .tend .. | .svc .. | .svcNop .. | .svcLog .. | .svcProbe .. | .svcTouch .. => true
  | _ => false
def isRftTend (i : Instr) : Bool := match i with | .rft .. | .tend .. => true | _ => false
def isLoopOp (i : Instr) : Bool := match i with | .loop .. | .loopi .. | .loopiLong .. | .brklp .. => true | _ => false
def isFence (i : Instr) : Bool := match i with | .fenceh .. => true | _ => false
/-- Operations that take effect once their bundle has issued (06 R110, R142-R147). -/
def isPost (i : Instr) : Bool := isSys1 i || isFence i

/-! ## Addresses that the checks need -/

/-- A speculative load with a deferred-faulted base: it makes no access (10 R229). -/
def specDeferred (c : Ctx) : Instr → Bool
  | .lds _ a _ _ | .ldsLong _ a _ _ | .vlds _ a _ _ | .vldsLong _ a _ _ => sDf c a
  | _ => false

/-- The bytes a load or store of the M forms accesses: address, size and whether it writes. -/
def plainAccess (c : Ctx) : Instr → Option (Word × Nat × Bool)
  | .ldb _ a o _ => some (sVal c a + ext11 o, 1, false)
  | .ldbn _ a o _ => some (sVal c a + ext11 o, 1, false)
  | .ldh _ a o _ => some (sVal c a + 2 * ext11 o, 2, false)
  | .ldhn _ a o _ => some (sVal c a + 2 * ext11 o, 2, false)
  | .ldw _ a o _ => some (sVal c a + 4 * ext11 o, 4, false)
  | .ldwn _ a o _ => some (sVal c a + 4 * ext11 o, 4, false)
  | .ldd _ a o _ => some (sVal c a + 8 * ext11 o, 8, false)
  | .lds _ a o _ => some (sVal c a + 8 * ext11 o, 8, false)
  | .stb _ a o _ => some (sVal c a + ext11 o, 1, true)
  | .sth _ a o _ => some (sVal c a + 2 * ext11 o, 2, true)
  | .stw _ a o _ => some (sVal c a + 4 * ext11 o, 4, true)
  | .std _ a o _ => some (sVal c a + 8 * ext11 o, 8, true)
  | .stf _ a o _ => some (sVal c a + 8 * ext11 o, 8, true)
  | .vld _ a o _ => some (sVal c a + 256 * ext11 o, 256, false)
  | .vlds _ a o _ => some (sVal c a + 256 * ext11 o, 256, false)
  | .vst _ a o _ => some (sVal c a + 256 * ext11 o, 256, true)
  | .vstf _ a o _ => some (sVal c a + 256 * ext11 o, 256, true)
  | .klds _ a o _ => some (sVal c a + 128 * ext11 o, 128, false)
  | .kldss _ a o _ => some (sVal c a + 4 * ext11 o, 4, false)
  | .qsts _ a o _ => some (sVal c a + 128 * ext11 o, 128, true)
  | .ldbLong _ a _ m => some (sVal c a + ext32 m, 1, false)
  | .ldbnLong _ a _ m => some (sVal c a + ext32 m, 1, false)
  | .ldhLong _ a _ m => some (sVal c a + ext32 m, 2, false)
  | .ldhnLong _ a _ m => some (sVal c a + ext32 m, 2, false)
  | .ldwLong _ a _ m => some (sVal c a + ext32 m, 4, false)
  | .ldwnLong _ a _ m => some (sVal c a + ext32 m, 4, false)
  | .lddLong _ a _ m => some (sVal c a + ext32 m, 8, false)
  | .ldsLong _ a _ m => some (sVal c a + ext32 m, 8, false)
  | .stbLong _ a _ m => some (sVal c a + ext32 m, 1, true)
  | .sthLong _ a _ m => some (sVal c a + ext32 m, 2, true)
  | .stwLong _ a _ m => some (sVal c a + ext32 m, 4, true)
  | .stdLong _ a _ m => some (sVal c a + ext32 m, 8, true)
  | .stfLong _ a _ m => some (sVal c a + ext32 m, 8, true)
  | .vldLong _ a _ m => some (sVal c a + ext32 m, 256, false)
  | .vldsLong _ a _ m => some (sVal c a + ext32 m, 256, false)
  | .vstLong _ a _ m => some (sVal c a + ext32 m, 256, true)
  | .vstfLong _ a _ m => some (sVal c a + ext32 m, 256, true)
  | _ => none

/-- The offset in the own slice of an access that lies wholly in it (10 R226). -/
def ownOffset (s : State) (k : Nat) (x : Word) (n : Nat) : Option Nat :=
  let lo := windowAddr (coreAt s (k / 4)).logical 0
  if lo ≤ x.toNat ∧ x.toNat + n ≤ lo + 2 ^ 22 then some (x.toNat - lo) else none

/-- The bank and the unit index of a bank form: an unsigned 64-bit sum (10 R230). -/
def bankUnit (c : Ctx) : Instr → Option (Nat × Nat)
  | .vldb _ b x o _ => some (b.val, (sVal c x + BitVec.ofNat 64 o.val).toNat)
  | .vstb _ b x o _ => some (b.val, (sVal c x + BitVec.ofNat 64 o.val).toNat)
  | _ => none

/-- The own-slice bytes a load or store of the context accesses. -/
def ownAccess (s : State) (k : Nat) (i : Instr) : Option (Nat × Nat) :=
  match bankUnit (ctxAt s k) i with
  | some (b, q) => some (b * 0x20000 + 256 * q, 256)
  | none =>
    match plainAccess (ctxAt s k) i with
    | some (x, n, _) => (ownOffset s k x n).map (·, n)
    | none => none

/-- The banks that the bytes [off, off + n) of a slice touch, as a mask (10 R221). -/
def bankMask (off n : Nat) : Nat :=
  let lo := off / 0x20000
  let hi := (off + (n - 1)) / 0x20000
  (List.range 32).foldl (fun m b => if lo ≤ b && b ≤ hi then m + 2 ^ b else m) 0

/-- The banks that the engine commands of a core hold (10 R223, R241). -/
def reservedBanks (s : State) (n : Nat) : BitVec 32 :=
  (s.copies.foldl (fun m x => if x.ctx / 4 = n then m ||| x.banks else m) 0) |||
  ((coreAt s n).queue.foldl (fun m x => m ||| x.banks) 0)

/-- The reservation entries in use on a core. -/
def reservations (s : State) (n : Nat) : Nat :=
  (s.copies.filter fun x => x.ctx / 4 == n && x.banks != 0).length + ((coreAt s n).queue.filter fun x => x.banks != 0).length

/-! ## Step 5 of R96: group, in-flight and stream rules, then the bank rule -/

/-- The exposed latency of an operation in context cycles, zero for one that returns no exposed result
(06 Table issue-3). -/
def exposedLat (s : State) (k : Nat) (i : Instr) : Nat :=
  match i with
  | .mul .. | .mulh .. | .mulhn .. => 3
  | .erd .. => 2
  | .vadd _ _ _ t .. | .vsub _ _ _ t .. | .vmul _ _ _ t .. | .vfma _ _ _ t .. | .vfms _ _ _ t .. | .vfnma _ _ _ t ..
  | .vmin _ _ _ t .. | .vmax _ _ _ t .. => if t.val = 3 then 2 else 4
  | .vabs _ _ t .. | .vneg _ _ t .. => if t.val = 3 then 2 else 4
  | .vadds _ _ _ t .. | .vmuls _ _ _ t .. | .vfmas _ _ _ t .. => if t.val = 3 then 2 else 4
  | .vaddsLong _ _ t .. | .vmulsLong _ _ t .. | .vfmasLong _ _ t .. => if t.val = 3 then 2 else 4
  | .vcvt .. | .vperm .. => 4
  | .vand .. | .vor .. | .vxor .. | .vshl .. | .vshr .. | .vsra .. | .vsel .. | .vcmp .. | .vslide .. | .viota ..
  | .vbcast .. | .vbcastLong .. | .vins .. | .vext .. | .kunp .. => 2
  | .kunpq .. => 3
  | .klds .. | .kldss .. | .vldb .. => 4
  | .qpk .. | .qpkq .. | .qamax .. => 3
  | .frcp .. | .frsq .. | .fsqrt .. | .fexp2 .. | .flog2 .. | .fsin .. | .fcos .. | .ftanh .. => 8
  | .fsum .. | .fmaxr .. | .fminr .. | .fscan .. => 6
  | i => if isPlainLoad i && ((ownAccess s k i).isSome || specDeferred (ctxAt s k) i) then 4 else 0

/-- The number of empty cycles of a WAITC: an unsigned sum, at most 65,535 (06 R140). -/
def waitCount (x : Word) (n : Nat) : Nat := min 65535 (x.toNat + n)

/-- The empty cycles that an operation asks for. -/
def emptyOf (s : State) (k : Nat) (i : Instr) : Nat :=
  match i with
  | .waitc a n _ => waitCount (sVal (ctxAt s k) a) n
  | _ => 0

/-- The empty cycles that follow a bundle before its boundary (06 R140): two WAITCs of one bundle count the same cycles, so that the
greater count holds the stage (DESIGN CHOICE, log entry 40). -/
def emptyCycles (s : State) (k : Nat) (ex : List Op) : Nat := ex.foldl (fun m x => max m (emptyOf s k x.2)) 0

/-- The results of a context that would be in flight at the next boundary, `w` empty cycles on, with none of the bundle's own
(06 R108). -/
def inFlight (c : Ctx) (w : Nat) : Nat := (c.flights.filter fun f => c.ccyc + 2 + w < f.land).length

/-- The items an operation writes, where the taken test alone writes a link. -/
def opWrites (c : Ctx) (taken : Option Nat) (x : Op) : List Item :=
  if 10 ≤ x.1 && taken != some x.1 then [] else (usesOf c x.2).writes

/-- The group rules (06 R106, R107): the first operation that breaks one. -/
def groupDefect (c : Ctx) (taken : Option Nat) : List Item → Bool → List Op → Option Nat
  | _, _, [] => none
  | seen, looped, x :: l =>
    let w := opWrites c taken x
    if ((usesOf c x.2).reads ++ w).any (c.group.contains ·) || w.any (seen.contains ·) || (looped && isLoopOp x.2) then some x.1
    else groupDefect c taken (seen ++ w) (looped || isLoopOp x.2) l

/-- The operation sends a result that is in flight at a boundary `w` empty cycles after its own cycle: none toward s0 (07 R148); the flags
of a VCMP toward p0 still land, so it counts (DESIGN CHOICE, log entry 57). -/
def exposes (s : State) (k w : Nat) (i : Instr) : Bool := 2 + w ≤ exposedLat s k i && (usesOf (ctxAt s k) i).ws != [0]

/-- The results that an operation puts in flight: its own, or the records that an RFT schedules (21 R381). -/
def addsFlights (s : State) (k w : Nat) (i : Instr) : Nat :=
  match i with
  | .rft _ => if (ctxAt s k).h && !frameMalformed s k then frameField s k 0x28 2 else 0
  | i => if exposes s k w i then 1 else 0

/-- The in-flight rule (06 R108): the first operation past 24 results. -/
def flightDefect (s : State) (k w : Nat) : Nat → List Op → Option Nat
  | _, [] => none
  | n, x :: l =>
    let n := n + addsFlights s k w x.2
    if 24 < n then some x.1 else flightDefect s k w n l

/-- The stream rules (10 R246, R247): a write of an input stream's register, a read of an output stream's register,
a guarded or partial write of it. -/
def streamDefect (c : Ctx) (i : Instr) : Bool :=
  let u := usesOf c i
  u.wv.any (fun r => match streamOf c r with | some st => !st.out || u.part || u.guarded | none => false) ||
  u.rv.any fun r => match streamOf c r with | some st => st.out | none => false

/-- The bank rule (06 R109). -/
def bankDefect : List Nat → List Op → Option Nat
  | _, [] => none
  | seen, x :: l =>
    match x.2 with
    | .vldb _ b _ _ _ | .vstb _ b _ _ _ => if seen.contains (b.val / 4) then some x.1 else bankDefect (b.val / 4 :: seen) l
    | _ => bankDefect seen l

/-- A second SYS operation of one bundle; RFT or TEND beside a B position or a loop operation (06 R141). `all` are the
operations of the bundle, `ex` those that execute. -/
def sysDefect (all ex : List Op) : Option Nat :=
  match (ex.filter fun x => isSys1 x.2).drop 1, (all.filter fun x => isRftTend x.2) with
  | x :: _, _ => some x.1
  | [], x :: _ => if all.any (fun y => 10 ≤ y.1) || ex.any (fun y => isLoopOp y.2) then some x.1 else none
  | [], [] => none

/-- An executing operation reads or writes a pending register (06 R121). -/
def registerWaits (s : State) (k : Nat) (taken : Option Nat) (ex : List Op) : Bool :=
  ex.any fun x => ((usesOf (ctxAt s k) x.2).reads ++ opWrites (ctxAt s k) taken x).any (pendingItem s k)

/-- The positions at which the rules of step 5 of R96 that give ILLDEP are broken: of the group, the in-flight and the stream rules. What
the bundle would leave in flight is known once no register that it reads or writes is pending (06 R108, R121). -/
def depDefects (s : State) (k : Nat) (taken : Option Nat) (ex : List Op) : List Nat :=
  let c := ctxAt s k
  (groupDefect c taken [] false ex).toList ++
  (if registerWaits s k taken ex then none else flightDefect s k (emptyCycles s k ex) (inFlight c (emptyCycles s k ex)) ex).toList ++
  ((ex.find? fun x => streamDefect c x.2).map (·.1)).toList

/-- The trap found before the engine waits are looked at: ILLOP of R141 and R135, before step 5 of R96 (DESIGN CHOICE, log entry 50),
ILLDEP at the first offending position, ILLBANK. -/
def staticDefect (s : State) (k : Nat) (taken : Option Nat) (len : Nat) (all ex : List Op) : Option (Cause × Nat) :=
  match sysDefect all ex, (ex.find? fun x => loopEndsShort len x.2), (depDefects s k taken ex).min?, bankDefect [] ex with
  | some p, _, _, _ => some (.illop, p)
  | none, some x, _, _ => some (.illop, x.1)
  | none, none, some p, _ => some (.illdep, p)
  | none, none, none, some p => some (.illbank, p)
  | none, none, none, none => none

/-! ## Steps 6 to 9 of R96 -/

/-- A deferred-faulted source of an operation that traps DFUSE. -/
def dfuseDefect (c : Ctx) (i : Instr) : Bool :=
  let u := usesOf c i
  u.strict && (u.rs.any (sDf c) || u.rv.any (vDf c))

/-- The bank groups an extent touches, as a mask of 8. -/
def groupMask (off n : Nat) : Nat :=
  (List.range 8).foldl (fun m g => if off / 0x80000 ≤ g && g ≤ (off + (n - 1)) / 0x80000 then m + 2 ^ g else m) 0

/-- The A extent of an MMA from its base, in bytes (11 R258, Table matrix-2). -/
def mmaABytes (c : Ctx) (e : Fin 16) (w : Fin 8) : Nat :=
  (bits (eVal c e 2) 15 8 - 1) * (eVal c e 3).toNat + 127 * (eVal c e 0).toNat + (if w.val = 5 then 32 else 64)

/-- The B extent of an MMA without a tile handle. -/
def mmaBBytes (c : Ctx) (e : Fin 16) (w : Fin 8) : Nat :=
  let n := bits (eVal c e 2) 15 8
  let f4 := (eVal c e 4).toNat
  let f1 := (eVal c e 1).toNat
  match w.val with
  | 2 => (n - 1) * f4 + 3200
  | 3 | 4 => (n - 1) * f4 + 31 * f1 + 192
  | 5 => (n - 1) * f4 + 7 * f1 + 384
  | _ => (n - 1) * f4 + 63 * f1 + 96

/-- The step count of an MMA, the element count of an MMAS. -/
def matrixCount (c : Ctx) (e : Fin 16) : Nat := bits (eVal c e 2) 15 8
/-- The element batch of an MMAS, in bytes (11 R268). -/
def mmasBytes (c : Ctx) (e : Fin 16) : Nat := (matrixCount c e - 1) * (eVal c e 0).toNat + 2048

/-- Two extents in the own slice touch a bank group in common. -/
def groupsMeet (s : State) (k : Nat) (a b : Word) (na nb : Nat) : Bool :=
  match ownOffset s k a na, ownOffset s k b nb with
  | some oa, some ob => (groupMask oa na &&& groupMask ob nb) != 0
  | _, _ => false

/-- The banks of the own slice that the bytes [a, a + n) touch. -/
def ownBanks (s : State) (k a n : Nat) : BitVec 32 :=
  let lo := windowAddr (coreAt s (k / 4)).logical 0
  let x := max a lo
  let y := min (a + n) (lo + 2 ^ 22)
  if x < y then BitVec.ofNat 32 (bankMask (x - lo) (y - x)) else 0

/-- MATRIXBANK (11 R259, R268): both extents in the own slice with a bank group in common, or with a tile handle an A
extent that touches bank group 7, banks 28 to 31, wherever else it lies. A count of zero gives no extent. -/
def matrixDefect (s : State) (k : Nat) (i : Instr) : Bool :=
  let c := ctxAt s k
  match i with
  | .mma e a b _ w _ =>
    let na := mmaABytes c e w
    if matrixCount c e = 0 then false
    else if bits (eVal c e 2) 0 0 = 1 then (ownBanks s k (sVal c a).toNat na >>> 28) != 0
    else groupsMeet s k (sVal c a) (sVal c b) na (mmaBBytes c e w)
  | .mmas e a b _ _ _ => matrixCount c e != 0 && groupsMeet s k (sVal c a) (sVal c b) (mmasBytes c e) 256
  | _ => false

/-- The loop checks of R138. -/
def loopDefect (c : Ctx) (taken : Option Nat) (h : Word) (i : Instr) : Option Cause :=
  let after := fun (d : List LoopEntry) => if taken.isSome then d else
    (d.dropWhile fun e => e.stop == h && e.count == 1)
  match i with
  | .brklp _ => if c.loops.isEmpty then some .loopunf else none
  | .loop a _ _ => if sVal c a != 0 && 6 ≤ (after c.loops).length then some .loopovf else none
  | .loopi _ _ _ | .loopiLong _ _ _ => if 6 ≤ (after c.loops).length then some .loopovf else none
  | _ => none

/-- The trap found from the values read at issue: RFT, DFUSE, BANKRANGE, MATRIXBANK, the loop checks. -/
def valueDefect (s : State) (k : Nat) (taken : Option Nat) (h : Word) (ex : List Op) : Option (Cause × Nat × Word) :=
  let c := ctxAt s k
  match (ex.find? fun x => (match x.2 with | .rft _ => !c.h || frameMalformed s k | _ => false)),
        (ex.find? fun x => dfuseDefect c x.2),
        (ex.find? fun x => (match bankUnit c x.2 with | some (_, q) => 512 ≤ q | none => false)),
        (ex.find? fun x => matrixDefect s k x.2),
        (ex.find? fun x => (loopDefect c taken h x.2).isSome) with
  | some x, _, _, _, _ => some (.illop, x.1, 0)
  | none, some x, _, _, _ => some (.dfuse, x.1, 0)
  | none, none, some x, _, _ => some (.bankrange, x.1, BitVec.ofNat 64 (((bankUnit c x.2).getD (0, 0)).2))
  | none, none, none, some x, _ => some (.matrixbank, x.1, 0)
  | none, none, none, none, some x => some ((loopDefect c taken h x.2).getD .loopovf, x.1, 0)
  | none, none, none, none, none => none

/-! ## Engine waits (06 Table issue-5) -/

/-- A memory access, a synchronising access, or an engine command (14 R300, Table consistency-2). -/
def touchesMemory (i : Instr) : Bool :=
  (plainAccess Ctx.reset i).isSome || (bankUnit Ctx.reset i).isSome || isFullEmpty i ||
  match i with
  | .vgath .. | .vscat .. | .ldacq .. | .strel .. | .atomAdd .. | .atomMin .. | .atomMax .. | .atomMinn .. | .atomMaxn ..
  | .atomAnd .. | .atomOr .. | .atomXor .. | .atomSwap .. | .cas .. | .vatomAdd .. | .vatomAnd .. | .vatomOr ..
  | .vatomMax .. | .copy .. | .copyRack .. | .bindIn .. | .bindOut .. | .mma .. | .mmas .. | .mzero .. | .mproof .. | .mld ..
  | .mst .. | .mstRack .. | .peel .. | .rkopen .. | .binit .. | .bwait .. | .tset .. | .twait .. | .ready .. | .unready .. => true
  | _ => false

/-- The number of one bits among the low `n`. -/
def oneBits {w : Nat} (x : BitVec w) : Nat → Nat
  | 0 => 0
  | n + 1 => oneBits x n + (if x.getLsbD n then 1 else 0)

/-- The address and size of a full/empty load. -/
def feAccess (c : Ctx) : Instr → Option (Word × Nat)
  | .ldfe _ a o _ | .ldfec _ a o _ => some (sVal c a + 8 * ext11 o, 8)
  | .vldfe _ a o _ | .vldfec _ a o _ => some (sVal c a + 256 * ext11 o, 256)
  | .ldfeLong _ a _ m | .ldfecLong _ a _ m => some (sVal c a + ext32 m, 8)
  | .vldfeLong _ a _ m | .vldfecLong _ a _ m => some (sVal c a + ext32 m, 256)
  | _ => none

/-- The lane width in bytes of a gather or scatter (10 R231). -/
def gatherBytes (w : Fin 4) : Nat := if w.val = 0 then 4 else 2
/-- The address of lane `i` of a base and an offset vector, for lanes of `z` bytes. -/
def laneAddr (base : Word) (off : VWord) (z i : Nat) : Nat :=
  (base + BitVec.ofNat 64 (z * bits off (8 * z * i + (8 * z - 1)) (8 * z * i))).toNat
/-- The lanes a guard selects, ascending. -/
def guardLanes (z : Nat) (g : BitVec 128) : List Nat := (List.range (256 / z)).filter (selected (8 * z) g)

/-- The addresses of a gather or scatter with their size. -/
def scatterSpans (c : Ctx) : Instr → List (Nat × Nat)
  | .vgath _ a b g w _ | .vscat _ a b g w _ =>
    (guardLanes (gatherBytes w) (pVal c g)).map fun l => (laneAddr (sVal c a) (vVal c b) (gatherBytes w) l, gatherBytes w)
  | _ => []

/-- KLDS, KLDSS and QSTS reach the own slice alone: elsewhere they fail and send no request (09 R208, R213). -/
def ownSliceOnly (i : Instr) : Bool := match i with | .klds .. | .kldss .. | .qsts .. => true | _ => false

/-- The request entries an operation takes at issue (06 R122, 10 R226). -/
def entriesNeeded (s : State) (k : Nat) (i : Instr) : Nat :=
  let c := ctxAt s k
  match i with
  | .vscat .. => ((scatterSpans c i).filter fun x => (ownOffset s k (BitVec.ofNat 64 x.1) x.2).isNone).length
  | .vgath .. | .ldacq .. | .strel .. | .atomAdd .. | .atomMin .. | .atomMax .. | .atomMinn .. | .atomMaxn ..
  | .atomAnd .. | .atomOr .. | .atomXor .. | .atomSwap .. | .cas .. | .vatomAdd .. | .vatomAnd .. | .vatomOr ..
  | .vatomMax .. | .rkopen .. | .rktake .. | .rkpub .. | .rkdrop .. | .binit .. | .barv .. | .bwait .. | .peel ..
  | .tdec .. | .spawn .. | .asend .. | .gsend .. => 1
  | i =>
    if isFullEmpty i then 1
    else if ownSliceOnly i then 0
    else if (plainAccess c i).isSome && (ownAccess s k i).isNone && !specDeferred c i then 1 else 0

/-- The own-slice bytes that the plain, full/empty, gather and scatter accesses of an operation touch, as offset and size; a
speculative load with a deferred-faulted base makes no access. -/
def directSpans (s : State) (k : Nat) (i : Instr) : List (Nat × Nat) :=
  (if specDeferred (ctxAt s k) i then [] else (ownAccess s k i).toList) ++
  (match feAccess (ctxAt s k) i with
   | some (x, n) => ((ownOffset s k x n).map (·, n)).toList
   | none => []) ++
  (scatterSpans (ctxAt s k) i).filterMap fun x => (ownOffset s k (BitVec.ofNat 64 x.1) x.2).map (·, x.2)

/-- The addresses and sizes of a synchronising access. -/
def syncTargets (c : Ctx) : Instr → List (Word × Nat)
  | .ldacq _ a _ z _ | .strel _ a _ z _ => [(sVal c a, 2 ^ z.val)]
  | .atomAdd _ a _ _ _ | .atomMin _ a _ _ _ | .atomMax _ a _ _ _ | .atomMinn _ a _ _ _ | .atomMaxn _ a _ _ _
  | .atomAnd _ a _ _ _ | .atomOr _ a _ _ _ | .atomXor _ a _ _ _ | .atomSwap _ a _ _ _ | .cas _ a _ _ _ => [(sVal c a, 8)]
  | .vatomAdd _ a b _ _ | .vatomAnd _ a b _ _ | .vatomOr _ a b _ _ | .vatomMax _ a b _ _ =>
    (List.range 64).map fun l => (BitVec.ofNat 64 (laneAddr (sVal c a) (vVal c b) 4 l), 4)
  | _ => []

/-- The own-slice bytes that an operation accesses (06 R118, 10 R223). -/
def ownSpans (s : State) (k : Nat) (i : Instr) : List (Nat × Nat) :=
  directSpans s k i ++ (syncTargets (ctxAt s k) i).filterMap fun x => (ownOffset s k x.1 x.2).map (·, x.2)

/-- The bytes that the synchronising accesses and full/empty loads of an operation access, which are performed after their bundle has
issued. -/
def lateSpans (c : Ctx) (i : Instr) : List (Nat × Nat) :=
  (syncTargets c i).map (fun x => (x.1.toNat, x.2)) ++ ((feAccess c i).map fun x => (x.1.toNat, x.2)).toList

/-- The size of the one access of a request, and whether it writes. -/
def reqAccess : Instr → Option (Nat × Bool)
  | .ldacq _ _ _ z _ => some (2 ^ z.val, false)
  | .strel _ _ _ z _ => some (2 ^ z.val, true)
  | .atomAdd .. | .atomMin .. | .atomMax .. | .atomMinn .. | .atomMaxn .. | .atomAnd .. | .atomOr .. | .atomXor ..
  | .atomSwap .. | .cas .. => some (8, true)
  | .vstb .. => some (256, true)
  | i =>
    match feAccess Ctx.reset i with
    | some (_, n) => some (n, false)
    | none => (plainAccess Ctx.reset i).map fun x => (x.2.1, x.2.2)

/-- The accesses of a request: address, size and whether it writes, in ascending lane order. -/
def reqTargets (r : Req) : List (Nat × Nat × Bool) :=
  match r.op with
  | .vgath _ _ _ _ w _ => (guardLanes (gatherBytes w) r.guard).map fun l => (laneAddr r.addr r.vec1 (gatherBytes w) l, gatherBytes w, false)
  | .vscat _ _ _ _ w _ => (guardLanes (gatherBytes w) r.guard).map fun l => (laneAddr r.addr r.vec1 (gatherBytes w) l, gatherBytes w, true)
  | .vatomAdd .. | .vatomAnd .. | .vatomOr .. | .vatomMax .. => (List.range 64).map fun l => (laneAddr r.addr r.vec1 4 l, 4, true)
  | op => match reqAccess op with | some (n, w) => [(r.addr.toNat, n, w)] | none => []

/-- An access of a request lies in the own slice of its core. -/
def ownTarget (s : State) (r : Req) (x : Nat × Nat × Bool) : Bool := (ownOffset s r.ctx (BitVec.ofNat 64 x.1) x.2.1).isSome
/-- The request is a plain or full/empty store. -/
def isPlainStore (r : Req) : Bool := !isSyncReq r.op && (reqTargets r).any fun x => x.2.2

/-- The entries that the requests of a core hold of its 1,536; a plain store to the own slice, a lane of a scatter too, holds none
(06 R122, 10 R226). -/
def entriesUsed (s : State) (n : Nat) : Nat :=
  ((s.reqs.filter fun r => r.ctx / 4 == n).map fun r =>
    if isPlainStore r then ((reqTargets r).filter fun x => !ownTarget s r x).length else 1).sum

def isFullEmptyStore (i : Instr) : Bool :=
  match i with | .stf .. | .vstf .. | .stfLong .. | .vstfLong .. => true | _ => false

/-- A request not performed yet. -/
def Req.open (r : Req) : Bool := r.status != .performed && r.status != .refused
/-- A request that has taken its place in the order of synchronising accesses: performed, a launch that has reached its core or
its group's root (17 R343, R359), or a BWAIT, which its unit answers in its own time. -/
def Req.placed (r : Req) : Bool := !r.open || isBwait r.op || (isLaunch r.op && r.status == .held)

/-- An access of the context to bytes that an earlier request of it has still to be performed at waits at issue, so that
its accesses to one byte are performed in program order (14 R296): all but a full/empty operation behind a full/empty
load, which the slice takes in arrival order. -/
def overlapWaits (s : State) (k : Nat) (i : Instr) : Bool :=
  let lo := windowAddr (coreAt s (k / 4)).logical 0
  let fe := (feAccess Ctx.reset i).isSome || (match i with | .stf .. | .vstf .. | .stfLong .. | .vstfLong .. => true | _ => false)
  (directSpans s k i).any fun x => s.reqs.any fun r =>
    r.ctx == k && r.open && !(fe && isFullEmpty r.op) &&
    (reqTargets r).any fun y => decide (lo + x.1 < y.1 + y.2.1) && decide (y.1 < lo + x.1 + x.2)

/-- A plain store of core `n` to its own slice that is still to be performed: lanes of a scatter that has lanes elsewhere, or a store beside
a synchronising access of its bundle (10 R231, 00 R7). `at'` looks at the address and size of each such access. -/
def ownStoreOpen (s : State) (n : Nat) (at' : Req → Nat → Nat → Bool) : Bool :=
  s.reqs.any fun r => r.ctx / 4 == n && r.open && isPlainStore r && (reqTargets r).any fun y => y.2.2 && ownTarget s r y && at' r y.1 y.2.1

/-- The plain and full/empty accesses of a context to its own slice take effect in issue order, and those of its core to one line (06 R117,
10 R226, R236): behind such a store the context's own-slice accesses wait at issue, and the core's to its line. -/
def ownOrderWaits (s : State) (k : Nat) (i : Instr) : Bool :=
  let lo := windowAddr (coreAt s (k / 4)).logical 0
  (directSpans s k i).any fun x => ownStoreOpen s (k / 4) fun r a n =>
    r.ctx == k || decide (a / 256 ≤ (lo + x.1 + (x.2 - 1)) / 256) && decide ((lo + x.1) / 256 ≤ (a + (n - 1)) / 256)

/-- An operation of the kinds that an entry withdraws (06 R122, 21 Table intr-3): no load into s0 is one. -/
def isWithdrawn (s : State) (k : Nat) (i : Instr) : Bool :=
  isBwait i || !intoS0 i && (isFullEmpty i || (isPlainLoad i && (ownAccess s k i).isNone && !specDeferred (ctxAt s k) i))
/-- An outstanding operation of those kinds, until it lands. -/
def withdrawable (r : Req) : Bool := !r.discard && (isBwait r.op || !intoS0 r.op && (isFullEmpty r.op || isPlainLoad r.op))

/-- A range of host memory, the pool or a peer part: the long copy class (10 R242). -/
def longRange (a : Word) : Bool :=
  match spaceOf a.toNat with
  | .host _ | .pool _ | .peer => true
  | _ => false

/-- The banks of the own slice that a pattern touches from a base: each innermost run is contiguous (10 R239, R241). -/
def patternBanks (s : State) (k : Nat) (f : Vector Word 8) (base : Word) (dst : Bool) : BitVec 32 :=
  let run := bits f[0] 7 0 * f[1].toNat
  if run = 0 then 0
  else (List.range (patternBytes f / run)).foldl (fun m r => m ||| ownBanks s k (patternAddr f base dst (run * r)) run) 0

/-- The own-slice banks of `n` rows from an address, `stride` apart, of `z` bytes each. -/
def rowBanks (s : State) (k : Nat) (a stride : Word) (n z : Nat) : BitVec 32 :=
  (List.range n).foldl (fun m r => m ||| ownBanks s k ((a.toNat + r * stride.toNat) % 2 ^ 64) z) 0

/-- The bytes of an MST's output format (11 Table matrix-5). -/
def outBytes (f1 : Word) : Nat := match bits f1 2 0 with | 0 => 4 | 1 | 2 => 2 | _ => 1

/-- The banks of the staging range of a tile handle (11 R261). -/
abbrev stagingBanks : BitVec 32 := 0xF0000000

/-- The own-slice banks an engine command reserves at issue (10 R241, 11 R260); for a rack target, those of every tray
of the rack. -/
def commandBanks (s : State) (k : Nat) (i : Instr) : BitVec 32 :=
  let c := ctxAt s k
  let rackBanks := fun (x : Word) => match jobOfCtx s k with
    | some j => match j.racks[x.toNat]? with
      | some r => ownBanks s k r.base.toNat (r.size * r.trays.length)
      | none => 0
    | none => 0
  match i with
  | .copy e a b _ _ => patternBanks s k (eAll c e) (sVal c a) false ||| patternBanks s k (eAll c e) (sVal c b) true
  | .copyRack e a b _ _ => patternBanks s k (eAll c e) (sVal c a) false ||| rackBanks (sVal c b)
  | .mma e a b _ w _ =>
    ownBanks s k (sVal c a).toNat (mmaABytes c e w) |||
      (if bits (eVal c e 2) 0 0 = 1 then stagingBanks else ownBanks s k (sVal c b).toNat (mmaBBytes c e w))
  | .mmas e a b _ _ _ => ownBanks s k (sVal c a).toNat (mmasBytes c e) ||| ownBanks s k (sVal c b).toNat 256
  | .mld e a _ _ => rowBanks s k (sVal c a) (eVal c e 0) 128 384
  | .mst e a _ _ _ => rowBanks s k (sVal c a) (eVal c e 0) 128 (96 * outBytes (eVal c e 1))
  | .mstRack _ a _ _ _ => rackBanks (sVal c a)
  | _ => 0

/-- The engine queues have no room for a command (10 R223, R242, 11 R252); of the 16 commands of a matrix engine's queue the running one is
one (DESIGN CHOICE, log entry 58). -/
def engineFull (s : State) (k : Nat) (i : Instr) : Bool :=
  let c := ctxAt s k
  let n := k / 4
  let outstanding := fun long => (s.copies.filter fun x => x.ctx / 4 == n && x.long == long).length
  (16 ≤ reservations s n && commandBanks s k i != 0) ||
  match i with
  | .copy _ a b _ _ => if longRange (sVal c a) || longRange (sVal c b) then 64 ≤ outstanding true else 256 ≤ outstanding false
  | .copyRack _ a _ _ _ => if longRange (sVal c a) then 64 ≤ outstanding true else 256 ≤ outstanding false
  | .mma .. | .mmas .. | .mld .. | .mst .. | .mstRack .. | .mzero .. | .mproof .. => 16 ≤ (coreAt s n).queue.length
  | _ => false

/-- A read of an input stream whose queue is empty, or a write of an output stream that has no room (10 R246, R247). -/
def streamWaits (c : Ctx) (i : Instr) : Bool :=
  let u := usesOf c i
  u.rv.any (fun r => match streamOf c r with | some st => !st.out && st.queue.isEmpty && st.fault.isNone | none => false) ||
  u.wv.any (fun r => match streamOf c r with
    | some st => st.out && 8 ≤ st.queue.length + (c.flights.filter fun f => f.dest == ⟨.vector, r⟩).length
    | none => false)

/-- The held fault of a read-ahead that an operation would now read (10 R246). -/
def streamFault (c : Ctx) (i : Instr) : Option FaultRec :=
  ((usesOf c i).rv.filterMap fun r => match streamOf c r with
    | some st => if !st.out && st.queue.isEmpty then st.fault else none
    | none => none).head?

/-- The output stream, its binding ended or not, that UNBIND or a BIND of its register waits for: every result of it has
landed, and every queued vector is written (10 R245, R248; log entry 37). -/
def unbindWaits (s : State) (k n : Nat) : Bool :=
  match ((ctxAt s k).streams[n]?).getD none with
  | some st => st.out && (!st.drained || pendingItem s k ⟨.vector, 56 + n⟩ ||
      (ctxAt s k).flights.any fun f => f.dest == ⟨.vector, 56 + n⟩)
  | none => false

/-- A synchronising request of the context has not taken its place yet: an operation that takes effect at issue among the
synchronising accesses waits for it (14 R299; log entry 38). -/
def syncOpen (s : State) (k : Nat) : Bool := s.reqs.any fun r => r.ctx == k && isSyncReq r.op && !r.placed

/-! ### The places that requests go to (04 R73, R74, R78) -/

/-- The place an address goes to: a core's slice, or the die of a stack's owner. -/
def destination (s : State) (j : Job) (a : Nat) : Option Nat :=
  match translate j a false with
  | .ok pa => if inSlice pa then some (pa / 2 ^ 22) else some (256 + ownerDie s (physStack pa))
  | .error _ => none

/-- The number of a place on a tree. -/
def nodePlace : Node → Nat
  | .cluster c => c
  | .die d => 24 + d
  | .spine => 28
  | .core c => 32 + c

/-- The unit that keeps a barrier: the switch of its home's cluster or die, or the spine (02 R37). -/
def barrierPlace (s : State) (j : Job) (b : Barrier) : Nat :=
  let n := j.binding[b.home]?.getD 0
  1024 + nodePlace (match b.level.val with | 0 => .cluster (clusterOf s n) | 1 => .die (coreDie n) | _ => .spine)

/-- The controller of a rack, which stands in its writer's cluster (02 R35). -/
def rackPlace (s : State) (j : Job) (k : Rack) : Nat := 512 + clusterOf s (j.binding[k.writer / 4]?.getD 0)

/-- The places a synchronising request goes to: those of its lanes, the controller of a rack, the unit of a barrier, a core,
the switch at the root of a group, or a part. -/
def destinations (s : State) (j : Job) (r : Req) : List Nat :=
  match r.op with
  | .spawn .. | .tdec .. => (j.binding[r.addr.toNat]?).toList
  | .asend .. => if bits r.addr 27 16 = 0 then (j.binding[bits r.addr 15 0 / 4]?).toList else [4096 + bits r.addr 27 16]
  | .gsend .. => ((j.groups[r.addr.toNat]?).map fun g => 2048 + nodePlace g.root).toList
  | op =>
    if isRackOp op then ((j.racks[r.addr.toNat]?).map (rackPlace s j)).toList
    else if isBarrierOp op || isBarv op then ((j.barriers[bits r.addr 7 0 - 1]?).map (barrierPlace s j)).toList
    else (reqTargets r).filterMap fun x => destination s j x.1

/-- The agent that a place stands for. -/
def destAgent (d : Nat) : Agent :=
  if d < 256 then .core d
  else if d < 512 then .unit (d - 256)
  else if d < 1024 then .unit (4 + (d - 512))
  else if d < 4096 then
    let x := d % 1024
    if x < 24 then .unit (4 + x) else if x < 28 then .unit (x - 24) else if x = 28 then .unit 28 else .core (x - 32)
  else .unit 28

/-- The way from core `n` to a place stands before paused wall buses. -/
def placePaused (s : State) (n d : Nat) : Bool := wayPaused s (.core n) (destAgent d)

/-- A request that has left core `n` for a place has still to take its place in the order: what an engine of the core reports there,
on the same path, comes behind it (04 R74). -/
def leftFor (s : State) (j : Job) (n d : Nat) : Bool :=
  s.reqs.any fun q => q.ctx / 4 == n && isSyncReq q.op && !q.placed && q.left != 0 && (destinations s j q).contains d

/-- The opening of a rack-target command of context `k`, made at issue exactly as RKOPEN opens a tray (10 R244), comes behind the
synchronising requests of its context (14 R299) and behind what its core has sent to the rack's controller, or to itself, where a drop
decrements the counter (04 R74); and it waits while the way there or back stands before paused wall buses (R78): log entry 38. -/
def openingWaits (s : State) (k : Nat) (x : Word) : Bool :=
  syncOpen s k || (jobOfCtx s k).any fun j => leftFor s j (k / 4) (k / 4) || (j.racks[x.toNat]?).any fun r =>
    leftFor s j (k / 4) (rackPlace s j r) || placePaused s (k / 4) (rackPlace s j r) || wayPaused s (destAgent (rackPlace s j r)) (.core (k / 4))

/-- An executing operation of the bundle waits. -/
def opWaits (s : State) (k : Nat) (taken : Option Nat) (x : Op) : Bool :=
  let c := ctxAt s k
  let i := x.2
  let u := usesOf c i
  (u.reads ++ opWrites c taken x).any (pendingItem s k) ||
  (u.rt ++ u.wt).any (fun t => (tileAt s (k / 4) t).busy) ||
  (touchesMemory i && s.reqs.any fun r => r.ctx == k && isAcquire r.op && !r.discard) ||
  (ownSpans s k i).any (fun x => (reservedBanks s (k / 4) &&& BitVec.ofNat 32 (bankMask x.1 x.2)) != 0) ||
  overlapWaits s k i || ownOrderWaits s k i ||
  streamWaits c i || engineFull s k i ||
  (match i with
   | .twait n _ => (((coreAt s (k / 4)).counters[n.val]?).getD 0) != 0 || syncOpen s k
   | .bwait _ a _ => (c.arrivals.any fun r => r.pending && r.barrier == bits (sVal c a) 7 0) ||
       s.reqs.any fun r => r.ctx == k && isBarv r.op && !r.discard && !r.redirect && bits r.addr 7 0 == bits (sVal c a) 7 0
   | .tset .. | .ready .. | .unready .. => syncOpen s k
   | .copyRack _ _ b _ _ => openingWaits s k (sVal c b)
   | .mstRack _ a _ _ _ => openingWaits s k (sVal c a)
   | .rft _ => rftWaits s k
   | .unbind n _ | .bindIn _ _ n _ | .bindOut _ _ n _ => unbindWaits s k n
   | _ => false)

/-- The bundle waits (06 Table issue-5). -/
def bundleWaits (s : State) (k : Nat) (taken : Option Nat) (ex : List Op) : Bool :=
  let c := ctxAt s k
  c.fence.isSome || ex.any (opWaits s k taken) ||
  (let need := (ex.map fun x => entriesNeeded s k x.2).sum
   need != 0 && 1536 < entriesUsed s (k / 4) + need) ||
  (let need := (ex.filter fun x => isWithdrawn s k x.2).length
   need != 0 && 127 < (s.reqs.filter fun r => r.ctx == k && withdrawable r).length + need)

/-- An issue-time fault of context `k`'s bundle at `h`. -/
def issueFault (s : State) (k : Nat) (h : Word) (cause : Cause) (pos : Nat) (addr : Word) : FaultRec :=
  ⟨cause, 0, addr, h, pos, false, (ctxAt s k).epoch, s.nextId, none⟩

/-- The checks of R96 from step 5 on, with the engine waits between the static checks and those on values. A fault that a stream's
read-ahead holds (10 R246), to which R96 gives no place, comes after step 5 and before the waits (DESIGN CHOICE, log entry 50). -/
def verdict (s : State) (k : Nat) (taken : Option Nat) (h : Word) (len : Nat) (all ex : List Op) : Verdict :=
  match staticDefect s k taken len all ex with
  | some (c, p) => .trap (issueFault s k h c p 0)
  | none =>
    match ex.findSome? fun x => streamFault (ctxAt s k) x.2 with
    | some f => .late f
    | none =>
      if bundleWaits s k taken ex then .wait
      else
        match valueDefect s k taken h ex with
        | some (c, p, a) => .trap (issueFault s k h c p a)
        | none => .go

/-! ## Entries at a boundary (21 R374) -/

/-- An access that the issuing context issued before an engine command and that touches a byte the command would touch:
the element is held until it is acknowledged (14 R306). `id` is the command's place in the order of issue. -/
def heldBehind (s : State) (k id a n : Nat) : Bool :=
  s.reqs.any fun r => r.ctx == k && r.order < id && !r.faulted &&
    (reqTargets r).any fun y => decide (a < y.1 + y.2.1) && decide (y.1 < a + n)

/-- Own-slice stores that any context of core `n` issued before a matrix command are performed before the command sees their bytes
(11 R260). `id` is the command's place in the order of issue. -/
def ownStoreBehind (s : State) (n id a z : Nat) : Bool :=
  ownStoreOpen s n fun r x y => decide (r.order < id) && decide (a < x + y) && decide (x < a + z)

/-- A stack that a vector of a stream of context `k` lies in is handed over, or the way to it paused. -/
def streamHeld (s : State) (j : Job) (k : Nat) (st : Stream) (pos : Nat) : Bool :=
  (placesOf j st.out (streamAddrs st pos)).any fun pa => (inStack pa && handing s (physStack pa) 1 5) || touchPaused s (k / 4) pa

/-- A plain access that core `n` has issued to a line that some addresses lie in and that is not performed, one that waits in its
gather buffer or for its walk too: a transfer of its streams, which is a plain access as well (10 R249), arrives behind it (04 R73,
14 R298). -/
def lineBusy (s : State) (n : Nat) (l : List Nat) : Bool :=
  s.reqs.any fun q => q.ctx / 4 == n && q.open && !(isFullEmpty q.op && q.status == .held) && !isSyncAccess q.op &&
    (reqTargets q).any fun x => l.any fun a => x.1 / 256 == a / 256

/-- An earlier access of the context to the bytes of a stream's vector is not yet acknowledged, or one of its core to their lines. -/
def streamBehind (s : State) (k : Nat) (st : Stream) (pos : Nat) : Bool :=
  let z := bits st.pattern[0] 7 0
  lineBusy s (k / 4) (streamAddrs st pos) || (List.range (256 / z + 1)).any fun i => pos + z * i < pos + 256 && heldBehind s k st.order (patternAddr st.pattern st.base st.out (pos + z * i)) z

/-- An output queue of the context has still to wait for earlier accesses of the context (14 R306), for a hand-over, or for the
service context: its vectors are written before an entry's frame is complete (10 R249), so the entry waits. -/
def entryBlocked (s : State) (k : Nat) : Bool :=
  match jobOfCtx s k with
  | none => false
  | some j => (landDue s.clock (ctxAt s k)).streams.toList.any fun x => match x with
    | some st => st.out && (List.range st.queue.length).any fun i =>
        streamBehind s k st (st.pos + 256 * i) || streamHeld s j k st (st.pos + 256 * i) ||
        (streamFate s j st (st.pos + 256 * i)).any walkable
    | none => false

/-- The issue stage of core `n` is held neither by a core hold, which the reload of a service store is too, nor by the service
context, which takes it before anything else once a cause has come (06 R119, R126, 22 R397, 23 R401). -/
def stageOpen (s : State) (n : Nat) : Bool :=
  !(coreAt s n).hold && (coreAt s n).service.isNone && (coreAt s n).services.isEmpty && (coreAt s n).storeOk

/-! ## Frames and engine commands (21 R377) -/

/-- The runs of window addresses that the outstanding engine commands of core `n` write: the runs of a copy's destination, the
rows of an MST, the staging range of an MMA with a tile handle. -/
def engineRuns (s : State) (n : Nat) : List (Nat × Nat) :=
  ((s.copies.filter fun c => c.ctx / 4 == n).flatMap fun c =>
    let run := bits c.pattern[0] 7 0 * c.pattern[1].toNat
    (List.range (patternBytes c.pattern / run)).map fun r => (patternAddr c.pattern c.dst true (run * r), run)) ++
  (coreAt s n).queue.flatMap fun m =>
    match m.op with
    | .mst .. | .mstRack .. => (List.range 128).map fun r => ((m.a.toNat + r * m.layout[0].toNat) % 2 ^ 64, 96 * outBytes m.layout[1])
    | .mma .. =>
      if bits m.layout[2] 0 0 = 1 then
        [0x390000, 0x3B0000, 0x3D0000, 0x3F0000].map fun o => (windowAddr (coreAt s n).logical o, 0x10000)
      else []
    | _ => []

/-- The offsets in the frame of context `k` that an outstanding engine command of its core writes. -/
def frameClash (s : State) (k : Nat) : List Nat :=
  match engineRuns s (k / 4) with
  | [] => []
  | l => (List.range 0x4000).filter fun o => l.any fun x => x.1 ≤ (tfb s k).toNat + o && (tfb s k).toNat + o < x.1 + x.2

/-- Bytes that hold unspecified values (log entry 2). -/
def spoilBytes (s : State) (l : List Nat) : State :=
  if l.isEmpty then s
  else { s with
    mem := (List.range l.length).foldl (fun m i =>
      writeByte m (l[i]?.getD 0) (BitVec.ofNat 8 (bits (openAt s (i / 256)) (8 * (i % 256) + 7) (8 * (i % 256))))) s.mem
    free := s.free + l.length / 256 + 1 }

/-- A physical address lies in the frame of a context of core `n` that runs a handler. -/
def inFrame (s : State) (n pa : Nat) : Bool :=
  (List.range 4).any fun i => (ctxAt s (4 * n + i)).h && framePhys s (4 * n + i) ≤ pa && pa < framePhys s (4 * n + i) + 0x4000

/-- The entry of a candidate. Where the frame that it writes overlaps the bytes that an outstanding engine command of the core
writes, the overlap holds unspecified values. -/
def takeEntry (s : State) (k : Nat) (x : Candidate) : State :=
  let t := takeCandidate s k x
  if (ctxAt t k).h && !(ctxAt s k).h then spoilBytes t ((frameClash t k).map (framePhys t k + ·)) else t

/-- The boundary after a bundle or after the last empty cycle of a WAITC: at most one entry is made (21 R374). -/
def boundary (s : State) (k : Nat) : State :=
  if (ctxAt s k).waitc ≠ 0 ∨ entryBlocked s k then s
  else
    match candidate (ctxAt s k) with
    | some x => takeEntry s k x
    | none => s

/-- The bundle of context `k` waits: the context is WAITING (06 R124). With an event enabled and pending it is READY again in the
next clock (21 R373). -/
def waiting (s : State) (k : Nat) : State :=
  let t := onCtx s k fun c => wakeForEvent { c with status := .waiting }
  if (ctxAt t k).status = .ready then passClocks t 1 else t

/-- The verdict taken on a bundle that does not issue. -/
def notIssued (s : State) (k : Nat) : Verdict → State
  | .go => s
  | .wait => waiting s k
  | .trap f => boundary (onCtx s k fun c => { c with trap := some f }) k
  | .late f => lateFault (onCtx s k fun c => { c with streams := c.streams.map (Option.map fun st => { st with fault := none }) }) k f

/-! ## Commits (23 R404) -/

/-- A store into a tray that the context holds OPEN. -/
def intoOpenTray (s : State) (k : Nat) (x : Word) (n : Nat) : Bool :=
  match jobOfCtx s k with
  | none => false
  | some j => j.racks.any fun r => r.writer == ctxId s k &&
      (List.range r.trays.length).any fun t =>
        ((r.trays[t]?).map (·.opened)).getD false &&
        r.base.toNat + t * r.size ≤ x.toNat && x.toNat + n ≤ r.base.toNat + (t + 1) * r.size

/-- Every run of a pattern from a base lies in a tray that the context holds OPEN. -/
def patternInTray (s : State) (k : Nat) (f : Vector Word 8) (base : Word) : Bool :=
  let run := bits f[0] 7 0 * f[1].toNat
  run != 0 && (List.range (patternBytes f / run)).all fun r => intoOpenTray s k (BitVec.ofNat 64 (patternAddr f base true (run * r))) run

/-- The operation is a commit of its task. A store of any kind into a tray that the context holds OPEN is none, nor is a stream output,
COPY or MST whose destination lies in such a tray, which is a rack's (log entry 48). -/
def commits (s : State) (k : Nat) (i : Instr) : Bool :=
  let c := ctxAt s k
  match plainAccess c i with
  | some (x, n, w) => w && !intoOpenTray s k x n
  | none =>
    match i with
    | .vscat .. => (scatterSpans c i).any fun x => !intoOpenTray s k (BitVec.ofNat 64 x.1) x.2
    | .bindOut e a _ _ => !patternInTray s k (eAll c e) (sVal c a)
    | .copy e _ b _ _ => !patternInTray s k (eAll c e) (sVal c b)
    | .mst e a _ _ _ => !((List.range 128).all fun r =>
        intoOpenTray s k (BitVec.ofNat 64 ((sVal c a).toNat + r * (eVal c e 0).toNat)) (96 * outBytes (eVal c e 1)))
    | .vstb _ b x o _ =>
      !intoOpenTray s k (BitVec.ofNat 64 (windowAddr (coreAt s (k / 4)).logical
        (b.val * 0x20000 + 256 * (sVal (ctxAt s k) x + BitVec.ofNat 64 o.val).toNat))) 256
    | .strel _ a _ z _ => !intoOpenTray s k (sVal c a) (2 ^ z.val)
    | .atomAdd .. | .atomMin .. | .atomMax .. | .atomMinn .. | .atomMaxn .. | .atomAnd ..
    | .atomOr .. | .atomXor .. | .atomSwap .. | .cas .. | .vatomAdd .. | .vatomAnd .. | .vatomOr .. | .vatomMax ..
    | .rkpub .. | .spawn .. | .asend .. | .gsend .. | .tset .. | .tdec .. | .ready ..
    | .unready .. | .binit .. | .barv .. | .peel .. => true
    | .mts _ n _ => n.val != 5 && n.val != 9 && n.val != 13
    | _ => false

/-- What every executing operation does beside its own effect: it may commit its task, and a read of an input stream
takes the head vector once per bundle, however many sources of how many operations name its register (10 R246). -/
def afterOp (i : Instr) (s : State) (t : State) : State :=
  let k := s.cur.key
  let pops := (((usesOf (ctxAt s k) i).rv.filter fun r => (streamOf (ctxAt s k) r).any fun st => !st.out).filter
    fun r => !t.cur.pops.contains r).foldl addTo []
  let t := if commits s k i then onCtx t k fun c => { c with committed := true } else t
  if pops.isEmpty then t else { t with cur := { t.cur with pops := t.cur.pops ++ pops } }

/-- The test taken when an operation stands alone: itself, where it is a true test. -/
def aloneTaken (s : State) (i : Instr) : Option Nat :=
  if s.cur.taken.isNone && isTest i && testTrue (me s) i then some s.cur.pos else s.cur.taken

/-- The shape of every slot operation's meaning: nothing where its path tag does not execute it; its effect where the
bundle's checks are passed; standing alone, the checks, waits and traps of its own first. -/
def operate (i : Instr) (p : Tag) (s : State) (effect : State → State) : Host.Outcome State Fault Refusal :=
  if executes s.cur.taken p = false then .next s
  else if s.cur.checked then .next (afterOp i s (effect s))
  else
    match verdict s s.cur.key (aloneTaken s i) s.cur.h s.cur.len [(s.cur.pos, i)] [(s.cur.pos, i)] with
    | .go => .next (afterOp i s (effect s))
    | v => .next (notIssued s s.cur.key v)

/-! ## Retirement (06 R105, R113, R138-R140) -/

/-- The end of a loop's body: the counts that are decremented, whether one was, and the loop-back. -/
def loopBack (h : Word) : List LoopEntry → List LoopEntry × Option Word × Bool
  | [] => ([], none, false)
  | e :: l =>
    if e.stop = h then
      let n := e.count - 1
      if n = 0 then
        match loopBack h l with
        | (l', w, _) => (l', w, true)
      else ({ e with count := n } :: l, some e.start, true)
    else (e :: l, none, false)

/-- The loop stack and the successor after a bundle, and whether the bundle was an iteration boundary. -/
def loopDecide (q : Issue) (loops : List LoopEntry) : List LoopEntry × Word × Bool :=
  let loops := if q.pop then loops.drop 1 else loops
  let fall := q.skip.getD (q.h + BitVec.ofNat 64 q.len)
  match (if q.taken.isSome then (loops, some q.succ, false) else loopBack q.h loops) with
  | (l, w, it) => (q.push.toList ++ l, w.getD fall, it)

/-- An input stream after its head vector has been taken; after the last vector the binding ends and the register
holds it. -/
def popStream (c : Ctx) (r : Nat) : Ctx :=
  match streamOf c r with
  | none => c
  | some st =>
    let st' := { st with pos := st.pos + 256, queue := st.queue.drop 1 }
    let rest := if patternBytes st.pattern ≤ st'.pos then none else some st'
    { c with v := c.v.setIfInBounds r (st.queue.head?.getD 0), streams := c.streams.setIfInBounds (r - 56) rest }

/-- The bundles that the 128 KiB of the instruction cache hold at 64 bytes each (05 R86; log entry 39). -/
abbrev icacheBundles : Nat := 2048
/-- A fetch of core `n` that misses reads the bundle through the cache of its stack's owner, and leaves its route entries. -/
def fetchTouch (s : State) (n : Nat) (a : Word) (len : Nat) : State :=
  let l := (List.range len).map (a.toNat + ·)
  if (coreAt s n).icache.contains a.toNat then s
  else match jobOfCore s n with
    | some j => touchRoutes (cached s false (placesOf j false l)) j n l
    | none => s

/-- The bundle at an address is in the instruction cache of core `n`. -/
def cacheBundle (s : State) (n : Nat) (a : Word) (len : Nat) : State :=
  onCore (fetchTouch s n a len) n fun q => { q with icache := (a.toNat :: q.icache.filter (· != a.toNat)).take icacheBundles }

/-- The bundle has issued: its context cycle has passed, the PC is its successor, the issue group goes on or ends. -/
def retire (s : State) (stop : Bool) (written : List Item) : State :=
  let k := s.cur.key
  let (loops, succ, it) := loopDecide s.cur (ctxAt s k).loops
  let s := onCtx s k fun c =>
    let c := s.cur.pops.foldl popStream c
    { c with loops := loops, pc := succ, ccyc := c.ccyc + 1, ccycLast := c.ccyc + 1, landing := it, afterRft := false
             group := if stop then [] else c.group ++ written
             timerAt := if c.frozen then c.timerAt.map (· + timeNow s) else c.timerAt, frozen := false }
  let s := takeClock (cacheBundle s (k / 4) s.cur.h s.cur.len) (k / 4)
  passClocks s (cycleClocks s (k / 4))

/-! ## Fetch (05 R86, R87) -/

/-- The words at a job-space address that may be executed; or the fetch fault with its address. -/
def fetchWord (s : State) (j : Job) (a : Nat) : Except (Cause × Word) Nat :=
  match spaceOf a with
  | .job =>
    match pageOf j a with
    | none => .error (.page, BitVec.ofNat 64 a)
    | some p =>
      if !p.resident then .error (.page, BitVec.ofNat 64 a)
      else if !p.exec then .error (.perm, BitVec.ofNat 64 a)
      else .ok (physRead s (pagePhys p a) 4)
  | _ => .error (.perm, BitVec.ofNat 64 a)

/-- `n` words from an address on. -/
def fetchWords (s : State) (j : Job) (a : Nat) : Nat → Except (Cause × Word) (List Nat)
  | 0 => .ok []
  | n + 1 =>
    match fetchWord s j a with
    | .error e => .error e
    | .ok w =>
      match fetchWords s j ((a + 4) % 2 ^ 64) n with
      | .error e => .error e
      | .ok l => .ok (w :: l)

/-- The words of the bundle at a PC: the MASK of its header gives its length, of a malformed header too (05 R89, R96 steps 1 and 2). -/
def fetchBundle (s : State) (j : Job) (pc : Word) : Except (Cause × Word) (List Nat) :=
  if pc.toNat % 4 ≠ 0 then .error (.align, pc)
  else
    match fetchWord s j pc.toNat with
    | .error e => .error e
    | .ok h => fetchWords s j pc.toNat (1 + (present h).length)

/-- The words of the bundle at an address, at least one. -/
def bundleLenWords (s : State) (j : Job) (a : Nat) : Nat :=
  match fetchWord s j a with | .ok h => 1 + (present h).length | .error _ => 1

/-- The lowest poisoned address among the words of the bundle at a PC, which a fetch that misses reads (23 R403). -/
def fetchPoison (s : State) (k : Nat) : Option Word :=
  let pc := (ctxAt s k).pc.toNat
  match (if s.bad.isEmpty || (coreAt s (k / 4)).icache.contains pc then none else jobOfCtx s k) with
  | none => none
  | some j =>
    (((List.range (bundleLenWords s j pc)).map fun i => (pc + 4 * i) % 2 ^ 64).find? fun a =>
      (pageOf j a).any fun p => s.bad.contains (pagePhys p a / 16)).map (BitVec.ofNat 64 ·)

/-- A fetch that misses in a page of a stack that is handed over waits, as does one whose way stands before paused wall buses; one
that hits goes on (20 R370, 04 R78). -/
def fetchHeld (s : State) (k : Nat) : Bool :=
  let pc := (ctxAt s k).pc.toNat
  match jobOfCtx s k with
  | none => false
  | some j => !(coreAt s (k / 4)).icache.contains pc &&
      [pc, pc + 4 * (bundleLenWords s j pc - 1)].any fun a => (pageOf j a).any fun p => handing s p.stack 1 5 || touchPaused s (k / 4) (pagePhys p a)

/-- The length of the bundle at an address; 0 where it cannot be fetched (DESIGN CHOICE, log entry 50). -/
def bundleLenAt (s : State) (k : Nat) (a : Word) : Nat :=
  match jobOfCtx s k with
  | none => 0
  | some j => match fetchWord s j a.toNat with | .ok h => bundleLen h | .error _ => 0

/-! ## A bundle as the issue stage sees it -/

/-- The operations of a bundle with their positions. -/
def opsOf (b : Bundle) : List Op := b.slots.map fun x => (x.pos, x.instr)
/-- The branch tests. -/
def testsOf (l : List Op) : List Op := l.filter fun x => 10 ≤ x.1
/-- The operations that take effect within the bundle, in MASK order. -/
def mainOf (l : List Op) : List Op := l.filter fun x => x.1 < 10 && !isPost x.2
/-- The operations that follow the bundle, in MASK order but for FENCEH, which takes its place before the others: no entry to a handler,
that of a TRAP beside it neither, is made while it is in progress (14 R304). -/
def postOf (l : List Op) : List Op :=
  let p := l.filter fun x => x.1 < 10 && isPost x.2
  p.filter (fun x => isFence x.2) ++ p.filter fun x => !isFence x.2

/-- The path tag of an operation: bits [2:0] of its word (05 R92). -/
def opTag (i : Instr) : Tag := Fin.ofNat 8 (slotBits i)

/-- The operations that execute when test `taken` is taken: every test is evaluated. -/
def executing (taken : Option Nat) (l : List Op) : List Op := l.filter fun x => 10 ≤ x.1 || executes taken (opTag x.2)

/-- The branch tests' sources are not pending. -/
def testsWait (s : State) (k : Nat) (l : List Op) : Bool :=
  (testsOf l).any fun x => (usesOf (ctxAt s k) x.2).reads.any (pendingItem s k)

/-- The context has something that it waits for: an entry whose queues are not yet written, or the next bundle, which has not
come, follows a fence, or waits for a condition of Table issue-5 (06 R123, R124). -/
def bundleBlocked (s : State) (k : Nat) : Bool :=
  let c := ctxAt s k
  if (candidate c).isSome then entryBlocked s k
  else if !c.fetched || c.fence.isSome || fetchHeld s k then true
  else if (fetchPoison s k).isSome then false
  else
    match (jobOfCtx s k).map fun j => fetchBundle s j c.pc with
    | some (.ok ws) =>
      match decodeBundle ws with
      | .ok b =>
        let l := opsOf b
        let taken := firstTaken c (testsOf l)
        testsWait s k l || (match verdict s k taken c.pc b.len l (executing taken l) with | .wait => true | _ => false)
      | .error _ => false
    | _ => false

end Sys2Proof.Machine
end

