-- ==== Sys2Proof/Machine/System.lean ====
section
/-! DEFINITION. Special registers (07 R163-R166) and the SYS operations (06 R141-R147, 21 R387). -/

namespace Sys2Proof.Machine

/-! ## MFS and MTS -/

/-- TIMER as it stands: the ns left of its countdown. -/
def timerLeft (s : State) (c : Ctx) : Nat := match c.timerAt with | some t => if c.frozen then t else t - timeNow s | none => 0

/-- COLTEMP of a core's column (01 Table part-6). -/
def colTemp (s : State) (n : Nat) : Word :=
  let c := look Column.reset s.columns (colKey n)
  BitVec.ofNat 64 (c.temp.toNat + if c.half then 2 ^ 16 else 0)

/-- A special register as it stands when the bundle issues (07 R163, Table scalar-5). -/
def specialVal (s : State) (k n : Nat) : Word :=
  let c := ctxAt s k
  match n with
  | 0 => BitVec.ofNat 64 (ctxId s k)
  | 1 => BitVec.ofNat 64 ((coreAt s (k / 4)).job.getD 0)
  | 2 => BitVec.ofNat 64 (timeNow s)
  | 3 => BitVec.ofNat 64 (c.ccyc + 1)
  | 4 => colTemp s (k / 4)
  | 5 => c.fpstat.setWidth 64
  | 6 => c.tvec
  | 7 => c.evec
  | 8 => c.emask.setWidth 64
  | 9 => c.epend.setWidth 64
  | 10 => tfb s k
  | 11 => c.tcause.setWidth 64
  | 12 => c.taddr
  | 13 => BitVec.ofNat 64 (timerLeft s c)
  | 14 => BitVec.ofNat 64 c.loops.length
  | 15 => (coreAt s (k / 4)).fails.setWidth 64
  | _ => 0

def execMfs (d : SReg) (n : Fin 2048) (p : Tag) (s : State) : Host.Outcome State Fault Refusal :=
  operate (.mfs d n p) p s fun s => resultS s d 1 (specialVal s s.cur.key n) false

/-- MTS lands its value one context cycle after issue; the access codes are applied there (Operands, landSpecial). -/
def execMts (a : SReg) (n : Fin 2048) (p : Tag) (s : State) : Host.Outcome State Fault Refusal :=
  operate (.mts a n p) p s fun s =>
    result s ⟨.special, n⟩ 1 ((readS s a).setWidth 2048) (BitVec.allOnes 2048) false 0

/-! ## TRAP and RFT -/

/-- TRAP: a post-bundle trap, taken at the boundary after its bundle with the successor as the frame's PC (06 R142);
in a handler it is a double trap (21 R387). -/
def execTrap (code : BitVec 12) (p : Tag) (s : State) : Host.Outcome State Fault Refusal :=
  operate (.trap code p) p s fun s =>
    let f := { faultNow s .trap 0 false with code := code }
    boundary (onCtx s s.cur.key fun c => { c with trap := some f }) s.cur.key

/-- RFT: the return from a handler (06 R143, 21 R381); outside a handler, or on a malformed frame, ILLOP. -/
def execRft (p : Tag) (s : State) : Host.Outcome State Fault Refusal :=
  operate (.rft p) p s fun s => returnFromTrap s s.cur.key

/-! ## YIELD and TEND -/

/-- The context stays READY with its task, and gives up the stage. -/
def giveUpStage (s : State) (k : Nat) : State := leaveStage (onCtx s k fun c => { c with status := .ready }) k

/-- YIELD: the context stays READY, last in the round-robin order; a pre-emption landing point (06 R144). Beside a WAITC it holds the
stage for the empty cycles first (06 R140, log entry 40). -/
def execYield (p : Tag) (s : State) : Host.Outcome State Fault Refusal :=
  operate (.yield p) p s fun s =>
    let s := onCtx s s.cur.key fun c => { c with landing := true, yields := c.waitc != 0 }
    if (ctxAt s s.cur.key).waitc = 0 then giveUpStage s s.cur.key else s

/-- The end of the running task of context `k` (06 R145): its table entry becomes FREE and is offered to the launches that
wait (17 R343). A fault of a handler's code that its TEND bundle or an earlier one met ends the job (21 R384). -/
def endTask (s : State) (k : Nat) : State :=
  match handlerFault (ctxAt s k) with
  | some f => abortJob s ((coreAt s (k / 4)).job.getD 0) (some f.cause.code)
  | none => offerCore (finishTask s k fun _ => Task.reset) (k / 4)

def execTend (p : Tag) (s : State) : Host.Outcome State Fault Refusal :=
  operate (.tend p) p s fun s => endTask s s.cur.key

/-! ## Fences (06 R146, 14 R303, R304) -/

/-- FENCEL sends the context's gathered stores, and has every access issued before it enter the fabric before any later one;
it never waits (14 R303). The accesses of its own bundle count as later ones (DESIGN CHOICE, log entry 52). -/
def execFencel (p : Tag) (s : State) : Host.Outcome State Fault Refusal :=
  operate (.fencel p) p s fun s =>
    onCtx (flushGathered s (· == s.cur.key)) s.cur.key fun c => { c with fencel := s.nextId }

/-- The requests of the contexts that are not performed yet. -/
def unperformed (s : State) (covers : Nat → Bool) : List Nat :=
  (s.reqs.filter fun r => covers r.ctx && r.status != .performed && r.status != .refused).map (·.id)

/-- Context `q` lies in the scope instance of context `k` (14 Table consistency-1), in the same job. -/
def inScope (s : State) (scope k q : Nat) : Bool :=
  let a := (coreAt s (k / 4)).logical
  let b := (coreAt s (q / 4)).logical
  ((coreAt s (k / 4)).job == (coreAt s (q / 4)).job) &&
  match scope with
  | 0 => k == q
  | 1 => a == b
  | 2 => a / 8 == b / 8
  | 3 => a / 48 == b / 48
  | _ => true

/-- Element `k` of a copy goes to host memory. -/
def towardHost (c : Copy) (k : Nat) : Bool :=
  match spaceOf (patternAddr c.pattern c.dst true (bits c.pattern[0] 7 0 * k)) with | .host _ => true | _ => false
/-- The elements of copies that the covered contexts' cores have on their way to host memory (14 R304): those that go to another part
are none. -/
def writesOut (s : State) (covers : Nat → Bool) : List (Nat × Nat) :=
  (s.copies.filter fun c => covers c.ctx).flatMap fun c => (c.sent.filter fun x => towardHost c x.1).map fun x => (c.id, x.1)

/-- FENCEH issues at once; until the fence completes no later bundle of the context issues. A second FENCEH of the bundle makes it
one fence of the wider scope: the scopes are nested, and both wait for the same accesses. -/
def execFenceh (sc : Fin 64) (p : Tag) (s : State) : Host.Outcome State Fault Refusal :=
  operate (.fenceh sc p) p s fun s =>
    let k := s.cur.key
    let s := flushGathered s (· == k)
    onCtx s k fun c => { c with fence := some ⟨max ((c.fence.map (·.scope)).getD 0) sc, false, unperformed s (· == k), []⟩ }

/-- Every request a fence waits for has been performed. -/
def fenceReady (s : State) (f : Fence) : Bool :=
  !(s.reqs.any fun r => f.waits.contains r.id && r.status != .performed && r.status != .refused) &&
  !(s.copies.any fun c => c.sent.any fun x => f.writes.contains (c.id, x.1))

/-- FENCEH_COMPLETE: once the context's own accesses are performed the fence points of its scope are taken; once what
those contexts sent before them is performed the fence completes, in a context stopped for pre-emption too (21 R392). -/
def execFencehComplete (k : Nat) (s : State) : Host.Outcome State Fault Refusal :=
  match (ctxAt s k).fence with
  | none => .next s
  | some f =>
    if !fenceReady s f then .next s
    else if f.points then .next (onCtx s k fun c => { c with fence := none })
    else
      let s := flushGathered s (inScope s f.scope k)
      let w := unperformed s (inScope s f.scope k)
      .next (onCtx s k fun c => { c with fence := some { f with points := true, waits := w, writes := if f.scope < 5 then [] else writesOut s (inScope s f.scope k) } })

/-! ## SVC (06 R147, 21 R390) -/

/-- SVC enters the service context with its code; the context is SERVICED until it returns. -/
def serviceCall (s : State) (k : Nat) (code : BitVec 12) : State :=
  onCore (onCtx s k fun c => { c with status := .serviced }) (k / 4) fun n => { n with services := n.services ++ [.svc k code] }

/-- The SVC of the bundle now issuing; beside a WAITC it comes after the empty cycles (log entry 40). -/
def svcEnter (s : State) (code : BitVec 12) : State :=
  if (ctxAt s s.cur.key).waitc = 0 then serviceCall s s.cur.key code else onCtx s s.cur.key fun c => { c with svc := some code }

/-- The last empty cycle of a WAITC is over: the SVC or the YIELD of its bundle takes effect. -/
def waitOver (s : State) (k : Nat) : State :=
  let c := ctxAt s k
  let s := onCtx s k fun c => { c with svc := none, yields := false }
  match c.svc with
  | some code => serviceCall s k code
  | none => if c.yields then giveUpStage s k else s

def execSvc (code : BitVec 12) (p : Tag) (s : State) : Host.Outcome State Fault Refusal :=
  operate (.svc code p) p s fun s => svcEnter s code
def execSvcNop (p : Tag) (s : State) : Host.Outcome State Fault Refusal := operate (.svcNop p) p s fun s => svcEnter s 0
def execSvcLog (p : Tag) (s : State) : Host.Outcome State Fault Refusal := operate (.svcLog p) p s fun s => svcEnter s 1
def execSvcProbe (p : Tag) (s : State) : Host.Outcome State Fault Refusal := operate (.svcProbe p) p s fun s => svcEnter s 2
def execSvcTouch (p : Tag) (s : State) : Host.Outcome State Fault Refusal := operate (.svcTouch p) p s fun s => svcEnter s 3

end Sys2Proof.Machine
end

