-- ==== Sys2Proof/Machine/Control.lean ====
section
/-! DEFINITION. Control flow (06 R128-R140): the branch tests, the hardware loops, WAITC and the NOP bundle. -/

namespace Sys2Proof.Machine

/-- The empty-mask bundle does nothing but issue (05 R89). -/
def execNop (_b : Fin 2) (s : State) : Host.Outcome State Fault Refusal := .next s

/-! ## Branch tests -/

/-- The target of kinds 0 to 5: the header address plus 4 × off22 (05 R103). -/
def branchTarget (s : State) (o : BitVec 22) : Word := s.cur.h + 4 * o.signExtend 64

/-- A test that is true and that no earlier test precedes is taken: it gives the successor, and a link writes s63 with
the address of the bundle that would have followed (05 R92, 06 R131, R133). -/
def branch (s : State) (hit : Bool) (target : Word) (link : Bool) : State :=
  if s.cur.taken.isNone && hit then
    let s := if link then resultS s 63 1 (s.cur.h + BitVec.ofNat 64 s.cur.len) false else s
    { s with cur := { s.cur with taken := some s.cur.pos, succ := target } }
  else s

def execBt (c : PReg) (o : BitVec 22) (s : State) : Host.Outcome State Fault Refusal :=
  operate (.bt c o) 0 s fun s => branch s (testTrue (me s) (.bt c o)) (branchTarget s o) false
def execBf (c : PReg) (o : BitVec 22) (s : State) : Host.Outcome State Fault Refusal :=
  operate (.bf c o) 0 s fun s => branch s (testTrue (me s) (.bf c o)) (branchTarget s o) false
def execBany (c : PReg) (o : BitVec 22) (s : State) : Host.Outcome State Fault Refusal :=
  operate (.bany c o) 0 s fun s => branch s (testTrue (me s) (.bany c o)) (branchTarget s o) false
def execBall (c : PReg) (o : BitVec 22) (s : State) : Host.Outcome State Fault Refusal :=
  operate (.ball c o) 0 s fun s => branch s (testTrue (me s) (.ball c o)) (branchTarget s o) false
def execJ (o : BitVec 22) (s : State) : Host.Outcome State Fault Refusal :=
  operate (.j o) 0 s fun s => branch s true (branchTarget s o) false
def execCall (o : BitVec 22) (s : State) : Host.Outcome State Fault Refusal :=
  operate (.call o) 0 s fun s => branch s true (branchTarget s o) true
/-- CHK is taken when the named register's deferred-fault bit is set (06 R132). -/
def execChk (c : Fin 128) (o : BitVec 22) (s : State) : Host.Outcome State Fault Refusal :=
  operate (.chk c o) 0 s fun s => branch s (testTrue (me s) (.chk c o)) (branchTarget s o) false
/-- JR: the target is the register as read at issue (06 R133). -/
def execJr (l : Fin 2) (k : SReg) (s : State) : Host.Outcome State Fault Refusal :=
  operate (.jr l k) 0 s fun s => branch s true (readS s k) (l.val == 1)

/-! ## Hardware loops (06 R134-R138) -/

/-- The entry to push, from the bundle now issuing. -/
def loopEntry (s : State) (count : Word) (words : Nat) : LoopEntry :=
  ⟨count, s.cur.h + BitVec.ofNat 64 s.cur.len, s.cur.h + BitVec.ofNat 64 (4 * words)⟩

/-- A zero count pushes nothing; the fall-through is then the bundle after the end bundle (06 R135). -/
def execLoop (a : SReg) (e : Fin 2048) (p : Tag) (s : State) : Host.Outcome State Fault Refusal :=
  operate (.loop a e p) p s fun s =>
    let n := readS s a
    if n = 0 then
      let stop := s.cur.h + BitVec.ofNat 64 (4 * e.val)
      { s with cur := { s.cur with skip := some (stop + BitVec.ofNat 64 (bundleLenAt s s.cur.key stop)) } }
    else { s with cur := { s.cur with push := some (loopEntry s n e) } }
def execLoopi (e : Fin 4096) (c : Fin 2048) (p : Tag) (s : State) : Host.Outcome State Fault Refusal :=
  operate (.loopi e c p) p s fun s => { s with cur := { s.cur with push := some (loopEntry s (BitVec.ofNat 64 c) e) } }
def execLoopiLong (e : Fin 4096) (p : Tag) (m : BitVec 32) (s : State) : Host.Outcome State Fault Refusal :=
  operate (.loopiLong e p m) p s fun s => { s with cur := { s.cur with push := some (loopEntry s (m.setWidth 64) e) } }
def execBrklp (p : Tag) (s : State) : Host.Outcome State Fault Refusal :=
  operate (.brklp p) p s fun s => { s with cur := { s.cur with pop := true } }

/-! ## WAITC (06 R140) -/

/-- WAITC sets the count of the empty cycles after its bundle; beside another WAITC the greater one (DESIGN CHOICE, log entry 40). -/
def execWaitc (a : SReg) (n : Fin 2048) (p : Tag) (s : State) : Host.Outcome State Fault Refusal :=
  operate (.waitc a n p) p s fun s => onCtx s s.cur.key fun c => { c with waitc := max c.waitc (waitCount (readS s a) n) }

/-- One empty cycle of WAITC passes: it is a context cycle. Its length is that of the WAITC bundle's own cycle: no boundary
lies between them (01 R20), and a landing point of that bundle stands after the last one (06 R139, R140). A YIELD or an SVC of that
bundle takes effect after the last one too (log entry 40). -/
def emptyCycle (s : State) (k : Nat) : State :=
  let t := passClocks (onCtx s k fun c => { c with waitc := c.waitc - 1, ccyc := c.ccyc + 1 }) (cycleClocks s (k / 4))
  if (ctxAt s k).waitc = 1 then waitOver t k else t

/-- WAITC_END: the last empty cycle of a context that holds the stage has come; the boundary after it follows. A core hold and
the service context stop the count (06 R119, R126). -/
def execWaitcEnd (k : Nat) (s : State) : Host.Outcome State Fault Refusal :=
  if (ctxAt s k).waitc = 1 ∧ (ctxAt s k).status = .running ∧ stageOpen s (k / 4) = true then .next (emptyCycle s k) else .next s

/-- EXPOSED_RESULT_LAND: the results whose landing cycle has come are written (06 R114, R116). -/
def execExposedResultLand (k : Nat) (s : State) : Host.Outcome State Fault Refusal :=
  .next (onCtx s k (landDue s.clock))

end Sys2Proof.Machine
end

