-- ==== Sys2Proof/Machine/Memory.lean ====
section
/-! DEFINITION. Loads and stores of spec/10_scratchpad_streams_and_copies.md (R224-R237) at issue: what goes to the own
slice takes effect there in issue order, everything else leaves as a request. -/

namespace Sys2Proof.Machine

/-! ## Requests at issue -/

/-- The fate that a walk of a data access ends in, if it is not to go on: job space alone is walked, and for an aligned access. -/
def walkFate (j : Job) (x : Nat × Nat × Bool) : Option (Cause × Word) :=
  match (if x.1 % x.2.1 = 0 then spaceOf x.1 else .nowhere) with
  | .job => match translate j x.1 x.2.2 with
    | .error c => some (c, BitVec.ofNat 64 x.1)
    | .ok _ => none
  | _ => none

/-- A request of the operation now issuing, with nothing captured but its address. -/
def newReq (s : State) (op : Instr) (addr : Word) : Req where
  id := s.nextId
  ctx := s.cur.key
  op := op
  addr := addr
  arg1 := 0
  arg2 := 0
  vec1 := 0
  vec2 := 0
  guard := 0
  args := Vector.replicate 8 0
  prio := (me s).prio
  status := .walking
  ways := []
  marks := []
  value := 0
  found := none
  faulted := false
  bundle := s.cur.h
  pos := s.cur.pos
  epoch := (me s).epoch
  discard := false
  redirect := false
  left := 0
  line := s.nextId
  after := (me s).fencel
  again := 0
  order := s.nextId
  issue := if s.cur.checked then s.cur.first else s.nextId

/-- The request is outstanding. -/
def addReq (s : State) (r : Req) : State := { s with reqs := s.reqs ++ [r], nextId := s.nextId + 1 }
/-- A release empties the context's gather buffer toward the fabric (14 R298). -/
def emptied (s : State) (r : Req) : State := if isRelease r.op then flushGathered s (· == r.ctx) else s
/-- A request of one address, sent. -/
def send (s : State) (r : Req) : State := addReq (emptied s r) (sendReq s r)
/-- A request to the rack controller of a writer's cluster, to a barrier unit, to a core or to a group. Behind a FENCEL whose accesses
have still to enter the fabric it waits as they do (14 R303). -/
def sendUnit (s : State) (r : Req) : State :=
  let t := emptied s r
  addReq t (if mayEnter t r then departs r.id r else { r with status := .walking })

/-! ## Values loaded (10 Table feed-3) -/

/-- What a scalar load makes of the bytes it reads. -/
def loadedScalar (i : Instr) (raw : Nat) : Word :=
  match i with
  | .ldb .. | .ldbLong .. => (BitVec.ofNat 8 raw).signExtend 64
  | .ldh .. | .ldhLong .. => (BitVec.ofNat 16 raw).signExtend 64
  | .ldw .. | .ldwLong .. => (BitVec.ofNat 32 raw).signExtend 64
  | _ => BitVec.ofNat 64 raw

/-- A load of the own slice: the value is read as it stands at the issue of the bundle (00 R7, 06 R117) and lands in 4
cycles; a fate is a late fault, and the destination keeps its value (10 R225, R226). -/
def ownLoad (s : State) (x : Word) (o n : Nat) (land : State → Nat → State) (fail : State → Cause → Word → State) : State :=
  let pa := slicePhys (s.cur.key / 4) o
  match physFate (asIssued s) pa x.toNat n n false with
  | some (c, a) => fail s c a
  | none => land s (physRead (asIssued s) pa n)

/-- A plain scalar load of `n` bytes. -/
def loadS (i : Instr) (d : SReg) (x : Word) (n : Nat) (s : State) : State :=
  match ownOffset s s.cur.key x n with
  | some o => ownLoad s x o n (fun s v => resultS s d 4 (loadedScalar i v) false) lateNow
  | none => send s (newReq s i x)

/-- A plain vector load. -/
def loadV (i : Instr) (d : VReg) (x : Word) (s : State) : State :=
  match ownOffset s s.cur.key x 256 with
  | some o => ownLoad s x o 256 (fun s v => resultV s d 4 (BitVec.ofNat 2048 v) (BitVec.allOnes 2048) false 0) lateNow
  | none => send s (newReq s i x)

/-- LDS: a deferred-faulted base or a fate gives zero with the deferred-fault bit set, and no fault (10 R229). -/
def specLoadS (i : Instr) (d a : SReg) (x : Word) (s : State) : State :=
  if deferS s a then resultS s d 4 0 true
  else
    match ownOffset s s.cur.key x 8 with
    | some o => ownLoad s x o 8 (fun s v => resultS s d 4 (BitVec.ofNat 64 v) false) fun s _ _ => resultS s d 4 0 true
    | none => send s (newReq s i x)

/-- VLDS. -/
def specLoadV (i : Instr) (d : VReg) (a : SReg) (x : Word) (s : State) : State :=
  if deferS s a then resultV s d 4 0 (BitVec.allOnes 2048) true 0
  else
    match ownOffset s s.cur.key x 256 with
    | some o => ownLoad s x o 256 (fun s v => resultV s d 4 (BitVec.ofNat 2048 v) (BitVec.allOnes 2048) false 0)
        fun s _ _ => resultV s d 4 0 (BitVec.allOnes 2048) true 0
    | none => send s (newReq s i x)

/-! ## Stores -/

/-- The line that an aligned plain store waits for in the gather buffer. -/
def gatherLine (r : Req) : Option Nat :=
  match plainAccess Ctx.reset r.op with
  | some (_, n, true) => if isFullEmptyStore r.op || r.addr.toNat % n != 0 then none else some (r.addr.toNat / 256)
  | _ => none

/-- The store joins the one that stands first for its line in the gather buffer, unless its core has sent another access to
the line since (04 R73, 14 R298), or a load or gather of its own bundle, which reads memory as it stands at the issue (00 R7), may have to
come between the two. -/
def gathered (s : State) (r : Req) : Req :=
  match (if s.cur.reads then none else gatherLine r) with
  | none => r
  | some l =>
    match s.reqs.find? fun q => q.ctx == r.ctx && q.heads && gatherLine q == some l with
    | none => r
    | some q =>
      if s.reqs.any fun x => x.ctx / 4 == r.ctx / 4 && q.id < x.id && x.open && x.line != q.id && (reqTargets x).any fun y => y.1 / 256 == l
      then r else { r with line := q.id }

/-- Bytes that a synchronising access or a full/empty load of the issuing bundle accesses when it is performed. -/
def meetsLate (s : State) (a n : Nat) : Bool := s.cur.late.any fun y => decide (a < y.1 + y.2) && decide (y.1 < a + n)

/-- A store without a fate to the own slice takes effect at once (06 R117): but beside a synchronising access or a full/empty load of its
bundle to these bytes, which reads memory as it stands at the issue (00 R7), it is performed behind that, as a request. -/
def ownStore (i : Instr) (x : Word) (n v : Nat) (write : State → State) (s : State) : State :=
  if meetsLate s x.toNat n then addReq s { newReq s i x with vec1 := BitVec.ofNat 2048 v, status := .sent } else write s

/-- A plain store of the low `n` bytes of `v`: to the own slice at once (06 R117), elsewhere as a request that may wait
in the gather buffer (14 R298). -/
def store (i : Instr) (x : Word) (n v : Nat) (s : State) : State :=
  match ownOffset s s.cur.key x n with
  | some o =>
    let pa := slicePhys (s.cur.key / 4) o
    match physFate s pa x.toNat n n true with
    | some (c, a) => lateNow s c a
    | none => ownStore i x n v (physWrite · pa n v) s
  | none => addReq s (gathered s { newReq s i x with vec1 := BitVec.ofNat 2048 v, status := .gathered })

/-! ## Full and empty granules (10 R232-R236) -/

/-- A full/empty request arrives at its slice: a fate, or held behind those that came before (10 R232, R233); one whose task
has ended is not held (R234). -/
def feArrive (s : State) (r : Req) : State :=
  let n := feBytes r.op
  match windowPhys s (r.ctx / 4) r.addr with
  | none => setReq s { r with status := .refused, found := some (.perm, r.addr) }
  | some pa =>
    if r.addr.toNat % n ≠ 0 then setReq s { r with status := .refused, found := some (.align, r.addr) }
    else if sliceOff s pa then setReq s { r with status := .refused, found := some (.sliceoff, r.addr) }
    else
      let s := serveHeld { s with reqs := (s.reqs.filter fun q => q.id != r.id) ++ [{ r with status := .held }] }
      if r.discard then { s with reqs := s.reqs.filter fun q => !(q.id == r.id && q.status == .held) } else s

/-- A full/empty load at issue: to the own slice it arrives in issue order, elsewhere it travels. -/
def feLoad (i : Instr) (x : Word) (s : State) : State :=
  let r := newReq s i x
  match ownOffset s s.cur.key x (feBytes i) with
  | some _ => feArrive (addReq s { r with status := .sent }) { r with status := .sent }
  | none => addReq s { r with status := if mayEnter s r then .sent else .walking }

/-- STF and VSTF: the write and the full bits in one step, then the requests it fills are served (10 R235). -/
def feStore (i : Instr) (x : Word) (n v : Nat) (s : State) : State :=
  match ownOffset s s.cur.key x n with
  | some o =>
    let pa := slicePhys (s.cur.key / 4) o
    match physFate s pa x.toNat n n true with
    | some (c, a) => lateNow s c a
    | none => ownStore i x n v (fun s => serveHeld (engineWrite s pa n v)) s
  | none => addReq s { newReq s i x with vec1 := BitVec.ofNat 2048 v, status := .gathered }

/-! ## Scalar loads and stores (10 R227) -/

def execLdb (d a : SReg) (o : BitVec 11) (p : Tag) (s : State) : Host.Outcome State Fault Refusal :=
  operate (.ldb d a o p) p s fun s => loadS (.ldb d a o p) d (shortAddr s a 1 o) 1 s
def execLdbn (d a : SReg) (o : BitVec 11) (p : Tag) (s : State) : Host.Outcome State Fault Refusal :=
  operate (.ldbn d a o p) p s fun s => loadS (.ldbn d a o p) d (shortAddr s a 1 o) 1 s
def execLdh (d a : SReg) (o : BitVec 11) (p : Tag) (s : State) : Host.Outcome State Fault Refusal :=
  operate (.ldh d a o p) p s fun s => loadS (.ldh d a o p) d (shortAddr s a 2 o) 2 s
def execLdhn (d a : SReg) (o : BitVec 11) (p : Tag) (s : State) : Host.Outcome State Fault Refusal :=
  operate (.ldhn d a o p) p s fun s => loadS (.ldhn d a o p) d (shortAddr s a 2 o) 2 s
def execLdw (d a : SReg) (o : BitVec 11) (p : Tag) (s : State) : Host.Outcome State Fault Refusal :=
  operate (.ldw d a o p) p s fun s => loadS (.ldw d a o p) d (shortAddr s a 4 o) 4 s
def execLdwn (d a : SReg) (o : BitVec 11) (p : Tag) (s : State) : Host.Outcome State Fault Refusal :=
  operate (.ldwn d a o p) p s fun s => loadS (.ldwn d a o p) d (shortAddr s a 4 o) 4 s
def execLdd (d a : SReg) (o : BitVec 11) (p : Tag) (s : State) : Host.Outcome State Fault Refusal :=
  operate (.ldd d a o p) p s fun s => loadS (.ldd d a o p) d (shortAddr s a 8 o) 8 s
def execStb (d a : SReg) (o : BitVec 11) (p : Tag) (s : State) : Host.Outcome State Fault Refusal :=
  operate (.stb d a o p) p s fun s => store (.stb d a o p) (shortAddr s a 1 o) 1 (readS s d).toNat s
def execSth (d a : SReg) (o : BitVec 11) (p : Tag) (s : State) : Host.Outcome State Fault Refusal :=
  operate (.sth d a o p) p s fun s => store (.sth d a o p) (shortAddr s a 2 o) 2 (readS s d).toNat s
def execStw (d a : SReg) (o : BitVec 11) (p : Tag) (s : State) : Host.Outcome State Fault Refusal :=
  operate (.stw d a o p) p s fun s => store (.stw d a o p) (shortAddr s a 4 o) 4 (readS s d).toNat s
def execStd (d a : SReg) (o : BitVec 11) (p : Tag) (s : State) : Host.Outcome State Fault Refusal :=
  operate (.std d a o p) p s fun s => store (.std d a o p) (shortAddr s a 8 o) 8 (readS s d).toNat s
def execLds (d a : SReg) (o : BitVec 11) (p : Tag) (s : State) : Host.Outcome State Fault Refusal :=
  operate (.lds d a o p) p s fun s => specLoadS (.lds d a o p) d a (shortAddr s a 8 o) s

def execLdbLong (d a : SReg) (p : Tag) (m : BitVec 32) (s : State) : Host.Outcome State Fault Refusal :=
  operate (.ldbLong d a p m) p s fun s => loadS (.ldbLong d a p m) d (longAddr s a m) 1 s
def execLdbnLong (d a : SReg) (p : Tag) (m : BitVec 32) (s : State) : Host.Outcome State Fault Refusal :=
  operate (.ldbnLong d a p m) p s fun s => loadS (.ldbnLong d a p m) d (longAddr s a m) 1 s
def execLdhLong (d a : SReg) (p : Tag) (m : BitVec 32) (s : State) : Host.Outcome State Fault Refusal :=
  operate (.ldhLong d a p m) p s fun s => loadS (.ldhLong d a p m) d (longAddr s a m) 2 s
def execLdhnLong (d a : SReg) (p : Tag) (m : BitVec 32) (s : State) : Host.Outcome State Fault Refusal :=
  operate (.ldhnLong d a p m) p s fun s => loadS (.ldhnLong d a p m) d (longAddr s a m) 2 s
def execLdwLong (d a : SReg) (p : Tag) (m : BitVec 32) (s : State) : Host.Outcome State Fault Refusal :=
  operate (.ldwLong d a p m) p s fun s => loadS (.ldwLong d a p m) d (longAddr s a m) 4 s
def execLdwnLong (d a : SReg) (p : Tag) (m : BitVec 32) (s : State) : Host.Outcome State Fault Refusal :=
  operate (.ldwnLong d a p m) p s fun s => loadS (.ldwnLong d a p m) d (longAddr s a m) 4 s
def execLddLong (d a : SReg) (p : Tag) (m : BitVec 32) (s : State) : Host.Outcome State Fault Refusal :=
  operate (.lddLong d a p m) p s fun s => loadS (.lddLong d a p m) d (longAddr s a m) 8 s
def execStbLong (d a : SReg) (p : Tag) (m : BitVec 32) (s : State) : Host.Outcome State Fault Refusal :=
  operate (.stbLong d a p m) p s fun s => store (.stbLong d a p m) (longAddr s a m) 1 (readS s d).toNat s
def execSthLong (d a : SReg) (p : Tag) (m : BitVec 32) (s : State) : Host.Outcome State Fault Refusal :=
  operate (.sthLong d a p m) p s fun s => store (.sthLong d a p m) (longAddr s a m) 2 (readS s d).toNat s
def execStwLong (d a : SReg) (p : Tag) (m : BitVec 32) (s : State) : Host.Outcome State Fault Refusal :=
  operate (.stwLong d a p m) p s fun s => store (.stwLong d a p m) (longAddr s a m) 4 (readS s d).toNat s
def execStdLong (d a : SReg) (p : Tag) (m : BitVec 32) (s : State) : Host.Outcome State Fault Refusal :=
  operate (.stdLong d a p m) p s fun s => store (.stdLong d a p m) (longAddr s a m) 8 (readS s d).toNat s
def execLdsLong (d a : SReg) (p : Tag) (m : BitVec 32) (s : State) : Host.Outcome State Fault Refusal :=
  operate (.ldsLong d a p m) p s fun s => specLoadS (.ldsLong d a p m) d a (longAddr s a m) s

/-! ## Vector loads and stores (10 R228, R229) -/

def execVld (d : VReg) (a : SReg) (o : BitVec 11) (p : Tag) (s : State) : Host.Outcome State Fault Refusal :=
  operate (.vld d a o p) p s fun s => loadV (.vld d a o p) d (shortAddr s a 256 o) s
def execVst (d : VReg) (a : SReg) (o : BitVec 11) (p : Tag) (s : State) : Host.Outcome State Fault Refusal :=
  operate (.vst d a o p) p s fun s => store (.vst d a o p) (shortAddr s a 256 o) 256 (readV s d).toNat s
def execVlds (d : VReg) (a : SReg) (o : BitVec 11) (p : Tag) (s : State) : Host.Outcome State Fault Refusal :=
  operate (.vlds d a o p) p s fun s => specLoadV (.vlds d a o p) d a (shortAddr s a 256 o) s
def execVldLong (d : VReg) (a : SReg) (p : Tag) (m : BitVec 32) (s : State) : Host.Outcome State Fault Refusal :=
  operate (.vldLong d a p m) p s fun s => loadV (.vldLong d a p m) d (longAddr s a m) s
def execVstLong (d : VReg) (a : SReg) (p : Tag) (m : BitVec 32) (s : State) : Host.Outcome State Fault Refusal :=
  operate (.vstLong d a p m) p s fun s => store (.vstLong d a p m) (longAddr s a m) 256 (readV s d).toNat s
def execVldsLong (d : VReg) (a : SReg) (p : Tag) (m : BitVec 32) (s : State) : Host.Outcome State Fault Refusal :=
  operate (.vldsLong d a p m) p s fun s => specLoadV (.vldsLong d a p m) d a (longAddr s a m) s

/-! ## Bank-named forms (10 R230): always the own slice; q ≥ 512 has trapped BANKRANGE at issue -/

/-- The window address and the slice offset of a bank form. -/
def bankAddr (s : State) (b : Fin 32) (x : SReg) (o : Fin 64) : Word × Nat :=
  let off := b.val * 0x20000 + 256 * (readS s x + BitVec.ofNat 64 o.val).toNat
  (BitVec.ofNat 64 (windowAddr (coreAt s (s.cur.key / 4)).logical off), off)

def execVldb (d : VReg) (b : Fin 32) (x : SReg) (o : Fin 64) (p : Tag) (s : State) : Host.Outcome State Fault Refusal :=
  operate (.vldb d b x o p) p s fun s =>
    ownLoad s (bankAddr s b x o).1 (bankAddr s b x o).2 256
      (fun s v => resultV s d 4 (BitVec.ofNat 2048 v) (BitVec.allOnes 2048) false 0) lateNow
def execVstb (d : VReg) (b : Fin 32) (x : SReg) (o : Fin 64) (p : Tag) (s : State) : Host.Outcome State Fault Refusal :=
  operate (.vstb d b x o p) p s fun s =>
    let pa := slicePhys (s.cur.key / 4) (bankAddr s b x o).2
    match physFate s pa (bankAddr s b x o).1.toNat 256 256 true with
    | some (c, a) => lateNow s c a
    | none => ownStore (.vstb d b x o p) (bankAddr s b x o).1 256 (readV s d).toNat (physWrite · pa 256 (readV s d).toNat) s

/-! ## Gather and scatter (10 R231) -/

/-- A lane of a gather or scatter of context `k` goes to its own slice. -/
def ownLane (s : State) (k : Nat) (base : Word) (off : VWord) (z i : Nat) : Bool :=
  (ownOffset s k (BitVec.ofNat 64 (laneAddr base off z i)) z).isSome

/-- What a lane of a gather finds in the own slice as the bundle issues (00 R7): its bytes, or its fate. -/
def ownLaneRead (s : State) (base : Word) (off : VWord) (z i : Nat) : Except (Cause × Word) Nat :=
  let a := laneAddr base off z i
  let pa := slicePhys (s.cur.key / 4) ((ownOffset s s.cur.key (BitVec.ofNat 64 a) z).getD 0)
  match physFate (asIssued s) pa a z z false with
  | some e => .error e
  | none => .ok (physRead (asIssued s) pa z)

/-- The own-slice lanes of a gather, of those listed, each in its place. -/
def ownLanes (s : State) (base : Word) (off : VWord) (z : Nat) (l : List Nat) : VWord :=
  BitVec.ofNat 2048 (packLanes (8 * z) ((List.range (256 / z)).map fun i =>
    if l.contains i && ownLane s s.cur.key base off z i then (match ownLaneRead s base off z i with | .ok v => v | .error _ => 0) else 0))

/-- The first own-slice lane of a gather, of those listed, that meets a fate, with the fate. -/
def ownLanesFate (s : State) (base : Word) (off : VWord) (z : Nat) (l : List Nat) : Option (Nat × Cause × Word) :=
  (l.filter (ownLane s s.cur.key base off z)).findSome? fun i => match ownLaneRead s base off z i with
    | .error e => some (i, e)
    | .ok _ => none

/-- The request of a gather: its own-slice lanes are read as its bundle issues (00 R7, 06 R117), and it keeps what they found: their
bytes, and the first fate with its lane. -/
def gatherReq (s : State) (i : Instr) (base : Word) (off : VWord) (g : BitVec 128) (z : Nat) (df : Bool) : Req :=
  let l := guardLanes z g
  let fate := ownLanesFate s base off z l
  { newReq s i base with
    vec1 := off, vec2 := ownLanes s base off z l, guard := g, arg1 := BitVec.ofNat 64 ((fate.map (·.1)).getD 0)
    arg2 := if df then 1 else 0, found := fate.map (·.2) }

/-- VGATH is always long. -/
def execVgath (d : VReg) (a : SReg) (b : VReg) (g : Fin 8) (w : Fin 4) (p : Tag) (s : State) :
    Host.Outcome State Fault Refusal :=
  operate (.vgath d a b g w p) p s fun s =>
    let df := deferS s a || deferV s b || (g.val != 0 && deferV s d)
    addReq s (gatherReq s (.vgath d a b g w p) (readS s a) (readV s b) (readP s g) (gatherBytes w) df)

/-- The first fate of the lanes of a scatter, in ascending order. -/
def scatterFate (s : State) (j : Job) (base : Word) (off : VWord) (z : Nat) (write : Bool) : List Nat → Option (Cause × Word)
  | [] => none
  | i :: l =>
    match access s j (laneAddr base off z i) z z write with
    | .error e => some e
    | .ok _ => scatterFate s j base off z write l

/-- Lanes written in ascending order. -/
def scatterLanes (s : State) (j : Job) (base : Word) (off data : VWord) (z : Nat) (l : List Nat) : State :=
  l.foldl (fun s i =>
    match translate j (laneAddr base off z i) true with
    | .ok pa => physWrite s pa z (bits data (8 * z * i + (8 * z - 1)) (8 * z * i))
    | .error _ => s) s

/-- A lane of a scatter goes to the own slice. -/
def laneOwn (s : State) (base : Word) (off : VWord) (z i : Nat) : Bool :=
  ownLane s s.cur.key base off z i

/-- The guard of the lanes listed. -/
def guardOf (z : Nat) (l : List Nat) : BitVec 128 :=
  BitVec.ofNat 128 (l.foldl (fun m i => m + 2 ^ (if z = 4 then 2 * i else i)) 0)

/-- VSCAT: every lane is checked before any is written, and where a page is missing by its walk. With every lane in the own slice it takes
effect at once (06 R117), unless a synchronising access of its bundle meets it; else all of it leaves as one request, which performs the
lanes in ascending order or, where one fails, writes none of them (10 R231): behind it the context's accesses to the own slice wait
(06 R117, ownOrderWaits; log entry 54). -/
def execVscat (d : VReg) (a : SReg) (b : VReg) (g : Fin 8) (w : Fin 4) (p : Tag) (s : State) :
    Host.Outcome State Fault Refusal :=
  operate (.vscat d a b g w p) p s fun s =>
    let z := gatherBytes w
    let base := readS s a
    let off := readV s b
    let data := readV s d
    let ls := guardLanes z (readP s g)
    let r := { newReq s (.vscat d a b g w p) base with vec1 := off, vec2 := data, guard := guardOf z ls }
    match jobOfCtx s s.cur.key with
    | none => lateNow s .perm base
    | some j =>
      match (ls.map fun l => (laneAddr base off z l, z, true)).findSome? (walkFate j), scatterFate s j base off z true ls with
      | some _, _ => addReq s r
      | none, some (c, x) => lateNow s c x
      | none, none =>
        if ls.all (laneOwn s base off z) && !(ls.any fun l => meetsLate s (laneAddr base off z l) z) then scatterLanes s j base off data z ls
        else addReq s r

/-! ## Full/empty loads and stores (10 R232-R235) -/

def execLdfe (d a : SReg) (o : BitVec 11) (p : Tag) (s : State) : Host.Outcome State Fault Refusal :=
  operate (.ldfe d a o p) p s fun s => feLoad (.ldfe d a o p) (shortAddr s a 8 o) s
def execLdfec (d a : SReg) (o : BitVec 11) (p : Tag) (s : State) : Host.Outcome State Fault Refusal :=
  operate (.ldfec d a o p) p s fun s => feLoad (.ldfec d a o p) (shortAddr s a 8 o) s
def execVldfe (d : VReg) (a : SReg) (o : BitVec 11) (p : Tag) (s : State) : Host.Outcome State Fault Refusal :=
  operate (.vldfe d a o p) p s fun s => feLoad (.vldfe d a o p) (shortAddr s a 256 o) s
def execVldfec (d : VReg) (a : SReg) (o : BitVec 11) (p : Tag) (s : State) : Host.Outcome State Fault Refusal :=
  operate (.vldfec d a o p) p s fun s => feLoad (.vldfec d a o p) (shortAddr s a 256 o) s
def execStf (d a : SReg) (o : BitVec 11) (p : Tag) (s : State) : Host.Outcome State Fault Refusal :=
  operate (.stf d a o p) p s fun s => feStore (.stf d a o p) (shortAddr s a 8 o) 8 (readS s d).toNat s
def execVstf (d : VReg) (a : SReg) (o : BitVec 11) (p : Tag) (s : State) : Host.Outcome State Fault Refusal :=
  operate (.vstf d a o p) p s fun s => feStore (.vstf d a o p) (shortAddr s a 256 o) 256 (readV s d).toNat s
def execLdfeLong (d a : SReg) (p : Tag) (m : BitVec 32) (s : State) : Host.Outcome State Fault Refusal :=
  operate (.ldfeLong d a p m) p s fun s => feLoad (.ldfeLong d a p m) (longAddr s a m) s
def execLdfecLong (d a : SReg) (p : Tag) (m : BitVec 32) (s : State) : Host.Outcome State Fault Refusal :=
  operate (.ldfecLong d a p m) p s fun s => feLoad (.ldfecLong d a p m) (longAddr s a m) s
def execVldfeLong (d : VReg) (a : SReg) (p : Tag) (m : BitVec 32) (s : State) : Host.Outcome State Fault Refusal :=
  operate (.vldfeLong d a p m) p s fun s => feLoad (.vldfeLong d a p m) (longAddr s a m) s
def execVldfecLong (d : VReg) (a : SReg) (p : Tag) (m : BitVec 32) (s : State) : Host.Outcome State Fault Refusal :=
  operate (.vldfecLong d a p m) p s fun s => feLoad (.vldfecLong d a p m) (longAddr s a m) s
def execStfLong (d a : SReg) (p : Tag) (m : BitVec 32) (s : State) : Host.Outcome State Fault Refusal :=
  operate (.stfLong d a p m) p s fun s => feStore (.stfLong d a p m) (longAddr s a m) 8 (readS s d).toNat s
def execVstfLong (d : VReg) (a : SReg) (p : Tag) (m : BitVec 32) (s : State) : Host.Outcome State Fault Refusal :=
  operate (.vstfLong d a p m) p s fun s => feStore (.vstfLong d a p m) (longAddr s a m) 256 (readV s d).toNat s

/-! ## PREF (10 R237): it affects no result -/

/-- A prefetch of the line that contains `x` is sent, unless the base's deferred-fault bit is set. -/
def prefetch (s : State) (a : SReg) (x : Word) : State :=
  match jobOfCtx s s.cur.key with
  | none => s
  | some j => if deferS s a then s else sendPrefetch s ⟨s.cur.key / 4, j.id, x.toNat⟩

def execPref (a : SReg) (o : BitVec 11) (p : Tag) (s : State) : Host.Outcome State Fault Refusal :=
  operate (.pref a o p) p s fun s => prefetch s a (shortAddr s a 256 o)
def execPrefLong (a : SReg) (p : Tag) (m : BitVec 32) (s : State) : Host.Outcome State Fault Refusal :=
  operate (.prefLong a p m) p s fun s => prefetch s a (longAddr s a m)

end Sys2Proof.Machine
end

