-- ==== Sys2Proof/Machine/Sync.lean ====
section
/-! DEFINITION. Atomics, barriers and racks (spec/15_atomics_barriers_and_racks.md): what each operation sends at issue,
and what the rack controllers and the barrier units do with it. -/

namespace Sys2Proof.Machine

/-! ## LDACQ, STREL, ATOM, CAS, VATOM at issue (15 R313, R316-R319) -/

/-- The bytes of an LDACQ or STREL. -/
def sizeBytes (z : Fin 4) : Nat := 2 ^ z.val

def execLdacq (d a : SReg) (sc : Fin 8) (z : Fin 4) (p : Tag) (s : State) : Host.Outcome State Fault Refusal :=
  operate (.ldacq d a sc z p) p s fun s => send s (newReq s (.ldacq d a sc z p) (readS s a))
/-- STREL takes a request entry even to the own slice. -/
def execStrel (d a : SReg) (sc : Fin 8) (z : Fin 4) (p : Tag) (s : State) : Host.Outcome State Fault Refusal :=
  operate (.strel d a sc z p) p s fun s =>
    send s { newReq s (.strel d a sc z p) (readS s a) with vec1 := (readS s d).setWidth 2048 }

/-- An ATOM sends its address and its operand. -/
def atom (i : Instr) (a b : SReg) (p : Tag) (s : State) : Host.Outcome State Fault Refusal :=
  operate i p s fun s => send s { newReq s i (readS s a) with arg1 := readS s b }

def execAtomAdd (d a b : SReg) (r : Fin 2) (p : Tag) (s : State) := atom (.atomAdd d a b r p) a b p s
def execAtomMin (d a b : SReg) (r : Fin 2) (p : Tag) (s : State) := atom (.atomMin d a b r p) a b p s
def execAtomMax (d a b : SReg) (r : Fin 2) (p : Tag) (s : State) := atom (.atomMax d a b r p) a b p s
def execAtomMinn (d a b : SReg) (r : Fin 2) (p : Tag) (s : State) := atom (.atomMinn d a b r p) a b p s
def execAtomMaxn (d a b : SReg) (r : Fin 2) (p : Tag) (s : State) := atom (.atomMaxn d a b r p) a b p s
def execAtomAnd (d a b : SReg) (r : Fin 2) (p : Tag) (s : State) := atom (.atomAnd d a b r p) a b p s
def execAtomOr (d a b : SReg) (r : Fin 2) (p : Tag) (s : State) := atom (.atomOr d a b r p) a b p s
def execAtomXor (d a b : SReg) (r : Fin 2) (p : Tag) (s : State) := atom (.atomXor d a b r p) a b p s
def execAtomSwap (d a b : SReg) (r : Fin 2) (p : Tag) (s : State) := atom (.atomSwap d a b r p) a b p s
/-- CAS sends the new value and the expected one. -/
def execCas (d a b : SReg) (r : Fin 2) (p : Tag) (s : State) : Host.Outcome State Fault Refusal :=
  operate (.cas d a b r p) p s fun s =>
    send s { newReq s (.cas d a b r p) (readS s a) with arg1 := readS s b, arg2 := readS s d }

/-- A VATOM sends its base, its offsets and its data. -/
def vatom (i : Instr) (d : VReg) (a : SReg) (b : VReg) (p : Tag) (s : State) : Host.Outcome State Fault Refusal :=
  operate i p s fun s =>
    let r := { newReq s i (readS s a) with vec1 := readV s b, vec2 := readV s d }
    addReq (emptied s r) r

def execVatomAdd (d : VReg) (a : SReg) (b : VReg) (r : Fin 2) (p : Tag) (s : State) := vatom (.vatomAdd d a b r p) d a b p s
def execVatomAnd (d : VReg) (a : SReg) (b : VReg) (r : Fin 2) (p : Tag) (s : State) := vatom (.vatomAnd d a b r p) d a b p s
def execVatomOr (d : VReg) (a : SReg) (b : VReg) (r : Fin 2) (p : Tag) (s : State) := vatom (.vatomOr d a b r p) d a b p s
def execVatomMax (d : VReg) (a : SReg) (b : VReg) (r : Fin 2) (p : Tag) (s : State) := vatom (.vatomMax d a b r p) d a b p s

/-- The new word of a scalar atomic from the old one and the operand (15 R317). -/
def atomNew (i : Instr) (old y : Word) : Word :=
  match i with
  | .atomAdd .. => old + y
  | .atomMin .. => if old.slt y then old else y
  | .atomMax .. => if old.slt y then y else old
  | .atomMinn .. => if old < y then old else y
  | .atomMaxn .. => if old < y then y else old
  | .atomAnd .. => old &&& y
  | .atomOr .. => old ||| y
  | .atomXor .. => old ^^^ y
  | _ => y

/-- The new 32-bit word of a VATOM lane (15 R319). -/
def vatomNew (i : Instr) (old y : BitVec 32) : BitVec 32 :=
  match i with
  | .vatomAnd .. => old &&& y
  | .vatomOr .. => old ||| y
  | .vatomMax .. => if old.slt y then y else old
  | _ => old + y

/-! ## Racks at issue (15 R330-R334) -/

def execRkopen (d a : SReg) (p : Tag) (s : State) : Host.Outcome State Fault Refusal :=
  operate (.rkopen d a p) p s fun s => sendUnit s (newReq s (.rkopen d a p) (readS s a))
def execRkpub (a : SReg) (p : Tag) (s : State) : Host.Outcome State Fault Refusal :=
  operate (.rkpub a p) p s fun s => sendUnit s (newReq s (.rkpub a p) (readS s a))
def execRktake (d a : SReg) (p : Tag) (s : State) : Host.Outcome State Fault Refusal :=
  operate (.rktake d a p) p s fun s => sendUnit s (newReq s (.rktake d a p) (readS s a))
def execRkdrop (a : SReg) (p : Tag) (s : State) : Host.Outcome State Fault Refusal :=
  operate (.rkdrop a p) p s fun s => sendUnit s (newReq s (.rkdrop a p) (readS s a))

/-! ## The rack controller (15 R329-R335) -/

/-- A FREE tray (15 Table sync-5). -/
def Tray.isFree (t : Tray) : Bool := !t.opened && !t.fresh && t.pins == 0 && !t.draining

/-- The index of the first tray with a property. -/
def trayWhere (f : Tray → Bool) (r : Rack) : Option Nat := (List.range r.trays.length).find? fun t => (r.trays[t]?.map f).getD false

/-- Tray `t` changed. -/
def onTray (r : Rack) (t : Nat) (f : Tray → Tray) : Rack := { r with trays := r.trays.modify t f }

/-- The address of tray `t`. -/
def trayAddr (r : Rack) (t : Nat) : Word := r.base + BitVec.ofNat 64 (t * r.size)

/-- RKOPEN, or the opening of a rack-target command: the writer's open tray is abandoned (DRAINING while a command still
writes it), the lowest-numbered FREE tray opens; with none, a drop is counted. -/
def openTray (r : Rack) (command : Option Nat) : Rack × Option Nat :=
  let r := { r with trays := r.trays.map fun t => if t.opened then { t with opened := false, draining := r.command.isSome } else t
                    command := none }
  match trayWhere Tray.isFree r with
  | some t => ({ onTray r t fun x => { x with opened := true } with command := command }, some t)
  | none => ({ r with drops := min 65535 (r.drops + 1) }, none)

/-- The open tray `t` becomes FRESH with the next sequence number; the tray that was freshest gives up its flag. -/
def publishTray (now : Nat) (r : Rack) (t : Nat) : Rack :=
  let r := { r with trays := r.trays.map fun x => { x with fresh := false } }
  { onTray r t fun x => { x with opened := false, fresh := true, seq := r.next, time := now } with
    next := if r.next = 2 ^ 48 - 1 then 1 else r.next + 1, command := none }

/-- RKPUB: no effect without an open tray, or while a rack-target command owns it. -/
def rackPublish (now : Nat) (r : Rack) : Rack :=
  match trayWhere (·.opened) r with
  | some t => if r.command.isSome then r else publishTray now r t
  | none => r

/-- The pin of a context. -/
def pinOf (r : Rack) (c : Nat) : Option Nat := (r.pins.find? fun x => x.1 == c).map (·.2)

/-- RKDROP: the pin goes; the tray is FREE when unpinned and not freshest. -/
def rackDrop (r : Rack) (c : Nat) : Rack :=
  match pinOf r c with
  | some t => { onTray r t fun x => { x with pins := x.pins - 1 } with pins := r.pins.filter fun x => x.1 != c }
  | none => r

/-- RKTAKE: the three results of Table R334, address then age then sequence, and the rack after it. -/
def rackTake (now : Nat) (r : Rack) (c : Nat) : Rack × Word × Word × Word :=
  let drops := BitVec.ofNat 64 (r.drops * 2 ^ 48)
  let none3 := fun r' : Rack => (r', (0 : Word), (0xFFFFFFFF : Word), drops)
  match trayWhere (·.fresh) r with
  | some f =>
    let t := r.trays[f]?.getD ⟨false, false, 0, 0, 0, false⟩
    let answer := fun r' : Rack =>
      (r', trayAddr r f, BitVec.ofNat 64 (min (now - t.time) (2 ^ 32 - 1)), BitVec.ofNat 64 t.seq ||| drops)
    match pinOf r c with
    | some old => if old = f then answer r
        else
          let r := rackDrop r c
          answer { onTray r f fun x => { x with pins := x.pins + 1 } with pins := r.pins ++ [(c, f)] }
    | none => if 64 ≤ r.pins.length then none3 r
        else answer { onTray r f fun x => { x with pins := x.pins + 1 } with pins := r.pins ++ [(c, f)] }
  | none => none3 (rackDrop r c)

/-- Three words side by side, the first lowest. -/
def pack3 (a b c : Word) : VWord := BitVec.ofNat 2048 (a.toNat + 2 ^ 64 * b.toNat + 2 ^ 128 * c.toNat)

/-- The request is answered with a value. -/
def answerReq (s : State) (r : Req) (v : VWord) : State := setReq s { r with status := .performed, value := v }
/-- The request is refused: a late fault of its context. -/
def refuseReq (s : State) (r : Req) (c : Cause) (a : Word) : State := setReq s { r with status := .refused, found := some (c, a) }

/-- The rack a request names, with the checks of R330. -/
def rackOf (s : State) (j : Job) (r : Req) : Option (Nat × Rack) :=
  let id := r.addr.toNat
  match j.racks[id]? with
  | some k =>
    let writerOnly := match r.op with | .rkopen .. | .rkpub .. => true | _ => false
    if id < 64 && (!writerOnly || k.writer == ctxId s r.ctx) then some (id, k) else none
  | none => none

/-- One operation on one rack, as one step. -/
def rackPerform (s : State) (r : Req) : State :=
  match jobOfCtx s r.ctx with
  | none => dropReq s r.id
  | some j =>
    match rackOf s j r with
    | none => refuseReq s r .rackid r.addr
    | some (id, k) =>
      let now := timeNow s
      let keep := fun (s : State) (k : Rack) => setJob s { j with racks := j.racks.set id k }
      match r.op with
      | .rkopen .. =>
        let (k', t) := openTray k none
        answerReq (keep s k') r (match t with | some t => (trayAddr k t).setWidth 2048 | none => 0)
      | .rkpub .. => dropReq (keep s (rackPublish now k)) r.id
      | .rktake .. =>
        let (k', a, b, c) := rackTake now k (ctxId s r.ctx)
        answerReq (keep s k') r (pack3 a b c)
      | _ => dropReq (keep s (rackDrop k (ctxId s r.ctx))) r.id

/-! ## Barriers at issue (15 R321, R324-R326) -/

/-- The barrier a context names, when it may use it (15 R321). -/
def barrierOf (s : State) (k : Nat) (a : Word) (upper : Nat) : Option Barrier :=
  match jobOfCtx s k with
  | none => none
  | some j =>
    if a.toNat / 2 ^ upper ≠ 0 then none
    else
      match (if bits a 7 0 = 0 then none else j.barriers[bits a 7 0 - 1]?) with
      | none => none
      | some b =>
        let n := (coreAt s (k / 4)).logical
        if (b.level.val = 0 ∧ n / 8 ≠ b.home / 8) ∨ (b.level.val = 1 ∧ n / 48 ≠ b.home / 48) then none else some b

/-- BINIT's operands are in range and its parent is a barrier of a strictly higher level that covers it (15 R324). -/
def binitOk (s : State) (k : Nat) (b : Barrier) (a ea eb : Word) : Bool :=
  ea.toNat ≤ 65535 && eb.toNat ≤ 2 ^ 40 && !(ea == 0 && eb == 0) &&
  (bits a 15 8 == 0 ||
    match (jobOfCtx s k).bind fun j => j.barriers[bits a 15 8 - 1]? with
    | none => false
    | some q => b.level.val < q.level.val && (q.level.val != 1 || q.home / 48 == b.home / 48))

def execBinit (d a b : SReg) (p : Tag) (s : State) : Host.Outcome State Fault Refusal :=
  operate (.binit d a b p) p s fun s =>
    match barrierOf s s.cur.key (readS s a) 16 with
    | none => lateNow s .perm (readS s a)
    | some q =>
      if binitOk s s.cur.key q (readS s a) (readS s b) (readS s d) then
        sendUnit s { newReq s (.binit d a b p) (readS s a) with arg1 := readS s b, arg2 := readS s d }
      else lateNow s .perm (readS s a)

/-- The arrival-phase record of a barrier, replaced. -/
def setArrival (c : Ctx) (b phase : Nat) (pending : Bool) : Ctx :=
  { c with arrivals := (c.arrivals.filter fun r => r.barrier != b) ++ [⟨b, phase, pending⟩] }

/-- BARV: the record is pending until the phase number returns (15 R325). -/
def execBarv (a : SReg) (p : Tag) (s : State) : Host.Outcome State Fault Refusal :=
  operate (.barv a p) p s fun s =>
    match barrierOf s s.cur.key (readS s a) 8 with
    | none => lateNow s .perm (readS s a)
    | some _ =>
      onCtx (sendUnit s (newReq s (.barv a p) (readS s a))) s.cur.key fun c => setArrival c (bits (readS s a) 7 0) 0 true

/-- BWAIT: its target is the context's record as it stands at issue, which it consumes, else the phase current then (00 R7,
15 R326, R327); the record of a BARV in its own bundle is pending and stays. -/
def execBwait (d a : SReg) (p : Tag) (s : State) : Host.Outcome State Fault Refusal :=
  operate (.bwait d a p) p s fun s =>
    match barrierOf s s.cur.key (readS s a) 8 with
    | none => lateNow s .perm (readS s a)
    | some b =>
      let id := bits (readS s a) 7 0
      let target := (((arrivalsIssued s).find? fun r => r.barrier == id).map (·.phase)).getD b.phase
      onCtx (sendUnit s { newReq s (.bwait d a p) (readS s a) with arg1 := 1, arg2 := BitVec.ofNat 64 target })
        s.cur.key fun c => { c with arrivals := c.arrivals.filter fun r => r.barrier != id || r.pending }

/-! ## The barrier unit (15 R322, R323) -/

/-- The next phase opens: early arrivals are taken into it. -/
def nextPhase (b : Barrier) : Barrier :=
  let e := min b.early b.ea
  { b with phase := b.phase + 1, pa := b.ea - e, early := b.early - e, pb := b.eb, touched := e != 0, parent := b.nextParent }

/-- One arrival: it counts toward the current phase, or early; one past 65,535 early ones is discarded (15 R322). -/
def arriveOne (b : Barrier) : Barrier :=
  if b.pa = 0 then { b with early := min 65535 (b.early + 1), touched := true }
  else { b with pa := b.pa - 1, touched := true }
/-- The next arrival at a barrier would be discarded. -/
def earlyFull (b : Barrier) : Bool := b.pa == 0 && b.early == 65535

/-- Barriers, with the ids of those at which an arrival has been discarded. -/
abbrev Barriers := List Barrier × List Nat

/-- An arrival at barrier `id`. -/
def arriveAt (x : Barriers) (id : Nat) : Barriers :=
  (x.1.modify (id - 1) arriveOne, if ((x.1[id - 1]?).map earlyFull).getD false then x.2 ++ [id] else x.2)

/-- Phases whose arrivals and bytes are all in complete, each sending an arrival to its parent. -/
def settle : Nat → Barriers → Nat → Barriers
  | 0, x, _ => x
  | n + 1, x, id =>
    match x.1[id - 1]? with
    | none => x
    | some b =>
      if b.pa ≠ 0 ∨ b.pb ≠ 0 then x
      else
        let x : Barriers := (x.1.set (id - 1) (nextPhase b), x.2)
        let x := if b.parent = 0 then x else settle n (arriveAt x b.parent) b.parent
        settle n x id

/-- Enough rounds for every phase that can complete at once: each takes in at least one arrival. -/
def settleFuel (bs : List Barrier) : Nat := (bs.map fun b => b.early + 2).sum + 2

/-- An arrival at barrier `id`, with what completes from it; the phase number in which it counts (15 R322, R325). -/
def takeArrival (bs : List Barrier) (id : Nat) : Barriers × Nat :=
  match bs[id - 1]? with
  | none => ((bs, []), 0)
  | some b => (settle (settleFuel bs) (arriveAt (bs, []) id) id, if b.pa = 0 then b.phase + 1 else b.phase)

/-- A report of `n` bytes; past the bytes expected the phase completes by overrun (15 R323). -/
def takeBytes (bs : List Barrier) (id n : Nat) : Barriers × Bool :=
  match bs[id - 1]? with
  | none => ((bs, []), false)
  | some b =>
    if n ≤ b.pb then (settle (settleFuel bs) (bs.set (id - 1) { b with pb := b.pb - n, touched := true }, []) id, false)
    else (settle (settleFuel bs) (bs.set (id - 1) { b with pa := 0, pb := 0, lastOver := b.phase }, []) id, true)

/-- The status of a BWAIT whose target phase has completed (15 Table sync-3). -/
def bwaitStatus (b : Barrier) (target : Nat) : Word :=
  BitVec.ofNat 64 ((b.phase - 1) % 2 ^ 32 + (if target ≤ b.lastOver then 2 ^ 32 else 0))

/-- BINIT takes effect now in an untouched phase, else from the next one (15 R324). -/
def initBarrier (b : Barrier) (a ea eb : Word) : Barrier :=
  let b := { b with ea := ea.toNat, eb := eb.toNat, nextParent := bits a 15 8 }
  if b.touched then b else { b with pa := ea.toNat, pb := eb.toNat, parent := b.nextParent }

/-! ## The rows of the controllers and units -/

/-- A request that holds no later release of its context back: it is performed and, for a memory access, landed or
acknowledged. -/
def settled (q : Req) : Bool := q.faulted || (!q.open && (reqTargets q).isEmpty)

/-! ## The order in which requests are performed -/

/-- Two requests touch one aligned block of `n` bytes. -/
def sameBlock (n : Nat) (q r : Req) : Bool :=
  (reqTargets q).any fun x => (reqTargets r).any fun y => x.1 / n == y.1 / n
/-- Two requests touch one byte. -/
def sameByte (q r : Req) : Bool :=
  (reqTargets q).any fun x => (reqTargets r).any fun y => decide (x.1 < y.1 + y.2.1) && decide (y.1 < x.1 + x.2.1)

/-- A request's packet stands before paused wall buses (04 R78). -/
def requestPaused (s : State) (j : Job) (r : Req) : Bool :=
  (destinations s j r).any (placePaused s (r.ctx / 4))

/-- The answer to a request stands before paused wall buses. -/
def answerPaused (s : State) (r : Req) : Bool :=
  (jobOfCtx s r.ctx).any fun j => (destinations s j r).any fun d => wayPaused s (destAgent d) (.core (r.ctx / 4))

/-- Request `q` left its core before `r` did. -/
def leftBefore (q r : Req) : Bool := q.left != 0 && (q.left < r.left || (q.left == r.left && q.id < r.id))

/-- A request that writes memory. -/
def storesTo (r : Req) : Bool := (reqTargets r).any fun x => x.2.2

/-- Requests `q` and `r` of one bundle meet in a byte that `q` reads and `r` writes: the read reads memory as it stands at the issue (00 R7),
so it comes first. Of two read-modify-writes neither does, for each is one access (15 R317; log entry 54); and one that has been issued
again since, behind a FENCEL that follows the write (14 R303), does not come first any more. -/
def readsFirst (q r : Req) : Bool :=
  q.ctx == r.ctx && q.issue == r.issue && q.again ≤ r.id && !isPlainStore q && !isStrel q.op && storesTo r &&
  (isPlainStore r || !storesTo q) && sameByte q r
/-- Request `q` was issued before request `r`: in one bundle a read comes before a write of its bytes; else the numbers tell. -/
def issuedBefore (q r : Req) : Bool := readsFirst q r || (q.id < r.id && !readsFirst r q)
/-- A read of its own bundle that request `r` comes behind has still to enter the fabric. -/
def readInCore (s : State) (r : Req) : Bool := s.reqs.any fun q => readsFirst q r && q.inCore

/-- Requests that a synchronising request `r` follows: those of its context (14 R299), and those that have left its core before
it for one of its destinations (04 R74). -/
def syncFollows (s : State) (j : Job) (r q : Req) : Bool :=
  isSyncReq q.op && !q.placed && !readsFirst r q &&
  ((q.ctx == r.ctx && issuedBefore q r) ||
   (q.ctx / 4 == r.ctx / 4 && leftBefore q r && (destinations s j q).any ((destinations s j r).contains ·)))

/-- Earlier requests that an access `r` follows: plain accesses of its core to its line, which arrive in issue order and, held
in a hand-over, are performed in it (04 R73, 13 R284), and its context's accesses to its bytes (14 R296). -/
def follows (r q : Req) : Bool :=
  issuedBefore q r && q.open &&
  ((q.ctx / 4 == r.ctx / 4 && !isSyncAccess q.op && !isSyncAccess r.op && !(isFullEmpty q.op && q.status == .held) && sameBlock 256 q r) ||
   (q.ctx == r.ctx && !(isFullEmpty q.op && (isFullEmptyStore r.op || q.status == .held && q.issue == r.issue)) && sameByte q r))

/-- Everything the request's context issued before it is settled, where it is a release (14 R300): but for a store of its own bundle to
bytes that it reads, which comes behind it (00 R7). -/
def releaseReady (s : State) (r : Req) : Bool :=
  !isRelease r.op || !(s.reqs.any fun q => q.ctx == r.ctx && q.id < r.id && !settled q && !readsFirst r q)

/-- Nothing before request `r`, and no pause of its way, holds it back from its place. -/
def inTurn (s : State) (j : Job) (r : Req) : Bool :=
  !requestPaused s j r && !(s.reqs.any (follows r)) && (!isSyncReq r.op || r.left != 0 && !(s.reqs.any (syncFollows s j r)))

/-- A synchronising request at its place: one that its core still holds leaves once what it must follow is settled (04 R75,
14 R300); one that has left does `act` when its turn has come. -/
def unitStep (s : State) (j : Job) (r : Req) (act : State) : State :=
  if r.status != .sent then s
  else if isSyncReq r.op && r.left == 0 then (if releaseReady s r && !readInCore s r then fresh (setReq s { r with left := s.nextId }) else s)
  else if inTurn s j r then act
  else s

/-- RACK_CONTROLLER_OPERATION -/
def execRackControllerOperation (id : Nat) (s : State) : Host.Outcome State Fault Refusal :=
  match reqAt s id with
  | none => .next s
  | some r =>
    match jobOfCtx s r.ctx with
    | none => .next s
    | some j => .next (if isRackOp r.op then unitStep s j r (rackPerform s r) else s)

/-- The barriers of a context's job, replaced. -/
def setBarriers (s : State) (k : Nat) (bs : List Barrier) : State :=
  match jobOfCtx s k with
  | some j => setJob s { j with barriers := bs }
  | none => s

/-- BARRIER_UNIT_REQUEST: a BINIT takes effect; a BWAIT that has reached its unit and whose target phase has completed is answered,
else it waits. -/
def execBarrierUnitRequest (id : Nat) (s : State) : Host.Outcome State Fault Refusal :=
  match reqAt s id with
  | none => .next s
  | some r =>
    match jobOfCtx s r.ctx with
    | none => .next s
    | some j =>
      let b := bits r.addr 7 0
      match j.barriers[b - 1]? with
      | none => .next s
      | some q =>
        if !(isBarrierOp r.op && r.status == .sent) then .next s
        else if isBwait r.op then
          if inTurn s j r && r.arg2.toNat < q.phase then .next (answerReq s r ((bwaitStatus q r.arg2.toNat).setWidth 2048)) else .next s
        else .next (unitStep s j r (dropReq (setBarriers s r.ctx (j.barriers.set (b - 1) (initBarrier q r.addr r.arg1 r.arg2))) id))

/-- The barriers after an arrival or a report of context `k`, with a log entry for each arrival discarded (15 R322). -/
def tookBarriers (s : State) (k : Nat) (x : Barriers) : State :=
  x.2.foldl (fun s id => logCtx s 10 k (BitVec.ofNat 64 id) 0) (setBarriers s k x.1)

/-- BARRIER_ARRIVAL: the unit takes an arrival; one past 65,535 early ones is discarded and logged. -/
def execBarrierArrival (id : Nat) (s : State) : Host.Outcome State Fault Refusal :=
  match reqAt s id with
  | none => .next s
  | some r =>
    match jobOfCtx s r.ctx with
    | none => .next s
    | some j =>
      if !isBarv r.op then .next s
      else
        let (x, ph) := takeArrival j.barriers (bits r.addr 7 0)
        .next (unitStep s j r (answerReq (tookBarriers s r.ctx x) r (BitVec.ofNat 2048 ph)))

/-- A later BARV of the same epoch of the context has replaced the record that BARV `r` would write. -/
def barvReplaced (s : State) (r : Req) : Bool :=
  s.reqs.any fun q => q.ctx == r.ctx && isBarv q.op && q.id > r.id && bits q.addr 7 0 == bits r.addr 7 0 && q.redirect == r.redirect

/-- An earlier BARV of the context at the same barrier has still to return: both answers take one path, in order. -/
def barvBehind (s : State) (r : Req) : Bool :=
  s.reqs.any fun q => q.ctx == r.ctx && isBarv q.op && q.id < r.id && bits q.addr 7 0 == bits r.addr 7 0

/-- BARV_PHASE_RETURN: the number becomes the context's record, or the ARRIVE word of the frame where the arrival was
pending at an entry (15 R325); a record that the context has in the meantime restored or replaced is replaced by it. -/
def execBarvPhaseReturn (id : Nat) (s : State) : Host.Outcome State Fault Refusal :=
  match reqAt s id with
  | none => .next s
  | some r =>
    if !(isBarv r.op && r.status == .performed) || answerPaused s r || barvBehind s r then .next s
    else
      let b := bits r.addr 7 0
      let s := dropReq s id
      if r.discard || barvReplaced s r then .next s
      else if r.redirect then .next { s with mem := writeLE s.mem (framePhys s r.ctx + 0x3200 + 4 * b) 4 (r.value.toNat % 2 ^ 32) }
      else .next (onCtx s r.ctx fun c => setArrival c b r.value.toNat false)

end Sys2Proof.Machine
end

