-- ==== Sys2Proof/Machine/Fabric.lean ====
section
/-! DEFINITION. Requests on the fabric (04 R73-R75, 13 R278-R285, 14 R296-R300): walks, the place and order in which a
request is performed, stale routes, and what its response does at the source. -/

namespace Sys2Proof.Machine

/-! ## Leaving the core: the gather buffer and the walk -/

/-- GATHER_BUFFER_FLUSH: a store that waits in the gather buffer is sent, with those gathered for its line (14 R298). -/
def execGatherBufferFlush (id : Nat) (s : State) : Host.Outcome State Fault Refusal :=
  match reqAt s id with
  | some r => if r.heads then .next (setReq s (sendReq s r)) else .next s
  | none => .next s

/-- LDS or VLDS: a refusal is a deferred fault (10 R229). -/
def isSpeculative (i : Instr) : Bool :=
  match i with | .lds .. | .vlds .. | .ldsLong .. | .vldsLong .. => true | _ => false

/-- The context is SERVICED, and the cause takes its place at the core's service context (21 R388). -/
def toService (s : State) (k : Nat) (x : ServiceCause) : State :=
  onCore (onCtx s k fun c => if c.status = .idle ∨ c.status = .ending then c else { c with status := .serviced }) (k / 4)
    fun n => { n with services := n.services ++ [x] }

/-- The pages of job space that a request reaches. -/
def reqPages (j : Job) (r : Req) : List Nat := (pagesOf ((reqTargets r).map (·.1))).filter fun p => (stackOf j (65536 * p)).isSome

/-- A page that a core holds no translation for is walked: the core and its die's walker cache what the walk finds. -/
def walkPage (j : Job) (core : Nat) (s : State) (vpage : Nat) : State :=
  match cachedRoute s core j.id vpage, walkDie s j core (65536 * vpage) with
  | none, some d => cacheRoute s core j.id vpage d
  | _, _ => s

/-- The request leaves, each of its lanes by the route of its page, once every page it needs is translated. -/
def routed (s : State) (j : Job) (r : Req) : State :=
  let t := (reqPages j r).foldl (walkPage j (r.ctx / 4)) s
  fresh (setReq t { departs s.nextId r with
    ways := (reqPages j r).filterMap fun p => (cachedRoute t (r.ctx / 4) j.id p).map fun d => (p, d) })

/-- The first fate of the accesses of a request, in ascending lane order. -/
def firstFate (s : State) (j : Job) : List (Nat × Nat × Bool) → Option (Cause × Word)
  | [] => none
  | (a, n, w) :: l =>
    match access s j a n n w with
    | .error e => some e
    | .ok _ => firstFate s j l

/-- The fate of lane `i` of a gather: one in the own slice was read as its bundle issued. -/
def gatherFate (s : State) (j : Job) (r : Req) (z i : Nat) : Option (Cause × Word) :=
  if ownLane s r.ctx r.addr r.vec1 z i then (if r.arg1 = BitVec.ofNat 64 i then r.found else none)
  else match access s j (laneAddr r.addr r.vec1 z i) z z false with
    | .error e => some e
    | .ok _ => none

/-- The fate of a request: that of its lowest failing lane (10 R231, 15 R319). -/
def reqFate (s : State) (j : Job) (r : Req) : Option (Cause × Word) :=
  match r.op with
  | .vgath _ _ _ _ w _ => (guardLanes (gatherBytes w) r.guard).findSome? (gatherFate s j r (gatherBytes w))
  | .qsts .. => match access s j r.addr.toNat 128 1 true with | .error e => some e | .ok _ => none
  | _ => firstFate s j (reqTargets r)

/-- A request whose walk fails. -/
def walkRefused (s : State) (j : Job) (r : Req) : State :=
  match reqFate s j r with
  | some e => setReq s { r with status := .refused, found := some e }
  | none => s

/-- TRANSLATION_WALK_COMPLETE: a walk of a page whose stack is handed over waits for the owner flip; a page that the
walker cannot give goes to the service context, but for LDS and VLDS, which are refused (10 R220, R229). An access of a task
that has ended holds no context. What a core and its die's walker send each other is never held by a pause (DESIGN CHOICE, log entry 25). -/
def execTranslationWalkComplete (id : Nat) (s : State) : Host.Outcome State Fault Refusal :=
  match reqAt s id with
  | none => .next s
  | some r =>
    match jobOfCtx s r.ctx with
    | none => .next s
    | some j =>
      if r.status != .walking || !mayEnter s r || readInCore s r then .next s
      else if isFullEmpty r.op then .next (setReq s { r with status := .sent })
      else if (reqPages j r).any (fun p => (cachedRoute s (r.ctx / 4) j.id p).isNone && (stackOf j (65536 * p)).any fun st => handing s st 1 4) then
        .next s
      else
        match (reqTargets r).findSome? (walkFate j) with
        | none => .next (routed s j r)
        | some _ =>
          if isSpeculative r.op then .next (walkRefused s j r)
          else if (coreAt s (r.ctx / 4)).services.contains (.walk id) || ((coreAt s (r.ctx / 4)).service.map (·.1)) == some (.walk id) then .next s
          else if r.discard then .next (onCore s (r.ctx / 4) fun n => { n with services := n.services ++ [.walk id] })
          else .next (toService s r.ctx (.walk id))

/-- The die that owns the stack of a way's page. -/
def wayOwner (s : State) (j : Job) (w : Nat × Nat) : Nat := ((stackOf j (65536 * w.1)).map (ownerDie s)).getD w.2
/-- A way leads to a die that does not own its page's stack, outside a hand-over of the stack. -/
def staleWay (s : State) (j : Job) (w : Nat × Nat) : Bool :=
  w.2 != wayOwner s j w && !((stackOf j (65536 * w.1)).any fun st => handing s st 1 5)

/-- The way of core `n` to the die that a route bit names stands before paused wall buses (04 R78). -/
def routePaused (s : State) (n : Nat) (w : Nat × Nat) : Bool := wayPaused s (.core n) (.unit w.2)

/-- A load that was withdrawn, and whose response is still to come. -/
def ghostAt (s : State) (id : Nat) : Option Req := s.ghosts.find? fun r => r.id == id
def setGhost (s : State) (r : Req) : State := { s with ghosts := s.ghosts.map fun x => if x.id == r.id then r else x }
def dropGhost (s : State) (id : Nat) : State := { s with ghosts := s.ghosts.filter fun r => r.id != id }

/-- The ways of a request that lead to a die which has it refused, and has been reached. -/
def refusedWay (s : State) (j : Job) (r : Req) (w : Nat × Nat) : Bool := staleWay s j w && !routePaused s (r.ctx / 4) w

/-- The request sent on: by its owner's way, with a route mark, where a die has had it refused. -/
def resent (s : State) (j : Job) (r : Req) : Req :=
  { r with ways := r.ways.map fun w => if refusedWay s j r w then (w.1, wayOwner s j w) else w
           marks := r.marks ++ (r.ways.filter (refusedWay s j r)).map (·.1) }

/-- ROUTE_STALE_RESEND: a die that does not own the stack has the request refused, and sends it on to the owner with a
route mark (13 R277, R285, 20 R369). -/
def execRouteStaleResend (id : Nat) (s : State) : Host.Outcome State Fault Refusal :=
  match reqAt s id, ghostAt s id with
  | some r, _ =>
    match jobOfCtx s r.ctx with
    | some j => .next (if r.status == .sent && r.ways.any (refusedWay s j r) then setReq s (resent s j r) else s)
    | none => .next s
  | none, some r =>
    match jobOfCtx s r.ctx with
    | some j => .next (if r.status == .sent && r.ways.any (refusedWay s j r) then setGhost s (resent s j r) else s)
    | none => .next s
  | none, none => .next s

/-! ## Performing a request -/

/-- Where an access that has no fate goes. -/
def placeOf (j : Job) (a : Nat) (w : Bool) : Nat := match translate j a w with | .ok pa => pa | .error _ => 0

/-- The lanes of a VGATH: those of the own slice as its bundle issued, the others as read now. -/
def gatherValue (s : State) (j : Job) (r : Req) (z : Nat) : VWord :=
  BitVec.ofNat 2048 (packLanes (8 * z) ((List.range (256 / z)).map fun l =>
    if !selected (8 * z) r.guard l then 0
    else if ownLane s r.ctx r.addr r.vec1 z l then bits r.vec2 (8 * z * l + (8 * z - 1)) (8 * z * l)
    else physRead s (placeOf j (laneAddr r.addr r.vec1 z l) false) z))

/-- The lanes of a VSCAT, written in ascending order. -/
def scatterWrite (s : State) (j : Job) (r : Req) (z : Nat) : State :=
  (guardLanes z r.guard).foldl (fun s l =>
    physWrite s (placeOf j (laneAddr r.addr r.vec1 z l) true) z (bits r.vec2 (8 * z * l + (8 * z - 1)) (8 * z * l))) s

/-- The 64 lanes of a VATOM, ascending: the memory after them and the old words (15 R319). -/
def vatomLanes (j : Job) (r : Req) : Nat → State × Nat → State × Nat
  | 0, x => x
  | n + 1, x =>
    let (s, v) := vatomLanes j r n x
    let pa := placeOf j (laneAddr r.addr r.vec1 4 n) true
    let old := physRead s pa 4
    let new := vatomNew r.op (BitVec.ofNat 32 old) (BitVec.ofNat 32 (bits r.vec2 (32 * n + 31) (32 * n)))
    (physWrite s pa 4 new.toNat, v + old * 2 ^ (32 * n))

/-- A write is performed and will be acknowledged; the own slice sends no acknowledgement, so a write there is over with it (04 R75,
10 R226, 15 R316). -/
def wrote (s : State) (r : Req) : State := if (reqTargets r).all (ownTarget s r) then dropReq s r.id else answerReq s r 0

/-- A request that has no fate takes effect at its place, as one step. -/
def effectReq (s : State) (j : Job) (r : Req) : State :=
  match r.op with
  | .vgath _ _ _ _ w _ => answerReq s r (gatherValue s j r (gatherBytes w))
  | .vscat _ _ _ _ w _ => wrote (scatterWrite s j r (gatherBytes w)) r
  | .vatomAdd .. | .vatomAnd .. | .vatomOr .. | .vatomMax .. =>
    let (s', v) := vatomLanes j r 64 (s, 0)
    answerReq s' r (BitVec.ofNat 2048 v)
  | .cas .. =>
    let pa := placeOf j r.addr.toNat true
    let old := BitVec.ofNat 64 (physRead s pa 8)
    answerReq (if old = r.arg2 then physWrite s pa 8 r.arg1.toNat else s) r (old.setWidth 2048)
  | .stf .. | .vstf .. | .stfLong .. | .vstfLong .. =>
    let n := match reqAccess r.op with | some (n, _) => n | none => 8
    serveHeld (wrote (engineWrite s (placeOf j r.addr.toNat true) n r.vec1.toNat) r)
  | op =>
    match reqAccess op with
    | none => s
    | some (n, w) =>
      let pa := placeOf j r.addr.toNat w
      if isSyncAccess op && w && !isStrel op then
        let old := BitVec.ofNat 64 (physRead s pa 8)
        answerReq (physWrite s pa 8 (atomNew op old r.arg1).toNat) r (old.setWidth 2048)
      else if w then wrote (physWrite s pa n r.vec1.toNat) r
      else answerReq s r (BitVec.ofNat 2048 (physRead s pa n))

/-- A full/empty store outside the slice window is refused (10 Table feed-2). -/
def storeOutside (r : Req) : Bool :=
  isFullEmptyStore r.op && (match spaceOf r.addr.toNat with | .slice _ _ => false | _ => true)

/-- The physical bytes that an access without a fate covers. -/
def accessBytes (j : Job) (x : Nat × Nat × Bool) : List Nat := (List.range x.2.1).map (placeOf j x.1 x.2.2 + ·)

/-- The request is performed or meets its fate. -/
def performOne (s : State) (j : Job) (r : Req) : State :=
  if storeOutside r then refuseReq s r .perm r.addr
  else
    match reqFate s j r with
    | some (c, a) => refuseReq s r c a
    | none => (reqTargets r).foldl (fun s x => cached s x.2.2 (accessBytes j x)) (effectReq s j r)

/-- The stores gathered for a line, in issue order. -/
def lineOf (s : State) (r : Req) : List Req := s.reqs.filter fun q => q.line == r.id

/-- The physical bytes that some stores write. -/
def storedBytes (j : Job) (l : List Req) : List Nat :=
  l.flatMap fun q => (reqTargets q).flatMap fun x => (List.range x.2.1).filterMap fun i => (translate j (x.1 + i) true).toOption

/-- A request is performed, with the stores gathered for its line: one transfer (14 R298), which clears the poison of what it
covers whole. -/
def performReq (s : State) (j : Job) (r : Req) : State :=
  match lineOf s r with
  | [] | [_] => performOne s j r
  | l =>
    let b := storedBytes j l
    let s' := { s with bad := s.bad.filter fun g => !coversGranule b g }
    l.foldl (fun s q => performOne s j q) (if l.all (fun q => (firstFate s' j (reqTargets q)).isNone) then cached s' true b else s)

/-- A request to memory that is not a full/empty load: the kinds REMOTE_ACCESS_PERFORM performs. -/
def isMemoryReq (r : Req) : Bool :=
  !isFullEmpty r.op && ((reqAccess r.op).isSome || (match r.op with
    | .vgath .. | .vscat .. | .vatomAdd .. | .vatomAnd .. | .vatomOr .. | .vatomMax .. => true
    | _ => false))

/-- Request `id` reaches its place: held while its stack is handed over, refused as stale by a die that does not own it
(ROUTE_STALE_RESEND sends it on), else performed when its turn has come. -/
def arriveReq (s : State) (id : Nat) : State :=
  match reqAt s id with
  | none => s
  | some r =>
    match jobOfCtx s r.ctx with
    | none => s
    | some j =>
      if !isMemoryReq r then s
      else
        unitStep s j r <|
          if (reqTargets r).any (fun x => (stackOf j x.1).any fun st => handing s st 1 5) then
            { s with reqs := (s.reqs.filter fun q => q.id != id) ++ [{ r with status := .held }] }
          else
            if r.ways.any (staleWay s j) then s else performReq s j r

/-- The core whose slice a full/empty request reaches is awake (23 Table errors-2). -/
def wakeTarget (s : State) (r : Req) : State :=
  match windowPhys s (r.ctx / 4) r.addr with
  | some pa => wakeSlice s (pa / 2 ^ 22)
  | none => s

/-- FULL_EMPTY_REQUEST_ARRIVAL: a travelling request reaches its slice, behind its core's earlier accesses to the line
(04 R73). -/
def execFullEmptyRequestArrival (id : Nat) (s : State) : Host.Outcome State Fault Refusal :=
  match reqAt s id with
  | none => .next s
  | some r =>
    match jobOfCtx s r.ctx with
    | none => .next s
    | some j => if isFullEmpty r.op && r.status == .sent && inTurn s j r then .next (feArrive (wakeTarget s r) r) else .next s

/-! ## Responses at the source (06 R121, R122) -/

/-- The fault record of a refused request. -/
def reqFault (r : Req) (c : Cause) (a : Word) (load : Option Nat) : FaultRec :=
  ⟨c, 0, a, r.bundle, r.pos, true, r.epoch, r.order, load⟩

/-- A fault of work that its context no longer runs: one of a handler's code ends the job (21 R384); any other is
dropped with its task (log entry 11). -/
def orphanFault (s : State) (k : Nat) (f : FaultRec) : State :=
  if f.inHandler then abortJob s ((coreAt s (k / 4)).job.getD 0) (some f.cause.code) else s

/-- The exposed results that a long result supersedes: their flags are raised and their values are not written. -/
def supersede (clock : Nat) (c : Ctx) (id : Nat) (x : Item) : Ctx :=
  let gone := c.flights.filter fun f => f.dest == x && f.order < id
  raiseFlags clock { c with flights := c.flights.filter fun f => !(f.dest == x && f.order < id) } (gone.foldl (fun a f => a ||| f.flags) 0)

/-- A scalar result of context `k` at destination `d`; one outstanding at an entry and meant for s60-s63 goes to the
SAVED field of the frame (21 R380). -/
def landScalar (s : State) (k id : Nat) (redirect : Bool) (d : Nat) (v : Word) (df : Bool) : State :=
  if d = 0 then s
  else
    let s := onCtx s k fun c => supersede s.clock c id ⟨.scalar, d⟩
    if redirect && 60 ≤ d then
      let base := framePhys s k
      let bitsNow := physRead s (base + 0x2D) 1
      let bit := 2 ^ (d - 60)
      let bitsNew := if df then bitsNow ||| bit else bitsNow - (if bitsNow / bit % 2 = 1 then bit else 0)
      { s with mem := writeLE (writeLE s.mem (base + 0x40 + 8 * (d - 60)) 8 v.toNat) (base + 0x2D) 1 bitsNew }
    else onCtx s k fun c => { c with s := c.s.setIfInBounds d v, sdf := setDf c.sdf d df }

/-- A vector result of context `k`. -/
def landVec (s : State) (k id d : Nat) (v mask : VWord) (df : Bool) : State :=
  onCtx s k fun c => landVector (supersede s.clock c id ⟨.vector, d⟩) d v mask df

/-- The value of a response at its destinations. -/
def landValue (s : State) (r : Req) (df : Bool) (v : VWord) : State :=
  let u := usesOf Ctx.reset r.op
  match r.op with
  | .vgath _ _ _ _ w _ =>
    let z := gatherBytes w
    landVec s r.ctx r.id (u.wv.headD 0) v (laneMask (8 * z) (256 / z) (selected (8 * z) r.guard)) (r.arg2 == 1)
  | op =>
    match u.wv, u.ws with
    | d :: _, _ => landVec s r.ctx r.id d v (BitVec.allOnes 2048) df
    | [], [a, b, c] =>
      landScalar (landScalar (landScalar s r.ctx r.id r.redirect a (v.setWidth 64) df) r.ctx r.id r.redirect b ((v >>> 64).setWidth 64) df)
        r.ctx r.id r.redirect c ((v >>> 128).setWidth 64) df
    | [], d :: _ => landScalar s r.ctx r.id r.redirect d (loadedScalar op v.toNat) df
    | [], [] => s

/-- A request whose response writes a register, or would but for s0. -/
def hasResult (i : Instr) : Bool := !((usesOf Ctx.reset i).ws.isEmpty && (usesOf Ctx.reset i).wv.isEmpty)

/-- A withdrawn load reads at its die what its response brings back. -/
def ghostReads (s : State) (j : Job) (r : Req) : State :=
  if r.status == .performed || r.status == .refused || (reqFate s j r).isSome then s
  else (reqTargets r).foldl (fun s x => cached s x.2.2 (accessBytes j x)) s

/-- The response of a withdrawn load arrives: it is discarded, and its route mark updates the cached routes (20 R369, 21 Table intr-3). A
load that meets a hand-over before that is held at its die. -/
def ghostLand (s : State) (r : Req) : State :=
  match jobOfCtx s r.ctx with
  | none => dropGhost s r.id
  | some j =>
    let back := r.status == .performed || r.status == .refused
    if r.status == .held || answerPaused s r || (!back && requestPaused s j r) then s
    else if !back && r.ways.any (fun w => (stackOf j (65536 * w.1)).any fun st => handing s st 1 5) then setGhost s { r with status := .held }
    else if !back && r.ways.any (staleWay s j) then s
    else dropGhost (markRoute (ghostReads s j r) r) r.id

/-- LONG_RESULT_LAND: the response of a long operation arrives: the value lands and the pending mark clears; or the
fault is found, and the destination keeps its value (06 R111, R121, 22 R399). -/
def execLongResultLand (id : Nat) (s : State) : Host.Outcome State Fault Refusal :=
  match reqAt s id with
  | none => .next (match ghostAt s id with | some r => ghostLand s r | none => s)
  | some r =>
    if !hasResult r.op || r.open || r.faulted || answerPaused s r then .next s
    else
      let s := markRoute s r
      let done := dropReq s id
      match r.found with
      | none => if r.discard then .next done else .next (landValue done r false r.value)
      | some (c, a) =>
        if isSpeculative r.op then
          if r.discard then .next done else .next (landValue done r true 0)
        else if r.discard then .next (orphanFault done r.ctx (reqFault r c a none))
        else if isPlainLoad r.op && !intoS0 r.op && ((ctxAt s r.ctx).h == r.epoch.handler) then
          .next (lateFault (setReq s { r with faulted := true }) r.ctx (reqFault r c a (some id)))
        else .next (lateFault done r.ctx (reqFault r c a none))

/-- WRITE_ACK: the acknowledgement of a performed write, or the refusal of a faulting one, reaches the source (04 R75). -/
def execWriteAck (id : Nat) (s : State) : Host.Outcome State Fault Refusal :=
  match reqAt s id with
  | none => .next s
  | some r =>
    if hasResult r.op || r.open || isBarv r.op || !(isMemoryReq r || isRackOp r.op) || answerPaused s r then .next s
    else
      let s := dropReq (markRoute s r) id
      match r.found with
      | none => .next s
      | some (c, a) =>
        if r.discard then .next (orphanFault s r.ctx (reqFault r c a none))
        else .next (lateFault s r.ctx (reqFault r c a none))

end Sys2Proof.Machine
end

