-- ==== Sys2Proof/Machine/Stage.lean ====
section
/-! DEFINITION. The issue stage of a core (06 R123-R127): the selector, fetch completions, and the contexts that become
IDLE. -/

namespace Sys2Proof.Machine

/-! ## The selector (06 R125) -/

/-- Context `k` is READY, or WAITING with its condition clear (06 Table issue-4). -/
def isReady (s : State) (k : Nat) : Bool :=
  let c := ctxAt s k
  (c.status == .ready || (c.status == .waiting && !bundleBlocked s k)) && !c.stopped

/-- The contexts of core `n` that can take the stage. -/
def readyCtxs (s : State) (n : Nat) : List (Fin 4) :=
  ([0, 1, 2, 3] : List (Fin 4)).filter fun c => isReady s (4 * n + c.val) && !(jobOfCore s n).any fun j => j.preempt.isSome

/-- The context that holds the stage or held it last. -/
def lastHolder (q : Core) : Fin 4 := q.holder.getD q.last

/-- The distance of a context after the one that last held the stage, 1 to 4. -/
def afterLast (last c : Fin 4) : Nat := (c.val + 3 - last.val) % 4 + 1

/-- The better of two candidates: higher priority, then first after the last holder. -/
def betterCtx (s : State) (n : Nat) (last a b : Fin 4) : Fin 4 :=
  let p := fun c : Fin 4 => (ctxAt s (4 * n + c.val)).prio.val
  if p a < p b || (p a == p b && afterLast last b < afterLast last a) then b else a

/-- The context that the selector would give the stage. -/
def bestReady (s : State) (n : Nat) : Option (Fin 4) :=
  match readyCtxs s n with
  | [] => none
  | c :: l => some (l.foldl (betterCtx s n (lastHolder (coreAt s n))) c)

/-- The holder of the stage is SERVICED in the empty cycles of a WAITC, which resume when the service context returns (22 R397). -/
def countHeld (s : State) (n : Nat) : Bool :=
  match (coreAt s n).holder with
  | some c => (ctxAt s (4 * n + c.val)).status == .serviced && (ctxAt s (4 * n + c.val)).waitc != 0
  | none => false

/-- The RUNNING context of a core. -/
def runningCtx (s : State) (n : Nat) : Option (Fin 4) :=
  match (coreAt s n).holder with
  | some c => if (ctxAt s (4 * n + c.val)).status = .running then some c else none
  | none => none

/-- The stage goes to context `c`: a clock passes in switching from another context, and no context cycle (06 R125, R144; log
entry 12). -/
def giveStage (s : State) (n : Nat) (c : Fin 4) : State :=
  let clocks := if lastHolder (coreAt s n) = c then 0 else 1
  let s := match (coreAt s n).holder with
    | some o => onCore s n fun q => { q with last := o }
    | none => s
  let s := match runningCtx s n with
    | some o => onCtx s (4 * n + o.val) fun x => { x with status := .ready }
    | none => s
  passClocks (onCtx (onCore s n fun q => { q with holder := some c }) (4 * n + c.val) fun x => { x with status := .running }) clocks

/-- CONTEXT_SELECT: a READY context takes a stage that no context holds, or one whose holder has a lower priority, at a
bundle boundary. A holder counting WAITC cycles is not displaced (06 R140). -/
def execContextSelect (n : Nat) (s : State) : Host.Outcome State Fault Refusal :=
  if !stageOpen s n || countHeld s n then .next s
  else
    match bestReady s n, runningCtx s n with
    | some c, none => .next (giveStage s n c)
    | some c, some o =>
      let x := ctxAt s (4 * n + o.val)
      if x.prio.val < (ctxAt s (4 * n + c.val)).prio.val ∧ x.waitc = 0 then .next (giveStage s n c) else .next s
    | none, _ => .next s

/-! ## IDLE (06 R145) -/

/-- A synchronising operation, or a gathered store, that a context must see performed before it is IDLE. -/
def keepsBusy (r : Req) : Bool := r.open && (!isMemoryReq r || isSyncAccess r.op) && !isFullEmpty r.op

/-- CONTEXT_IDLE: the task has ended, its synchronising operations are performed and its output streams are written. -/
def execContextIdle (k : Nat) (s : State) : Host.Outcome State Fault Refusal :=
  let c := ctxAt s k
  if c.status = .ending ∧ c.fence = none ∧ (c.streams.toList.all fun x => x.isNone) ∧
      !(s.reqs.any fun r => r.ctx == k && keepsBusy r) ∧ c.withdrawn = [] then
    let s := match jobOfCtx s k with
      | some j => setJob s { j with racks := j.racks.map (endTray (ctxId s k)) }
      | none => s
    .next (setCtx s k { c with status := .idle })
  else .next s

/-! ## Fetch (05 R86, 20 R370) -/

/-- The bundle at the PC of context `k` has come: one that can be read is in the instruction cache from now on (05 R86). -/
def bundleComes (s : State) (j : Job) (k : Nat) : State :=
  let t := onCtx s k fun c => { c with fetched := true }
  match fetchBundle s j (ctxAt s k).pc, fetchPoison s k with
  | .ok ws, none => cacheBundle t (k / 4) (ctxAt s k).pc (4 * ws.length)
  | _, _ => t

/-- INSTRUCTION_FETCH_COMPLETE: the bundle at the PC is at hand; a miss in a stack that is handed over waits. -/
def execInstructionFetchComplete (k : Nat) (s : State) : Host.Outcome State Fault Refusal :=
  match (if fetchHeld s k then none else jobOfCtx s k) with
  | none => .next s
  | some j => .next (bundleComes s j k)

end Sys2Proof.Machine
end

