-- ==== Sys2Proof/Machine/Engine.lean ====
section
/-! DEFINITION. The engine registers, COPY and streams (10 R238-R249): what each operation does at issue, and the steps
of the transfer units. -/

namespace Sys2Proof.Machine

/-! ## Engine registers (10 R238) -/

def execEwr (e : Fin 16) (a : SReg) (f : Fin 8) (p : Tag) (s : State) : Host.Outcome State Fault Refusal :=
  operate (.ewr e a f p) p s fun s =>
    result s ⟨.engine, 8 * e.val + f.val⟩ 1 ((readS s a).setWidth 2048) (BitVec.allOnes 2048) false 0
def execErd (e : Fin 16) (d : SReg) (f : Fin 8) (p : Tag) (s : State) : Host.Outcome State Fault Refusal :=
  operate (.erd e d f p) p s fun s => resultS s d 2 (eVal (me s) e f) false

/-! ## Patterns (10 R239) -/

/-- A count of a used dimension: 1 to 2^32 − 1. -/
def countOk (c : Word) : Bool := 1 ≤ c.toNat && c.toNat < 2 ^ 32
/-- An element size: a power of two up to 128. -/
def sizeOk (z : Nat) : Bool := [1, 2, 4, 8, 16, 32, 64, 128].contains z

/-- The limits of Table feed-5, and 2^40 bytes at most. -/
def patternOk (f : Vector Word 8) : Bool :=
  let m := bits f[0] 15 8
  sizeOk (bits f[0] 7 0) && 1 ≤ m && m ≤ 3 && bits f[0] 23 16 == 0 && bits f[0] 63 32 == 0 &&
  countOk f[1] && (m < 2 || countOk f[2]) && (m < 3 || countOk f[3]) && patternBytes f ≤ 2 ^ 40

/-- The elements of a pattern. -/
def patternElements (f : Vector Word 8) : Nat := patternBytes f / bits f[0] 7 0

/-- The lowest and the highest byte offset of a pattern. -/
def patternExtent (f : Vector Word 8) (dst : Bool) : Int × Int :=
  let m := bits f[0] 15 8
  let t1 := (if dst then f[6] else f[4]).toInt * (if 2 ≤ m then f[2].toNat - 1 else 0 : Nat)
  let t2 := (if dst then f[7] else f[5]).toInt * (if 3 ≤ m then f[3].toNat - 1 else 0 : Nat)
  let run : Int := (bits f[0] 7 0 * f[1].toNat : Nat)
  (Min.min 0 t1 + Min.min 0 t2, run - 1 + Max.max 0 t1 + Max.max 0 t2)

/-! ## COPY at issue (10 R240-R244) -/

/-- A copy of the bundle now issuing. -/
def newCopy (s : State) (f : Vector Word 8) (src dst : Word) (counter : Nat) (long : Bool) (banks : BitVec 32)
    (rack : Option (Nat × Nat)) : Copy where
  id := s.nextId
  ctx := s.cur.key
  pattern := f
  src := src
  dst := dst
  counter := counter
  long := long
  banks := banks
  rack := rack
  moved := []
  suspended := []
  retries := []
  unreported := 0
  sent := []
  acked := []
  asked := []
  got := []
  failed := none
  bundle := s.cur.h
  epoch := (me s).epoch
  taskEnded := false

/-- The copy is outstanding. -/
def addCopy (s : State) (c : Copy) : State := { s with copies := s.copies ++ [c], nextId := s.nextId + 1 }

/-- COPY to an address: a pattern that breaks a limit is the late fault PERM with TADDR 0. -/
def execCopy (e : Fin 16) (a b : SReg) (c : Fin 64) (p : Tag) (s : State) : Host.Outcome State Fault Refusal :=
  operate (.copy e a b c p) p s fun s =>
    let f := eAll (me s) e
    let src := readS s a
    let dst := readS s b
    if !patternOk f then lateNow s .perm 0
    else
      let banks := patternBanks s s.cur.key f src false ||| patternBanks s s.cur.key f dst true
      addCopy s (newCopy s f src dst c (longRange src || longRange dst) banks none)

/-- The rack that a rack-target command names: one of the job's, whose writer issues it (10 R244). -/
def rackTarget (s : State) (k : Nat) (x : Word) : Option (Job × Nat × Rack) :=
  match jobOfCtx s k with
  | none => none
  | some j =>
    match j.racks[x.toNat]? with
    | some r => if x.toNat < 64 ∧ r.writer = ctxId s k then some (j, x.toNat, r) else none
    | none => none

/-- A rack-target command whose destination offsets span [lo, hi] of its tray: RACKID, PERM, a drop when no tray can be
opened, or the command with the tray it has opened. -/
def openTarget (s : State) (x : Word) (lo hi : Int) (counter : Option Nat) (go : State → Nat × Nat → Word → State) : State :=
  match rackTarget s s.cur.key x with
  | none => lateNow s .rackid x
  | some (j, id, r) =>
    if lo < 0 ∨ (r.size : Int) ≤ hi then lateNow s .perm 0
    else
      let (r', t) := openTray r (some s.nextId)
      let s := setJob s { j with racks := j.racks.set id r' }
      match t with
      | none => match counter with | some c => decrement s (s.cur.key / 4) c 1 | none => s
      | some t => go s (id, t) (trayAddr r' t)

/-- COPY to a rack. -/
def execCopyRack (e : Fin 16) (a b : SReg) (c : Fin 64) (p : Tag) (s : State) : Host.Outcome State Fault Refusal :=
  operate (.copyRack e a b c p) p s fun s =>
    let f := eAll (me s) e
    let src := readS s a
    match rackTarget s s.cur.key (readS s b) with
    | none => lateNow s .rackid (readS s b)
    | some _ =>
      if !patternOk f then lateNow s .perm 0
      else
        openTarget s (readS s b) (patternExtent f true).1 (patternExtent f true).2 (some c.val) fun s rack dst =>
          let banks := patternBanks s s.cur.key f src false ||| patternBanks s s.cur.key f dst true
          addCopy s (newCopy s f src dst c (longRange src) banks (some rack))

/-! ## The elements of a copy (10 R240-R243) -/

/-- What keeps an element from being moved: a fate of the copy, or a translation fault that suspends the element, on
the job side or on the host side. -/
inductive Trouble where
  | final (c : Cause) (a : Nat)
  | jobSide (c : Cause) (a : Nat)
  | hostSide (a : Nat)
  deriving DecidableEq, Repr

/-- A page of host memory that the host has mapped. -/
def hostMapped (s : State) (iova : Nat) : Bool := s.hostMap.any fun r => r.1 ≤ iova && iova < r.1 + r.2

/-- The place of one byte of a copy; none is a byte of another part. -/
def copyPlace (s : State) (j : Job) (write : Bool) (a : Nat) : Except Trouble (Option Nat) :=
  match spaceOf a with
  | .job =>
    match translate j a write with
    | .error c => .error (.jobSide c a)
    | .ok pa => .ok (some pa)
  | .pool p => if s.poolTrained.isSome && p < j.poolSize then .ok (some (poolPhys (j.poolOff + p))) else .error (.final .perm a)
  | .host iova => if hostMapped s iova then .ok (some (hostPhys iova)) else .error (.hostSide a)
  | .slice _ _ =>
    match translate j a write with
    | .error c => .error (.final c a)
    | .ok pa => if sliceOff s pa then .error (.final .sliceoff a) else .ok (some pa)
  | .peer => if a / 2 ^ 52 = Config.partId.toNat ∨ a / 2 ^ 36 % 2 ^ 16 ≠ 0 then .error (.final .perm a) else .ok none
  | .nowhere => .error (.final .perm a)

/-- The places of the bytes of one side of an element, from byte `n` of the pattern on. -/
def copyPlaces (s : State) (j : Job) (c : Copy) (dst : Bool) (n : Nat) : Nat → Except Trouble (List (Option Nat))
  | 0 => .ok []
  | m + 1 =>
    match copyPlace s j dst (patternAddr c.pattern (if dst then c.dst else c.src) dst n) with
    | .error t => .error t
    | .ok x =>
      match copyPlaces s j c dst (n + 1) m with
      | .error t => .error t
      | .ok l => .ok (x :: l)

/-- The places of both sides of element `k`, or what keeps it from being moved. -/
def elementPlaces (s : State) (j : Job) (c : Copy) (k : Nat) : Except Trouble (List (Option Nat) × List (Option Nat)) :=
  let z := bits c.pattern[0] 7 0
  match copyPlaces s j c false (z * k) z, copyPlaces s j c true (z * k) z with
  | .error t, _ => .error t
  | .ok _, .error t => .error t
  | .ok a, .ok b => .ok (a, b)

/-- The agent that a byte of a copy lies at: that of its place, or the I/O die where it lies in another part. -/
def sideAgent (s : State) (x : Option Nat) : Agent := (x.map (agentOf s)).getD (.unit 28)
/-- The way of core `n` to a byte of a copy, or the way back, stands before paused wall buses. -/
def sidePaused (s : State) (n : Nat) (x : Option Nat) : Bool :=
  wayPaused s (.core n) (sideAgent s x) || wayPaused s (sideAgent s x) (.core n)

/-- The stacks that an element's bytes lie in are none of them handed over. -/
def elementFree (s : State) (l : List (Option Nat)) : Bool :=
  l.all fun x => match x with
    | some pa => !(inStack pa && handing s (physStack pa) 1 5)
    | none => true

/-- Element `k` of the copy may be moved now. -/
def elementReady (s : State) (c : Copy) (k : Nat) : Bool :=
  let z := bits c.pattern[0] 7 0
  c.failed.isNone && k < patternElements c.pattern && !c.moved.contains k && !(c.sent.any fun x => x.1 == k) && !(c.suspended.any fun x => x.1 == k) &&
  !heldBehind s c.ctx c.id (patternAddr c.pattern c.src false (z * k)) z &&
  !heldBehind s c.ctx c.id (patternAddr c.pattern c.dst true (z * k)) z

/-- The bytes of an element at its source in this part. -/
def elementBytes (s : State) (l : List (Option Nat)) : List Byte := l.map fun x => x.elim 0 (readByte s.mem)

/-- The first poisoned granule among some places, which stand in the order of their addresses: the lowest poisoned address (21 Table
intr-4); of a write, one that it does not cover whole. -/
def badPlace (s : State) (l : List Nat) (whole : Bool) : Option Nat :=
  if s.bad.isEmpty then none else (l.map (· / 16)).find? fun g => s.bad.contains g && (!whole || !coversGranule l g)

/-- The index of the first place in granule `g`. -/
def placeIndex (l : List (Option Nat)) (g : Nat) : Nat :=
  ((List.range l.length).find? fun i => match l[i]?.getD none with | some pa => pa / 16 == g | none => false).getD 0

/-- Bytes written at their places by an engine; a place in another part takes them elsewhere. -/
def putBytes (s : State) : List (Option Nat) → List Byte → State
  | some pa :: l, b :: bs => putBytes (markFull { s with mem := writeByte s.mem pa b } pa 1) l bs
  | none :: l, _ :: bs => putBytes s l bs
  | _, _ => s

/-- Element `k` of a copy is performed at its destination: it counts as moved, and is to be reported. -/
def elementDone (c : Copy) (k : Nat) : Copy :=
  { c with moved := include1 c.moved k, sent := c.sent.filter (fun x => x.1 != k), acked := c.acked.filter fun x => x.1 != k
           unreported := c.unreported + (if bits c.pattern[0] 31 24 = 0 then 0 else bits c.pattern[0] 7 0) }

/-- A place in host memory. -/
def inHost (pa : Nat) : Bool := 2 ^ 48 ≤ pa

/-- The addresses of one side of an element. -/
def sideAddrs (c : Copy) (dst : Bool) (k : Nat) : List Nat :=
  let z := bits c.pattern[0] 7 0
  (List.range z).map fun i => patternAddr c.pattern (if dst then c.dst else c.src) dst (z * k + i)

/-- The accesses of one side of an element leave their route entries at the copy's core. -/
def elementTouch (s : State) (c : Copy) (dst : Bool) (k : Nat) : State :=
  match jobOfCtx s c.ctx with
  | some j => touchRoutes s j (c.ctx / 4) (sideAddrs c dst k)
  | none => s

/-- The pieces of `z` bytes that flits carry. -/
def pieceCount (z : Nat) : Nat := (z + (flitData - 1)) / flitData
/-- Piece `i` of some data. -/
def pieceOf (d : List Byte) (i : Nat) : List Byte := (d.drop (flitData * i)).take flitData

/-- The data of element `k` leave for a peer, in flits. -/
def sendPieces (s : State) (part off id k : Nat) (data : List Byte) : State :=
  (List.range (pieceCount data.length)).foldl (fun s i => launchFlit s part (.copyWrite (off + flitData * i) (pieceOf data i) id k i)) s

/-- The data of element `k` of a copy, once every piece has come from the peer. -/
def gathered? (c : Copy) (k : Nat) : Option (List Byte) :=
  ((List.range (pieceCount (bits c.pattern[0] 7 0))).mapM fun i => (c.got.find? fun x => x.1 == k && x.2.1 == i).map (·.2.2)).map List.flatten

/-- The data of element `k` go to its destination: to a place of the part at once; toward host memory, where they land by a turn
of their own; or toward a peer, which acknowledges them (04 R85). -/
def deliverElement (s : State) (c : Copy) (k : Nat) (data : List Byte) (dst : List (Option Nat)) : State :=
  let z := bits c.pattern[0] 7 0
  let a := patternAddr c.pattern c.dst true (z * k)
  if dst.any Option.isNone then
    sendPieces (setCopy s { c with sent := c.sent ++ [(k, data)] }) (a / 2 ^ 52) (a % 2 ^ 36) c.id k data
  else if dst.any fun x => x.any inHost then setCopy s { c with sent := c.sent ++ [(k, data)] }
  else
    let writes := dst.filterMap id
    let s' := spoilBytes (putBytes { s with bad := s.bad.filter fun g => !coversGranule writes g } dst data)
      (writes.filter (inFrame s (c.ctx / 4)))
    serveHeld (setCopy (elementTouch (cached s' true writes) c true k) (elementDone c k))

/-- Element `k` of copy `c` is moved, with the fates that its bytes meet: poison at the source marks its destination and
fails the copy; a part of a poisoned granule is not written (10 R243, 23 R402). -/
def moveElement (s : State) (c : Copy) (k : Nat) (src dst : List (Option Nat)) (data : List Byte) : State :=
  let z := bits c.pattern[0] 7 0
  let reads := src.filterMap id
  let writes := dst.filterMap id
  let addr := fun (d : Bool) (l : List (Option Nat)) (g : Nat) =>
    BitVec.ofNat 64 (patternAddr c.pattern (if d then c.dst else c.src) d (z * k + placeIndex l g))
  match badPlace s reads false, badPlace s writes true with
  | some g, _ =>
    let s := elementTouch (cached s false reads) c false k
    setCopy { s with bad := (writes.filter fun pa => inSlice pa || inStack pa).foldl (fun b pa => include1 b (pa / 16)) s.bad }
      { c with failed := some (.ue, addr false src g) }
  | none, some g =>
    setCopy (elementTouch (cached (elementTouch (cached s false reads) c false k) true writes) c true k) { c with failed := some (.ue, addr true dst g) }
  | none, none => deliverElement (elementTouch (cached s false reads) c false k) c k data dst

/-- The data of element `k` are asked for at the peer they lie in. -/
def askPeer (s : State) (c : Copy) (k : Nat) : State :=
  let z := bits c.pattern[0] 7 0
  let a := patternAddr c.pattern c.src false (z * k)
  if c.asked.contains k then s
  else launchFlit (setCopy s { c with asked := c.asked ++ [k] }) (a / 2 ^ 52) (.copyRead (a % 2 ^ 36) z c.id k)

/-- The places that the data of an element go to. -/
def elementDst (s : State) (j : Job) (c : Copy) (k : Nat) : Except Trouble (List (Option Nat)) :=
  copyPlaces s j c true (bits c.pattern[0] 7 0 * k) (bits c.pattern[0] 7 0)

/-- Element `k` has been sent toward host memory or a peer. -/
def Copy.hasSent (c : Copy) (k : Nat) : Bool := c.sent.any fun x => x.1 == k
/-- Element `k` is suspended. -/
def Copy.holds (c : Copy) (k : Nat) : Bool := c.suspended.any fun x => x.1 == k

/-- Every piece of element `k` has been acknowledged by the peer, and nothing keeps the news at the I/O die (04 R78, R85). -/
def peerDone (s : State) (c : Copy) (k : Nat) : Bool :=
  ((List.range (pieceCount (bits c.pattern[0] 7 0))).all fun p => c.acked.contains (k, p)) && !wayPaused s (.unit 28) (.core (c.ctx / 4))

/-- The data of an element sent toward host memory land there, unless its page is not mapped (10 R242), once nothing keeps the
acknowledgement at the I/O die (04 R78); one that a peer has acknowledged is done. -/
def landInHost (s : State) (c : Copy) (k : Nat) : State :=
  match (if c.holds k then none else c.sent.find? fun x => x.1 == k), (jobOfCtx s c.ctx).map fun j => elementDst s j c k with
  | some x, some (.ok dst) =>
    if dst.any Option.isNone then (if peerDone s c k then setCopy s (elementDone c k) else s)
    else if wayPaused s (.unit 28) (.core (c.ctx / 4)) then s
    else setCopy (putBytes s dst x.2) (elementDone c k)
  | _, _ => s

/-- Element `k` of a copy is read and written, or goes one stage on its way. -/
def elementPerform (s : State) (id k : Nat) : State :=
  match copyAt s id with
  | none => s
  | some c =>
    match jobOfCtx s c.ctx with
    | none => s
    | some j =>
      if c.hasSent k then landInHost s c k
      else if !elementReady s c k then s
      else
        match elementPlaces s j c k with
        | .error (.final x a) => setCopy s { c with failed := some (x, BitVec.ofNat 64 a) }
        | .error _ => s
        | .ok (src, dst) =>
          if !(elementFree s src && elementFree s dst) then s
          else if src.any Option.isNone then
            match gathered? c k with
            | some d => moveElement s c k src dst d
            | none => askPeer s c k
          else moveElement s c k src dst (elementBytes s src)

/-- COPY_ELEMENT_FAULT: a translation fault on the job side, or a page fault that the platform reports on the host
side, suspends the element; the job side is offered to the service context (10 R242, 21 Table intr-6). An element sent toward host
memory meets the fault there. -/
def execCopyElementFault (id k : Nat) (s : State) : Host.Outcome State Fault Refusal :=
  match copyAt s id with
  | none => .next s
  | some c =>
    match jobOfCtx s c.ctx with
    | none => .next s
    | some j =>
      if c.failed.isNone && c.hasSent k && !c.holds k then
        match elementDst s j c k with
        | .error (.hostSide _) => .next (setCopy s { c with suspended := c.suspended ++ [(k, true)] })
        | _ => .next s
      else if !elementReady s c k then .next s
      else
        match elementPlaces s j c k with
        | .error (.jobSide _ _) =>
          .next (onCore (setCopy s { c with suspended := c.suspended ++ [(k, false)] }) (c.ctx / 4) fun n =>
            { n with services := n.services ++ [.element id k] })
        | .error (.hostSide _) => .next (setCopy s { c with suspended := c.suspended ++ [(k, true)] })
        | _ => .next s

/-- The service context has still to finish with an element. -/
def inService (s : State) (n id k : Nat) : Bool :=
  (coreAt s n).services.contains (.element id k) || ((coreAt s n).service.map (·.1)) == some (.element id k)

/-- COPY_ELEMENT_REPLAY: an element whose fault is resolved goes on; one whose fault is not is the copy's failure. -/
def execCopyElementReplay (id k : Nat) (s : State) : Host.Outcome State Fault Refusal :=
  match copyAt s id with
  | none => .next s
  | some c =>
    match jobOfCtx s c.ctx with
    | none => .next s
    | some j =>
      if !(c.suspended.any fun x => x.1 == k) || inService s (c.ctx / 4) id k then .next s
      else
        let c' := { c with suspended := c.suspended.filter fun x => x.1 != k }
        let host := c.suspended.contains (k, true)
        match (if c.hasSent k then (elementDst s j c k).map fun d => (d, d) else elementPlaces s j c k) with
        | .error (.jobSide x a) => .next (setCopy s (if host then c' else { c' with failed := some (x, BitVec.ofNat 64 a) }))
        | .error (.hostSide a) => .next (setCopy s (if host then { c' with failed := some (.page, BitVec.ofNat 64 a) } else c'))
        | .error (.final x a) => .next (setCopy s { c' with failed := some (x, BitVec.ofNat 64 a) })
        | .ok _ => .next (setCopy s c')

/-- A cause that the manual leaves open among PAGE, PERM and UE (10 R243, log entry 2). -/
def openCause (s : State) : Cause :=
  match bits (openValue s) 63 0 % 3 with
  | 0 => .page
  | 1 => .perm
  | _ => .ue

/-- The element reads or writes the CXL pool. -/
def poolElement (c : Copy) (k : Nat) : Option Word :=
  let z := bits c.pattern[0] 7 0
  let hit := fun a : Nat => match spaceOf a with | .pool _ => some (BitVec.ofNat 64 a) | _ => none
  match hit (patternAddr c.pattern c.src false (z * k)) with
  | some a => some a
  | none => hit (patternAddr c.pattern c.dst true (z * k))

/-- POOL_TRANSACTION_TIMEOUT: a pool transaction that errs or passes 10 µs is reissued, four times at most; then the copy
fails (03 R67). -/
def execPoolTransactionTimeout (id k : Nat) (s : State) : Host.Outcome State Fault Refusal :=
  match copyAt s id with
  | none => .next s
  | some c =>
    match poolElement c k with
    | none => .next s
    | some a =>
      if !elementReady s c k then .next s
      else if look 0 c.retries k < 4 then .next (setCopy s { c with retries := put c.retries k (look 0 c.retries k + 1) })
      else .next (openUsed (setCopy s { c with failed := some (openCause s, a) }))

/-! ## The byte reports, the end and the failure of a copy -/

/-- The barriers of a context's job take a report of `n` bytes; an overrun is logged (15 R323). -/
def reportBytes (s : State) (k b n : Nat) : State :=
  match jobOfCtx s k with
  | none => s
  | some j =>
    let (x, over') := takeBytes j.barriers b n
    let s := tookBarriers s k x
    if over' then logCtx s 10 k (BitVec.ofNat 64 b) (BitVec.ofNat 64 n) else s

/-- A report of core `n` for barrier `b` has still to come behind what left the core before it, or its way is paused (04 R74, R78). -/
def reportHeld (s : State) (n b : Nat) : Bool :=
  (jobOfCore s n).any fun j => (j.barriers[b - 1]?).any fun q => leftFor s j n (barrierPlace s j q) || placePaused s n (barrierPlace s j q)

/-- The decrement that completes a command of core `n` has still to come behind what left the core for itself before it (04 R74). -/
def completionHeld (s : State) (n : Nat) : Bool := (jobOfCore s n).any fun j => leftFor s j n n

/-- COPY_BYTE_REPORT: bytes that have been performed are reported to the barrier the copy names. -/
def execCopyByteReport (id n : Nat) (s : State) : Host.Outcome State Fault Refusal :=
  match copyAt s id with
  | none => .next s
  | some c =>
    if n = 0 ∨ c.unreported < n ∨ reportHeld s (c.ctx / 4) (bits c.pattern[0] 31 24) then .next s
    else .next (reportBytes (setCopy s { c with unreported := c.unreported - n }) c.ctx (bits c.pattern[0] 31 24) n)

/-- The tray of a command that has ended without publishing, or is published if it is still its writer's open tray. -/
def closeTray (now cmd : Nat) (ok : Bool) (t : Nat) (r : Rack) : Rack :=
  if r.command = some cmd then
    if ok then publishTray now r t else { onTray r t fun x => { x with opened := false } with command := none }
  else onTray r t fun x => { x with draining := false }

/-- The tray of a rack-target command at its end. -/
def endTarget (s : State) (k cmd : Nat) (rack : Option (Nat × Nat)) (ok : Bool) : State :=
  match rack, jobOfCtx s k with
  | some (id, t), some j => setJob s { j with racks := j.racks.modify id (closeTray (timeNow s) cmd ok t) }
  | _, _ => s

/-- The publish of a rack-target command commits the task that issued it (23 R404). -/
def commitTask (s : State) (k : Nat) (ended : Bool) : State :=
  if ended then s else onCtx s k fun c => { c with committed := true }

/-- The rack-target command would publish its tray. -/
def publishes (s : State) (k cmd : Nat) (rack : Option (Nat × Nat)) : Bool :=
  match rack, jobOfCtx s k with
  | some (id, _), some j => (j.racks[id]?).any fun r => r.command == some cmd
  | _, _ => false

/-- What the end of a rack-target command of context `k` tells the rack's controller, to publish its tray or to free it, has still to
come behind what the core has sent there, or stands before paused wall buses (04 R74, R78). -/
def targetHeld (s : State) (k : Nat) (rack : Option (Nat × Nat)) : Bool :=
  match rack, jobOfCtx s k with
  | some (id, _), some j => (j.racks[id]?).any fun r => leftFor s j (k / 4) (rackPlace s j r) || placePaused s (k / 4) (rackPlace s j r)
  | _, _ => false

/-- COPY_COMPLETE: every byte performed, acknowledged and reported: the tray is published, the reservation is released,
the counter decremented. -/
def execCopyComplete (id : Nat) (s : State) : Host.Outcome State Fault Refusal :=
  match copyAt s id with
  | none => .next s
  | some c =>
    if c.failed.isSome || c.moved.length < patternElements c.pattern || c.unreported ≠ 0 || completionHeld s (c.ctx / 4) || targetHeld s c.ctx c.rack then .next s
    else
      let s := if publishes s c.ctx id c.rack then commitTask s c.ctx c.taskEnded else s
      let s := endTarget (dropCopy s id) c.ctx id c.rack true
      .next (decrement s (c.ctx / 4) c.counter 1)

/-- An engine command of context `k` has failed: a late fault of the task that issued it; when that task has ended the
failure is logged and ends the job (10 R243, 23 R406). -/
def engineFault (s : State) (k : Nat) (ended : Bool) (f : FaultRec) : State :=
  if ended then
    let s := logCtx s 4 k f.addr (BitVec.ofNat 64 f.cause.code)
    abortJob s ((coreAt s (k / 4)).job.getD 0) (some (0x80 + f.cause.code))
  else lateFault s k f

/-- A copy that has asked another part for data, and whose failure may be that part's refusal, has news that stand at the I/O die before
paused wall buses (04 R78). -/
def failureHeld (s : State) (c : Copy) : Bool :=
  c.asked.any (fun k => !c.moved.contains k) && wayPaused s (.unit 28) (.core (c.ctx / 4))

/-- COPY_FAILURE: the copy stops; the bytes written stay and are reported, its tray is FREE, its counter keeps its
value. -/
def execCopyFailure (id : Nat) (s : State) : Host.Outcome State Fault Refusal :=
  match copyAt s id with
  | none => .next s
  | some c =>
    match c.failed with
    | none => .next s
    | some (x, a) =>
      if (c.unreported ≠ 0 && reportHeld s (c.ctx / 4) (bits c.pattern[0] 31 24)) || targetHeld s c.ctx c.rack || failureHeld s c then .next s
      else
      let s := if c.unreported = 0 then s else reportBytes s c.ctx (bits c.pattern[0] 31 24) c.unreported
      let s := endTarget (dropCopy s id) c.ctx id c.rack false
      .next (engineFault s c.ctx c.taskEnded ⟨x, 0, a, c.bundle, 9, true, c.epoch, c.id, none⟩)

/-! ## Streams (10 R245-R249) -/

/-- An address of job space or of the slice window. -/
def streamRange (a : Word) : Bool :=
  match spaceOf a.toNat with
  | .job | .slice _ _ => true
  | _ => false

/-- Two addresses of one of these ranges. -/
def sameRange (a b : Word) : Bool :=
  match spaceOf a.toNat, spaceOf b.toNat with
  | .job, .job | .slice _ _, .slice _ _ => true
  | _, _ => false

/-- Every byte of a pattern lies in these ranges: its extent lies in one of them, or every innermost run does. -/
def patternRange (f : Vector Word 8) (base : Word) (out : Bool) : Bool :=
  let e := patternExtent f out
  let run := bits f[0] 7 0 * f[1].toNat
  let addr := fun n => BitVec.ofNat 64 (patternAddr f base out n)
  (e.2 - e.1 < 2 ^ 48 && sameRange (base + BitVec.ofInt 64 e.1) (base + BitVec.ofInt 64 e.2)) ||
  (List.range (patternBytes f / run)).all fun r => streamRange (addr (run * r)) && streamRange (addr (run * r + (run - 1)))

/-- The pattern and range checks of BIND. -/
def bindOk (f : Vector Word 8) (base : Word) (out : Bool) : Bool :=
  patternOk f && patternBytes f % 256 == 0 && patternRange f base out

/-- The register `56 + n` is unbound; a read of it in the same bundle has taken the head vector. -/
def unbindNow (s : State) (n : Nat) : State :=
  let s := if s.cur.pops.contains (56 + n) then
      onCtx { s with cur := { s.cur with pops := s.cur.pops.filter (· != 56 + n) } } s.cur.key fun c => popStream c (56 + n)
    else s
  onCtx s s.cur.key fun c => { c with streams := c.streams.setIfInBounds n none }

/-- BIND: the binding is made when the bundle issues. One that is refused leaves the binding that the register has, and the TADDR of its
PERM is 0 also for a total that is no multiple of 256 and for a range that is not allowed (DESIGN CHOICE, log entry 55). -/
def bindStream (s : State) (e : Fin 16) (a : SReg) (n : Nat) (out : Bool) : State :=
  let f := eAll (me s) e
  if !bindOk f (readS s a) out then lateNow s .perm 0
  else
    let st : Stream := ⟨out, f, readS s a, 0, [], none, s.cur.h, (me s).epoch, s.nextId⟩
    let s := fresh (unbindNow s n)
    onCtx s s.cur.key fun c => { c with streams := c.streams.setIfInBounds n (some st) }

def execBindIn (e : Fin 16) (a : SReg) (n : Fin 8) (p : Tag) (s : State) : Host.Outcome State Fault Refusal :=
  operate (.bindIn e a n p) p s fun s => bindStream s e a n false
def execBindOut (e : Fin 16) (a : SReg) (n : Fin 8) (p : Tag) (s : State) : Host.Outcome State Fault Refusal :=
  operate (.bindOut e a n p) p s fun s => bindStream s e a n true
def execUnbind (n : Fin 8) (p : Tag) (s : State) : Host.Outcome State Fault Refusal :=
  operate (.unbind n p) p s fun s => unbindNow s n

/-- A stream's transfer whose page the walker cannot give: it is offered to the service context, which acts for the context
(10 R220, 21 Table intr-6; log entry 9). -/
def streamService (s : State) (k n : Nat) (st : Stream) : State :=
  let x := ServiceCause.stream k n st.order
  if (coreAt s (k / 4)).services.contains x || ((coreAt s (k / 4)).service.map (·.1)) == some x then s
  else toService s k x

/-- STREAM_READ_AHEAD: the next vector of an input stream is read into its queue; a fate is held for the bundle that
would read it. -/
def execStreamReadAhead (k : Nat) (n : Fin 8) (s : State) : Host.Outcome State Fault Refusal :=
  match jobOfCtx s k, ((ctxAt s k).streams[n.val]?).getD none with
  | some j, some st =>
    let pos := transferPos st
    if st.out || st.fault.isSome || 8 ≤ st.queue.length || patternBytes st.pattern ≤ pos || streamHeld s j k st pos ||
        streamBehind s k st pos then .next s
    else
      let keep := fun st' => onCtx s k fun c => { c with streams := c.streams.setIfInBounds n.val (some st') }
      match streamRead s j st pos with
      | .error e =>
        .next (if walkable e then streamService s k n.val st
          else poisonTouch (keep { st with fault := some (streamFaultRec st e) }) j (k / 4) st pos e)
      | .ok v => .next (streamTouch (keep { st with queue := st.queue ++ [v] }) j (k / 4) st pos)
  | _, _ => .next s

/-- STREAM_DRAIN_WRITE: the head vector of an output stream is written, and requests that it fills are served; a fate after
the task has ended ends the job. -/
def execStreamDrainWrite (k : Nat) (n : Fin 8) (s : State) : Host.Outcome State Fault Refusal :=
  match jobOfCtx s k, ((ctxAt s k).streams[n.val]?).getD none with
  | some j, some st =>
    if !st.out || st.drained || streamHeld s j k st st.pos || streamBehind s k st st.pos then .next s
    else
      match nextFate s j st with
      | none => .next (serveHeld (drainOne s k n.val))
      | some e =>
        if walkable e then .next (streamService s k n.val st)
        else if (ctxAt s k).status = .ending then .next (engineFault s k true (streamFaultRec st e))
        else .next (drainOne s k n.val)
  | _, _ => .next s

end Sys2Proof.Machine
end

