-- ==== Sys2Proof/Machine/Flags.lean ====
section
/-! DEFINITION. Number formats, rounding and the flags of FPSTAT (spec/08_number_formats.md): values are exact, and only
`encodeFmt` and `toInt` round. -/

namespace Sys2Proof.Machine

/-! ## Flags (07 R164, 08 R174) -/

abbrev Flags := BitVec 6
abbrev flagNV : Flags := 1
abbrev flagDZ : Flags := 2
abbrev flagOF : Flags := 4
abbrev flagUF : Flags := 8
abbrev flagNX : Flags := 16
abbrev flagQP : Flags := 32

/-- The flags where a condition holds. -/
def flagIf (b : Bool) (f : Flags) : Flags := if b then f else 0
/-- The flags of a list of results together. -/
def allFlags (l : List Flags) : Flags := l.foldl (· ||| ·) 0

/-! ## Values and formats (08 R167) -/

/-- An exact value: a finite one is ±m × 2^e, and keeps the sign of zero. -/
inductive Val where
  | nan (signalling : Bool)
  | inf (neg : Bool)
  | fin (neg : Bool) (m : Nat) (e : Int)
  deriving DecidableEq, Repr

/-- How a format uses its top codes (08 Table formats-1). -/
inductive FmtKind where
  | ieee | f8a | f6
  deriving DecidableEq, Repr

/-- A floating-point format: exponent and mantissa widths and bias. -/
structure Fmt where
  eb   : Nat
  mb   : Nat
  bias : Nat
  kind : FmtKind
  deriving DecidableEq, Repr

def fp32 : Fmt := ⟨8, 23, 127, .ieee⟩
def fp16 : Fmt := ⟨5, 10, 15, .ieee⟩
def bf16 : Fmt := ⟨8, 7, 127, .ieee⟩
def f8a : Fmt := ⟨4, 3, 7, .f8a⟩
def f8b : Fmt := ⟨5, 2, 15, .ieee⟩
def f6 : Fmt := ⟨3, 2, 3, .f6⟩

/-- The float format of a lane type (05 R94); S32 has none. -/
def laneFmt (t : Fin 4) : Fmt := match t.val with | 1 => fp16 | 2 => bf16 | _ => fp32

/-- The code of a format's largest finite magnitude. -/
def Fmt.maxCode (f : Fmt) : Nat :=
  match f.kind with
  | .ieee => (2 ^ f.eb - 1) * 2 ^ f.mb - 1
  | .f8a => 2 ^ (f.eb + f.mb) - 2
  | .f6 => 2 ^ (f.eb + f.mb) - 1

/-- The canonical NaN (08 R169, Table formats-2): F6 has none and gives +0. -/
def Fmt.canonical (f : Fmt) : Nat :=
  match f.kind with
  | .ieee => (2 ^ f.eb - 1) * 2 ^ f.mb + 2 ^ (f.mb - 1)
  | .f8a => 2 ^ (f.eb + f.mb) - 1
  | .f6 => 0

/-- The value of an encoding (08 R167, R175). -/
def decodeFmt (f : Fmt) (b : Nat) : Val :=
  let neg := b / 2 ^ (f.eb + f.mb) % 2 == 1
  let e := b / 2 ^ f.mb % 2 ^ f.eb
  let m := b % 2 ^ f.mb
  if f.kind = .ieee ∧ e = 2 ^ f.eb - 1 then
    if m = 0 then .inf neg else .nan (m / 2 ^ (f.mb - 1) == 0)
  else if f.kind = .f8a ∧ e = 2 ^ f.eb - 1 ∧ m = 2 ^ f.mb - 1 then .nan false
  else if e = 0 then .fin neg m (1 - f.bias - f.mb : Int)
  else .fin neg (2 ^ f.mb + m) (e - f.bias - f.mb : Int)

/-- A signed integer as a value; zero is +0. -/
def ofInt (n : Int) : Val := .fin (n < 0) n.natAbs 0

/-! ## Rounding (08 R171, R172) -/

/-- `m` shifted right by `k` and rounded: to the nearest even, or toward zero; and whether anything was lost. -/
def shiftRound (m k : Nat) (tz : Bool) : Nat × Bool :=
  let n := m / 2 ^ k
  let r := m % 2 ^ k
  (if !tz && (2 ^ k < 2 * r || (2 * r == 2 ^ k && k != 0 && n % 2 == 1)) then n + 1 else n, r != 0)

/-- The magnitude code, with the exponent unbounded above, that m × 2^e rounds to. -/
def roundCode (f : Fmt) (m : Nat) (e : Int) (tz : Bool) : Nat × Bool :=
  let least : Int := 1 - f.bias - f.mb
  let q : Int := max least ((Nat.log2 m : Int) + e - f.mb)
  let (n, lost) := if q ≤ e then (m * 2 ^ (e - q).toNat, false) else shiftRound m (q - e).toNat tz
  ((q - least).toNat * 2 ^ f.mb + n, lost)

/-- encode(F, x, rnd, sat): the one rounding of a value into a format, with its flags (08 R172, R174, Table formats-2).
A non-zero value that rounds below the smallest normal magnitude and is inexact raises UF, and every NaN
that enters F8A or F6 raises NV (DEDUCED, log entry 10). -/
def encodeFmt (f : Fmt) (x : Val) (tz sat : Bool) : Nat × Flags :=
  let sign := fun neg => if neg then 2 ^ (f.eb + f.mb) else 0
  match x with
  | .nan sig => (f.canonical, flagIf (sig || f.kind != .ieee) flagNV)
  | .inf neg =>
    if f.kind = .ieee ∧ !sat then (sign neg + (2 ^ f.eb - 1) * 2 ^ f.mb, 0)
    else (sign neg + f.maxCode, flagOF ||| flagNX)
  | .fin neg m e =>
    if m = 0 then (sign neg, 0)
    else
      let (c, lost) := roundCode f m e tz
      if f.maxCode < c then
        if f.kind = .ieee ∧ !tz ∧ !sat then (sign neg + (2 ^ f.eb - 1) * 2 ^ f.mb, flagOF ||| flagNX)
        else (sign neg + f.maxCode, flagOF ||| flagNX)
      else (sign neg + c, flagIf lost flagNX ||| flagIf (lost && c < 2 ^ f.mb) flagUF)

/-- A pattern of `w` bits read as a signed number. -/
def signed (w x : Nat) : Int := if x % 2 ^ w < 2 ^ (w - 1) then x % 2 ^ w else (x % 2 ^ w : Int) - 2 ^ w
/-- The pattern of `w` bits of a signed number. -/
def unsigned (w : Nat) (x : Int) : Nat := (x % 2 ^ w).toNat

/-- sat(x, lo, hi) (08 R175). -/
def clamp (x lo hi : Int) : Int := if x < lo then lo else if hi < x then hi else x

/-- to_int(x, n, rnd): an n-bit pattern; a clamped result raises NV, and NX is raised wherever the result delivered differs from the
exact one, by rounding, by clamping or for an infinity, but not for a NaN (08 R173, R174). -/
def toInt (n : Nat) (x : Val) (tz : Bool) : Nat × Flags :=
  let lo : Int := -2 ^ (n - 1)
  let hi : Int := 2 ^ (n - 1) - 1
  match x with
  | .nan _ => (0, flagNV)
  | .inf neg => (unsigned n (if neg then lo else hi), flagNV ||| flagNX)
  | .fin neg m e =>
    let (a, lost) := if 0 ≤ e then (m * 2 ^ e.toNat, false) else shiftRound m (-e).toNat tz
    let y : Int := if neg then -a else a
    (unsigned n (clamp y lo hi), flagIf (lost || clamp y lo hi != y) flagNX ||| flagIf (clamp y lo hi != y) flagNV)

/-! ## Exact arithmetic with the rules of IEEE 754 (08 R170, R175) -/

def Val.neg : Val → Val
  | .nan s => .nan s
  | .inf b => .inf (!b)
  | .fin b m e => .fin (!b) m e

def Val.abs : Val → Val
  | .nan s => .nan s
  | .inf _ => .inf false
  | .fin _ m e => .fin false m e

def Val.isNan : Val → Bool | .nan _ => true | _ => false
/-- A signalling NaN. -/
def Val.isSnan : Val → Bool | .nan s => s | _ => false

/-- A finite value as a multiple of 2^q. -/
def scaled (neg : Bool) (m : Nat) (e q : Int) : Int :=
  let a : Int := (m * 2 ^ (e - q).toNat : Nat)
  if neg then -a else a

/-- The exact sum; an exact zero is −0 only when both are. -/
def Val.add (x y : Val) : Val × Flags :=
  match x, y with
  | .nan a, .nan b => (.nan false, flagIf (a || b) flagNV)
  | .nan a, _ => (.nan false, flagIf a flagNV)
  | _, .nan b => (.nan false, flagIf b flagNV)
  | .inf a, .inf b => if a = b then (.inf a, 0) else (.nan false, flagNV)
  | .inf a, .fin _ _ _ => (.inf a, 0)
  | .fin _ _ _, .inf b => (.inf b, 0)
  | .fin a m e, .fin b n d =>
    let q := min e d
    let z := scaled a m e q + scaled b n d q
    (.fin (if z = 0 then a && b && m == 0 && n == 0 else z < 0) z.natAbs q, 0)

/-- The exact product. -/
def Val.mul (x y : Val) : Val × Flags :=
  match x, y with
  | .nan a, .nan b => (.nan false, flagIf (a || b) flagNV)
  | .nan a, _ => (.nan false, flagIf a flagNV)
  | _, .nan b => (.nan false, flagIf b flagNV)
  | .inf a, .inf b => (.inf (a != b), 0)
  | .inf a, .fin b n _ => if n = 0 then (.nan false, flagNV) else (.inf (a != b), 0)
  | .fin a m _, .inf b => if m = 0 then (.nan false, flagNV) else (.inf (a != b), 0)
  | .fin a m e, .fin b n d => (.fin (a != b) (m * n) (e + d), 0)

/-- x < y for values that are not NaN; −0 and +0 are equal. -/
def Val.lt (x y : Val) : Bool :=
  match x, y with
  | .nan _, _ => false
  | _, .nan _ => false
  | .inf a, .inf b => a && !b
  | .inf a, .fin _ _ _ => a
  | .fin _ _ _, .inf b => !b
  | .fin a m e, .fin b n d => scaled a m e (min e d) < scaled b n d (min e d)

/-- x ≤ y for values that are not NaN. -/
def Val.le (x y : Val) : Bool := !x.isNan && !y.isNan && !Val.lt y x
/-- x = y for values that are not NaN. -/
def Val.eq (x y : Val) : Bool := Val.le x y && Val.le y x
def Val.isNeg : Val → Bool | .nan _ => false | .inf b => b | .fin b _ _ => b

/-- x before y in the order of fmax and fmin: −0 is less than +0 (08 R176). -/
def Val.below (x y : Val) : Bool := Val.lt x y || (Val.eq x y && x.isNeg && !y.isNeg)

/-- fmax (08 R176). -/
def fmax (x y : Val) : Val := if x.isNan then y else if y.isNan then x else if Val.below x y then y else x
/-- fmin (08 R176). -/
def fmin (x y : Val) : Val := if x.isNan then y else if y.isNan then x else if Val.below y x then y else x

/-- One rounding into a format by its own rule: round_ne. -/
def roundTo (f : Fmt) (x : Val × Flags) : Nat × Flags :=
  ((encodeFmt f x.1 false false).1, x.2 ||| (encodeFmt f x.1 false false).2)

/-! ## Q4N (08 R177-R181) -/

/-- Table formats-3: the FP16 codes of val(c); codes 0 and 8 give 0. -/
def q4nBits : List Nat :=
  [0x0000, 0xBC00, 0xBA00, 0xB8A0, 0xB709, 0xB519, 0xB2A5, 0xAE90,
   0x0000, 0x2E90, 0x32A5, 0x3519, 0x3709, 0x38A0, 0x3A00, 0x3C00]

/-- val(c). -/
def q4nVal (c : Nat) : Val := decodeFmt fp16 (q4nBits[c]?.getD 0)

/-- (s8 + 1) / 256 × S. -/
def q4nFactor (s8 : Nat) (ss : Val) : Val × Flags := Val.mul (.fin false (s8 + 1) (-8)) ss

/-- q4n_value(c, s8, S) (08 R178, R179). -/
def q4nValue (c s8 : Nat) (ss : Val) : Val × Flags :=
  if c = 0 then (.fin false 0 0, flagQP)
  else
    let f := q4nFactor s8 ss
    let v := Val.mul (q4nVal c) f.1
    (v.1, f.2 ||| v.2)

/-- S is not finite or not above zero. -/
def badScale : Val → Bool
  | .fin neg m _ => neg || m == 0
  | _ => true

/-- |x − y| of finite values; the caller has none other. -/
def distance (x y : Val) : Val := (Val.add x y.neg).1.abs

/-- The better of two codes for x: the nearer level, and on a tie the one of smaller |val(c)|. -/
def nearerCode (x f : Val) (a b : Nat) : Nat :=
  let da := distance x (Val.mul (q4nVal a) f).1
  let db := distance x (Val.mul (q4nVal b) f).1
  if Val.lt db da || (Val.eq db da && Val.lt (q4nVal b).abs (q4nVal a).abs) then b else a

/-- q4n_encode(x, s8, S) (08 R180). -/
def q4nEncode (x : Val) (s8 : Nat) (ss : Val) : Nat × Flags :=
  if x.isNan then (0, flagNV)
  else if badScale ss then (8, flagNV)
  else
    let f := (q4nFactor s8 ss).1
    let code :=
      if Val.le f x then 15
      else if Val.le x f.neg then 1
      else [2, 3, 4, 5, 6, 7, 8, 9, 10, 11, 12, 13, 14, 15].foldl (nearerCode x f) 1
    (code, flagIf (Val.lt f x.abs) flagOF ||| flagIf (!Val.eq x (Val.mul (q4nVal code) f).1) flagNX)

/-- The least s in the list whose (s + 1) / 256 × S reaches m, else 255. -/
def leastScale (m ss : Val) : List Nat → Nat
  | [] => 255
  | s :: l => if Val.le m (q4nFactor s ss).1 then s else leastScale m ss l

/-- qamax_s8 of one value (08 R181, 09 R215). -/
def qamaxOne (x ss : Val) : Nat × Flags :=
  if badScale ss then (255, flagNV)
  else
    let m : Val := if x.isNan then .fin false 0 0 else x.abs
    let nv := flagIf x.isNan flagNV
    if Val.le m ss then (leastScale m ss (List.range 256), nv) else (255, nv ||| flagOF)

/-! ## Sums (08 R187, R188) -/

/-- round_ne(x + y, FP32) on codes. -/
def addFp32 (x y : Nat × Flags) : Nat × Flags :=
  let r := roundTo fp32 (Val.add (decodeFmt fp32 x.1) (decodeFmt fp32 y.1))
  (r.1, x.2 ||| y.2 ||| r.2)

/-- One level of a pairwise tree. -/
def pairUp {α : Type} (f : α → α → α) : List α → List α
  | x :: y :: l => f x y :: pairUp f l
  | l => l

/-- A pairwise tree of `n` levels. -/
def tree {α : Type} (f : α → α → α) : Nat → List α → List α
  | 0, l => l
  | n + 1, l => tree f n (pairUp f l)

/-- One round of the doubling scheme at distance `d`. -/
def scanRound {α : Type} (f : α → α → α) (d : Nat) (l : List α) : List α := l.take d ++ List.zipWith f l (l.drop d)

end Sys2Proof.Machine
end

