-- ==== Sys2Proof/Machine/Vector.lean ====
section
/-! DEFINITION. The V class (09 R191-R206): lane-wise arithmetic, compares, logic, moves and conversions. -/

namespace Sys2Proof.Machine

/-! ## Lane-wise results (09 R192-R194) -/

/-- Lane `j` of a vector read as lanes of `w` bits. -/
def laneOf (w : Nat) (x : VWord) (j : Nat) : Nat := bits x (w * j + (w - 1)) (w * j)

/-- The deferred-fault bit a result carries: of every scalar and vector register read, and of the destination where
only part of it is written (09 R193), that one as it stands at the issue (DESIGN CHOICE, log entry 57). -/
def sourceDf (s : State) (i : Instr) : Bool :=
  let c := me s
  let u := usesOf c i
  u.rs.any (sDf c) || u.rv.any (vDf c) || (u.part && u.wv.any (vDf c))

/-- Lanes of `w` bits computed where selected, landing as one result with their flags. -/
def laneResult (i : Instr) (d : VReg) (w : Nat) (sel : Nat → Bool) (f : Nat → Nat × Flags) (s : State) : State :=
  let n := 2048 / w
  let r := (List.range n).map fun j => if sel j then f j else (0, 0)
  resultV s d (exposedLat s s.cur.key i) (BitVec.ofNat 2048 (packLanes w (r.map (·.1)))) (laneMask w n sel) (sourceDf s i)
    (allFlags (r.map (·.2)))

/-- A guarded operation on lanes of type `t`. -/
def guarded (i : Instr) (d : VReg) (t : Fin 4) (g : Fin 8) (f : Nat → Nat × Flags) (s : State) : State :=
  laneResult i d (laneWidth t) (selected (laneWidth t) (readP s g)) f s

/-! ## Arithmetic on one lane (09 Table vector-1) -/

/-- The value of a lane of a float type. -/
def laneVal (t : Fin 4) (x : Nat) : Val := decodeFmt (laneFmt t) x

def laneAdd (t : Fin 4) (x y : Nat) : Nat × Flags :=
  if t.val = 3 then ((x + y) % 2 ^ 32, 0) else roundTo (laneFmt t) (Val.add (laneVal t x) (laneVal t y))
def laneSub (t : Fin 4) (x y : Nat) : Nat × Flags :=
  if t.val = 3 then ((x + 2 ^ 32 - y) % 2 ^ 32, 0) else roundTo (laneFmt t) (Val.add (laneVal t x) (laneVal t y).neg)
def laneMul (t : Fin 4) (x y : Nat) : Nat × Flags :=
  if t.val = 3 then (x * y % 2 ^ 32, 0) else roundTo (laneFmt t) (Val.mul (laneVal t x) (laneVal t y))
/-- One rounding of z + ±(x × y), where z may be negated too. -/
def laneFma (t : Fin 4) (negProduct negZ : Bool) (x y z : Nat) : Nat × Flags :=
  let p := Val.mul (laneVal t x) (laneVal t y)
  let a := if negZ then (laneVal t z).neg else laneVal t z
  let r := Val.add a (if negProduct then p.1.neg else p.1)
  roundTo (laneFmt t) (r.1, p.2 ||| r.2)
/-- The greater or the lesser of two lanes (08 R176). -/
def lanePick (t : Fin 4) (greater : Bool) (x y : Nat) : Nat × Flags :=
  if t.val = 3 then
    (if greater then (if signed 32 x < signed 32 y then y else x) else if signed 32 y < signed 32 x then y else x, 0)
  else
    let a := laneVal t x
    let b := laneVal t y
    roundTo (laneFmt t) (if greater then fmax a b else fmin a b, flagIf (a.isSnan || b.isSnan) flagNV)
/-- VABS and VNEG: the sign bit; a NaN gives the canonical NaN. -/
def laneSign (t : Fin 4) (clear : Bool) (x : Nat) : Nat × Flags :=
  if t.val = 3 then (unsigned 32 (if clear then (signed 32 x).natAbs else -signed 32 x), 0)
  else
    let v := laneVal t x
    if v.isNan then ((laneFmt t).canonical, flagIf v.isSnan flagNV)
    else
      let half := 2 ^ (laneWidth t - 1)
      (if clear then x % half else if half ≤ x then x - half else x + half, 0)

/-- A lane-wise operation on two vector registers. -/
def lanes2 (i : Instr) (d a b : VReg) (t : Fin 4) (g : Fin 8) (f : Nat → Nat → Nat × Flags) (s : State) : State :=
  let x := readV s a
  let y := readV s b
  guarded i d t g (fun j => f (laneOf (laneWidth t) x j) (laneOf (laneWidth t) y j)) s
/-- A lane-wise operation that also reads the destination. -/
def lanes3 (i : Instr) (d a b : VReg) (t : Fin 4) (g : Fin 8) (f : Nat → Nat → Nat → Nat × Flags) (s : State) : State :=
  let z := readV s d
  let x := readV s a
  let y := readV s b
  guarded i d t g (fun j => f (laneOf (laneWidth t) x j) (laneOf (laneWidth t) y j) (laneOf (laneWidth t) z j)) s
/-- A lane-wise operation on one vector register. -/
def lanes1 (i : Instr) (d a : VReg) (t : Fin 4) (g : Fin 8) (f : Nat → Nat × Flags) (s : State) : State :=
  let x := readV s a
  guarded i d t g (fun j => f (laneOf (laneWidth t) x j)) s

def execVadd (d a b : VReg) (t : Fin 4) (g : Fin 8) (p : Tag) (s : State) : Host.Outcome State Fault Refusal :=
  operate (.vadd d a b t g p) p s (lanes2 (.vadd d a b t g p) d a b t g (laneAdd t))
def execVsub (d a b : VReg) (t : Fin 4) (g : Fin 8) (p : Tag) (s : State) : Host.Outcome State Fault Refusal :=
  operate (.vsub d a b t g p) p s (lanes2 (.vsub d a b t g p) d a b t g (laneSub t))
def execVmul (d a b : VReg) (t : Fin 4) (g : Fin 8) (p : Tag) (s : State) : Host.Outcome State Fault Refusal :=
  operate (.vmul d a b t g p) p s (lanes2 (.vmul d a b t g p) d a b t g (laneMul t))
def execVfma (d a b : VReg) (t : Fin 4) (g : Fin 8) (p : Tag) (s : State) : Host.Outcome State Fault Refusal :=
  operate (.vfma d a b t g p) p s (lanes3 (.vfma d a b t g p) d a b t g (laneFma t false false))
def execVfms (d a b : VReg) (t : Fin 4) (g : Fin 8) (p : Tag) (s : State) : Host.Outcome State Fault Refusal :=
  operate (.vfms d a b t g p) p s (lanes3 (.vfms d a b t g p) d a b t g (laneFma t true false))
def execVfnma (d a b : VReg) (t : Fin 4) (g : Fin 8) (p : Tag) (s : State) : Host.Outcome State Fault Refusal :=
  operate (.vfnma d a b t g p) p s (lanes3 (.vfnma d a b t g p) d a b t g (laneFma t false true))
def execVmin (d a b : VReg) (t : Fin 4) (g : Fin 8) (p : Tag) (s : State) : Host.Outcome State Fault Refusal :=
  operate (.vmin d a b t g p) p s (lanes2 (.vmin d a b t g p) d a b t g (lanePick t false))
def execVmax (d a b : VReg) (t : Fin 4) (g : Fin 8) (p : Tag) (s : State) : Host.Outcome State Fault Refusal :=
  operate (.vmax d a b t g p) p s (lanes2 (.vmax d a b t g p) d a b t g (lanePick t true))
def execVabs (d a : VReg) (t : Fin 4) (g : Fin 8) (p : Tag) (s : State) : Host.Outcome State Fault Refusal :=
  operate (.vabs d a t g p) p s (lanes1 (.vabs d a t g p) d a t g (laneSign t true))
def execVneg (d a : VReg) (t : Fin 4) (g : Fin 8) (p : Tag) (s : State) : Host.Outcome State Fault Refusal :=
  operate (.vneg d a t g p) p s (lanes1 (.vneg d a t g p) d a t g (laneSign t false))

/-! ## VCMP (09 R197) -/

/-- One comparison of lanes: the answer and the flags. -/
def laneCompare (t : Fin 4) (cc : Fin 4) (x y : Nat) : Bool × Flags :=
  if t.val = 3 then
    let a := signed 32 x
    let b := signed 32 y
    (match cc.val with | 0 => a == b | 1 => a != b | 2 => a < b | _ => a ≤ b, 0)
  else
    let a := laneVal t x
    let b := laneVal t y
    let nan := a.isNan || b.isNan
    let snan := a.isSnan || b.isSnan
    match cc.val with
    | 0 => (Val.eq a b, flagIf snan flagNV)
    | 1 => (!Val.eq a b, flagIf snan flagNV)
    | 2 => (Val.lt a b, flagIf nan flagNV)
    | _ => (Val.le a b, flagIf nan flagNV)

/-- A predicate with the bits of each lane set together. -/
def lanePred (w : Nat) (l : List Bool) : BitVec 128 :=
  BitVec.ofNat 128 (packLanes (w / 16) (l.map fun b => if b then 2 ^ (w / 16) - 1 else 0))

def execVcmp (d : PReg) (a b : VReg) (t c : Fin 4) (p : Tag) (s : State) : Host.Outcome State Fault Refusal :=
  operate (.vcmp d a b t c p) p s fun s =>
    let w := laneWidth t
    let r := (List.range (2048 / w)).map fun j => laneCompare t c (laneOf w (readV s a) j) (laneOf w (readV s b) j)
    result s ⟨.pred, d⟩ 2 ((lanePred w (r.map (·.1))).setWidth 2048) (BitVec.allOnes 2048) false (allFlags (r.map (·.2)))

/-! ## Logic and shifts (09 R198) -/

/-- A lane shifted right by `k` with copies of its top bit. -/
def shiftSigned (w k x : Nat) : Nat := unsigned w (signed w x / 2 ^ k)

def execVand (d a b : VReg) (t : Fin 4) (g : Fin 8) (p : Tag) (s : State) : Host.Outcome State Fault Refusal :=
  operate (.vand d a b t g p) p s (lanes2 (.vand d a b t g p) d a b t g fun x y => (x &&& y, 0))
def execVor (d a b : VReg) (t : Fin 4) (g : Fin 8) (p : Tag) (s : State) : Host.Outcome State Fault Refusal :=
  operate (.vor d a b t g p) p s (lanes2 (.vor d a b t g p) d a b t g fun x y => (x ||| y, 0))
def execVxor (d a b : VReg) (t : Fin 4) (g : Fin 8) (p : Tag) (s : State) : Host.Outcome State Fault Refusal :=
  operate (.vxor d a b t g p) p s (lanes2 (.vxor d a b t g p) d a b t g fun x y => (x ^^^ y, 0))
def execVshl (d a b : VReg) (t : Fin 4) (g : Fin 8) (p : Tag) (s : State) : Host.Outcome State Fault Refusal :=
  operate (.vshl d a b t g p) p s (lanes2 (.vshl d a b t g p) d a b t g fun x y =>
    (x * 2 ^ (y % laneWidth t) % 2 ^ laneWidth t, 0))
def execVshr (d a b : VReg) (t : Fin 4) (g : Fin 8) (p : Tag) (s : State) : Host.Outcome State Fault Refusal :=
  operate (.vshr d a b t g p) p s (lanes2 (.vshr d a b t g p) d a b t g fun x y => (x / 2 ^ (y % laneWidth t), 0))
def execVsra (d a b : VReg) (t : Fin 4) (g : Fin 8) (p : Tag) (s : State) : Host.Outcome State Fault Refusal :=
  operate (.vsra d a b t g p) p s (lanes2 (.vsra d a b t g p) d a b t g fun x y =>
    (shiftSigned (laneWidth t) (y % laneWidth t) x, 0))

/-- VSEL writes every lane (09 R199). -/
def execVsel (d a b : VReg) (t : Fin 4) (g : Fin 8) (p : Tag) (s : State) : Host.Outcome State Fault Refusal :=
  operate (.vsel d a b t g p) p s fun s =>
    let w := laneWidth t
    let q := readP s g
    laneResult (.vsel d a b t g p) d w (fun _ => true)
      (fun j => (laneOf w (if selected w q j then readV s a else readV s b) j, 0)) s

/-! ## Scalar-operand forms (09 R200) -/

/-- The broadcast operand of lanes of type `t`. -/
def broadcast (t : Fin 4) (x : Nat) : Nat := x % 2 ^ laneWidth t

def execVadds (d a : VReg) (k : SReg) (t : Fin 4) (g : Fin 8) (p : Tag) (s : State) : Host.Outcome State Fault Refusal :=
  operate (.vadds d a k t g p) p s fun s =>
    lanes1 (.vadds d a k t g p) d a t g (fun x => laneAdd t x (broadcast t (readS s k).toNat)) s
def execVmuls (d a : VReg) (k : SReg) (t : Fin 4) (g : Fin 8) (p : Tag) (s : State) : Host.Outcome State Fault Refusal :=
  operate (.vmuls d a k t g p) p s fun s =>
    lanes1 (.vmuls d a k t g p) d a t g (fun x => laneMul t x (broadcast t (readS s k).toNat)) s
def execVfmas (d a : VReg) (k : SReg) (t : Fin 4) (g : Fin 8) (p : Tag) (s : State) : Host.Outcome State Fault Refusal :=
  operate (.vfmas d a k t g p) p s fun s =>
    lanes2 (.vfmas d a k t g p) d a d t g (fun x z => laneFma t false false x (broadcast t (readS s k).toNat) z) s
def execVbcast (d : VReg) (k : SReg) (t : Fin 4) (g : Fin 8) (p : Tag) (s : State) : Host.Outcome State Fault Refusal :=
  operate (.vbcast d k t g p) p s fun s =>
    guarded (.vbcast d k t g p) d t g (fun _ => (broadcast t (readS s k).toNat, 0)) s
def execVaddsLong (d a : VReg) (t : Fin 4) (g : Fin 8) (p : Tag) (m : BitVec 32) (s : State) :
    Host.Outcome State Fault Refusal :=
  operate (.vaddsLong d a t g p m) p s
    (lanes1 (.vaddsLong d a t g p m) d a t g fun x => laneAdd t x (broadcast t m.toNat))
def execVmulsLong (d a : VReg) (t : Fin 4) (g : Fin 8) (p : Tag) (m : BitVec 32) (s : State) :
    Host.Outcome State Fault Refusal :=
  operate (.vmulsLong d a t g p m) p s
    (lanes1 (.vmulsLong d a t g p m) d a t g fun x => laneMul t x (broadcast t m.toNat))
def execVfmasLong (d a : VReg) (t : Fin 4) (g : Fin 8) (p : Tag) (m : BitVec 32) (s : State) :
    Host.Outcome State Fault Refusal :=
  operate (.vfmasLong d a t g p m) p s
    (lanes2 (.vfmasLong d a t g p m) d a d t g fun x z => laneFma t false false x (broadcast t m.toNat) z)
def execVbcastLong (d : VReg) (t : Fin 4) (g : Fin 8) (p : Tag) (m : BitVec 32) (s : State) :
    Host.Outcome State Fault Refusal :=
  operate (.vbcastLong d t g p m) p s (guarded (.vbcastLong d t g p m) d t g fun _ => (broadcast t m.toNat, 0))

/-! ## Moving lanes (09 R201-R205) -/

/-- A lane index: the low bits of a scalar or of an index lane. -/
def laneIndex (t : Fin 4) (x : Nat) : Nat := x % laneCount t

/-- VEXT: S32 is sign-extended, every other type zero-extended. -/
def execVext (d : SReg) (a : VReg) (b : SReg) (t : Fin 4) (p : Tag) (s : State) : Host.Outcome State Fault Refusal :=
  operate (.vext d a b t p) p s fun s =>
    let x := laneOf (laneWidth t) (readV s a) (laneIndex t (readS s b).toNat)
    resultS s d 2 (if t.val = 3 then (BitVec.ofNat 32 x).signExtend 64 else BitVec.ofNat 64 x)
      (deferV s a || deferS s b)
/-- VINS: one lane; every other lane keeps its value. -/
def execVins (d : VReg) (a b : SReg) (t : Fin 4) (p : Tag) (s : State) : Host.Outcome State Fault Refusal :=
  operate (.vins d a b t p) p s fun s =>
    let j := laneIndex t (readS s b).toNat
    laneResult (.vins d a b t p) d (laneWidth t) (· == j) (fun _ => (broadcast t (readS s a).toNat, 0)) s
def execVperm (d a b : VReg) (t : Fin 4) (g : Fin 8) (p : Tag) (s : State) : Host.Outcome State Fault Refusal :=
  operate (.vperm d a b t g p) p s fun s =>
    let w := laneWidth t
    guarded (.vperm d a b t g p) d t g
      (fun j => (laneOf w (readV s a) (laneIndex t (laneOf w (readV s b) j)), 0)) s
/-- VSLIDE: lane i receives lane i + m, and zero outside the register. -/
def execVslide (d a : VReg) (k : SReg) (t : Fin 4) (g : Fin 8) (p : Tag) (s : State) : Host.Outcome State Fault Refusal :=
  operate (.vslide d a k t g p) p s fun s =>
    let m := (readS s k).toInt
    guarded (.vslide d a k t g p) d t g
      (fun j => (if 0 ≤ j + m ∧ j + m < laneCount t then laneOf (laneWidth t) (readV s a) (j + m).toNat else 0, 0)) s
/-- VIOTA: each lane's index in type t. -/
def execViota (d : VReg) (t : Fin 4) (g : Fin 8) (p : Tag) (s : State) : Host.Outcome State Fault Refusal :=
  operate (.viota d t g p) p s (guarded (.viota d t g p) d t g fun j =>
    (if t.val = 3 then j else (encodeFmt (laneFmt t) (ofInt j) false false).1, 0))

/-! ## VCVT (09 R206) -/

/-- One lane converted from type `ts` to type `td`. -/
def laneConvert (ts td : Fin 4) (x : Nat) : Nat × Flags :=
  let v := if ts.val = 3 then ofInt (signed 32 x) else laneVal ts x
  if td.val = 3 then toInt 32 v false else encodeFmt (laneFmt td) v false false

/-- Source lane i goes to destination lane i; a narrowing writes zero to destination lanes 64 to 127. -/
def execVcvt (d a : VReg) (ts td : Fin 4) (g : Fin 8) (p : Tag) (s : State) : Host.Outcome State Fault Refusal :=
  operate (.vcvt d a ts td g p) p s fun s =>
    guarded (.vcvt d a ts td g p) d td g
      (fun j => if j < laneCount ts then laneConvert ts td (laneOf (laneWidth ts) (readV s a) j) else (0, 0)) s

end Sys2Proof.Machine
end

