-- ==== Sys2Proof/Machine/Pack.lean ====
section
/-! DEFINITION. The K and Q classes (09 R207-R216): widening packed data, narrowing it, and the scale registers. -/

namespace Sys2Proof.Machine

/-! ## Packed runs (08 R168, 09 R207) -/

/-- The width of an element of a packed format: 0 F8A, 1 F8B, 2 F6, 3 Q4N, 4 I8, 5 I4 (05 R94). -/
def packedWidth (f : Nat) : Nat := match f with | 2 => 6 | 3 | 5 => 4 | _ => 8
/-- Element `e` of a packed run: elements lie side by side from bit 0 on. -/
def packedAt (w : Nat) (x : VWord) (e : Nat) : Nat := bits x (w * e + (w - 1)) (w * e)

/-- The value of an element of a packed format other than Q4N. -/
def packedVal (f x : Nat) : Val :=
  match f with
  | 0 => decodeFmt f8a x
  | 1 => decodeFmt f8b x
  | 2 => decodeFmt f6 x
  | 4 => ofInt (signed 8 x)
  | _ => ofInt (signed 4 x)

/-- A value written into a packed format other than Q4N; integers always clamp (09 R213). -/
def packVal (f : Nat) (x : Val) (tz sat : Bool) : Nat × Flags :=
  match f with
  | 0 => encodeFmt f8a x tz sat
  | 1 => encodeFmt f8b x tz sat
  | 2 => encodeFmt f6 x tz sat
  | 4 => toInt 8 x tz
  | _ => toInt 4 x tz

/-- The value of a lane of any type. -/
def anyLane (t : Fin 4) (x : Nat) : Val := if t.val = 3 then ofInt (signed 32 x) else laneVal t x
/-- A value written into a lane of any type. -/
def toLane (t : Fin 4) (x : Val) : Nat × Flags := if t.val = 3 then toInt 32 x false else encodeFmt (laneFmt t) x false false

/-! ## Scale registers (09 R208, R209) -/

/-- The block scale of element `e`. -/
def blockScale (x : Scale) (e : Nat) : Nat := bits x.bs (8 * (e % 128) + 7) (8 * (e % 128))
/-- The super-scale as a value. -/
def superScale (x : Scale) : Val := decodeFmt fp32 x.ss.toNat

/-! ## Widening -/

/-- Every lane written from the elements of a part. -/
def widen (i : Instr) (d : VReg) (part t : Fin 4) (f : Nat → Nat × Flags) (s : State) : State :=
  laneResult i d (laneWidth t) (fun _ => true) (fun j => f (part.val * laneCount t + j)) s

/-- KUNP (09 R210). -/
def execKunp (d a : VReg) (f : Fin 8) (r t : Fin 4) (p : Tag) (s : State) : Host.Outcome State Fault Refusal :=
  operate (.kunp d a f r t p) p s fun s =>
    widen (.kunp d a f r t p) d r t
      (fun e => toLane t (packedVal f (packedAt (packedWidth f) (readV s a) e))) s
/-- KUNPQ (09 R212). -/
def execKunpq (d a : VReg) (r t : Fin 4) (c : Fin 16) (p : Tag) (s : State) : Host.Outcome State Fault Refusal :=
  operate (.kunpq d a r t c p) p s fun s =>
    let sc := scVal (me s) c
    widen (.kunpq d a r t c p) d r t
      (fun e => roundTo (laneFmt t) (q4nValue (packedAt 4 (readV s a) e) (blockScale sc e) (superScale sc))) s

/-! ## Narrowing -/

/-- The elements of a part of a packed run written; all other bits keep their values. -/
def narrow (i : Instr) (d : VReg) (w : Nat) (part t : Fin 4) (f : Nat → Nat → Nat × Flags) (a : VReg) (s : State) : State :=
  let n := laneCount t
  let r := (List.range n).map fun j => f (laneOf (laneWidth t) (readV s a) j) (part.val * n + j)
  let low := w * part.val * n
  resultV s d 3 (BitVec.ofNat 2048 (packLanes w (r.map (·.1)) * 2 ^ low)) (BitVec.ofNat 2048 ((2 ^ (w * n) - 1) * 2 ^ low))
    (sourceDf s i) (allFlags (r.map (·.2)))

/-- QPK (09 R213). -/
def execQpk (d a : VReg) (f : Fin 8) (r t n u : Fin 4) (p : Tag) (s : State) : Host.Outcome State Fault Refusal :=
  operate (.qpk d a f r t n u p) p s
    (narrow (.qpk d a f r t n u p) d (packedWidth f) r t (fun x _ => packVal f (anyLane t x) (n.val == 1) (u.val == 1)) a)
/-- QPKQ (09 R214). -/
def execQpkq (d a : VReg) (r t : Fin 4) (c : Fin 16) (p : Tag) (s : State) : Host.Outcome State Fault Refusal :=
  operate (.qpkq d a r t c p) p s fun s =>
    let sc := scVal (me s) c
    narrow (.qpkq d a r t c p) d 4 r t (fun x e => q4nEncode (laneVal t x) (blockScale sc e) (superScale sc)) a s
/-- QAMAX: one block scale for each lane, and the super-scale of the source (09 R215). -/
def execQamax (d : CReg) (a : VReg) (r t : Fin 4) (c : Fin 16) (p : Tag) (s : State) : Host.Outcome State Fault Refusal :=
  operate (.qamax d a r t c p) p s fun s =>
    let sc := scVal (me s) c
    let n := laneCount t
    let v := (List.range n).map fun j => qamaxOne (laneVal t (laneOf (laneWidth t) (readV s a) j)) (superScale sc)
    let low := 8 * (r.val * n % 128)
    result s ⟨.scale, d⟩ 3 (BitVec.ofNat 2048 (packLanes 8 (v.map (·.1)) * 2 ^ low + sc.ss.toNat * 2 ^ 1024))
      (BitVec.ofNat 2048 ((2 ^ (8 * n) - 1) * 2 ^ low + (2 ^ 32 - 1) * 2 ^ 1024)) false (allFlags (v.map (·.2)))

/-! ## Loads and stores of scales (09 R211, R216): the own slice alone -/

/-- The own-slice bytes of a scale access, or its fate: PERM outside the slice, ALIGN, SLICEOFF, UE. A load meets the slice as its
bundle issued (00 R7). Where several hold, the first of this list is the fate, and PERM reports x (DESIGN CHOICE, log entry 9). -/
def scaleAccess (s : State) (x : Word) (n align : Nat) (write : Bool) : Except (Cause × Word) Nat :=
  match ownOffset s s.cur.key x n with
  | none => .error (.perm, x)
  | some o =>
    match physFate (if write then s else asIssued s) (slicePhys (s.cur.key / 4) o) x.toNat n align write with
    | some e => .error e
    | none => .ok (slicePhys (s.cur.key / 4) o)

def execKlds (d : CReg) (a : SReg) (o : BitVec 11) (p : Tag) (s : State) : Host.Outcome State Fault Refusal :=
  operate (.klds d a o p) p s fun s =>
    match scaleAccess s (shortAddr s a 128 o) 128 1 false with
    | .error (c, x) => lateNow s c x
    | .ok pa => result s ⟨.scale, d⟩ 4 (BitVec.ofNat 2048 (physRead (asIssued s) pa 128)) (BitVec.ofNat 2048 (2 ^ 1024 - 1)) false 0
def execKldss (d : CReg) (a : SReg) (o : BitVec 11) (p : Tag) (s : State) : Host.Outcome State Fault Refusal :=
  operate (.kldss d a o p) p s fun s =>
    match scaleAccess s (shortAddr s a 4 o) 4 4 false with
    | .error (c, x) => lateNow s c x
    | .ok pa =>
      result s ⟨.scale, d⟩ 4 (BitVec.ofNat 2048 (physRead (asIssued s) pa 4 * 2 ^ 1024)) (BitVec.ofNat 2048 ((2 ^ 32 - 1) * 2 ^ 1024)) false 0
def execQsts (d : CReg) (a : SReg) (o : BitVec 11) (p : Tag) (s : State) : Host.Outcome State Fault Refusal :=
  operate (.qsts d a o p) p s fun s =>
    match scaleAccess s (shortAddr s a 128 o) 128 1 true with
    | .error (c, x) => lateNow s c x
    | .ok pa =>
      let v := (scVal (me s) d).bs.toNat
      ownStore (.qsts d a o p) (shortAddr s a 128 o) 128 v (physWrite · pa 128 v) s

end Sys2Proof.Machine
end

