-- ==== Sys2Proof/Machine/Matrix.lean ====
section
/-! DEFINITION. The matrix engine (spec/11_matrix_engine.md, R250-R273; the sums of 08 R183-R186): what each command does at
issue, and the steps of the engine. -/

namespace Sys2Proof.Machine

/-! ## The queue of a core -/

def setCmd (s : State) (n : Nat) (m : MatrixCmd) : State :=
  onCore s n fun q => { q with queue := q.queue.map fun x => if x.id == m.id then m else x }
def dropCmd (s : State) (n id : Nat) : State := onCore s n fun q => { q with queue := q.queue.filter fun x => x.id != id }
/-- The command the engine of a core has started. -/
def runningCmd (s : State) (n : Nat) : Option MatrixCmd := (coreAt s n).queue.find? fun m => m.phase != .queued
/-- The command with an id, and its core. -/
def cmdAt (s : State) (id : Nat) : Option (Nat × MatrixCmd) :=
  s.cores.findSome? fun e => (e.2.queue.find? fun m => m.id == id).map (e.1, ·)

/-- A context may name a tile of its mask only (02 R39). -/
def tileAllowed (s : State) (k : Nat) (t : Fin 16) : Bool :=
  (jobOfCtx s k).any fun j => j.masks.any fun m => m.1 == ctxId s k && m.2.getLsbD t

/-- A command of the bundle now issuing enters the queue, and its tile is busy. -/
def enqueue (s : State) (op : Instr) (t : Fin 16) (layout : Vector Word 8) (a b : Word) (ss : BitVec 32) (banks : BitVec 32)
    (rack : Option (Nat × Nat)) (counter : Option Nat) : State :=
  let k := s.cur.key
  let n := k / 4
  let m : MatrixCmd :=
    { id := s.nextId, ctx := k, op := op, layout := layout, a := a, b := b, ss := ss, tile := t, prio := (me s).mprio
      queuedAt := timeNow s, step := 0, flags := 0, banks := banks, rack := rack, counter := counter, words := []
      wordsS32 := false, wordsBad := [], scaled := false, phase := .queued, failed := none, bundle := s.cur.h, epoch := (me s).epoch, taskEnded := false }
  let s := setTile s n t { tileAt s n t with busy := true }
  fresh (onCore s n fun q => { q with queue := q.queue ++ [m] })

/-! ## Format pairs (11 Table matrix-2) -/

def pairDepth (w : Nat) : Nat := match w with | 3 | 4 => 32 | 5 => 8 | _ => 64
/-- The bytes of an element. -/
def pairBytes (w : Nat) : Nat := match w with | 3 | 4 => 2 | 5 => 4 | _ => 1
def pairFmtA (w : Nat) : Fmt := match w with | 1 => f8b | 3 => bf16 | 4 => fp16 | 5 => fp32 | _ => f8a
def pairFmtB (w : Nat) : Fmt := match w with | 3 => bf16 | 4 => fp16 | 5 => fp32 | _ => f8a
/-- The tile-table FMT of the B format. -/
def pairCode (w : Nat) : Nat := match w with | 0 | 1 => 0 | n => n

/-! ## MMA and MMAS at issue (11 R257-R261, R266-R268) -/

/-- The lowest byte of an extent that is not in the own slice, where there is one. -/
def lowestOutside (s : State) (k : Nat) (a n : Nat) : Option Nat :=
  let lo := windowAddr (coreAt s (k / 4)).logical 0
  if a < lo ∨ lo + 2 ^ 22 ≤ a then some a else if lo + 2 ^ 22 < a + n then some (lo + 2 ^ 22) else none

/-- The entry that a tile handle names. -/
def handleEntry (s : State) (k : Nat) (x : Word) (w : Nat) : Option TileEntry :=
  if x.toNat / 2 ^ 12 ≠ 0 then none
  else ((jobOfCtx s k).bind fun j => j.tiles[x.toNat]?).filter fun t => t.fmt == pairCode w

/-- The late fault that an MMA meets before it does anything: of several, the first of its fields, the extent of A, that of B, the
alignment of A, that of B and the handle (DESIGN CHOICE, log entry 58). -/
def mmaFault (s : State) (k : Nat) (e : Fin 16) (a b : Word) (w : Fin 8) : Option (Cause × Word) :=
  let c := ctxAt s k
  let f := fun j => eVal c e j
  let handle := bits (f 2) 0 0 = 1
  let z := pairBytes w
  let off := fun (x : Word) (m : Nat) => x.toNat % m ≠ 0
  if bits (f 2) 7 1 ≠ 0 ∨ bits (f 2) 63 24 ≠ 0 ∨ matrixCount c e = 0 ∨ (w.val = 2 ∧ ¬handle ∧ 15 < bits (f 2) 23 16) then
    some (.perm, 0)
  else
    match lowestOutside s k a.toNat (mmaABytes c e w), (if handle then none else lowestOutside s k b.toNat (mmaBBytes c e w)) with
    | some x, _ => some (.perm, BitVec.ofNat 64 x)
    | none, some x => some (.perm, BitVec.ofNat 64 x)
    | none, none =>
      if off a z ∨ off (f 0) z ∨ off (f 3) z then some (.align, a)
      else if ¬handle ∧ w.val = 2 ∧ (off b 128 ∨ off (f 4) 128) then some (.align, b)
      else if ¬handle ∧ w.val ≠ 2 ∧ (off b z ∨ off (f 1) z ∨ off (f 4) z) then some (.align, b)
      else if handle ∧ (handleEntry s k b w).isNone then some (.perm, 0)
      else none

def execMma (e : Fin 16) (a b : SReg) (t : Fin 16) (w : Fin 8) (p : Tag) (s : State) : Host.Outcome State Fault Refusal :=
  operate (.mma e a b t w p) p s fun s =>
    let k := s.cur.key
    if !tileAllowed s k t then lateNow s .perm 0
    else
      match mmaFault s k e (readS s a) (readS s b) w with
      | some (c, x) => lateNow s c x
      | none =>
        let i := Instr.mma e a b t w p
        let ss := (scVal (me s) (bits (eVal (me s) e 2) 23 16)).ss
        enqueue s i t (eAll (me s) e) (readS s a) (readS s b) ss (commandBanks s k i) none none

/-- The late fault that an MMAS meets before it does anything. -/
def mmasFault (s : State) (k : Nat) (e : Fin 16) (a b : Word) : Option (Cause × Word) :=
  let c := ctxAt s k
  if matrixCount c e = 0 ∨ 24 < matrixCount c e then some (.perm, 0)
  else
    match lowestOutside s k a.toNat (mmasBytes c e), lowestOutside s k b.toNat 256 with
    | some x, _ => some (.perm, BitVec.ofNat 64 x)
    | none, some x => some (.perm, BitVec.ofNat 64 x)
    | none, none =>
      if a.toNat % 256 ≠ 0 ∨ (eVal c e 0).toNat % 256 ≠ 0 then some (.align, a)
      else if b.toNat % 256 ≠ 0 then some (.align, b)
      else none

def execMmas (e : Fin 16) (a b : SReg) (t : Fin 16) (x : Fin 4) (p : Tag) (s : State) : Host.Outcome State Fault Refusal :=
  operate (.mmas e a b t x p) p s fun s =>
    let k := s.cur.key
    if !tileAllowed s k t then lateNow s .perm 0
    else
      match mmasFault s k e (readS s a) (readS s b) with
      | some (c, y) => lateNow s c y
      | none =>
        let i := Instr.mmas e a b t x p
        enqueue s i t (eAll (me s) e) (readS s a) (readS s b) 0 (commandBanks s k i) none none

/-! ## MZERO, MLD, MST, MPROOF and MPRI at issue (11 R269-R273) -/

def execMzero (t : Fin 16) (p : Tag) (s : State) : Host.Outcome State Fault Refusal :=
  operate (.mzero t p) p s fun s =>
    if !tileAllowed s s.cur.key t then lateNow s .perm 0
    else enqueue s (.mzero t p) t (Vector.replicate 8 0) 0 0 0 0 none none

/-- A row stride that breaks its alignment is found at row 1, a base at row 0. -/
def rowAlign (a stride : Word) (z : Nat) : Option Word :=
  if a.toNat % z ≠ 0 then some a else if stride.toNat % z ≠ 0 then some (a + stride) else none

/-- MLD: of several late faults PERM of its fields comes before ALIGN, as for MST (DESIGN CHOICE, log entry 58). -/
def execMld (e : Fin 16) (a : SReg) (t : Fin 16) (p : Tag) (s : State) : Host.Outcome State Fault Refusal :=
  operate (.mld e a t p) p s fun s =>
    let k := s.cur.key
    let f := eAll (me s) e
    if !tileAllowed s k t ∨ f[1].toNat / 2 ≠ 0 then lateNow s .perm 0
    else
      match rowAlign (readS s a) f[0] 4 with
      | some x => lateNow s .align x
      | none => enqueue s (.mld e a t p) t f (readS s a) 0 0 (commandBanks s k (.mld e a t p)) none none

/-- The limits of Table matrix-5 and of the completion word. -/
def mstOk (f : Vector Word 8) (done : Word) : Bool :=
  bits f[1] 2 0 ≤ 4 && bits f[1] 7 3 == 0 && bits f[1] 63 9 == 0 && bits f[2] 63 32 == 0 && done.toNat / 2 ^ 7 == 0

/-- The counter that a completion word names. -/
def mstCounter (done : Word) : Option Nat := if bits done 6 6 = 1 then none else some (bits done 5 0)

def execMst (e : Fin 16) (a b : SReg) (t : Fin 16) (p : Tag) (s : State) : Host.Outcome State Fault Refusal :=
  operate (.mst e a b t p) p s fun s =>
    let k := s.cur.key
    let f := eAll (me s) e
    if !tileAllowed s k t || !mstOk f (readS s b) then lateNow s .perm 0
    else
      match rowAlign (readS s a) f[0] (outBytes f[1]) with
      | some x => lateNow s .align x
      | none =>
        enqueue s (.mst e a b t p) t f (readS s a) 0 0 (commandBanks s k (.mst e a b t p)) none (mstCounter (readS s b))

def execMstRack (e : Fin 16) (a b : SReg) (t : Fin 16) (p : Tag) (s : State) : Host.Outcome State Fault Refusal :=
  operate (.mstRack e a b t p) p s fun s =>
    let k := s.cur.key
    let f := eAll (me s) e
    let z := outBytes f[1]
    if !tileAllowed s k t then lateNow s .perm 0
    else
      match rackTarget s k (readS s a) with
      | none => lateNow s .rackid (readS s a)
      | some _ =>
        if !mstOk f (readS s b) then lateNow s .perm 0
        else
          openTarget s (readS s a) 0 (127 * f[0].toNat + 96 * z - 1 : Nat) (mstCounter (readS s b)) fun s' rack dst =>
            match rowAlign dst f[0] z with
            | some x => lateNow (endTarget s' k s.nextId (some rack) false) .align x
            | none =>
              enqueue s' (.mstRack e a b t p) t f dst 0 0 (rowBanks s' k dst f[0] 128 (96 * z)) (some rack) (mstCounter (readS s b))

def execMproof (a : SReg) (t : Fin 16) (p : Tag) (imm : BitVec 32) (s : State) : Host.Outcome State Fault Refusal :=
  operate (.mproof a t p imm) p s fun s =>
    if !tileAllowed s s.cur.key t then lateNow s .perm 0
    else enqueue s (.mproof a t p imm) t (Vector.replicate 8 0) (readS s a) 0 0 0 none none

def execMpri (q : Fin 4) (p : Tag) (s : State) : Host.Outcome State Fault Refusal :=
  operate (.mpri q p) p s fun s => onCtx s s.cur.key fun c => { c with mprio := q }

/-! ## What a command reads and writes in memory -/

/-- The physical addresses of `n` bytes from `a` on, or the first fate met in reaching them. -/
def runPlaces (s : State) (j : Job) (write : Bool) (a : Nat) : Nat → Except (Cause × Word) (List Nat)
  | 0 => .ok []
  | n + 1 =>
    match translate j a write with
    | .error c => .error (c, BitVec.ofNat 64 a)
    | .ok pa =>
      if sliceOff s pa then .error (.sliceoff, BitVec.ofNat 64 a)
      else
        match runPlaces s j write ((a + 1) % 2 ^ 64) n with
        | .error e => .error e
        | .ok l => .ok (pa :: l)

/-- The lowest poisoned address of a run from `a` on with the places `l`, among the granules that `harms` names (21 Table intr-4). -/
def runPoison (bad : List Nat) (a : Nat) (l : List Nat) (harms : Nat → Bool) : Option Nat :=
  if bad.isEmpty then none else (l.zipIdx.find? fun x => bad.contains (x.1 / 16) && harms (x.1 / 16)).map fun x => a + x.2

/-- The little-endian number in a row, or the fate of reading it. -/
def readRow (s : State) (j : Job) (x : Nat × Nat) : Except (Cause × Word) Nat :=
  match runPlaces s j false x.1 x.2 with
  | .error e => .error e
  | .ok l =>
    match runPoison s.bad x.1 l fun _ => true with
    | some a => .error (.ue, BitVec.ofNat 64 a)
    | none => .ok (gatherBytesAt s.mem l)

/-- The rows in order, or the first fate. -/
def readRows (s : State) (j : Job) : List (Nat × Nat) → Except (Cause × Word) (List Nat)
  | [] => .ok []
  | x :: l =>
    match readRow s j x with
    | .error e => .error e
    | .ok v =>
      match readRows s j l with
      | .error e => .error e
      | .ok vs => .ok (v :: vs)

/-- A row lies in a stack that is handed over, or beyond paused wall buses, or behind an earlier access of the issuing context or an
earlier own-slice store of its core. -/
def rowWaits (s : State) (j : Job) (m : MatrixCmd) (write : Bool) (x : Nat × Nat) : Bool :=
  heldBehind s m.ctx m.id x.1 x.2 || ownStoreBehind s (m.ctx / 4) m.id x.1 x.2 ||
  match runPlaces s j write x.1 x.2 with
  | .ok l => l.any fun pa => (inStack pa && handing s (physStack pa) 1 5) || touchPaused s (m.ctx / 4) pa
  | .error _ => false

/-- The steps of an MMA or the elements of an MMAS. -/
def MatrixCmd.count (m : MatrixCmd) : Nat := m.field 2 / 2 ^ 8 % 2 ^ 8

/-- The rows of A that step `i` of an MMA of pair `w` reads. -/
def rowsA (m : MatrixCmd) (w i : Nat) : List (Nat × Nat) :=
  (List.range 128).map fun r => (m.a.toNat + i * m.field 3 + r * m.field 0, if w = 5 then 32 else 64)

/-- The rows of B that step `i` reads: one step of 3,168 bytes in use for pair 2. -/
def rowsB (j : Job) (m : MatrixCmd) (w i : Nat) : List (Nat × Nat) :=
  let n := 96 * pairBytes w
  if m.handle then
    let t := (j.tiles[m.b.toNat]?).getD ⟨0, 0, 0, 0⟩
    let q := m.field 4 + i
    if w = 2 then [((t.base.toNat + 3200 * q) % 2 ^ 64, 3168)]
    else (List.range (pairDepth w)).map fun k => ((t.base.toNat + (q * pairDepth w + k) * t.stride.toNat) % 2 ^ 64, n)
  else if w = 2 then [(m.b.toNat + i * m.field 4, 3168)]
  else (List.range (pairDepth w)).map fun k => (m.b.toNat + i * m.field 4 + k * m.field 1, n)

/-- The super-scale that a tile handle of pair 2 names, until it has been read. -/
def rowsScale (j : Job) (m : MatrixCmd) (w : Nat) : List (Nat × Nat) :=
  if m.handle ∧ w = 2 ∧ ¬m.scaled then [(((j.tiles[m.b.toNat]?).getD ⟨0, 0, 0, 0⟩).scale.toNat, 4)] else []

/-- The rows that the next step of a command reads. -/
def nextRows (j : Job) (m : MatrixCmd) : List (Nat × Nat) :=
  match m.op with
  | .mma _ _ _ _ w _ => rowsScale j m w ++ rowsA m w m.step ++ rowsB j m w m.step
  | .mmas .. => [(m.a.toNat + m.step * m.field 0, 2048), (m.b.toNat, 256)]
  | .mld .. => (List.range 128).map fun r => ((m.a.toNat + r * m.field 0) % 2 ^ 64, 384)
  | _ => []

/-- The row that an MST writes next. -/
def mstRow (m : MatrixCmd) : Nat × Nat :=
  ((m.a.toNat + m.step * m.field 0) % 2 ^ 64, 96 * outBytes (m.layout[1]))

/-- The first and the last bytes of rows. -/
def rowAddrs (l : List (Nat × Nat)) : List Nat := l.flatMap fun x => [x.1, x.1 + x.2 - 1]

/-- The places of rows that can all be reached. -/
def rowPlaces (s : State) (j : Job) (write : Bool) (l : List (Nat × Nat)) : List Nat :=
  l.flatMap fun x => match runPlaces s j write x.1 x.2 with | .ok p => p | .error _ => []

def isMst (i : Instr) : Bool := match i with | .mst .. | .mstRack .. => true | _ => false
def isMld (i : Instr) : Bool := match i with | .mld .. => true | _ => false
def isMma (i : Instr) : Bool := match i with | .mma .. | .mmas .. => true | _ => false

/-- The poisoned address of a row that can be reached, the lowest one. -/
def rowPoison (s : State) (j : Job) (x : Nat × Nat) : Option Nat :=
  match runPlaces s j false x.1 x.2 with
  | .ok l => runPoison s.bad x.1 l fun _ => true
  | .error _ => none

/-- The rows that the next step of a command reads, or its fate: for poison the lowest poisoned address that an MMA or MMAS step would
read (23 R403, 21 Table intr-4); an MLD stops at the first poisoned word in the order of its rows (11 R263). -/
def readStep (s : State) (j : Job) (m : MatrixCmd) : Except (Cause × Word) (List Nat) :=
  match readRows s j (nextRows j m) with
  | .error (.ue, a) =>
    .error (.ue, if isMld m.op then a else BitVec.ofNat 64 (((nextRows j m).filterMap (rowPoison s j)).foldl min a.toNat))
  | x => x

/-- The fate that the next step of a command would meet in memory. -/
def stepFate (s : State) (j : Job) (m : MatrixCmd) : Option (Cause × Word) :=
  if isMst m.op then
    match runPlaces s j true (mstRow m).1 (mstRow m).2 with
    | .error e => some e
    | .ok l =>
      (runPoison s.bad (mstRow m).1 l fun g => !coversGranule l g).map fun a => (.ue, BitVec.ofNat 64 a)
  else
    match readStep s j m with
    | .error e => some e
    | .ok _ => none

/-- The step has to wait: for a hand-over, an earlier access, or a page that is still to be serviced. -/
def stepWaits (s : State) (j : Job) (m : MatrixCmd) : Bool :=
  (if isMst m.op then rowWaits s j m true (mstRow m) else (nextRows j m).any (rowWaits s j m false)) ||
  (stepFate s j m).any walkable

/-! ## The sums (08 R183-R185, 11 R267, R268) -/

/-- The words of a tile, each given: zero words are not listed. -/
def tileWords (f : Nat → BitVec 32) : Store (BitVec 32) :=
  (List.range 12288).filterMap fun w => if f w = 0 then none else some (w, f w)

/-- Element `i` of `z` bytes in a row. -/
def elem (z row i : Nat) : Nat := row / 2 ^ (8 * z * i) % 2 ^ (8 * z)

/-- An exact sum of products with the flags met, in no order (08 R183): a NaN, or infinities of both signs, which raise NV, give
NaN; an exact zero is −0 only where every term is. -/
def sumVals (l : List (Val × Flags)) : Val × Flags :=
  let vs := l.map (·.1)
  let clash := vs.contains (.inf false) && vs.contains (.inf true)
  let fl := l.foldl (fun a x => a ||| x.2) (flagIf clash flagNV)
  if clash || vs.any Val.isNan then (.nan false, fl)
  else
    match vs with
    | [] => (.fin false 0 0, fl)
    | x :: vs => (vs.foldl (fun a b => (Val.add a b).1) x, fl)

/-- round_ne(acc + P, FP32). -/
def accumulate (acc : BitVec 32) (p : Val × Flags) : BitVec 32 × Flags :=
  let r := roundTo fp32 (Val.add (decodeFmt fp32 acc.toNat) p.1)
  (BitVec.ofNat 32 r.1, p.2 ||| r.2)

/-- The step sum of an element for pairs 0, 1, 3, 4 and 5 (08 R183). -/
def stepSum (w : Nat) (arow : Nat) (brow : Nat → Nat) (col : Nat) : Val × Flags :=
  let z := pairBytes w
  sumVals ((List.range (pairDepth w)).map fun k =>
    Val.mul (decodeFmt (pairFmtA w) (elem z arow k)) (decodeFmt (pairFmtB w) (elem z (brow k) col)))

/-- The step sum of an element for pair 2, with its block scale and the super-scale (08 R182, R184). -/
def stepSumQ (ss : BitVec 32) (arow step col : Nat) : Val × Flags :=
  let p := sumVals ((List.range 64).map fun k =>
    let c := step / 2 ^ (4 * (96 * k + col)) % 16
    let m := Val.mul (decodeFmt f8a (elem 1 arow k)) (q4nVal c)
    (m.1, m.2 ||| flagIf (c = 0) flagQP))
  let f := q4nFactor (elem 1 step (3072 + col)) (decodeFmt fp32 ss.toNat)
  let v := Val.mul f.1 p.1
  (v.1, p.2 ||| f.2 ||| v.2)

/-- The integer step of pair 6 (08 R185). -/
def stepSumI (acc : BitVec 32) (arow : Nat) (brow : Nat → Nat) (col : Nat) : BitVec 32 :=
  acc + BitVec.ofInt 32 (((List.range 64).map fun k => signed 8 (elem 1 arow k) * signed 8 (elem 1 (brow k) col)).sum)

/-- A word of the tile after step `i` of an MMA, from the rows read. -/
def mmaWord (w : Nat) (ss : BitVec 32) (a b : List Nat) (old : BitVec 32) (x : Nat) : BitVec 32 × Flags :=
  let arow := a[x / 96]?.getD 0
  let brow := fun k => b[k]?.getD 0
  match w with
  | 2 => accumulate old (stepSumQ ss arow (brow 0) (x % 96))
  | 6 => (stepSumI old arow brow (x % 96), 0)
  | _ => accumulate old (stepSum w arow brow (x % 96))

/-- A word of the tile after element `q` of an MMAS on an axis. -/
def mmasWord (axis q u d : Nat) (old : BitVec 32) (x : Nat) : BitVec 32 × Flags :=
  if x / 512 ≠ q then (old, 0)
  else
    let i := x % 8
    let j := x / 8 % 8
    let k := x / 64 % 8
    let point := fun (i j k : Nat) => decodeFmt fp32 (elem 4 u (64 * k + 8 * j + i))
    let op := fun (i l : Nat) => decodeFmt fp32 (elem 4 d (8 * i + l))
    accumulate old (sumVals ((List.range 8).map fun l =>
      match axis with
      | 0 => Val.mul (op i l) (point l j k)
      | 1 => Val.mul (op j l) (point i l k)
      | _ => Val.mul (op k l) (point i j l)))

/-- The tile after one step of an MMA or MMAS, with the flags of its roundings. -/
def stepTile (m : MatrixCmd) (t : Tile) (ss : BitVec 32) (rows : List Nat) : Tile × Flags :=
  let old := fun x => look 0 t.words x
  let f : Nat → BitVec 32 × Flags := match m.op with
    | .mma _ _ _ _ w _ => fun x => mmaWord w ss (rows.take 128) (rows.drop 128) (old x) x
    | .mmas _ _ _ _ ax _ => fun x => mmasWord ax m.step (rows[0]?.getD 0) (rows[1]?.getD 0) (old x) x
    | _ => fun x => (old x, 0)
  ({ t with words := tileWords fun x => (f x).1 }, allFlags ((List.range 12288).map fun x => (f x).2))

/-- The type that a command gives its tile when it completes. -/
def finalType (m : MatrixCmd) (old : Bool) : Bool :=
  match m.op with
  | .mma _ _ _ _ w _ => w.val == 6
  | .mmas .. | .mproof .. => false
  | .mld .. => m.field 1 % 2 == 1
  | _ => old

/-! ## The steps of the engine (11 R252-R255, R262, R263) -/

/-- The job of a core is being pre-empted: its MMA and MMAS commands stop at their boundaries (11 R255). -/
def stopping (s : State) (n : Nat) : Bool := (jobOfCore s n).any fun j => j.preempt.isSome

/-- The levels by which the priority of a command has risen at device time `now`: one for each 65,536 ns that it has waited in the
queue (11 R252). -/
def MatrixCmd.rises (now : Nat) (m : MatrixCmd) : Nat := if m.phase = .queued then (now - m.queuedAt) / 65536 else 0

/-- A command with the priority that it has at device time `now`. -/
def MatrixCmd.aged (now : Nat) (m : MatrixCmd) : MatrixCmd :=
  { m with prio := Fin.ofNat 4 (min 3 (m.prio.val + m.rises now)), queuedAt := m.queuedAt + 65536 * m.rises now }

/-- A queued command leaves the queue, with the wait that counts toward its next level. -/
def MatrixCmd.taken (now : Nat) (m : MatrixCmd) : MatrixCmd := { m.aged now with queuedAt := now - (m.aged now).queuedAt }
/-- A command that is not queued goes back to the queue, where its wait goes on. -/
def MatrixCmd.requeued (now : Nat) (m : MatrixCmd) : MatrixCmd := { m with phase := .queued, queuedAt := now - m.queuedAt }

/-- The better of two queued commands: higher priority, then issued first. -/
def betterCmd (a b : MatrixCmd) : MatrixCmd := if a.prio < b.prio || (a.prio == b.prio && b.id < a.id) then b else a

/-- The command the engine would start. -/
def bestCmd (s : State) (n : Nat) : Option MatrixCmd :=
  match ((coreAt s n).queue.filter fun m => m.phase == .queued && !(stopping s n && isMma m.op)).map (MatrixCmd.aged (timeNow s)) with
  | [] => none
  | m :: l => some (l.foldl betterCmd m)

/-- The accesses of core `n`'s engine to some rows go through the caches of the dies that own what they reach (13 R278), and leave
their route entries (R281). -/
def matrixTouch (s : State) (j : Job) (n : Nat) (write : Bool) (rows : List (Nat × Nat)) : State :=
  touchRoutes (cached s write (rowPlaces s j write rows)) j n (rowAddrs rows)

/-- A step that fails on poison has reached its rows (20 R369). -/
def rowsTouch (s : State) (j : Job) (n : Nat) (m : MatrixCmd) (e : Cause × Word) : State :=
  if e.1 = .ue then (if isMst m.op then matrixTouch s j n true [mstRow m] else matrixTouch s j n false (nextRows j m)) else s

/-- The super-scale of a tile handle is read once, when the command first starts (11 R261); where the read has to wait or
meets a fate, the first step's fetch reads it. -/
def readScale (s : State) (j : Job) (n : Nat) (m : MatrixCmd) : State × MatrixCmd :=
  match m.op with
  | .mma _ _ _ _ w _ =>
    match rowsScale j m w with
    | [x] =>
      match rowWaits s j m false x, readRow s j x with
      | false, .ok v => (matrixTouch s j n false [x], { m with ss := BitVec.ofNat 32 v, scaled := true })
      | _, _ => (s, m)
    | _ => (s, m)
  | _ => (s, m)

/-- MATRIX_COMMAND_START: an idle engine takes the queued command of highest priority. -/
def execMatrixCommandStart (n : Nat) (s : State) : Host.Outcome State Fault Refusal :=
  match runningCmd s n, bestCmd s n, jobOfCore s n with
  | none, some m, some j =>
    let x := readScale s j n m
    .next (setCmd x.1 n { x.2.taken (timeNow s) with phase := .running })
  | _, _, _ => .next s

/-- A poisoned word of its tile that the next step of an MMA or MMAS needs: any word, or one of the element's points. -/
def stepPoison (s : State) (n : Nat) (m : MatrixCmd) : Bool :=
  (tileAt s n m.tile).bad.any fun w => match m.op with | .mmas .. => w / 512 == m.step | _ => true

/-- A queued command has a priority above that of the running one. -/
def overtaken (s : State) (n : Nat) (m : MatrixCmd) : Bool :=
  (coreAt s n).queue.any fun x => x.phase == .queued && m.prio < (x.aged (timeNow s)).prio

/-- MATRIX_BOUNDARY: the running MMA or MMAS applies its next step; at the boundary after it a command of higher priority
takes its place, and a pre-emption stops it. A fate other than a page that can be serviced ends it. -/
def execMatrixBoundary (n : Nat) (s : State) : Host.Outcome State Fault Refusal :=
  match runningCmd s n, jobOfCore s n with
  | some m, some j =>
    if !isMma m.op || m.failed.isSome || m.count ≤ m.step || stepWaits s j m then .next s
    else
      match stepPoison s n m, readStep s j m with
      | true, _ => .next (setCmd s n { m with failed := some (.ue, 0) })
      | _, .error e => .next (setCmd (rowsTouch s j n m e) n { m with failed := some e })
      | _, .ok rows =>
        let s := matrixTouch s j n false (nextRows j m)
        let k := match m.op with | .mma _ _ _ _ w _ => (rowsScale j m w).length | _ => 0
        let ss := if k = 0 then m.ss else BitVec.ofNat 32 (rows.headD 0)
        let (t, fl) := stepTile m (tileAt s n m.tile) ss (rows.drop k)
        let back := m.step + 1 < m.count && (overtaken s n m || stopping s n)
        let m' := { m with step := m.step + 1, ss := ss, scaled := m.scaled || k != 0, flags := m.flags ||| fl }
        .next (setCmd (setTile s n m.tile t) n (if back then m'.requeued (timeNow s) else m'))
  | _, _ => .next s

/-- MATRIX_FETCH_FAULT: the data of the next step lie on a page that needs the service context: the engine stops and the
core's contexts are held (11 R262). -/
def execMatrixFetchFault (n : Nat) (s : State) : Host.Outcome State Fault Refusal :=
  match runningCmd s n, jobOfCore s n with
  | some m, some j =>
    let busyStep := if isMst m.op then m.phase == .writing && m.step < 128 else !isMma m.op || m.step < m.count
    if m.failed.isNone && busyStep && (stepFate s j m).any walkable
        && !((coreAt s n).services.contains (.operand m.id)) && ((coreAt s n).service.map (·.1)) != some (.operand m.id) then
      .next (onCore s n fun q => { q with hold := true, services := q.services ++ [.operand m.id] })
    else .next s
  | _, _ => .next s



/-- The command leaves the engine: its tile is not busy, its flags are in FPSTAT. -/
def leaveEngine (s : State) (n : Nat) (m : MatrixCmd) : State :=
  onCtx (dropCmd (unstage s n m) n m.id) m.ctx fun c => raiseFlags s.clock c m.flags

/-- The fault of a command that has failed. -/
def cmdFault (s : State) (m : MatrixCmd) (e : Cause × Word) : State :=
  engineFault s m.ctx m.taskEnded ⟨e.1, 0, e.2, m.bundle, 9, true, m.epoch, m.id, none⟩

/-- Free words for a whole tile (log entry 2). -/
def openWords (s : State) : Store (BitVec 32) :=
  tileWords fun w => BitVec.ofNat 32 (bits (openAt s (w / 64)) (32 * (w % 64) + 31) (32 * (w % 64)))

/-- The generator of MPROOF: the next state, which is also the value (11 R272). -/
def proofNext (st : Word) : Word :=
  let st := st ^^^ (st <<< 13)
  let st := st ^^^ (st >>> 7)
  st ^^^ (st <<< 17)
/-- `n` values of the generator. -/
def proofVals (st : Word) : Nat → List Word
  | 0 => []
  | n + 1 => proofNext st :: proofVals (proofNext st) n
/-- The operand bytes: every value gives eight, low byte first, with exponent bit 3 cleared. -/
def proofBytes (seed : Word) : List Nat :=
  (proofVals (seed ||| 1) 1792).flatMap fun v => (List.range 8).map fun i => (v.toNat / 2 ^ (8 * i) % 256) &&& 0xB7
/-- The rows of `n` bytes of a list of bytes, as numbers. -/
def byteRows (n : Nat) : Nat → List Nat → List Nat
  | 0, _ => []
  | r + 1, l => packLanes 8 (l.take n) :: byteRows n r (l.drop n)
/-- The tile that MPROOF leaves. -/
def proofTile (seed : Word) : Store (BitVec 32) :=
  let l := proofBytes seed
  let a := byteRows 64 128 l
  let b := byteRows 96 64 (l.drop 8192)
  tileWords fun x => (mmaWord 0 0 a b 0 x).1
/-- Its checksum. -/
def proofSum (t : Store (BitVec 32)) : BitVec 32 := BitVec.ofNat 32 ((t.map fun w => w.2.toNat).sum)

/-- The saturating count of proof failures. -/
def bumpFails (f : BitVec 32) : BitVec 32 := if f = BitVec.allOnes 32 then f else f + 1

/-- The poisoned words of its tile that a completed command leaves: MZERO, MLD and MPROOF write every word, MMA and MMAS write none that
is poisoned (11 R263). -/
def keptPoison (m : MatrixCmd) (t : Tile) : List Nat := if isMma m.op then t.bad else []

/-- MATRIX_COMMAND_COMPLETE: the running command has done all its steps, or ends with the fate it has met. -/
def execMatrixCommandComplete (n : Nat) (s : State) : Host.Outcome State Fault Refusal :=
  match runningCmd s n, jobOfCore s n with
  | some m, some j =>
    let t := tileAt s n m.tile
    let finish := fun (s : State) (words : Store (BitVec 32)) =>
      leaveEngine (setTile s n m.tile ⟨words, finalType m t.s32, false, keptPoison m t⟩) n m
    let spoilt := setTile { s with free := s.free + 192 } n m.tile ⟨openWords s, t.s32, false, []⟩
    match m.failed with
    | some e =>
      if isMst m.op then .next s
      else if isMld m.op then .next (cmdFault (leaveEngine spoilt n m) m e)
      else .next (cmdFault (leaveEngine (setTile s n m.tile { t with busy := false }) n m) m e)
    | none =>
      match m.op with
      | .mma .. | .mmas .. => if m.step = m.count then .next (finish s t.words) else .next s
      | .mzero .. => .next (finish s [])
      | .mld .. =>
        if stepWaits s j m then .next s
        else
          match readStep s j m with
          | .error e => .next (cmdFault (leaveEngine (rowsTouch spoilt j n m e) n m) m e)
          | .ok rows => .next (finish (matrixTouch s j n false (nextRows j m)) (tileWords fun w => BitVec.ofNat 32 (elem 4 (rows[w / 96]?.getD 0) (w % 96))))
      | .mproof _ _ _ imm =>
        let words := proofTile m.a
        let s := finish s words
        if proofSum words = imm then .next s
        else .next (onCore s n fun q => { q with fails := bumpFails q.fails, marked := q.marked || decide (2 ≤ (bumpFails q.fails).toNat), services := q.services ++ [.proof m.ctx m.a] })
      | _ => .next s
  | _, _ => .next s

/-- MATRIX_PRIORITY_AGEING: the levels that a queued command has risen by are noted in its entry; the engine reckons with them
whether or not they are. -/
def execMatrixPriorityAgeing (n id : Nat) (s : State) : Host.Outcome State Fault Refusal :=
  match (coreAt s n).queue.find? fun m => m.id == id with
  | some m => .next (setCmd s n (m.aged (timeNow s)))
  | none => .next s

/-! ## MST (11 R270, R271) -/

/-- MST_TILE_READ: the engine has read the whole tile, which is no longer busy. -/
def execMstTileRead (n : Nat) (s : State) : Host.Outcome State Fault Refusal :=
  match runningCmd s n with
  | some m =>
    if isMst m.op && m.phase == .running then
      let t := tileAt s n m.tile
      .next (setCmd (setTile s n m.tile { t with busy := false }) n
        { m with phase := .writing, words := t.words, wordsS32 := t.s32, wordsBad := t.bad })
    else .next s
  | none => .next s

/-- A tile word as an MST stores it. -/
def mstElement (f : Vector Word 8) (s32 : Bool) (x : BitVec 32) : Nat × Flags :=
  let fmt := bits f[1] 2 0
  let scale := bits f[1] 8 8 = 1
  let v : Val × Flags := if s32 then (ofInt (signed 32 x.toNat), 0) else (decodeFmt fp32 x.toNat, 0)
  let v := if scale then Val.mul v.1 (decodeFmt fp32 (bits f[2] 31 0)) else v
  if s32 ∧ fmt = 0 ∧ ¬scale then (x.toNat, 0)
  else roundTo (match fmt with | 1 => bf16 | 2 => fp16 | 3 => f8a | 4 => f8b | _ => fp32) v

/-- Row `m.step` of an MST is written, as a plain engine write; or meets its fate. A poisoned word of the tile stops it there,
and the granules of its destination are poisoned (11 R263); poison in a tile has no address: TADDR is 0 (log entry 43). -/
def mstWriteRow (s : State) (n : Nat) (m : MatrixCmd) : State :=
  match jobOfCore s n with
  | none => s
  | some j =>
    if m.phase ≠ .writing ∨ m.failed.isSome ∨ 128 ≤ m.step ∨ stepWaits s j m then s
    else
      match stepFate s j m, runPlaces s j true (mstRow m).1 (mstRow m).2 with
      | some e, _ => setCmd (rowsTouch s j n m e) n { m with failed := some e }
      | none, .error e => setCmd s n { m with failed := some e }
      | none, .ok l =>
        let z := outBytes m.layout[1]
        let cols := (m.wordsBad.find? fun w => w / 96 == m.step).elim 96 (· % 96)
        let row := (List.range cols).map fun c => mstElement m.layout m.wordsS32 (look 0 m.words (96 * m.step + c))
        let l' := l.take (z * cols)
        let lost := (l.drop (z * cols)).take (if cols = 96 then 0 else z)
        let s := scatterBytesAt { s with bad := s.bad.filter fun g => !coversGranule l' g } (packLanes (8 * z) (row.map (·.1))) l'
        let s := spoilBytes s (l'.filter (inFrame s n))
        let s := touchRoutes (cached { s with bad := lost.foldl (fun b pa => include1 b (pa / 16)) s.bad } true l') j n (rowAddrs [mstRow m])
        let failed := if cols = 96 then none else some (Cause.ue, 0)
        serveHeld (setCmd s n { m with step := m.step + 1, failed := failed, flags := m.flags ||| allFlags (row.map (·.2)) })

/-- MST_COMPLETE: every byte is performed: the tray is published, the flags are raised, then the counter is decremented;
or the store has failed, with what is written left. -/
def execMstComplete (id : Nat) (s : State) : Host.Outcome State Fault Refusal :=
  match cmdAt s id with
  | none => .next s
  | some (n, m) =>
    if !isMst m.op || m.phase != .writing then .next s
    else
      match m.failed with
      | some e => if targetHeld s m.ctx m.rack then .next s else .next (cmdFault (leaveEngine (endTarget s m.ctx id m.rack false) n m) m e)
      | none =>
        if m.step < 128 || targetHeld s m.ctx m.rack || (m.counter.isSome && completionHeld s n) then .next s
        else
          let s := if publishes s m.ctx id m.rack then commitTask s m.ctx m.taskEnded else s
          let s := leaveEngine (endTarget s m.ctx id m.rack true) n m
          .next (match m.counter with | some c => decrement s n c 1 | none => s)

end Sys2Proof.Machine
end

