-- ==== Sys2Proof/Machine/Tasks.lean ====
section
/-! DEFINITION. Counters, launches and the start of tasks (17 R337-R350). -/

namespace Sys2Proof.Machine

/-! ## Counters (17 R345-R347) -/

/-- TSET: a value above 65,535 is PERM and leaves the counter. It takes effect one cycle after issue (17 R345). -/
def execTset (a : SReg) (c : Fin 64) (p : Tag) (s : State) : Host.Outcome State Fault Refusal :=
  operate (.tset a c p) p s fun s =>
    let x := readS s a
    if 65535 < x.toNat then lateNow s .perm x
    else setCounterAt s (s.clock + cycleClocks s (s.cur.key / 4)) (s.cur.key / 4) c x.toNat

/-- The job of the issuing context and its logical core count. -/
def jobCores (s : State) : Nat := ((jobOfCtx s s.cur.key).map (·.n)).getD 0

/-- TDEC: a request to the target core. -/
def execTdec (a b : SReg) (c : Fin 64) (p : Tag) (s : State) : Host.Outcome State Fault Refusal :=
  operate (.tdec a b c p) p s fun s =>
    if jobCores s ≤ (readS s a).toNat then lateNow s .perm (readS s a)
    else if 65535 < (readS s b).toNat then lateNow s .perm (readS s b)
    else sendUnit s { newReq s (.tdec a b c p) (readS s a) with arg1 := readS s b }

/-- TWAIT has waited at issue until its counter is zero; it changes no state. -/
def execTwait (c : Fin 64) (p : Tag) (s : State) : Host.Outcome State Fault Refusal :=
  operate (.twait c p) p s fun s => s

/-- COUNTER_DECREMENT: a TDEC reaches its core. -/
def execCounterDecrement (id : Nat) (s : State) : Host.Outcome State Fault Refusal :=
  match reqAt s id with
  | none => .next s
  | some r =>
    match r.op, jobOfCtx s r.ctx with
    | .tdec _ _ c _, some j =>
      .next (unitStep s j r (decrement (setReq s { r with status := .performed }) (j.binding[r.addr.toNat]?.getD 0) c r.arg1.toNat))
    | _, _ => .next s

/-! ## SPAWN and ASEND (17 R348-R350) -/

/-- An address at which a task may start. -/
def handlerOk (x : Word) : Bool := (match spaceOf x.toNat with | .job => true | _ => false) && x.toNat % 4 == 0

def execSpawn (e : Fin 16) (a b : SReg) (q : Fin 4) (p : Tag) (s : State) : Host.Outcome State Fault Refusal :=
  operate (.spawn e a b q p) p s fun s =>
    if jobCores s ≤ (readS s a).toNat then lateNow s .perm (readS s a)
    else if !handlerOk (readS s b) then lateNow s .perm (readS s b)
    else
      sendUnit s { newReq s (.spawn e a b q p) (readS s a) with arg1 := readS s b, args := eAll (me s) e, prio := q }

/-- The destination of an ASEND is refused at issue. -/
def asendRefused (s : State) (x : Word) : Bool :=
  bits x 63 60 ≠ 0 || (bits x 27 16 == 0 && bits x 59 28 ≠ 0) || (bits x 27 16 == 0 && 4 * jobCores s ≤ bits x 15 0) ||
  bits x 27 16 == Config.partId.toNat

def execAsend (e : Fin 16) (a b : SReg) (p : Tag) (s : State) : Host.Outcome State Fault Refusal :=
  operate (.asend e a b p) p s fun s =>
    if asendRefused s (readS s a) then lateNow s .perm (readS s a)
    else if (readS s b).toNat % 4 ≠ 0 then lateNow s .perm (readS s b)
    else sendUnit s { newReq s (.asend e a b p) (readS s a) with arg1 := readS s b, args := eAll (me s) e }

/-- The READY entry that a launch makes. -/
def launchTask (r : Req) (sender : Nat) (bound : Option Nat) : Task :=
  { Task.reset with status := .ready, handler := r.arg1, args := r.args, prio := r.prio, sender := BitVec.ofNat 64 sender, bound := bound }

/-- A launch reaches logical core `core` of a job. -/
def launchAt (s : State) (j : Job) (core : Nat) (t : Task) (req : Option Nat) : State :=
  offer { s with launches := s.launches ++ [⟨j.id, core, t, req, none⟩] } j core 64

/-- The flits of the message that an ASEND sends to another part. -/
def asendFlits (r : Req) (sender : Nat) : List FlitBody :=
  [.messageHead (BitVec.ofNat 32 (bits r.addr 59 28)) (BitVec.ofNat 16 (bits r.addr 15 0)) (BitVec.ofNat 16 sender) r.arg1 r.prio,
   .messageArgs false #v[r.args[0], r.args[1], r.args[2], r.args[3]], .messageArgs true #v[r.args[4], r.args[5], r.args[6], r.args[7]]]

/-- An ASEND to another part leaves as class 1 flits, held at the I/O die while no route is in use (04 R83): the request keeps the
end-to-end number of the first. -/
def asendLeaves (s : State) (r : Req) (sender : Nat) : State :=
  let part := bits r.addr 27 16
  let n := look 0 s.endToEnd (sendKey part true)
  setReq ((asendFlits r sender).foldl (fun s b => launchFlit s part b) s) { r with status := .performed, arg2 := BitVec.ofNat 64 n }

/-- LAUNCH_ARRIVAL: a SPAWN or an ASEND within the part reaches its core; an ASEND to another part leaves on a link. -/
def execLaunchArrival (id : Nat) (s : State) : Host.Outcome State Fault Refusal :=
  match reqAt s id with
  | none => .next s
  | some r =>
    match jobOfCtx s r.ctx with
    | none => .next s
    | some j =>
      let sender := ctxId s r.ctx
      let held := setReq s { r with status := .held }
      match r.op with
      | .spawn .. => .next (unitStep s j r (launchAt held j r.addr.toNat (launchTask r sender none) (some id)))
      | .asend .. =>
        let dest := bits r.addr 15 0
        .next (unitStep s j r (if bits r.addr 27 16 = 0 then launchAt held j (dest / 4) (launchTask r sender (some (dest % 4))) (some id)
          else asendLeaves s r sender))
      | _ => .next s

/-- The message of an ASEND, whose first flit has number `n`, has not left the part. -/
def flitParked (s : State) (part n : Nat) : Bool :=
  s.parked.any fun f => f.body.ordered && f.dest.toNat == part && n ≤ f.endToEnd && f.endToEnd < n + 3

/-- LAUNCH_ACKNOWLEDGEMENT: the answer to a SPAWN, ASEND or TDEC returns; whether another part accepts is open (log entry 2). -/
def execLaunchAcknowledgement (id : Nat) (s : State) : Host.Outcome State Fault Refusal :=
  match reqAt s id with
  | none => .next s
  | some r =>
    if r.open || answerPaused s r then .next s
    else
      let done := fun (s : State) => dropReq s id
      match r.op with
      | .spawn .. | .tdec .. => .next (done s)
      | .asend .. =>
        let part := bits r.addr 27 16
        if part = 0 then .next (done s)
        else if flitParked s part r.arg2.toNat then .next s
        else
          let s' := openUsed (done s)
          if (openValue s).getLsbD 0 then .next s'
          else
            let s' := logCtx s' 13 r.ctx r.addr 0
            let f := reqFault r .perm r.addr none
            .next (if r.discard then orphanFault s' r.ctx { f with pos := 9 } else lateFault s' r.ctx { f with pos := 9 })
      | _ => .next s

/-- The task that a message of another part makes. -/
def remoteTask (m : RemoteSend) : Task :=
  { Task.reset with
    status := .ready, handler := m.handler, args := m.args, prio := m.prio
    sender := BitVec.ofNat 64 (m.sender.toNat + 2 ^ 16 * m.part.toNat), bound := some (m.ctx.toNat % 4) }

/-- The FREE entries of logical core `core` in a pre-empted job's saved tables that no launch has taken. -/
def savedRoom (s : State) (j : Job) (core : Nat) : Nat :=
  ((j.saved[core]?).map fun x => (x.core.tasks.toList.filter fun t => t.status == .free).length).getD 0 -
    (s.launches.filter fun l => l.job == j.id && l.core == core).length

/-- A message of another part takes effect: it is entered into a RUNNING job, or into the saved state of a PREEMPTED one, in whose
table it is READY from now on where an entry is FREE, to be found there when the job resumes; or it is refused and logged (17 R350). -/
def remoteArrive (s : State) (m : RemoteSend) : State :=
  let refused := logEntry s 13 0xFF m.ctx.toNat m.job.toNat (BitVec.ofNat 64 m.part.toNat) m.handler
  match jobAt s m.job.toNat with
  | none => refused
  | some j =>
    let core := m.ctx.toNat / 4
    if j.n ≤ core ∨ handlerOk m.handler = false then refused
    else
      match j.status with
      | .running => launchAt s j core (remoteTask m) none
      | .preempted => { s with launches := s.launches ++ [⟨j.id, core, remoteTask m, none, if savedRoom s j core = 0 then none else some s.clock⟩] }
      | _ => refused

/-- The core that a message goes to lies beyond paused wall buses (04 R78). -/
def messagePaused (s : State) (m : RemoteSend) : Bool :=
  (jobAt s m.job.toNat).any fun j => wayPaused s (.unit 28) (.core (j.binding[m.ctx.toNat / 4]?.getD 0))

/-- ASEND_REMOTE_ARRIVAL: the message of another part whose flits have been delivered reaches its core, behind those that came from
that part before it (04 R84). -/
def execAsendRemoteArrival (m : RemoteSend) (s : State) : Host.Outcome State Fault Refusal :=
  if (s.inbox.find? fun x => x.part == m.part) == some m && !messagePaused s m then .next (remoteArrive { s with inbox := s.inbox.erase m } m)
  else .next s

/-! ## The start of a task (17 R340-R342) -/

/-- 65,536 ns of device time in clocks (17 R341). -/
abbrev ageingClocks : Nat := 147456
/-- The levels a READY entry has gained by clock `now` (17 R341). -/
def aged (now : Nat) (t : Task) : Task :=
  if t.status = .ready then { t with boost := min (3 - t.prio.val) ((now - t.readyAt) / ageingClocks) } else t
/-- The current priority. -/
def currentPrio (t : Task) : Nat := t.prio.val + t.boost

/-- Context `c` of the core may run the entry. -/
def mayRun (c : Nat) (t : Task) : Bool := t.status == .ready && (t.bound.isNone || t.bound == some c)

/-- The better of two entries: current priority, then the earlier READY time, then the lower position. -/
def betterEntry (a b : Nat × Task) : Nat × Task :=
  if currentPrio a.2 < currentPrio b.2 || (currentPrio a.2 == currentPrio b.2 && b.2.readyAt < a.2.readyAt) then b else a

/-- The entry that context `c` would take. -/
def bestEntry (now c : Nat) (t : Vector Task 64) : Option (Nat × Task) :=
  match (List.range 64).filterMap fun i => (t[i]?).bind fun x => if mayRun c x then some (i, aged now x) else none with
  | [] => none
  | x :: l => some (l.foldl betterEntry x)

/-- The first IDLE context of a core that may take an entry, with that entry. -/
def taker (s : State) (n : Nat) : List Nat → Option (Nat × Nat × Task)
  | [] => none
  | c :: l =>
    match (if (ctxAt s (4 * n + c)).status = .idle then bestEntry s.clock c (coreAt s n).tasks else none) with
    | some (i, t) => some (c, i, t)
    | none => taker s n l

/-- Registers s1 to s10 at a task's start (17 Table tasks-2). -/
def startRegs (r : Vector Word 64) (t : Task) : Vector Word 64 :=
  let r := (List.range 8).foldl (fun r i => r.setIfInBounds (i + 1) (t.args[i]?.getD 0)) r
  (r.setIfInBounds 9 t.sender).setIfInBounds 10 t.group

/-- The context at the start of task `i` of its core. -/
def startCtx (c : Ctx) (i : Nat) (t : Task) : Ctx :=
  let p : Fin 4 := Fin.ofNat 4 (min 3 (currentPrio t))
  { c with
    pc := t.handler, loops := [], arrivals := [], s := startRegs c.s t, sdf := c.sdf &&& ~~~0x7FE#64
    task := some i, prio := p, mprio := p, status := .ready, committed := false, group := [], flights := [], late := [], held := []
    trap := none, svc := none, afterRft := false, landing := false, fence := none, waitc := 0, h := false, en := true, fetched := false }

/-- TASK_START: an IDLE context of a RUNNING job takes a READY entry and starts it; 8 clocks pass (log entry 12). -/
def execTaskStart (n : Nat) (s : State) : Host.Outcome State Fault Refusal :=
  match jobOfCore s n with
  | none => .next s
  | some j =>
    if j.status ≠ .running ∨ j.preempt.isSome then .next s
    else
      match taker s n [0, 1, 2, 3] with
      | none => .next s
      | some (c, i, t) =>
        let s := onCore s n fun q => { q with tasks := q.tasks.setIfInBounds i { t with status := .running } }
        .next (passClocks (onCtx s (4 * n + c) fun x => startCtx x i t) 8)

/-- TASK_PRIORITY_AGEING: the levels an entry has gained by now. -/
def execTaskPriorityAgeing (n i : Nat) (s : State) : Host.Outcome State Fault Refusal :=
  match (coreAt s n).tasks[i]? with
  | some t => if t.status = .ready then .next (onCore s n fun q => { q with tasks := q.tasks.setIfInBounds i (aged s.clock t) }) else .next s
  | none => .next s

end Sys2Proof.Machine
end

