-- ==== Sys2Proof/Machine/Groups.lean ====
section
/-! DEFINITION. Groups (17 R351-R360, R428): READY, UNREADY and GSEND, the counts on a group's tree, and the way of a
message to the one member that takes it. -/

namespace Sys2Proof.Machine

/-! ## Clusters and trees (01 R9-R11, 02 R36) -/

/-- The physical core of a logical context id. -/
def memberCore (j : Job) (c : Nat) : Nat := j.binding[c / 4]?.getD 0

/-- The root of a group's tree: the lowest stage whose one switch covers all members. -/
def groupRoot (s : State) (j : Job) (members : List Nat) : Node :=
  let cls := members.map fun c => clusterOf s (memberCore j c)
  match cls with
  | [] => .spine
  | c :: l => if l.all (· == c) then .cluster c else if l.all (fun d => d / 6 == c / 6) then .die (c / 6) else .spine

/-- The parent of a place on a tree with a given root; the root has none. -/
def parentNode (s : State) (root n : Node) : Option Node :=
  if n = root then none
  else
    match n with
    | .core c => some (.cluster (clusterOf s c))
    | .cluster c => if root = .spine then some (.die (c / 6)) else some root
    | .die _ => some .spine
    | .spine => none

/-- The down ports of a switch that lead to a member, in the order of R428. -/
def downPorts (s : State) (j : Job) (members : List Nat) (n : Node) : List Node :=
  let cores := members.map (memberCore j)
  match n with
  | .core _ => []
  | .cluster c => (clusterCores s c).filterMap fun x => if cores.contains x then some (.core x) else none
  | .die d => (List.range 6).filterMap fun i => if cores.any (fun x => clusterOf s x == 6 * d + i) then some (.cluster (6 * d + i)) else none
  | .spine => (List.range 4).filterMap fun d => if cores.any (fun x => coreDie x == d) then some (.die d) else none

/-! ## Counts and room -/

def countAt (g : Group) (n child : Node) : Nat :=
  ((g.counts.find? fun x => x.1 == n && x.2.1 == child).map (·.2.2)).getD 0
def setCount (g : Group) (n child : Node) (v : Nat) : Group :=
  { g with counts := (g.counts.filter fun x => !(x.1 == n && x.2.1 == child)) ++ [(n, child, v)] }

/-- The reservation count r of a member. -/
def roomOf (g : Group) (c : Nat) : Nat := ((g.room.find? fun x => x.1 == c).map (·.2)).getD 0
def setRoom (g : Group) (c r : Nat) : Group := { g with room := (g.room.filter fun x => x.1 != c) ++ [(c, r)] }

/-- A group of a job, and the job with a group replaced. -/
def groupAt (s : State) (job id : Nat) : Option Group := (jobAt s job).bind fun j => j.groups[id]?
def setGroup (s : State) (job id : Nat) (g : Group) : State :=
  match jobAt s job with
  | some j => setJob s { j with groups := j.groups.set id g }
  | none => s

/-- The total of a child: the sum of r for a core, the sum of its counts for a switch. -/
def childTotal (s : State) (j : Job) (g : Group) (n : Node) : Nat :=
  match n with
  | .core c => ((g.members.filter fun m => memberCore j m == c).map (roomOf g)).sum
  | n => ((downPorts s j g.members n).map (countAt g n)).sum

/-- An update starts from a core toward its cluster switch. -/
def sendUpdate (s : State) (job id core : Nat) (d : Int) : State :=
  { s with updates := s.updates ++ [⟨s.nextId, job, id, .core core, .cluster (clusterOf s core), d, false⟩], nextId := s.nextId + 1 }

/-! ## READY and UNREADY (17 R351-R353) -/

/-- The group an operation of context `k` names. -/
def namedGroup (s : State) (k : Nat) (x : Word) (member : Bool) : Option (Job × Group) :=
  match jobOfCtx s k with
  | none => none
  | some j =>
    if x.toNat / 2 ^ 10 ≠ 0 then none
    else (j.groups[x.toNat]?).bind fun g => if member && !g.members.contains (ctxId s k) then none else some (j, g)

/-- The FREE entries of a core. -/
def freeEntries (t : Vector Task 64) : Nat := (t.toList.filter fun x => x.status == .free).length

/-- `n` FREE entries become RESERVED for a member of a group. -/
def reserve (t : Vector Task 64) (c : Nat) (g : Word) : Nat → Vector Task 64
  | 0 => t
  | n + 1 =>
    match enterEntry t { Task.reset with status := .reserved, bound := some c, group := g } with
    | some t' => reserve t' c g n
    | none => t

def execReady (a b : SReg) (p : Tag) (s : State) : Host.Outcome State Fault Refusal :=
  operate (.ready a b p) p s fun s =>
    let k := s.cur.key
    let n := k / 4
    match namedGroup s k (readS s a) true with
    | none => lateNow s .groupid (readS s a)
    | some (j, g) =>
      let m := (readS s b).toNat
      let r := roomOf g (ctxId s k)
      if m = 0 then s
      else if 64 - r < m ∨ freeEntries (coreAt s n).tasks < m then lateNow s .perm (readS s b)
      else
        let s := onCore s n fun q => { q with tasks := reserve q.tasks (k % 4) (readS s a) m }
        sendUpdate (setGroup s j.id (readS s a).toNat (setRoom g (ctxId s k) (r + m))) j.id (readS s a).toNat n m

/-- A member's RESERVED entry for a group. -/
def isReserved (c : Nat) (g : Word) (t : Task) : Bool := t.status == .reserved && t.bound == some c && t.group == g

def execUnready (a : SReg) (p : Tag) (s : State) : Host.Outcome State Fault Refusal :=
  operate (.unready a p) p s fun s =>
    let k := s.cur.key
    let n := k / 4
    match namedGroup s k (readS s a) true with
    | none => lateNow s .groupid (readS s a)
    | some (j, g) =>
      let r := roomOf g (ctxId s k)
      if r = 0 then s
      else
        let s := onCore s n fun q => { q with tasks := q.tasks.map fun t => if isReserved (k % 4) (readS s a) t then Task.reset else t }
        offerCore (sendUpdate (setGroup s j.id (readS s a).toNat (setRoom g (ctxId s k) 0)) j.id (readS s a).toNat n (-(r : Int))) n

/-! ## Updates and refreshes (17 R354, R357) -/

/-- A packet from a core of the tree to its cluster switch stands before paused wall buses. -/
def climbPaused (s : State) (n : Node) : Bool :=
  match n with
  | .core c => wayPaused s (.core c) (.unit (4 + clusterOf s c))
  | _ => false

/-- No earlier update of the same group is still on the same port, and no pause holds it. -/
def updateFirst (s : State) (u : Update) : Bool :=
  !climbPaused s u.child && !(s.updates.any fun v => v.id < u.id && v.job == u.job && v.group == u.group && v.child == u.child)

/-- READINESS_UPDATE: the count of the port changes, stopping at zero, and the update passes to the parent. -/
def execReadinessUpdate (id : Nat) (s : State) : Host.Outcome State Fault Refusal :=
  match s.updates.find? fun u => u.id == id with
  | none => .next s
  | some u =>
    match groupAt s u.job u.group with
    | none => .next s
    | some g =>
      if u.refresh || !updateFirst s u then .next s
      else
        let v := ((countAt g u.parent u.child : Int) + u.delta).toNat
        let s := setGroup s u.job u.group (setCount g u.parent u.child v)
        let rest := s.updates.filter fun x => x.id != id
        match parentNode s g.root u.parent with
        | none => .next { s with updates := rest }
        | some q => .next { s with updates := rest ++ [{ u with child := u.parent, parent := q }] }

/-- REFRESH_ANSWER: the child's current total replaces the parent's count for it. -/
def execRefreshAnswer (id : Nat) (s : State) : Host.Outcome State Fault Refusal :=
  match s.updates.find? fun u => u.id == id with
  | none => .next s
  | some u =>
    match groupAt s u.job u.group, jobAt s u.job with
    | some g, some j =>
      if !u.refresh || !updateFirst s u then .next s
      else
        let s' := setGroup s u.job u.group (setCount g u.parent u.child (childTotal s j g u.child))
        .next { s' with updates := s'.updates.filter fun x => x.id != id }
    | _, _ => .next s

/-! ## GSEND (17 R355) -/

def execGsend (e : Fin 16) (a : SReg) (p : Tag) (s : State) : Host.Outcome State Fault Refusal :=
  operate (.gsend e a p) p s fun s =>
    match namedGroup s s.cur.key (readS s a) false with
    | none => lateNow s .groupid (readS s a)
    | some _ =>
      let f := eAll (me s) e
      if handlerOk f[0] then sendUnit s { newReq s (.gsend e a p) (readS s a) with args := f } else lateNow s .perm f[0]

/-! ## Steering (17 R356-R359) -/

def setMessage (s : State) (m : Message) : State := { s with messages := s.messages.map fun x => if x.id == m.id then m else x }
def dropMessage (s : State) (id : Nat) : State := { s with messages := s.messages.filter fun x => x.id != id }

/-- The request of a message's sender is answered: bound or parked, or discarded. -/
def answerSender (s : State) (id : Nat) (ok : Bool) (a : Word) : State :=
  { s with reqs := s.reqs.map fun r =>
      if r.id = id then (if ok then { r with status := .performed } else { r with status := .refused, found := some (.parkfull, a) }) else r }

/-- The stack of the park area: the lowest-numbered logical stack that the job holds (02 R34). -/
def parkStack (j : Job) : Option Nat :=
  (List.range 12).findSome? fun k => let st := (k + 3 * j.rot) % 12; if j.holds.any fun h => h.1 == st then some st else none

/-- The park area's stack is handed over: what goes there, or comes from there, waits (13 R278, R287). -/
def parkWaits (s : State) (j : Job) : Bool := (parkStack j).any fun st => handing s st 1 5

/-- The slots of a job's park area that hold messages. -/
def parkSlots (j : Job) : List Nat := j.groups.flatMap fun g => g.area.map (·.slot)
/-- The lowest free slot of a job's park area, which holds 512 messages per 64 KiB. -/
def freeParkSlot (j : Job) : Option Nat := (List.range (512 * j.park)).find? fun i => !(parkSlots j).contains i

/-- The physical address of a slot: the park area begins the lowest-numbered stack that the job holds, with 128 bytes a message
(log entry 42). -/
def slotPhys (j : Job) (slot : Nat) : Nat := stackPhys ((parkStack j).getD 0) (128 * slot)
/-- The bytes of a slot. -/
def slotBytes (j : Job) (slot : Nat) : List Nat := (List.range 128).map (slotPhys j slot + ·)

/-- A message as it stands in a slot: its payload, its sender, its group and its priority (log entry 42). -/
def Message.bytes (m : Message) : Nat :=
  packLanes 64 (m.payload.toList.map (·.toNat) ++ [m.sender, m.group, m.prio.val])

/-- A message written into its slot, at the die that owns the stack (13 R278). -/
def parkWrite (s : State) (j : Job) (m : Message) : State :=
  cached (physWrite s (slotPhys j m.slot) 128 m.bytes) true (slotBytes j m.slot)

/-- Messages move from the park area into the FIFO as room appears: each is read from its slot. -/
def refill (s : State) (j : Job) (g : Group) : State × Group :=
  if parkWaits s j || 64 ≤ g.fifo.length then (s, g)
  else
    let l := g.area.take (64 - g.fifo.length)
    (l.foldl (fun s m => cached s false (slotBytes j m.slot)) s, { g with fifo := g.fifo ++ l, area := g.area.drop (64 - g.fifo.length) })

/-- A message parks: a released one retakes its slot at the head; another goes to the tail of the FIFO, or of the park
area, or is discarded when both are full (17 R358); it waits at the root while the park area's stack is handed over. -/
def parkMessage (s : State) (j : Job) (g : Group) (m : Message) : State :=
  let m' := { m with parked := true, released := false, returned := none, bounces := 0, place := g.root }
  let s' := s
  let s := dropMessage s m.id
  if m.released then
    setGroup s m.job m.group { g with fifo := g.fifo.map fun x => if x.id = m.id then m' else x }
  else if g.fifo.length < 64 ∧ g.area.isEmpty then
    answerSender (setGroup s m.job m.group { g with fifo := g.fifo ++ [m'] }) m.id true 0
  else if parkWaits s j then setMessage s' { m with place := g.root, returned := none }
  else
    match freeParkSlot j with
    | some i =>
      let m' := { m' with slot := i }
      answerSender (parkWrite (setGroup s m.job m.group { g with area := g.area ++ [m'] }) j m') m.id true 0
    | none => answerSender s m.id false (BitVec.ofNat 64 m.group)

/-- The best of the down ports: the highest count, the lowest number on a tie. -/
def bestPort (g : Group) (n : Node) : List Node → Option (Node × Nat)
  | [] => none
  | c :: l =>
    match bestPort g n l with
    | none => if countAt g n c = 0 then none else some (c, countAt g n c)
    | some (d, v) => if v ≤ countAt g n c then some (c, countAt g n c) else some (d, v)

/-- The switch at which a message stands sends it down its best port, or up; at the root it parks where none counts, or
behind messages that are parked. -/
def steer (s : State) (j : Job) (g : Group) (m : Message) : State :=
  if 8 ≤ m.bounces ∨ m.place = g.root ∧ !m.released ∧ !(g.fifo.isEmpty && g.area.isEmpty) then parkMessage s j g m
  else
    match bestPort g m.place (downPorts s j g.members m.place) with
    | some (c, v) => setMessage (setGroup s m.job m.group (setCount g m.place c (v - 1))) { m with place := c, returned := none }
    | none =>
      match parentNode s g.root m.place with
      | none => parkMessage s j g m
      | some q => setMessage s { m with place := q, returned := some m.place }

/-- A GSEND's request as a message at its group's root. -/
def messageOf (s : State) (j : Job) (g : Group) (r : Req) : Message :=
  ⟨r.id, j.id, r.addr.toNat, ctxId s r.ctx, r.args, r.prio, g.root, none, 0, 0, false, false, false⟩

/-- An earlier message of the same sender to the same group is neither bound nor parked (17 R359). -/
def earlierMessage (s : State) (r : Req) : Bool :=
  s.reqs.any fun q => q.ctx == r.ctx && q.id < r.id && (match q.op with | .gsend .. => true | _ => false) && q.addr == r.addr && q.open

/-- GROUP_MESSAGE_STEER: a GSEND reaches its group's root in its turn, or a message at a switch goes on. -/
def execGroupMessageSteer (id : Nat) (s : State) : Host.Outcome State Fault Refusal :=
  match s.messages.find? fun m => m.id == id with
  | some m =>
    match jobAt s m.job, groupAt s m.job m.group, m.place with
    | some _, some _, .core _ => .next s
    | some j, some g, _ => if m.returned.isSome || m.bound then .next s else .next (steer s j g m)
    | _, _, _ => .next s
  | none =>
    match reqAt s id with
    | none => .next s
    | some r =>
      match r.op, jobOfCtx s r.ctx with
      | .gsend .., some j =>
        match j.groups[r.addr.toNat]? with
        | some g =>
          let m := messageOf s j g r
          if earlierMessage s r then .next s else .next (unitStep s j r (steer (setReq { s with messages := s.messages ++ [m] } { r with status := .held }) j g m))
        | none => .next s
      | _, _ => .next s

/-- The task a message becomes at a member. -/
def messageTask (now : Nat) (c : Nat) (m : Message) : Task :=
  { Task.reset with
    status := .ready, handler := m.payload[0], args := m.payload, prio := m.prio, readyAt := now
    sender := BitVec.ofNat 64 m.sender, group := BitVec.ofNat 64 m.group, bound := some (c % 4) }

/-- The first RESERVED entry of a member becomes the task. -/
def fillReserved (t : Vector Task 64) (c : Nat) (g : Word) (x : Task) : Vector Task 64 :=
  match (List.range 64).find? fun i => ((t[i]?).map (isReserved c g)).getD false with
  | some i => t.setIfInBounds i x
  | none => t

/-- The lowest-numbered member context on a core with room. -/
def memberWithRoom (j : Job) (g : Group) (core : Nat) : Option Nat :=
  let l := g.members.filter fun m => memberCore j m == core && roomOf g m != 0
  match l with
  | [] => none
  | m :: l => some (l.foldl min m)

/-- MEMBER_CORE_DELIVERY: the message binds to a member, or is rejected and returns to the cluster switch. -/
def execMemberCoreDelivery (id : Nat) (s : State) : Host.Outcome State Fault Refusal :=
  match s.messages.find? fun m => m.id == id with
  | none => .next s
  | some m =>
    match jobAt s m.job, groupAt s m.job m.group, m.place with
    | some j, some g, .core n =>
      if m.bound || wayPaused s (.unit (4 + clusterOf s n)) (.core n) then .next s
      else
        match memberWithRoom j g n with
        | none => .next (setMessage s { m with place := (parentNode s g.root (.core n)).getD g.root, returned := some (.core n) })
        | some c =>
          let g := setRoom g c (roomOf g c - 1)
          let (s, g) := if m.released then refill s j { g with fifo := g.fifo.filter fun x => x.id != id } else (s, g)
          let s := onCore s n fun q => { q with tasks := fillReserved q.tasks (c % 4) (BitVec.ofNat 64 m.group) (messageTask s.clock c m) }
          .next (setMessage (setGroup s m.job m.group g) { m with bound := true })
    | _, _, _ => .next s

/-- GROUP_BOUNCE: a message has returned from a child: the child's count is zeroed, a refresh is asked for, and the
message is steered again, or parks after 8 bounces (17 R357). -/
def execGroupBounce (id : Nat) (s : State) : Host.Outcome State Fault Refusal :=
  match s.messages.find? fun m => m.id == id with
  | none => .next s
  | some m =>
    match jobAt s m.job, groupAt s m.job m.group, m.returned with
    | some j, some g, some child =>
      if climbPaused s child then .next s else
      let g := setCount g m.place child 0
      let m := { m with returned := none, bounces := m.bounces + 1 }
      let s := setMessage (setGroup s m.job m.group g) m
      let s := { s with updates := s.updates ++ [⟨s.nextId, m.job, m.group, child, m.place, 0, true⟩], nextId := s.nextId + 1 }
      let j := (jobAt s m.job).getD j
      .next (steer s j g m)
    | _, _, _ => .next s

/-- PARK_RELEASE: the root steers the head of the FIFO, one message at a time, with its bounces forgotten. -/
def execParkRelease (job id : Nat) (s : State) : Host.Outcome State Fault Refusal :=
  match jobAt s job, groupAt s job id with
  | some j, some g =>
    let (s, g) := refill s j g
    match g.fifo with
    | [] => .next s
    | m :: l =>
      if m.released || (bestPort g g.root (downPorts s j g.members g.root)).isNone then .next (setGroup s job id g)
      else
        let m' := { m with released := true, parked := false, bounces := 0, place := g.root, returned := none }
        let g := { g with fifo := m' :: l }
        .next (steer (setGroup { s with messages := s.messages ++ [m'] } job id g) j g m')
  | _, _ => .next s

/-- The answer about a message at its sender: that of a bound one starts at the member's core (17 R356). -/
def messageAck (s : State) (id : Nat) : State :=
  let bound := (s.messages.find? fun m => m.id == id).any fun m => m.bound && !climbPaused s m.place
  let s := if bound then answerSender (dropMessage s id) id true 0 else s
  match reqAt s id with
  | none => s
  | some r =>
    match r.op with
    | .gsend .. =>
      if r.open || answerPaused s r then s
      else
        let done := dropReq s id
        match r.found with
        | none => done
        | some (c, a) =>
          let f := { reqFault r c a none with pos := 9 }
          if r.discard then orphanFault done r.ctx f else lateFault done r.ctx f
    | _ => s

/-- GROUP_MESSAGE_ACK: the answer about a message reaches its sender, whose request entry is free; a discarded message is
the late fault PARKFULL (17 R358). -/
def execGroupMessageAck (id : Nat) (s : State) : Host.Outcome State Fault Refusal := .next (messageAck s id)

end Sys2Proof.Machine
end

