-- ==== Sys2Proof/Machine/Handover.lean ====
section
/-! DEFINITION. PEEL and the seven steps of a hand-over (13 R282-R290). -/

namespace Sys2Proof.Machine

/-- The physical stack and die that a job's logical ones are bound to (02 R26). -/
def boundStack (j : Job) (k : Nat) : Nat := (k + 3 * j.rot) % 12
def boundDie (j : Job) (d : Nat) : Nat := (d + j.rot) % 4

/-- The job holds a physical stack. -/
def holdsStack (j : Job) (st : Nat) : Bool := j.holds.any fun h => h.1 == st

/-- The PEEL of a context has its way to the die that owns the stack before paused wall buses (04 R78). -/
def peelBefore (s : State) (h : Handover) : Bool :=
  match h.source with
  | .context _ k _ _ _ _ _ discarded => !discarded && wayPaused s (.core (k / 4)) (.unit (ownerDie s h.stack))
  | _ => false

/-- The hand-overs whose way is open now have reached their base dies, in the order of their issue, behind those that had come before
(13 R288). -/
def noteReached (s : State) : State :=
  let come := fun h : Handover => h.reached || !peelBefore s h
  { s with handovers := s.handovers.filter (·.reached) ++
      ((s.handovers.filter fun h => !h.reached && come h).map fun h => { h with reached := true }) ++ s.handovers.filter fun h => !come h }

/-- A hand-over goes to the base die, where it waits for its turn; paused wall buses on its way hold it up, until their pause ends. -/
def queueHandover (s : State) (stack job die : Nat) (src : HandoverSource) : State :=
  let h : Handover := ⟨stack, job, die, 0, false, s.clock, src⟩
  { s with handovers := s.handovers ++ [{ h with reached := !peelBefore s h }] }

/-- PEEL: rows two and three of Table stacks-2 are tested at issue; then the hand-over runs by itself and the PEEL holds one
request entry. -/
def execPeel (a b : SReg) (c : Fin 64) (p : Tag) (s : State) : Host.Outcome State Fault Refusal :=
  operate (.peel a b c p) p s fun s =>
    let k := s.cur.key
    let x := readS s a
    let y := readS s b
    match jobOfCtx s k with
    | none => lateNow s .stackown x
    | some j =>
      let st := boundStack j x.toNat
      let die := boundDie j y.toNat
      if 11 < x.toNat ∨ holdsStack j st = false then lateNow s .stackown x
      else if 3 < y.toNat ∨ (die ≠ homeDie st ∧ die ≠ otherDie st) then lateNow s .perm 0
      else
        let r := { newReq s (.peel a b c p) x with status := .performed }
        queueHandover (addReq s r) st j.id die (.context s.nextId k c x s.cur.h (me s).epoch false false)

/-! ## The turn of a hand-over (13 R288) -/

/-- The hand-over of a stack that is under way, or whose turn comes next: the first of those that have reached the base die. -/
def currentHandover (s : State) (stack : Nat) : Option Handover :=
  match s.handovers.find? fun h => h.stack == stack && h.step != 0 with
  | some h => some h
  | none => s.handovers.find? fun h => h.stack == stack && h.reached

/-- The first hand-over of a stack's current one, replaced. -/
def setHandover (s : State) (old new : Handover) : State := { s with handovers := s.handovers.map fun h => if h = old then new else h }
def dropHandovers (s : State) (old : Handover) : State := { s with handovers := s.handovers.erase old }

/-- The PEEL of a context gives up its request entry. -/
def peelDone (s : State) (src : HandoverSource) : State :=
  match src with
  | .context id _ _ _ _ _ _ discarded => if discarded then s else dropReq s id
  | _ => s

/-- What a hand-over's end does for the one that asked: the counter is decremented as a release, a PEEL_REQUEST completes
with its drain time, an ended job's stack is zeroed and free. -/
def handoverEnd (s : State) (h : Handover) (drain : Nat) : State :=
  match h.source with
  | .context _ k c _ _ _ _ discarded => if discarded then s else peelDone (decrement s (k / 4) c 1) h.source
  | .host p => complete s p stOk h.job (leBytes 8 drain)
  | .answered => s
  | .jobEnd =>
    let s := zeroStack s h.stack
    match jobAt s h.job with
    | some j => setJob s { j with holds := j.holds.filter fun x => x.1 != h.stack }
    | none => s

/-- The issuing core's die does not own the stack (13 Table stacks-2, fourth row). -/
def notOwner (s : State) (h : Handover) : Option FaultRec :=
  match h.source with
  | .context id k _ arg b ih _ _ =>
    if coreDie (k / 4) ≠ ownerDie s h.stack then some ⟨.stackown, 0, arg, b, 9, true, ih, id, none⟩ else none
  | _ => none

/-- The answer to the PEEL of a context has its way back before paused wall buses (04 R78). -/
def peelPaused (s : State) (h : Handover) : Bool :=
  match h.source with
  | .context _ k _ _ _ _ _ discarded => !discarded && wayPaused s (.unit (ownerDie s h.stack)) (.core (k / 4))
  | _ => false

/-- The decrement that completes the PEEL of a context has still to come behind what its core has sent to itself (04 R74), or stands
before paused wall buses on its way from the acquiring die (R78). -/
def peelHeld (s : State) (h : Handover) : Bool :=
  match h.source with
  | .context _ k _ _ _ _ _ discarded => !discarded && (completionHeld s (k / 4) || wayPaused s (.unit h.toDie) (.core (k / 4)))
  | _ => false

/-- The context that a hand-over's fault is delivered to, and whether its task has ended. -/
def handoverOwner (h : Handover) : Nat × Bool :=
  match h.source with
  | .context _ k _ _ _ _ te _ => (k, te)
  | _ => (0, true)

/-- HANDOVER_STOP_AND_HOLD: a hand-over takes its turn: its owner is checked; the stack and the acquiring die wake; both
memory switches hold the stack's requests from now on (13 R283 step 1). -/
def execHandoverStopAndHold (stack : Nat) (s : State) : Host.Outcome State Fault Refusal :=
  match currentHandover s stack with
  | none => .next s
  | some h =>
    if h.step ≠ 0 then .next s
    else
      match notOwner s h with
      | some f => .next (if peelPaused s h then s else engineFault (peelDone (dropHandovers s h) h.source) (handoverOwner h).1 (handoverOwner h).2 f)
      | none =>
        if h.toDie = ownerDie s stack then if peelHeld s h then .next s else .next (handoverEnd (dropHandovers s h) h 0)
        else
          .next { setHandover s h { h with step := 1, startAt := s.clock } with
            stacksAsleep := s.stacksAsleep.filter (· != stack), diesOff := s.diesOff.filter (· != h.toDie) }

/-- A hand-over at step `n` goes on to the next. -/
def advance (s : State) (stack n : Nat) (f : State → Handover → State) : Host.Outcome State Fault Refusal :=
  match currentHandover s stack with
  | some h => if h.step = n then .next (f (setHandover s h { h with step := n + 1 }) h) else .next s
  | none => .next s

/-- HANDOVER_QUEUE_DRAIN: every write of the stack that stands in the releasing die's write queues reaches the stack (13 R283
step 2). -/
def execHandoverQueueDrain (stack : Nat) (s : State) : Host.Outcome State Fault Refusal :=
  advance s stack 1 fun s _ => { s with writeQueue := s.writeQueue.filter fun x => lineStack x != stack }

/-- HANDOVER_WRITEBACK: the releasing cache writes back and invalidates every line of the stack (13 R283 step 3); poison stays
with its granules. -/
def execHandoverWriteback (stack : Nat) (s : State) : Host.Outcome State Fault Refusal :=
  advance s stack 2 fun s _ => { s with lines := s.lines.filter fun x => lineStack x.1 != stack }

/-- A cached translation of a page of the stack, on one of the stack's two dies. -/
def staleRoute (s : State) (stack : Nat) (r : Route) : Bool :=
  let die := if r.agent < 256 then coreDie r.agent else r.agent - 256
  (die == homeDie stack || die == otherDie stack) &&
    ((jobAt s r.job).bind fun j => j.pages.find? fun p => p.vpage == r.vpage).any fun p => p.stack == stack

/-- HANDOVER_TLB_INVALIDATE: the translation entries of both dies for the stack are gone (13 R283 step 4). -/
def execHandoverTlbInvalidate (stack : Nat) (s : State) : Host.Outcome State Fault Refusal :=
  advance s stack 3 fun s _ => { s with routes := s.routes.filter fun r => !staleRoute s stack r }

/-- HANDOVER_OWNER_FLIP: the owner register names the acquiring die's port (13 R283 step 5). -/
def execHandoverOwnerFlip (stack : Nat) (s : State) : Host.Outcome State Fault Refusal :=
  advance s stack 4 fun s h =>
    let rest := s.portB.filter (· != stack)
    { s with portB := if h.toDie = homeDie stack then rest else rest ++ [stack] }

/-- The way leads to a page of the stack. -/
def leadsTo (j : Job) (stack : Nat) (w : Nat × Nat) : Bool := stackOf j (65536 * w.1) == some stack
/-- The request's ways to the pages of a stack lead to a die. -/
def Req.toward (j : Job) (stack die : Nat) (r : Req) : Req := { r with ways := r.ways.map fun w => if leadsTo j stack w then (w.1, die) else w }
/-- The request has reached the stack's die `die`. -/
def reachedAt (s : State) (stack die : Nat) (r : Req) : Bool :=
  (jobOfCtx s r.ctx).any fun j => r.ways.any fun w => leadsTo j stack w && w.2 == die

/-- A request that the hand-over of the stack has held. -/
def heldFor (s : State) (stack : Nat) (r : Req) : Bool :=
  r.status == .held && isMemoryReq r &&
    (jobOfCtx s r.ctx).any fun j => (reqTargets r).any fun x => stackOf j x.1 == some stack

/-- A held request is performed at the acquiring die, and acknowledged from there; one that another hand-over concerns stays
held. -/
def performHeld (stack die : Nat) (s : State) (id : Nat) : State :=
  match reqAt s id with
  | none => s
  | some r =>
    match jobOfCtx s r.ctx with
    | none => s
    | some j =>
      if (reqTargets r).any fun x => (stackOf j x.1).any fun st => handing s st 1 5 then s
      else performReq (setReq s (Req.toward j stack die r)) j (Req.toward j stack die r)

/-- The turn of a held request has come: nothing that it follows is still to be performed (04 R73, R74, 13 R284). -/
def heldInTurn (s : State) (id : Nat) : Bool :=
  match reqAt s id with
  | none => false
  | some r => (jobOfCtx s r.ctx).any fun j => inTurn s j r

/-- Held requests performed in the order in which they stand, but none before one that it follows; those that follow a request
still on its way go on to the acquiring die. -/
def performAllHeld (stack die : Nat) : Nat → List Nat → State → State
  | 0, _, s => s
  | n + 1, l, s =>
    match l.find? (heldInTurn s) with
    | some id => performAllHeld stack die n (l.erase id) (performHeld stack die s id)
    | none =>
      let go := fun r : Req => { (jobOfCtx s r.ctx).elim r (fun j => Req.toward j stack die r) with status := .sent }
      { s with reqs := s.reqs.map fun r => if l.contains r.id && r.status == .held then go r else r }

/-- A withdrawn load that was held for the stack goes on to the acquiring die. -/
def ghostToward (s : State) (stack die : Nat) (r : Req) : Req :=
  if r.status == .held then { (jobOfCtx s r.ctx).elim r (fun j => Req.toward j stack die r) with status := .sent } else r

/-- HANDOVER_HELD_REQUESTS: the requests that the releasing die holds are performed at the acquiring die, then its own, each
in the order of their arrival (13 R283 step 6). -/
def execHandoverHeldRequests (stack : Nat) (s : State) : Host.Outcome State Fault Refusal :=
  advance s stack 5 fun s h =>
    let held := s.reqs.filter (heldFor s stack)
    let l := (held.filter fun r => !reachedAt s stack h.toDie r) ++ held.filter (reachedAt s stack h.toDie)
    let s := { s with ghosts := s.ghosts.map (ghostToward s stack h.toDie) }
    performAllHeld stack h.toDie (l.length + 1) (l.map (·.id)) s

/-- HANDOVER_COMPLETE (13 R283 step 7). -/
def execHandoverComplete (stack : Nat) (s : State) : Host.Outcome State Fault Refusal :=
  match currentHandover s stack with
  | some h => if h.step = 6 && !peelHeld s h then .next (handoverEnd (dropHandovers s h) h ((s.clock - h.startAt) * 4 / 9)) else .next s
  | none => .next s

end Sys2Proof.Machine
end

