-- ==== Sys2Proof/Machine/Traps.lean ====
section
/-! DEFINITION. Entries to handlers, the timer, and the service context (21 R372-R376, R388-R390; 07 R165). -/

namespace Sys2Proof.Machine

/-! ## Entries at a boundary -/

/-- The context holds the issue stage, which no one else uses, and stands at a bundle boundary at which it may enter a handler. -/
def atBoundary (s : State) (k : Nat) : Bool :=
  (ctxAt s k).status == .running && (ctxAt s k).waitc == 0 && stageOpen s (k / 4) && !entryBlocked s k

/-- The candidate that stands at the boundary of context `k`, which may enter a handler there: the results that are due have landed, so
that an MTS decides from its landing cycle on (06 R114, 07 R165). -/
def boundaryCandidate (s : State) (k : Nat) : Option Candidate :=
  if atBoundary s k then candidate (landDue s.clock (ctxAt s k)) else none

/-- TRAP_ENTRY: the entry for an issue-time or post-bundle trap, or a fetch fault. -/
def execTrapEntry (k : Nat) (s : State) : Host.Outcome State Fault Refusal :=
  match boundaryCandidate s k with
  | some (.trap f) => .next (takeEntry s k (.trap f))
  | _ => .next s

/-- The job of context `k` is being pre-empted: no event is taken (21 R391). -/
def jobStops (s : State) (k : Nat) : Bool := (jobOfCtx s k).any fun j => j.preempt.isSome

/-- EVENT_ENTRY -/
def execEventEntry (k : Nat) (s : State) : Host.Outcome State Fault Refusal :=
  match (if jobStops s k then none else boundaryCandidate s k) with
  | some .event => .next (takeEntry s k .event)
  | _ => .next s

/-- LATE_FAULT_DELIVERY: a late fault, or a held one at the boundary after RFT (21 R385). -/
def execLateFaultDelivery (k : Nat) (s : State) : Host.Outcome State Fault Refusal :=
  match boundaryCandidate s k with
  | some (.late f) => .next (takeEntry s k (.late f))
  | some (.held f) => .next (takeEntry s k (.held f))
  | _ => .next s

/-- TIMER_EXPIRY: TIMER has reached zero: EPEND.TIMER is set (07 R165). Every step has this take place for the timers that have run
out in it (noteTimers). -/
def execTimerExpiry (k : Nat) (s : State) : Host.Outcome State Fault Refusal := .next (onCtx s k (timerEvent (timeNow s)))

/-! ## The service context (21 R388-R390) -/

/-- The RUNNING context of a core gives up the stage to the service context. One that counts the empty cycles of a WAITC counts as
SERVICED, and keeps its claim to the stage (22 R397). -/
def yieldStage (s : State) (n : Nat) : State :=
  match runningCtx s n with
  | some c =>
    if (ctxAt s (4 * n + c.val)).waitc ≠ 0 then onCtx s (4 * n + c.val) fun x => { x with status := .serviced }
    else onCore (onCtx s (4 * n + c.val) fun x => { x with status := .ready }) n fun q => { q with holder := none, last := c }
  | none => s

/-- SERVICE_CONTEXT_ENTRY: the service context takes the stage for the oldest cause, at a bundle boundary or between the empty
cycles of a WAITC (06 R126, 22 R397). -/
def execServiceContextEntry (n : Nat) (s : State) : Host.Outcome State Fault Refusal :=
  let c := coreAt s n
  match c.services, c.service with
  | x :: l, none =>
    if !c.storeOk then .next s
    else
      let s := onCore (yieldStage s n) n fun q => { q with services := l, service := some (x, s.clock) }
      match x with
      | .proof k seed => .next (logProof s n k seed)
      | _ => .next s
  | _, _ => .next s

/-- The pages of a job that some of the addresses lie in are resident. -/
def makeResident (s : State) (j : Job) (l : List Nat) : State :=
  setJob s { j with pages := j.pages.map fun p => if l.any fun a => spaceOf a == .job && a / 65536 == p.vpage then { p with resident := true } else p }

/-- The addresses at which a copy's element meets the job space. -/
def elementAddrs (c : Copy) (k : Nat) : List Nat :=
  let z := bits c.pattern[0] 7 0
  (List.range z).flatMap fun i => [patternAddr c.pattern c.src false (z * k + i), patternAddr c.pattern c.dst true (z * k + i)]

/-- A cause that holds context `k`. -/
def servesCtx (s : State) (k : Nat) (x : ServiceCause) : Bool :=
  match x with
  | .walk id => (reqAt s id).any fun r => r.ctx == k && !r.discard
  | .stream q _ _ => q == k
  | .fetch q | .svc q _ => q == k
  | _ => false

/-- A SERVICED context goes on, once no other cause holds it. -/
def serviced (s : State) (k : Nat) : State :=
  if (coreAt s (k / 4)).services.any (servesCtx s k) then s
  else onCtx s k fun c => if c.status = .serviced ∧ c.waitc = 0 then { c with status := .ready } else c

/-- The context that the service context took the stage from in the empty cycles of a WAITC has it back, and those still due
resume, unless a cause of its own is still to be served (22 R397). -/
def resumeCount (s : State) (n : Nat) : State :=
  match (coreAt s n).holder with
  | some c =>
    if countHeld s n && !(coreAt s n).services.any (servesCtx s (4 * n + c.val)) then
      onCtx s (4 * n + c.val) fun x => { x with status := .running }
    else s
  | none => s

/-- PROBE's answer for an address (21 Table intr-7). -/
def probeBits (j : Job) (a : Nat) : Nat :=
  match spaceOf a with
  | .job => match pageOf j a with
    | some p => 1 + (if p.writable then 2 else 0) + (if p.exec then 4 else 0) + (if p.resident then 8 else 0)
    | none => 0
  | .slice n _ => if n < j.n then 11 else 0
  | _ => 0

/-- TOUCH's answer for an address. -/
def touchCode (j : Job) (a : Nat) : Nat :=
  match spaceOf a with
  | .job => if (pageOf j a).isSome then 0 else 0x11
  | .slice n _ => if n < j.n then 0 else 0x10
  | _ => 0x10

/-- s1 of a context, its deferred-fault bit clear. -/
def setS1 (s : State) (k : Nat) (v : Word) : State := onCtx s k fun c => { c with s := c.s.setIfInBounds 1 v, sdf := setDf c.sdf 1 false }

/-- The effect of a code that the service store does not define (06 R147). -/
def undefinedSvc (s : State) (k : Nat) (code : BitVec 12) : State :=
  onCtx s k fun c => { c with tcause := BitVec.ofNat 25 (0x40 + 2 ^ 8 * code.toNat) }

/-- The effect of an SVC code (21 Table intr-7). -/
def svcEffect (s : State) (j : Job) (k : Nat) (code : BitVec 12) : State :=
  let c := ctxAt s k
  let a := (sVal c 1).toNat
  match code.toNat with
  | 0 => s
  | 1 => setS1 (logCtx s 8 k (sVal c 1) (sVal c 2)) k 0
  | 2 => setS1 s k (BitVec.ofNat 64 (probeBits j a))
  | 3 => setS1 (makeResident s j [a]) k (BitVec.ofNat 64 (touchCode j a))
  | _ => undefinedSvc s k code

/-- A fetch fault of context `k` at its PC (05 R87). -/
def fetchFault (s : State) (k : Nat) (e : Cause × Word) : FaultRec :=
  ⟨e.1, 0, e.2, (ctxAt s k).pc, 15, false, (ctxAt s k).epoch, s.nextId, none⟩

/-- What a walk is left with. -/
def walkOutcome (s : State) (j : Job) (r : Req) : State :=
  if ((reqTargets r).findSome? (walkFate j)).isSome then walkRefused s j r else s

/-- The fate that a stream's next transfer is left with (10 R246, R247): that of an input stream is held for the bundle that
would read the vector, that of an output stream ends it; after TEND the failure ends the job (23 R406). -/
def streamOutcome (s : State) (j : Job) (k n : Nat) (st : Stream) : State :=
  match nextFate s j st with
  | none => s
  | some e =>
    if st.out then
      if (ctxAt s k).status = .ending then engineFault s k true (streamFaultRec st e)
      else lateFault (onCtx s k fun x => { x with streams := x.streams.setIfInBounds n none }) k (streamFaultRec st e)
    else onCtx s k fun x => { x with streams := x.streams.setIfInBounds n (some { st with fault := some (streamFaultRec st e) }) }

/-- The fate that a matrix command's next step is left with. -/
def operandOutcome (s : State) (n id : Nat) : State :=
  match cmdAt s id, jobOfCore s n with
  | some (_, m), some j =>
    match stepFate s j m with
    | some e => if walkable e then setCmd s n { m with failed := some e } else s
    | none => s
  | _, _ => s

/-- What the service context does for a cause: `resolve` says that it acts, and is not made to return first (21 R389,
Table intr-6). -/
def serveCause (s : State) (n : Nat) (x : ServiceCause) (resolve : Bool) : State :=
  match jobOfCore s n with
  | none => s
  | some j =>
    match x with
    | .walk id =>
      match reqAt s id with
      | none => s
      | some r =>
        let s := if resolve then makeResident s j ((reqTargets r).map (·.1)) else s
        let j := (jobAt s j.id).getD j
        serviced (walkOutcome s j r) r.ctx
    | .fetch k =>
      let pc := (ctxAt s k).pc.toNat
      let s := if resolve then makeResident s j ((List.range 16).map fun i => pc + 4 * i) else s
      let j := (jobAt s j.id).getD j
      match fetchBundle s j (ctxAt s k).pc with
      | .ok _ => serviced s k
      | .error e => serviced (onCtx s k fun c => { c with trap := some (fetchFault s k e) }) k
    | .stream k n order =>
      match ((ctxAt s k).streams[n]?).getD none with
      | some st =>
        if st.order = order then
          let s := if resolve then makeResident s j (streamAddrs st (transferPos st)) else s
          serviced (streamOutcome s ((jobAt s j.id).getD j) k n st) k
        else serviced s k
      | none => serviced s k
    | .element id k =>
      match copyAt s id with
      | some c => if resolve then makeResident s j (elementAddrs c k) else s
      | none => s
    | .operand id =>
      let s := onCore s n fun q => { q with hold := false }
      match cmdAt s id with
      | none => s
      | some (_, m) =>
        let rows := if isMst m.op then [mstRow m] else nextRows j m
        operandOutcome (if resolve then makeResident s j (rowAddrs rows) else s) n id
    | .proof _ _ => s
    | .svc k code => serviced (if resolve then svcEffect s j k code else undefinedSvc s k code) k

/-- The service context of core `n` gives back the stage: its cause is served, and the selector chooses afresh. -/
def serviceReturn (s : State) (n : Nat) (x : ServiceCause) (resolve : Bool) : State :=
  resumeCount (serveCause (onCore s n fun q => { q with service := none }) n x resolve) n

/-- The service context is made to return, and an error-log entry is made (21 R389). -/
def serviceExpired (s : State) (n : Nat) (x : ServiceCause) : State :=
  serviceReturn (logEntry s 12 n 0xFFFF ((coreAt s n).job.getD 0) 0 0) n x false

/-- SERVICE_CONTEXT_RETURN: the cause is served; a return that comes at the deadline or after it is the one that the deadline makes. -/
def execServiceContextReturn (n : Nat) (s : State) : Host.Outcome State Fault Refusal :=
  match (coreAt s n).service with
  | none => .next s
  | some (x, t) => .next (if t + 20000 ≤ s.clock then serviceExpired s n x else serviceReturn s n x true)

/-- SERVICE_DEADLINE: after 20,000 clocks the service context is made to return, its cause not resolved. -/
def execServiceDeadline (n : Nat) (s : State) : Host.Outcome State Fault Refusal :=
  match (coreAt s n).service with
  | none => .next s
  | some (x, t) => .next (if s.clock < t + 20000 then s else serviceExpired s n x)

end Sys2Proof.Machine
end

