-- ==== Sys2Proof/Machine/Links.lean ====
section
/-! DEFINITION. Zyndel links (04 R81-R84), the readings of the columns (01 R18-R20), the realignment of the wall buses
(04 R77, R78), and the CXL port (03 R67). -/

namespace Sys2Proof.Machine

/-! ## Arrival (04 R82, R84, R85) -/

/-- The requester that stands for a part at the inbound ordering point; PCIe requesters have 16 bits. -/
def partRequester (part : BitVec 12) : Nat := 2 ^ 16 + part.toNat

/-- The packets of a write from BAR2 offset `x` on: pieces up to the next 256-byte boundary. -/
def cutWrite (r w x id : Nat) (ro : Bool) (reply : Option (Nat × Nat × Nat × Nat)) : Nat → List (Option Byte) → List Packet
  | 0, _ => []
  | _, [] => []
  | n + 1, data =>
    let room := 256 - x % 256
    ⟨id, r, w, x, data.take room, ro, false, reply, none, 0, 0, .waiting⟩ :: cutWrite r w (x + room) (id + 1) ro reply n (data.drop room)

/-- A posted write waits at the inbound ordering point as packets. -/
def postWrite (s : State) (r off : Nat) (data : List (Option Byte)) (ro : Bool) (reply : Option (Nat × Nat × Nat × Nat)) : State :=
  let l := cutWrite r s.writes off s.nextId ro reply 17 data
  { s with packets := s.packets ++ l, nextId := s.nextId + l.length, writes := s.writes + 1 }

/-- The arguments that a flit brings join the message of their part. -/
def joinArgs (m : RemoteSend) (last : Bool) (l : Vector Word 4) : RemoteSend :=
  { m with args := vec8 fun i => if last == decide (4 ≤ i) then l[i % 4]?.getD 0 else m.args[i]?.getD 0 }

/-- A flit of an active message, whose last one completes it. -/
def messageFlit (s : State) (part : BitVec 12) (last : Bool) (l : Vector Word 4) : State :=
  match s.coming.find? fun x => x.1 == part.toNat with
  | none => s
  | some x =>
    let m := joinArgs x.2 last l
    let rest := s.coming.filter fun y => y.1 != part.toNat
    if last then { s with coming := rest, inbox := s.inbox ++ [m] } else { s with coming := rest ++ [(part.toNat, m)] }

/-- An acknowledged piece of an element; the element is moved once all are acknowledged (04 R85), and while its core's wall buses pause
the news waits at the I/O die (R78). -/
def pieceAcked (s : State) (x : Copy) (k i : Nat) : State :=
  if x.sent.any fun y => y.1 == k then
    let x := { x with acked := addTo x.acked (k, i) }
    setCopy s (if peerDone s x k then elementDone x k else x)
  else s

/-- A flit's data take effect at this part: an active message that is whole goes on to its core (17 R350); a peer's copy write is a
posted write and its copy read a non-posted read, with the peer as requester; acknowledgements and the data of a read go to their
copy, and a refused read is its failure, of a cause the manual leaves open (log entry 2). -/
def deliverFlit (s : State) (f : Flit) : State :=
  let part := f.source.toNat
  match f.body with
  | .messageHead job ctx sender h p =>
    { s with coming := (s.coming.filter fun y => y.1 != part) ++ [(part, ⟨f.source, job, ctx, sender, h, p, Vector.replicate 8 0⟩)] }
  | .messageArgs last l => messageFlit s f.source last l
  | .copyWrite off data c k i => postWrite s (partRequester f.source) off (data.map some) false (some (part, c, k, i))
  | .copyRead off len c k => { s with reads := s.reads ++ [⟨partRequester f.source, off, len, f.endToEnd, s.writes, some (part, c, k)⟩] }
  | .copyAck c k i => match copyAt s c with | some x => pieceAcked s x k i | none => s
  | .readData d c k i =>
    match copyAt s c, d with
    | some x, some l => setCopy s { x with got := x.got ++ [(k, i, l)] }
    | some x, none =>
      let a := patternAddr x.pattern x.src false (bits x.pattern[0] 7 0 * k)
      openUsed (setCopy s { x with failed := some (openCause s, BitVec.ofNat 64 a) })
    | none, _ => s

/-- The held class 1 flits of a source are delivered while the next in end-to-end sequence is among them. -/
def deliverInOrder (s : State) (src : BitVec 12) : Nat → State
  | 0 => s
  | n + 1 =>
    let e := look 0 s.endToEnd src.toNat
    match s.early.find? fun f => f.source == src && f.endToEnd == e with
    | none => s
    | some f => deliverInOrder (deliverFlit { s with early := s.early.erase f, endToEnd := put s.endToEnd src.toNat (e + 1) } f) src n

/-- CLASS1_DELIVERY: a class 1 flit is delivered strictly in end-to-end sequence: an early one is held, a duplicate is
discarded. -/
def orderedFlit (s : State) (f : Flit) : State :=
  if f.endToEnd < look 0 s.endToEnd f.source.toNat ∨ (s.early.any fun g => g.source == f.source && g.endToEnd == f.endToEnd) then s
  else deliverInOrder { s with early := s.early ++ [f] } f.source (s.early.length + 1)

/-- A class 0 flit is delivered on arrival; a duplicate is discarded. -/
def bulkFlit (s : State) (f : Flit) : State :=
  if s.bulk.contains (f.source.toNat, f.endToEnd) then s
  else deliverFlit { s with bulk := s.bulk ++ [(f.source.toNat, f.endToEnd)] } f

/-- A flit for this part takes effect by its class; one for another part is forwarded. -/
def receiveFlit (s : State) (f : Flit) : State :=
  if f.dest != Config.partId then placeFlit s f else if f.body.ordered then orderedFlit s f else bulkFlit s f

/-- The replays of a link within the last millisecond, with one now. -/
def Link.replayed (k : Link) (now : Nat) : List Nat := (k.replays.filter fun t => now < t + 1000000) ++ [now]

/-- FLIT_ARRIVAL: a flit with a CRC error or out of link sequence is discarded, and a replay from the first that has not been taken is
asked for; any other is taken and so acknowledged, which every flit says that leaves on the link from then on. It acknowledges what
this part has sent on the link below its number, which leaves the replay buffer, or asks for a replay from there, which sends the
buffer again. Each flit discarded here and each request for a replay that arrives counts as one replay of the link (DESIGN CHOICE,
log entry 24). -/
def execFlitArrival (l : Nat) (ok : Bool) (f : Flit) (s : State) : Host.Outcome State Fault Refusal :=
  let k := linkAt s l
  if 16 ≤ l ∨ k.trained = false ∨ f.body.fits = false then .next s
  else if ok = false ∨ f.seq ≠ k.expect then .next (setLink s l { k with ask := true, replays := k.replayed (timeNow s) })
  else
    let rest := k.unacked.filter fun g => f.ack ≤ g.seq
    .next (receiveFlit (setLink s l { k with
      expect := k.expect + 1, ask := false
      unacked := if f.again then rest.map fun g => { g with ack := k.expect + 1, again := false } else rest
      replays := if f.again then k.replayed (timeNow s) else k.replays }) f)

/-! ## Retraining (04 R83) -/

/-- A link's scheduled retrain is due: every 10 s, the links staggered by 625 ms (log entry 24), or after more than 16 replays within a
millisecond. -/
def retrainDue (s : State) (l : Nat) : Bool :=
  let k := linkAt s l
  k.dueAt + 625000000 * l ≤ timeNow s || 16 < (k.replays.filter fun t => timeNow s < t + 1000000).length

/-- LINK_RETRAIN: the link is out of use, and its unacknowledged flits leave by the other links toward their parts. Its link-level
sequence numbers go on from where they stood (DESIGN CHOICE, log entry 24). -/
def execLinkRetrain (l : Nat) (s : State) : Host.Outcome State Fault Refusal :=
  let k := linkAt s l
  if 16 ≤ l ∨ k.trained = false ∨ retrainDue s l = false then .next s
  else
    let due := if k.dueAt + 625000000 * l ≤ timeNow s then k.dueAt + 10000000000 else k.dueAt
    .next (k.unacked.foldl placeFlit (setLink s l { k with trained := false, replays := [], unacked := [], dueAt := due }))

/-- LINK_RETRAIN_END: a configured link is in use (again), and held flits that it leads for leave. -/
def execLinkRetrainEnd (l : Nat) (s : State) : Host.Outcome State Fault Refusal :=
  if h : l < 16 then
    if (linkAt s l).trained ∨ Config.linkConfigured ⟨l, h⟩ = false then .next s
    else .next (s.parked.foldl placeFlit (setLink { s with parked := [] } l { linkAt s l with trained := true }))
  else .next s

/-! ## Columns -/

/-- The slices of a layer are lost. -/
def loseSlices (s : State) (die layer : Nat) : State :=
  (List.range 25).foldl (fun s c =>
    let lo := slicePhys (64 * die + 32 * layer + c) 0
    { s with
      mem := clearRange s.mem lo (lo + 2 ^ 22)
      full := exclude s.full (lo / 16) (lo / 16 + 2 ^ 18), bad := exclude s.bad (lo / 16) (lo / 16 + 2 ^ 18) }) s

/-- A layer is turned off at once, its slices are lost and the event is logged; the jobs bound to it end by JOB_END (23 R411). -/
def emergencyOff (s : State) (die layer : Nat) : State :=
  if s.layersOff.contains (die, layer) then s
  else logEntry { loseSlices s die layer with layersOff := addTo s.layersOff (die, layer) } 14 0xFF 0xFFFF 0 (BitVec.ofNat 64 (2 * die + layer)) 0

/-- COLTEMP_REFRESH: a reading that is due, every 1,000 ns; TEMP and HALF are one sample: HALF is set above 105 °C and cleared at
100 °C or lower. At 125 °C the layers that the column has a core in, both of its die, are turned off (23 R411). -/
def execColtempRefresh (die col : Nat) (t : BitVec 16) (s : State) : Host.Outcome State Fault Refusal :=
  let c := columnAt s die col
  if 4 ≤ die ∨ 25 ≤ col ∨ t.toInt < -160 ∨ 600 < t.toInt ∨ timeNow s < c.tempDue then .next s
  else
    let half := if 420 < t.toInt then true else if t.toInt ≤ 400 then false else c.half
    let s := setColumn s die col { c with temp := t, half := half, tempDue := c.tempDue + 1000 }
    .next (if 500 ≤ t.toInt then emergencyOff (emergencyOff s die 0) die 1 else s)

/-- A packet of a copy is queued to cross a column: an element not moved has a side whose way, or the way back, crosses it
(04 R72, R77). -/
def copyCrosses (s : State) (die col : Nat) (c : Copy) : Bool :=
  let n := c.ctx / 4
  (jobOfCore s n).any fun j => (List.range (patternElements c.pattern)).any fun k => !c.moved.contains k &&
    match elementPlaces s j c k with
    | .ok (a, b) => (a ++ b).any fun x => crossesAt die col (.core n) (sideAgent s x) || crossesAt die col (sideAgent s x) (.core n)
    | .error _ => false

/-- The copy names a barrier whose current phase has a context waiting in BWAIT. -/
def copyAwaited (s : State) (c : Copy) : Bool :=
  let b := bits c.pattern[0] 31 24
  let job := (coreAt s (c.ctx / 4)).job
  b != 0 && ((jobOfCtx s c.ctx).bind fun j => j.barriers[b - 1]?).any fun q => s.reqs.any fun r =>
    isBwait r.op && r.open && !r.discard && bits r.addr 7 0 == b && r.arg2.toNat == q.phase && (coreAt s (r.ctx / 4)).job == job

/-- A packet that defers the realignment of a column is queued. -/
def realignmentHeld (s : State) (die col : Nat) : Bool := s.copies.any fun c => copyCrosses s die col c && copyAwaited s c

/-- The device time at which a column's realignment is due next: every 20 ms, the columns of a die staggered by 800 µs. -/
def realignmentDue (s : State) (die col : Nat) : Nat := (columnAt s die col).dueAt + 800000 * col

/-- WALL_BUS_REALIGNMENT: a due realignment begins its pause, or is deferred. -/
def execWallBusRealignment (die col : Nat) (s : State) : Host.Outcome State Fault Refusal :=
  let c := columnAt s die col
  if 4 ≤ die ∨ 25 ≤ col ∨ timeNow s < realignmentDue s die col ∨ c.deferred.isSome ∨ c.pausing.isSome then .next s
  else
    let c := { c with dueAt := c.dueAt + 20000000 }
    if realignmentHeld s die col then .next (setColumn s die col { c with deferred := some (timeNow s) })
    else .next (setColumn s die col { c with pausing := some (timeNow s) })

/-- REALIGNMENT_DEFERRAL_END: no packet defers it any more, or 250 µs have passed. -/
def execRealignmentDeferralEnd (die col : Nat) (s : State) : Host.Outcome State Fault Refusal :=
  let c := columnAt s die col
  match c.deferred with
  | none => .next s
  | some t =>
    if realignmentHeld s die col && timeNow s < t + 250000 then .next s
    else .next (setColumn s die col { c with deferred := none, pausing := some (timeNow s) })

/-- REALIGNMENT_PAUSE_END: 2 µs have passed; the PEELs that the pause held up reach their base dies, and the prefetches theirs. -/
def execRealignmentPauseEnd (die col : Nat) (s : State) : Host.Outcome State Fault Refusal :=
  let c := columnAt s die col
  match c.pausing with
  | none => .next s
  | some t =>
    if timeNow s < t + 2000 then .next s
    else .next (prefetchesReached (noteReached (setColumn s die col { c with pausing := none })))

/-! ## The CXL port -/

/-- CXL_PORT_TRAINING: the port trains and fixes the pool, of up to 4 TiB. -/
def execCxlPortTraining (size : Nat) (s : State) : Host.Outcome State Fault Refusal :=
  if s.poolTrained.isSome ∨ 2 ^ 42 < size then .next s else .next { s with poolTrained := some size }

end Sys2Proof.Machine
end

