-- ==== Sys2Proof/Machine/Inbound.lean ====
section
/-! DEFINITION. The inbound window and its ordering point (03 R64-R66, 19 R363-R366), and REMOTE_ACCESS_PERFORM for every
kind of access. -/

namespace Sys2Proof.Machine

/-! ## The window (03 R64) -/

/-- The job whose apertures hold a BAR2 offset, and the job address that the offset maps to. -/
def windowJob (s : State) (x : Nat) : Option (Job × Nat) :=
  (s.jobs.find? fun j => j.status != .ended && j.aperture ≤ x / 2 ^ 30 && x / 2 ^ 30 < j.aperture + j.apertures).map
    fun j => (j, (j.winBase.toNat + (x - j.aperture * 2 ^ 30)) % 2 ^ 64)

/-- The page of a BAR2 offset, when an access of the direction may reach it: stack-backed pages alone. -/
def windowPlace (s : State) (x : Nat) (write : Bool) : Option Nat :=
  match windowJob s x with
  | none => none
  | some (j, a) =>
    match spaceOf a with
    | .job => match translate j a write with
      | .ok pa => some pa
      | .error _ => none
    | _ => none

/-! ## Posted writes (03 R65) -/

/-- INBOUND_POSTED_WRITE: a TLP of up to 4,096 bytes inside the window is cut into packets, which wait. -/
def execInboundPostedWrite (r off : Nat) (data : List (Option (BitVec 8))) (ro : Bool) (s : State) :
    Host.Outcome State Fault Refusal :=
  if 4096 < data.length ∨ 2 ^ 36 < off + data.length then .next s
  else .next (postWrite s r off data ro none)

/-- The requester has a write of which a packet has been released, and which is not acknowledged whole. -/
def tracked (s : State) (r : Nat) : Bool := s.packets.any fun p => p.requester == r && p.begun
/-- The requesters that are tracked. -/
def requesters (s : State) : List Nat := ((s.packets.filter (·.begun)).map (·.requester)).dedup

/-- Nothing holds the packet back from route `d`: the earlier writes of its requester have been released, on the same route
or acknowledged, unless it is relaxed; the route and the requester table have room (R364). -/
def packetReady (s : State) (p : Packet) (d : Nat) : Bool :=
  (p.relaxed || !(s.packets.any fun q => q.requester == p.requester && q.write < p.write && (q.status == .waiting || q.route != d))) &&
  (s.packets.filter fun q => q.status != .waiting && q.route == d).length < 256 &&
  (tracked s p.requester || (requesters s).length < 64)

def packetAt (s : State) (id : Nat) : Option Packet := s.packets.find? fun p => p.id == id
def setPacket (s : State) (p : Packet) : State := { s with packets := s.packets.map fun q => if q.id == p.id then p else q }
def dropPacket (s : State) (id : Nat) : State := { s with packets := s.packets.filter fun p => p.id != id }

/-- A packet is done with: discarded, or acknowledged. The last one of a peer's write sends the peer its acknowledgement. -/
def packetDone (s : State) (p : Packet) : State :=
  let s := dropPacket s p.id
  match p.reply with
  | some (part, c, k, i) => if s.packets.any fun q => q.write == p.write then s else launchFlit s part (.copyAck c k i)
  | none => s

/-- INBOUND_PACKET_RELEASE: a packet with no page that may be written is discarded, logged and counts as acknowledged;
another leaves on the route to the die that owns its page's stack, in its turn. -/
def execInboundPacketRelease (id : Nat) (s : State) : Host.Outcome State Fault Refusal :=
  match packetAt s id with
  | none => .next s
  | some p =>
    if p.status != .waiting then .next s
    else
      match windowPlace s p.offset true with
      | none =>
        let (job, a) := match windowJob s p.offset with
          | some (j, a) => (j.id, a)
          | none => (0, p.offset)
        .next (logEntry (packetDone s p) 9 0xFF 0xFFFF job (BitVec.ofNat 64 a) 0)
      | some pa =>
        let d := ownerDie s (physStack pa)
        if packetReady s p d then
          let n := look 0 s.routeSeq d
          let s := { s with packets := s.packets.map fun q => if q.write = p.write then { q with begun := true } else q }
          .next { setPacket s { p with status := .released, begun := true, place := some pa, route := d, seq := n } with routeSeq := put s.routeSeq d (n + 1) }
        else .next s

/-- The enabled bytes of a packet, but for those of a poisoned granule that they do not cover whole (23 R402). -/
def packetBytes (s : State) (pa : Nat) (data : List (Option Byte)) : List (Option Byte) :=
  let l := (List.range data.length).filterMap fun i => (data[i]?.getD none).map fun _ => pa + i
  (List.range data.length).map fun i =>
    if s.bad.contains ((pa + i) / 16) && !coversGranule l ((pa + i) / 16) then none else data[i]?.getD none

/-- The packet's bytes are written at the die that owns the stack now, as one write, at the place translated for its release. -/
def writePacket (s : State) (p : Packet) : State :=
  match p.place with
  | none => s
  | some pa =>
    let data := packetBytes s pa p.data
    let l := (List.range data.length).filterMap fun i => (data[i]?.getD none).map fun _ => pa + i
    cached { s with mem := writeMasked s.mem pa data, bad := s.bad.filter fun g => !coversGranule l g } true l

/-- A released packet is performed: each route delivers in sequence; one whose stack is handed over waits, and is then
served through the new owner. -/
def packetPerform (s : State) (id : Nat) : State :=
  match packetAt s id with
  | none => s
  | some p =>
    let early := s.packets.any fun q => q.route == p.route && q.status == .released && q.seq < p.seq
    let held := p.place.any fun pa => handing s (physStack pa) 1 5
    if p.status != .released || early || held then s else setPacket (writePacket s p) { p with status := .performed }

/-- INBOUND_PACKET_ACK: the data are visible at SYSTEM scope, and the route has acknowledged them. -/
def execInboundPacketAck (id : Nat) (s : State) : Host.Outcome State Fault Refusal :=
  match packetAt s id with
  | some p => if p.status == .performed then .next (packetDone s p) else .next s
  | none => .next s

/-! ## Reads -/

/-- A byte that an inbound read returns: a poisoned one as a free value (log entry 2). -/
def readInbound (s : State) (x i : Nat) : Option Byte :=
  (windowPlace s (x + i) false).map fun pa =>
    if s.bad.contains (pa / 16) then BitVec.ofNat 8 (bits (openAt s (i / 256)) (8 * (i % 256) + 7) (8 * (i % 256))) else readByte s.mem pa

/-- The answer to an inbound read: its bytes, or Unsupported Request. -/
def readAnswer (s : State) (x n : Nat) : Option (List Byte) := (List.range n).mapM (readInbound s x)

/-- An inbound read goes through the caches of the dies that own what it reads (13 R278). -/
def readTouch (s : State) (x n : Nat) : State := cached s false ((List.range n).filterMap fun i => windowPlace s (x + i) false)

/-- The read has no earlier write of its requester before it that is not acknowledged, and its stacks are not handed
over. -/
def readReady (s : State) (q : InboundRead) : Bool :=
  !(s.packets.any fun p => p.requester == q.requester && p.write < q.after) &&
  (List.range q.len).all fun i => (windowPlace s (q.offset + i) false).all fun pa => !handing s (physStack pa) 1 5

/-- The answer to a read of another part leaves in flits; a refusal in one. -/
def answerPart (s : State) (part c k : Nat) (d : Option (List Byte)) : State :=
  match d with
  | some l => (List.range (pieceCount l.length)).foldl (fun s i => launchFlit s part (.readData (some (pieceOf l i)) c k i)) s
  | none => launchFlit s part (.readData none c k 0)

/-- The first byte of a read, inside an aperture of a job, whose page is unmapped: its job, and the address it maps to. -/
def readUnmapped (s : State) (x n : Nat) : Option (Job × Nat) :=
  ((List.range n).find? fun i => (windowJob s (x + i)).isSome && (windowPlace s (x + i) false).isNone).bind fun i => windowJob s (x + i)

/-- A read that meets an unmapped page is logged, once (03 R64; log entry 23). -/
def logRead (s : State) (x n : Nat) : State :=
  match readUnmapped s x n with
  | some (j, a) => logEntry s 9 0xFF 0xFFFF j.id (BitVec.ofNat 64 a) 0
  | none => s

/-- INBOUND_READ: a read arrives, and is answered once nothing holds it; one that waits is answered by a later step of the
same row. A read of an unmapped page is refused and logged (03 R64). -/
def execInboundRead (r off len tag : Nat) (s : State) : Host.Outcome State Fault Refusal :=
  if 4096 < len ∨ 2 ^ 36 < off + len then .next s
  else
    let old := s.reads.find? fun q => q.requester == r && q.offset == off && q.len == len && q.tag == tag
    let q : InboundRead := old.getD ⟨r, off, len, tag, s.writes, none⟩
    if readReady s q then
      let s' := logRead (readTouch { s with reads := s.reads.erase q, free := s.free + 16 } off len) off len
      match q.reply with
      | some (part, c, k) => .next (answerPart s' part c k (readAnswer s off len))
      | none => .next { s' with answers := s.answers ++ [(tag, readAnswer s off len)] }
    else .next (if old.isSome then s else { s with reads := s.reads ++ [q] })

/-! ## REMOTE_ACCESS_PERFORM -/

/-- A copy element's bytes stand before paused wall buses; one that has been sent has passed those on its way. -/
def elementPaused (s : State) (c : Copy) (k : Nat) : Bool :=
  !c.hasSent k && (jobOfCtx s c.ctx).any fun j => match elementPlaces s j c k with
    | .ok (a, b) => (a ++ b).any (sidePaused s (c.ctx / 4))
    | .error _ => false

/-- An element of an engine command: of a copy, or the row that an MST writes next. -/
def commandElement (s : State) (id k : Nat) : State :=
  match copyAt s id with
  | some c => if elementPaused s c k then s else elementPerform s id k
  | none =>
    match cmdAt s id with
    | some (n, m) => if isMst m.op && m.phase == .writing && m.step == k then mstWriteRow s n m else s
    | none => s

/-- REMOTE_ACCESS_PERFORM: a request reaches its slice or die cache and is performed, an element of an engine command is
moved, an inbound packet is written. -/
def execRemoteAccessPerform (x : Access) (s : State) : Host.Outcome State Fault Refusal :=
  match x with
  | .request id => .next (arriveReq s id)
  | .element id k => .next (commandElement s id k)
  | .packet id => .next (packetPerform s id)

end Sys2Proof.Machine
end

