-- ==== Sys2Proof/Machine/Loader.lean ====
section
/-! DEFINITION. The Blunum image (02 R30-R42), the rules that make one malformed, the binding of a job (02 R26-R29), and the
placing of its sections and declarations (03 R60). -/

namespace Sys2Proof.Machine

/-! ## Host memory -/

/-- The host has mapped every address from `a` up to `e`; `n` bounds the ranges looked at. -/
def mappedUpTo (l : List (Nat × Nat)) (a e : Nat) : Nat → Bool
  | 0 => e ≤ a
  | n + 1 =>
    if e ≤ a then true
    else match l.find? fun r => r.1 ≤ a && a < r.1 + r.2 with
      | some r => mappedUpTo l (r.1 + r.2) e n
      | none => false

/-- `n` bytes of host memory are mapped. -/
def hostRange (s : State) (a n : Nat) : Bool := mappedUpTo s.hostMap a (a + n) (s.hostMap.length + 1)

/-! ## Reading an image (02 R30-R33) -/

/-- A section table entry (02 Table describe-2). -/
structure Sect where
  kind  : Nat
  place : Nat
  core  : Nat
  addr  : Nat
  fsize : Nat
  msize : Nat
  foff  : Nat
  deriving DecidableEq, Repr

/-- A declaration record (02 Table describe-3). -/
inductive Decl where
  | stack (k : Nat) (other : Bool)
  | rack (writer trays place stack readers size base : Nat)
  | group (members : List Nat)
  | barrier (level arrivals home bytes : Nat)
  | tiles (entries : List TileEntry)
  | task (core prio counter count handler : Nat) (args : Vector Word 8)
  | tilemask (ctx : Nat) (mask : BitVec 16)
  deriving DecidableEq, Repr

/-- A relocation (02 R40). -/
structure Reloc where
  site : Nat
  type : Nat
  decl : Nat
  deriving DecidableEq, Repr

/-- An image that has been read. -/
structure Image where
  host   : Nat
  len    : Nat
  n      : Nat
  park   : Nat
  sects  : List Sect
  decls  : List Decl
  reloff : Nat
  nrel   : Nat
  deriving DecidableEq, Repr

/-- The number in `n` bytes at an offset of the image at host address `h`. -/
def img (s : State) (h off n : Nat) : Nat := physRead s (hostPhys (h + off)) n

/-- A section entry; none where a field that must be zero is not. -/
def readSect (s : State) (h off : Nat) : Option Sect :=
  if img s h (off + 4) 4 ≠ 0 then none
  else some ⟨img s h off 1, img s h (off + 1) 1, img s h (off + 2) 2, img s h (off + 8) 8, img s h (off + 0x10) 4,
    img s h (off + 0x14) 4, img s h (off + 0x18) 8⟩

/-- A tile-table entry (02 Table describe-4). -/
def readTile (s : State) (h off : Nat) : Option TileEntry :=
  let fmt := img s h (off + 0x10) 1
  let scale := img s h (off + 0x18) 8
  if 6 < fmt ∨ img s h (off + 0x11) 7 ≠ 0 ∨ (fmt ≠ 2 ∧ scale ≠ 0) then none
  else some ⟨BitVec.ofNat 64 (img s h off 8), BitVec.ofNat 64 (img s h (off + 8) 8), fmt, BitVec.ofNat 64 scale⟩

/-- A declaration of kind `kind` and length `len`; none where its length or a reserved field is wrong: so for a tiles record of
more entries than its 2-byte LENGTH can say; the bytes that pad a group record's member ids may hold anything (DESIGN CHOICE, log entry 46). -/
def readDecl (s : State) (h off kind len : Nat) : Option Decl :=
  let f := fun (o n : Nat) => img s h (off + o) n
  match kind with
  | 1 => if len = 16 ∧ f 10 6 = 0 ∧ f 9 1 ≤ 1 then some (.stack (f 8 1) (f 9 1 == 1)) else none
  | 2 => if len = 32 ∧ f 14 2 = 0 then some (.rack (f 8 2) (f 10 1) (f 11 1) (f 12 1) (f 13 1) (f 16 8) (f 24 8)) else none
  | 3 =>
    let n := f 8 2
    if len = 16 + (2 * n + 7) / 8 * 8 ∧ f 10 6 = 0 then some (.group ((List.range n).map fun i => f (16 + 2 * i) 2)) else none
  | 4 => if len = 24 ∧ f 9 1 = 0 ∧ f 14 2 = 0 then some (.barrier (f 8 1) (f 10 2) (f 12 2) (f 16 8)) else none
  | 5 =>
    let n := f 8 2
    if len = 16 + 32 * n ∧ f 10 6 = 0 then ((List.range n).mapM fun i => readTile s h (off + 16 + 32 * i)).map .tiles else none
  | 6 =>
    if len = 88 ∧ f 11 1 = 0 ∧ f 15 1 = 0 then
      some (.task (f 8 2) (f 10 1) (f 12 1) (f 13 2) (f 16 8) (vec8 fun i => BitVec.ofNat 64 (f (24 + 8 * i) 8)))
    else none
  | 7 => if len = 16 ∧ f 12 4 = 0 then some (.tilemask (f 8 2) (BitVec.ofNat 16 (f 10 2))) else none
  | _ => none

/-- The records of the declaration table are mapped, as far as they can be read. -/
def declsMapped (s : State) (h len : Nat) : Nat → Nat → Bool
  | _, 0 => true
  | off, n + 1 =>
    if len < off + 8 then true
    else
      hostRange s (h + off) 8 &&
      let size := img s h (off + 2) 2
      if size < 8 ∨ len < off + size then true else hostRange s (h + off) size && declsMapped s h len (off + size) n

/-- The header, the section table and the declaration table of an image are mapped. -/
def tablesMapped (s : State) (h len : Nat) : Bool :=
  len < 64 || hostRange s h 64 &&
    (len < img s h 0x10 8 + 32 * img s h 0x0A 2 || hostRange s (h + img s h 0x10 8) (32 * img s h 0x0A 2)) &&
    declsMapped s h len (img s h 0x18 8) (img s h 0x0C 4)

/-- The section bytes and the relocation table of an image are mapped. -/
def contentsMapped (s : State) (m : Image) : Bool :=
  (m.sects.all fun x => hostRange s (m.host + x.foff) x.fsize) && hostRange s (m.host + m.reloff) (16 * m.nrel)

/-- `n` declaration records from an offset on, all inside the image. NAME is not looked at (log entry 46). -/
def readDecls (s : State) (h len : Nat) : Nat → Nat → Option (List Decl)
  | _, 0 => some []
  | off, n + 1 =>
    let size := img s h (off + 2) 2
    if len < off + 8 ∨ size < 8 ∨ size % 8 ≠ 0 ∨ len < off + size then none
    else
      match readDecl s h off (img s h off 2) size with
      | none => none
      | some d => (readDecls s h len (off + size) n).map (d :: ·)

/-- The header, the section table and the declaration table (02 R30). -/
def readImage (s : State) (h len : Nat) : Option Image :=
  let f := fun (o n : Nat) => img s h o n
  let nsect := f 0x0A 2
  if len < 64 ∨ f 0 4 ≠ 0x4E554C42 ∨ f 4 2 ≠ 1 ∨ f 6 2 ≠ 0 ∨ f 8 2 < 1 ∨ 192 < f 8 2 ∨ nsect < 1 ∨ 1024 < nsect ∨ 65535 < f 0x0C 4 ∨
      f 0x10 8 % 8 ≠ 0 ∨ f 0x18 8 % 8 ≠ 0 ∨ f 0x20 8 % 8 ≠ 0 ∨ f 0x30 8 % 8 ≠ 0 ∨ f 0x2C 4 < 1 ∨ 65535 < f 0x2C 4 ∨ f 0x38 8 ≠ 0 ∨
      len < f 0x10 8 + 32 * nsect ∨ len < f 0x20 8 + 16 * f 0x28 4 ∨ len < f 0x30 8 then none
  else
    match (List.range nsect).mapM fun i => readSect s h (f 0x10 8 + 32 * i), readDecls s h len (f 0x18 8) (f 0x0C 4) with
    | some sects, some decls => some ⟨h, len, f 8 2, f 0x2C 4, sects, decls, f 0x20 8, f 0x28 4⟩
    | _, _ => none

/-! ## What an image declares -/

/-- The logical stacks held. -/
def Image.stacks (m : Image) : List (Nat × Bool) := m.decls.filterMap fun d => match d with | .stack k o => some (k, o) | _ => none
/-- The lowest-numbered held stack, which holds the park area (02 R34). -/
def Image.parkStack (m : Image) : Nat := (m.stacks.map (·.1)).foldl min 12
/-- The tile table (02 R38). -/
def Image.tileTable (m : Image) : List TileEntry :=
  (m.decls.map fun d => match d with | .tiles l => l | _ => []).flatten
def Image.racks (m : Image) : List Decl := m.decls.filter fun d => match d with | .rack .. => true | _ => false
def Image.groups (m : Image) : List (List Nat) := m.decls.filterMap fun d => match d with | .group l => some l | _ => none
def Image.barriers (m : Image) : List Decl := m.decls.filter fun d => match d with | .barrier .. => true | _ => false
/-- The task records of logical core `n`: counter and initial count. -/
def Image.tasksOf (m : Image) (n : Nat) : List (Nat × Nat) :=
  m.decls.filterMap fun d => match d with | .task c _ k v _ _ => if c = n then some (k, v) else none | _ => none

/-! ## The rules of R31-R39 -/

/-- The bytes of two ranges meet; an empty range that stands strictly inside another meets it (DESIGN CHOICE, log entry 46). -/
def rangesMeet (a n b m : Nat) : Bool := decide (a < b + m) && decide (b < a + n)

def sectOk (m : Image) (x : Sect) : Bool :=
  x.fsize ≤ x.msize && x.foff + x.fsize ≤ m.len &&
  match x.kind with
  | 1 | 2 =>
    x.place ≤ 11 && (m.stacks.any fun k => k.1 == x.place) && x.core == 0 && x.addr % 65536 == 0 && x.addr + x.msize ≤ 13 * 2 ^ 48
  | 3 => x.place == 0 && x.core < m.n && x.addr % 16 == 0 && x.addr + x.msize ≤ 2 ^ 22
  | _ => false

/-- No two sections overlap. -/
def sectsDisjoint : List Sect → Bool
  | [] => true
  | x :: l => sectsDisjoint l && l.all fun y =>
      if x.kind = 3 ∧ y.kind = 3 then x.core != y.core || !rangesMeet x.addr x.msize y.addr y.msize
      else x.kind == 3 || y.kind == 3 || !rangesMeet x.addr x.msize y.addr y.msize

/-- The pages that a data section of stack `k` maps hold the byte at `a`. -/
def inData (m : Image) (k a : Nat) : Bool :=
  m.sects.any fun x => x.kind == 2 && x.place == k && x.addr ≤ a && a < x.addr + (x.msize + 65535) / 65536 * 65536

/-- Every page of a range of stack `k` is mapped by a data section. -/
def rangeInData (m : Image) (k a n : Nat) : Bool :=
  (List.range ((a + n - 1) / 65536 - a / 65536 + 1)).all fun i => inData m k (max a ((a / 65536 + i) * 65536))

/-- An address of the job space or of the slice window; a slice that the job has not faults at use (10 R219, 04 R80). -/
def tileAddrOk (a : Nat) : Bool := match spaceOf a with | .job | .slice _ _ => true | _ => false

/-- The limits of a declaration. The expected bytes of a barrier have no limit of their own, the logical stack of a place-0 rack is
ignored, a context may have several tilemasks, and the members of a group may repeat (log entry 46). -/
def declOk (m : Image) (d : Decl) : Bool :=
  match d with
  | .stack k _ => k ≤ 11
  | .rack w t place k _ size base =>
    w < 4 * m.n && 2 ≤ t && t ≤ 32 && size % 256 == 0 && 256 ≤ size && size ≤ 2 ^ 28 &&
    match place with
    | 0 => base + t * size ≤ 2 ^ 22
    | 1 => base != 0 && k ≤ 11 && (m.stacks.any fun x => x.1 == k) && rangeInData m k base (t * size)
    | _ => false
  | .group l => 1 ≤ l.length && l.length ≤ 4096 && l.all (· < 4 * m.n)
  | .barrier level ea home eb => level ≤ 2 && home < m.n && (ea != 0 || eb != 0)
  | .tiles l =>
    1 ≤ l.length && l.length ≤ 4096 &&
    l.all fun t => tileAddrOk t.base.toNat && (t.scale == 0 || tileAddrOk t.scale.toNat)
  | .task c q k _ _ _ => c < m.n && q ≤ 3 && k ≤ 63
  | .tilemask c _ => c < 4 * m.n

/-- The task records of one core: 64 at most, one initial count a counter (17 R337, R338). -/
def tasksOk (l : List (Nat × Nat)) : Bool :=
  l.length ≤ 64 && l.all fun x => l.all fun y => x.1 != y.1 || x.2 == y.2

/-- The image breaks no rule that the section and declaration tables show. -/
def imageOk (m : Image) : Bool :=
  m.sects.all (sectOk m) && sectsDisjoint m.sects && m.decls.all (declOk m) &&
  !m.stacks.isEmpty && (m.stacks.map (·.1)).Nodup && m.racks.length ≤ 64 && m.groups.length ≤ 1024 && m.barriers.length ≤ 255 &&
  m.tileTable.length ≤ 4096 && (List.range m.n).all (fun n => tasksOk (m.tasksOf n)) &&
  m.decls.any fun d => match d with | .task .. => true | _ => false

/-! ## Relocations (02 R40) -/

/-- A relocation entry. -/
def readReloc (s : State) (m : Image) (i : Nat) : Reloc :=
  let o := m.reloff + 16 * i
  ⟨img s m.host o 8, img s m.host (o + 8) 1, img s m.host (o + 12) 4⟩

def relocs (s : State) (m : Image) : List Reloc := (List.range m.nrel).map (readReloc s m)

/-- The word of `n` bytes at a site lies in a text or data section; any place in one is taken, aligned or not, and in a text section
whether or not it holds the long immediate of an LDI (DESIGN CHOICE, log entry 46). -/
def siteIn (m : Image) (a n : Nat) : Bool := m.sects.any fun x => x.kind != 3 && x.addr ≤ a && a + n ≤ x.addr + x.msize

/-- The value that a relocation of types 2-5 puts into its word, given the word's low 16 bits; none where it is malformed: ids in
declaration order, barriers from 1, tile handles into the whole table. A tile word whose bits [15:12] are not zero names no entry
(log entry 46). -/
def relocValue (m : Image) (r : Reloc) (low : Nat) : Option Nat :=
  let before := m.decls.take r.decl
  match r.type, m.decls[r.decl]? with
  | 2, some (.rack ..) => some (before.filter fun d => match d with | .rack .. => true | _ => false).length
  | 3, some (.group _) => some (before.filter fun d => match d with | .group _ => true | _ => false).length
  | 4, some (.barrier ..) => some ((before.filter fun d => match d with | .barrier .. => true | _ => false).length + 1)
  | 5, some (.tiles l) =>
    if low < l.length then some ((before.map fun d => match d with | .tiles l => l.length | _ => 0).sum + low) else none
  | _, _ => none

/-- The byte of the image file that stands at a virtual address of a text or data section. -/
def fileByte (s : State) (m : Image) (a : Nat) : Nat :=
  match m.sects.find? fun x => x.kind != 3 && x.addr ≤ a && a < x.addr + x.fsize with
  | some x => img s m.host (x.foff + (a - x.addr)) 1
  | none => 0

/-- A relocation is well formed. -/
def relocOk (s : State) (m : Image) (i : Nat) : Bool :=
  let r := readReloc s m i
  img s m.host (m.reloff + 16 * i + 9) 3 == 0 &&
  if r.type = 1 then siteIn m r.site 8 && r.decl < m.sects.length
  else siteIn m r.site 4 && (relocValue m r (fileByte s m r.site + 256 * fileByte s m (r.site + 1))).isSome

/-! ## Binding (02 R26-R29) -/

/-- The layer of core `n` is off and lost to a job that has not ended yet: it stays off until then (23 R411). -/
def layerLost (s : State) (n : Nat) : Bool :=
  s.layersOff.contains (coreDie n, coreLayer n) &&
  (List.range 25).any fun c => (coreAt s (64 * coreDie n + 32 * coreLayer n + c)).job.isSome

/-- An active core that may be bound: not retired, nor marked for retirement (23 R409). -/
def bindable (s : State) (n : Nat) : Bool := !(coreAt s n).retired && !(coreAt s n).marked && !layerLost s n
/-- The cores of a physical cluster that may be bound. -/
def activeCores (s : State) (cl : Nat) : List Nat := (clusterCores s cl).filter (bindable s)
/-- No job is bound to a core of the cluster. -/
def clusterFree (s : State) (cl : Nat) : Bool := (clusterCores s cl).all fun n => (coreAt s n).job.isNone

/-- The logical cores of each logical cluster of a job of `n` cores. -/
def clusterNeeds (n : Nat) : List (Nat × Nat) := (List.range ((n + 7) / 8)).map fun c => (c, min 8 (n - 8 * c))

/-- The physical cores of a job, cluster by cluster: the first choice, the lowest clusters foremost (the loader's choice; log entry
16), of a free physical cluster of its die with the cores for each logical cluster, that `ok` takes; none where no choice does. -/
def bindClusters (s : State) (rot : Nat) (ok : List Nat → Bool) : List (Nat × Nat) → List Nat → List Nat → Option (List Nat)
  | [], _, cores => if ok cores then some cores else none
  | (lc, need) :: l, used, cores =>
    (List.range 6).findSome? fun i =>
      let cl := 6 * ((lc / 6 + rot) % 4) + i
      if !used.contains cl && clusterFree s cl && need ≤ (activeCores s cl).length then
        bindClusters s rot ok l (cl :: used) (cores ++ (activeCores s cl).take need)
      else none

/-- A physical stack that no job holds. -/
def stackFree (s : State) (st : Nat) : Bool := !(s.jobs.any fun j => holdsStack j st) && !(s.handovers.any fun h => h.stack == st)

/-- Tables of the group switches have room for the groups of every resident job (02 R36). -/
def switchesFit (s : State) (j : Job) (groups : List (List Nat)) : Bool :=
  let others := (s.jobs.filter fun x => x.id != j.id && x.status != .ended).flatMap fun x => x.groups.map fun g =>
    (g.root, g.members.map fun c => (if x.binding.isEmpty then x.former else x.binding)[c / 4]?.getD 0)
  let mine := groups.map fun l => (groupRoot s j l, l.map (memberCore j))
  let all := others ++ mine
  let spine := fun (x : Node × List Nat) => x.1 == .spine
  let onDie := fun (d : Nat) (x : Node × List Nat) => (match x.1 with | .cluster _ => false | _ => true) && x.2.any fun c => coreDie c == d
  (all.filter spine).length ≤ 16384 && ((List.range 4).all fun d => (all.filter (onDie d)).length ≤ 4096) &&
  (List.range 24).all fun cl => (all.filter fun x => x.2.any fun c => clusterOf s c == cl).length ≤ 256

/-! ## Pages (02 R32) -/

/-- The pages of a text or data section from a stack's frame `f` on. -/
def sectPages (rot : Nat) (x : Sect) (f : Nat) : List Page :=
  (List.range ((x.msize + 65535) / 65536)).map fun i =>
    ⟨x.addr / 65536 + i, (x.place + 3 * rot) % 12, f + i, x.kind == 2, x.kind == 1, true⟩

/-- The pages of the sections; `next` holds each logical stack's next free frame. -/
def layPages (rot : Nat) : List Sect → Store Nat → List Page × Store Nat
  | [], next => ([], next)
  | x :: l, next =>
    if x.kind = 3 then layPages rot l next
    else
      let f := look 0 next x.place
      let ps := sectPages rot x f
      let (rest, next) := layPages rot l (put next x.place (f + ps.length))
      (ps ++ rest, next)

/-- The pages of an image, behind the park area; none where a stack of 64 GiB has no room. -/
def imagePages (m : Image) (rot : Nat) : Option (List Page) :=
  let (ps, next) := layPages rot m.sects [(m.parkStack, m.park)]
  if next.all fun x => x.2 ≤ 2 ^ 20 then some ps else none

/-! ## The records of a job -/

def declRack (d : Decl) : Option Rack :=
  match d with
  | .rack w t place _ r size base =>
    some { writer := w, size := size, base := BitVec.ofNat 64 (if place = 0 then windowAddr (w / 4) base else base), readers := r
           trays := List.replicate t ⟨false, false, 0, 0, 0, false⟩, pins := [], next := 1, drops := 0, command := none }
  | _ => none

/-- A barrier as START finds it (15 R320). -/
def declBarrier (d : Decl) : Option Barrier :=
  match d with
  | .barrier level ea home eb => some ⟨Fin.ofNat 4 level, home, ea, eb, ea, eb, 1, 0, 0, 0, 0, false⟩
  | _ => none

/-- A group's members, each once. -/
def declGroup (s : State) (j : Job) (l : List Nat) : Group := ⟨l.dedup, [], groupRoot s j l, [], [], []⟩

def declMask (d : Decl) : Option (Nat × BitVec 16) := match d with | .tilemask c m => some (c, m) | _ => none

/-- The tasks of logical core `n`, WAITING on their counters until START (02 R41). -/
def declTask (n : Nat) (d : Decl) : Option Task :=
  match d with
  | .task c q k _ h args =>
    if c = n then some { Task.reset with status := .waiting, handler := BitVec.ofNat 64 h, args := args, prio := Fin.ofNat 4 q, counter := k }
    else none
  | _ => none

/-- The job that an image makes, bound to `cores` with rotation `rot`. -/
def jobOf (s : State) (m : Image) (q rot : Nat) (cores : List Nat) (pages : List Page) (win : Word) (aper napers off size : Nat) : Job :=
  let j : Job :=
    { id := s.nextJob, queue := q, status := .created, n := m.n, rot := rot, binding := cores, former := []
      holds := m.stacks.map fun x => ((x.1 + 3 * rot) % 12, x.2), park := m.park, pages := pages, racks := m.racks.filterMap declRack
      groups := [], barriers := m.barriers.filterMap declBarrier, tiles := m.tileTable, masks := m.decls.filterMap declMask
      winBase := win, aperture := aper, apertures := napers, poolOff := off, poolSize := size, lastCause := 0
      start := none, kill := [], preempt := none, saved := [], saveAt := none, owed := [] }
  { j with groups := m.groups.map (declGroup s j) }

/-! ## Placing (03 R60) -/

/-- The bytes from host memory at `src` written at a physical address: `n` bytes, the rest up to `z` zero. A stack is accessed: it is awake
(23 R410). -/
def placeBytes (s : State) (dst src n z : Nat) : State :=
  let m := clearRange s.mem dst (dst + z)
  { if inStack dst then wakeStack s (physStack dst) else s with mem := writeMasked m dst ((readBytes s.mem (hostPhys src) n).map some), bad := exclude s.bad (dst / 16) ((dst + z) / 16) }

/-- A section in place. -/
def placeSect (j : Job) (m : Image) (s : State) (x : Sect) : State :=
  if x.kind = 3 then
    let dst := slicePhys (j.binding[x.core]?.getD 0) x.addr
    markFull (placeBytes s dst (m.host + x.foff) x.fsize x.msize) dst x.msize
  else
    (List.range ((x.msize + 65535) / 65536)).foldl (fun s i =>
      match pageOf j (x.addr + 65536 * i) with
      | some p => placeBytes s (pagePhys p (x.addr + 65536 * i)) (m.host + x.foff + 65536 * i) (min 65536 (x.fsize - 65536 * i)) 65536
      | none => s) s

/-- A number of `n` bytes written at a virtual address, byte by byte. -/
def pokeAt (j : Job) (s : State) (a v : Nat) : Nat → State
  | 0 => s
  | n + 1 => pokeAt j { s with mem := writeByte s.mem (placeOf j a false) (BitVec.ofNat 8 v) } (a + 1) (v / 256) n
def peekAt (j : Job) (s : State) (a : Nat) : Nat → Nat
  | 0 => 0
  | n + 1 => (readByte s.mem (placeOf j a false)).toNat + 256 * peekAt j s (a + 1) n

/-- A relocation applied to its word as the earlier relocations have left it; a tile word that has come to name no entry becomes 0
(DESIGN CHOICE, log entry 46). -/
def applyReloc (j : Job) (m : Image) (s : State) (r : Reloc) : State :=
  if r.type = 1 then
    pokeAt j s r.site ((peekAt j s r.site 8 + ((m.sects[r.decl]?).map (·.addr)).getD 0) % 2 ^ 64) 8
  else pokeAt j s r.site ((relocValue m r (peekAt j s r.site 2)).getD 0) 2

/-- Logical core `n` of the job: its tasks and its counters (17 R338). -/
def loadedCore (s : State) (m : Image) (j : Job) (n : Nat) : Core :=
  let p := j.binding[n]?.getD 0
  let tasks := (m.decls.filterMap (declTask n)).foldl (fun t x => (enterEntry t x).getD t) (Vector.replicate 64 Task.reset)
  let counters := (m.tasksOf n).foldl (fun c x => c.setIfInBounds x.1 x.2) (Vector.replicate 64 0)
  { freeCore (coreAt s p) with job := some j.id, logical := n, tasks := tasks, counters := counters, gated := false }

/-- A binding onto a die and a layer wakes them (23 Table errors-2). -/
def wakeFor (s : State) (n : Nat) : State :=
  let off := fun (x : Nat × Nat) => x != (coreDie n, coreLayer n)
  { s with layersOff := s.layersOff.filter off, layersGated := s.layersGated.filter off, diesOff := s.diesOff.filter (· != coreDie n) }

/-- The initial owner of a held stack is set (02 R34). -/
def setOwner (s : State) (x : Nat × Bool) : State :=
  { s with portB := (s.portB.filter (· != x.1)) ++ (if x.2 then [x.1] else []) }

/-- The job is resident: bound, loaded, CREATED. -/
def placeJob (s : State) (m : Image) (j : Job) : State :=
  let s := { s with jobs := s.jobs ++ [j], nextJob := s.nextJob + 1 }
  let s := j.binding.foldl (fun s n => wakeFor (releaseCore s n) n) s
  let s := (List.range j.n).foldl (fun s n => setCore s (j.binding[n]?.getD 0) (loadedCore s m j n)) s
  let s := j.holds.foldl setOwner s
  let s := m.sects.foldl (placeSect j m) s
  (relocs s m).foldl (applyReloc j m) s

end Sys2Proof.Machine
end

