-- ==== Sys2Proof/Machine/Host.lean ====
section
/-! DEFINITION. The host side (03 R43-R63, R67-R70): configuration, the queue mapper, and the commands but for pre-emption. -/

namespace Sys2Proof.Machine

/-! ## Configuration (03 R43-R48, R63) -/

def queueAt (s : State) (q : Nat) : Queue := look Queue.reset s.queues q
def setQueue (s : State) (q : Nat) (x : Queue) : State := { s with queues := put s.queues q x }

/-- The function answers: firmware is verified, or has failed (03 R68). -/
def answering (s : State) : Bool := s.health.ready || s.health.fwfail

/-- The feature bits offered, and those the driver must accept (03 R44). -/
def offered : BitVec 64 := BitVec.ofNat 64 (2 ^ 28 + 2 ^ 29 + 2 ^ 32 + 2 ^ 33 + 2 ^ 34 + 2 ^ 36 + 2 ^ 38)
def required : BitVec 64 := BitVec.ofNat 64 (2 ^ 32 + 2 ^ 33 + 2 ^ 34)

/-- CONFIG_WRITE: virtio transport registers; FEATURES_OK stays only with the features the device needs, and a queue takes
chains while it is enabled. -/
def execConfigWrite (w : ConfigWrite) (s : State) : Host.Outcome State Fault Refusal :=
  if !answering s then .next s
  else
    match w with
    | .driverFeatures b => .next { s with driverFeatures := b }
    | .featuresOk => .next { s with featuresOk := s.driverFeatures &&& required == required && s.driverFeatures &&& ~~~offered == 0 }
    | .queueSetup q n on =>
      if 1024 ≤ q ∨ n < 1 ∨ 4096 < n then .next s
      else .next (setQueue s q { queueAt s q with enabled := on, size := n, slot := (queueAt s q).slot && on })
    | .available q c =>
      let x := queueAt s q
      if x.enabled ∧ x.ring.length < x.size then .next (setQueue s q { x with ring := x.ring ++ [c] }) else .next s
    | .other o v => .next { s with transport := put s.transport o v }

/-- The queues that are pinned. -/
def pinned (s : State) : List Nat := (s.queues.filter fun x => x.2.pinned).map (·.1)

/-- PIN: a ninth queue, or one past 1,023, is refused. -/
def execPin (q : BitVec 16) (s : State) : Host.Outcome State Fault Refusal :=
  let n := q.toNat
  if !answering s then .next s
  else if 1024 ≤ n ∨ ((queueAt s n).pinned = false ∧ 8 ≤ (pinned s).length) then .next { s with pinRefused := true }
  else .next { setQueue s n { queueAt s n with pinned := true } with pinRefused := false }

/-- UNPIN -/
def execUnpin (q : BitVec 16) (s : State) : Host.Outcome State Fault Refusal :=
  if !answering s then .next s
  else if 1024 ≤ q.toNat then .next { s with pinRefused := true }
  else .next { setQueue s q.toNat { queueAt s q.toNat with pinned := false } with pinRefused := false }

/-- FEATURES of the device-specific configuration (03 Table host-2, R67, R83, R68). -/
def featureBits (s : State) : Nat :=
  let links := (List.finRange 16).filter Config.linkConfigured
  if s.health.fwfail then 0
  else (if s.poolTrained.isSome then 1 else 0) + (if !links.isEmpty && links.all fun l => (linkAt s l).trained then 2 else 0) +
    if Config.attestation then 4 else 0

/-- HEALTH of the device-specific configuration (03 Table host-6). -/
def healthBits (s : State) : Nat :=
  let h := s.health
  (if h.ready then 1 else 0) + (if h.fwfail then 2 else 0) + (if h.replace then 4 else 0) + (if h.resetReq then 8 else 0) +
    2 ^ 8 * (h.retired % 256) + 2 ^ 16 * h.spares.length

/-- JERR of the device-specific configuration (03 Table host-2): the job, the count of such ends and the end code. -/
def jerrBits (s : State) : Nat := s.health.jerrId % 2 ^ 32 + 2 ^ 32 * min 65535 s.health.jerrCount + 2 ^ 48 * (s.health.jerrCode % 256)

/-- The device-specific configuration, 40 bytes (03 Table host-2). -/
def deviceConfig (s : State) : List Byte :=
  leBytes 8 (featureBits s) ++ leBytes 2 1024 ++ leBytes 1 32 ++ leBytes 1 8 ++ leBytes 2 4096 ++ leBytes 2 0 ++
  leBytes 8 s.tolerance ++ leBytes 4 (healthBits s) ++ leBytes 4 ((pinned s).length + (if s.pinRefused then 256 else 0)) ++
  leBytes 8 (jerrBits s)

/-- The identification of the PCI function (01 Table part-7). -/
structure PciIdentity where
  vendor : BitVec 16
  device : BitVec 16
  virtioType : Nat
  subVendor : BitVec 16
  subDevice : BitVec 16
  classCode : BitVec 24
  revision : Byte
  deriving DecidableEq, Repr

/-- The identification of the part (01 R21). -/
def pciIdentity : PciIdentity := ⟨0x1AF4, 0x107F, 63, 0x1E7A, 0xD409, 0x120000, Config.revision⟩

/-- The virtio PCI transport (03 R43): BAR0's and BAR2's sizes, notify_off_multiplier, the entries of the MSI-X table. -/
abbrev bar0Size : Nat := 2 ^ 16
abbrev bar2Size : Nat := 2 ^ 36
abbrev notifyMultiplier : Nat := 4
abbrev msixEntries : Nat := 1025
/-- queue_notify_off of queue `q`. -/
def notifyOff (q : Nat) : Nat := q
/-- The queue that a write at an offset of the notification structure notifies. -/
def notifiedQueue (off : Nat) : Option Nat :=
  if off % notifyMultiplier = 0 ∧ off / notifyMultiplier < 1024 then some (off / notifyMultiplier) else none

/-! ## Chains (03 R49, R50, R427) -/

/-- The number in `n` bytes of a command at an offset. -/
def cf (c : Chain) (off n : Nat) : Nat := bits c.cmd (8 * (off + n) - 1) (8 * off)

/-- The rows that carry out commands. -/
inductive CommandKind where
  | loadImage | createJob | start | signal | preempt | resume | kill | copyIn | copyOut | setTolerance
  | queryPart | queryJob | queryBinding | queryClusterMap | queryAttestation | queryCertChain | queryErrorLog | peelRequest
  deriving DecidableEq, Repr

/-- The row that carries out a command; none for an undefined OP or selector. -/
def commandKind (c : Chain) : Option CommandKind :=
  match cf c 0 2 with
  | 0x01 => some .loadImage
  | 0x02 => some .createJob
  | 0x03 => some .start
  | 0x04 => some .signal
  | 0x05 => some .preempt
  | 0x06 => some .resume
  | 0x07 => some .kill
  | 0x08 => some .copyIn
  | 0x09 => some .copyOut
  | 0x0A => some .setTolerance
  | 0x0B =>
    match cf c 0x10 2 with
    | 0 => some .queryPart
    | 1 => some .queryJob
    | 2 => some .queryBinding
    | 3 => some .queryClusterMap
    | 4 => some .queryAttestation
    | 5 => some .queryCertChain
    | 6 => some .queryErrorLog
    | _ => none
  | 0x0C => some .peelRequest
  | _ => none

/-- The body fields of a command, as offset and length (03 Table host-1). -/
def bodyFields (c : Chain) : List (Nat × Nat) :=
  match cf c 0 2 with
  | 0x01 | 0x05 => [(0x10, 8), (0x18, 8)]
  | 0x02 => [(0x10, 4), (0x14, 1), (0x15, 1), (0x18, 8), (0x20, 8), (0x28, 8)]
  | 0x04 => [(0x10, 2)]
  | 0x06 | 0x0A => [(0x10, 8)]
  | 0x07 => [(0x10, 4)]
  | 0x08 | 0x09 => [(0x10, 8), (0x18, 8), (0x20, 8), (0x28, 2), (0x2A, 1)]
  | 0x0B => if cf c 0x10 2 = 4 then [(0x10, 2), (0x20, 32)] else [(0x10, 2)]
  | 0x0C => [(0x10, 1), (0x11, 1)]
  | _ => []

/-- The FLAGS bits a command defines. -/
def flagBits (op : Nat) : Nat := match op with | 0x05 | 0x06 | 0x08 | 0x09 => 1 | _ => 0

/-- No reserved field and no undefined FLAGS bit is set. A body byte to which Table host-1 gives no field of the command counts as
reserved, the tail after the last field and the NONCE of a QUERY that takes none too (DESIGN CHOICE, log entry 19). -/
def commandOk (c : Chain) : Bool :=
  cf c 2 2 ≤ flagBits (cf c 0 2) &&
  (List.range 48).all fun i => (bodyFields c).any (fun f => f.1 ≤ 16 + i && 16 + i < f.1 + f.2) || cf c (16 + i) 1 == 0

/-- The places of the bytes at SAVE: host memory, or the job's own space. -/
def savePlace (s : State) (j : Job) (host : Bool) (write : Bool) (a : Nat) : Option Nat :=
  if host then (if hostMapped s a then some (hostPhys a) else none)
  else match spaceOf a with
    | .job => match translate j a write with
      | .ok pa => some pa
      | .error _ => none
    | _ => none

/-- The number in `n` bytes at SAVE; none where a byte has no place. -/
def saveField (s : State) (j : Job) (host : Bool) (a : Nat) : Nat → Option Nat
  | 0 => some 0
  | n + 1 =>
    match savePlace s j host false a, saveField s j host (a + 1) n with
    | some pa, some v => some ((readByte s.mem pa).toNat + 256 * v)
    | _, _ => none

/-- The number in `n` bytes of host memory; none where a byte is not mapped. -/
def hostField (s : State) (a n : Nat) : Option Nat := if hostRange s a n then some (physRead s (hostPhys a) n) else none

/-- The least length of the writable part (03 R427); a RESUME whose N cannot be read needs 17 bytes (DESIGN CHOICE, log entry 46). -/
def leastOut (s : State) (c : Chain) : Nat :=
  match cf c 0 2 with
  | 0x01 => 20
  | 0x02 =>
    match s.images.find? fun m => m.1 == cf c 0x10 4 with
    | some m => 18 + img s m.2.1.toNat 8 2
    | none => 16
  | 0x03 => 26
  | 0x05 | 0x0C => 24
  | 0x06 => 17 + ((if cf c 2 2 % 2 = 1 then hostField s (cf c 0x10 8 + 0x0C) 2
      else (jobAt s (cf c 4 4)).bind fun j => saveField s j false (cf c 0x10 8 + 0x0C) 2).getD 0)
  | _ => 16

/-- A command of the queue has not reached its start point (03 R53). -/
def queueBusy (s : State) (q : Nat) : Bool :=
  (s.jobs.any fun j => (j.kill.any fun x => x.1.queue == q) || j.preempt.any fun x => x.1.queue == q) ||
  s.handovers.any fun h => match h.source with | .host p => p.queue == q | _ => false

/-- The chain at the head of a queue that may be taken now. -/
def nextChain (s : State) (q : Nat) : Option Chain :=
  if answering s && (queueAt s q).enabled && (queueAt s q).slot && !queueBusy s q then (queueAt s q).ring.head? else none

/-- The head of a queue's ring is taken. -/
def popRing (s : State) (q : Nat) : State := setQueue s q { queueAt s q with ring := (queueAt s q).ring.drop 1 }

/-- A chain is returned used with a written length of 0. -/
def returnUnused (s : State) (p : Pending) : State := { s with completions := s.completions ++ [⟨p.queue, 0, 0, 0, [], 0⟩] }

/-- The chain is too short for its command. -/
def tooShort (s : State) (c : Chain) : Bool := c.rlen < 64 || c.wlen < leastOut s c

/-- A chain that no row carries out: too short, or with an undefined OP or selector. -/
def takeBad (s : State) (q : Nat) (c : Chain) : State :=
  let p : Pending := ⟨q, c⟩
  let s := popRing s q
  if c.rlen < 64 ∨ c.wlen < 16 then returnUnused s p
  else complete s p (if s.health.ready then stMalformed else stSigFail) (cf c 4 4) []

/-- Bad chains at the head of a queue are taken, `n` at most. -/
def takeBads (s : State) (q : Nat) : Nat → State
  | 0 => s
  | n + 1 =>
    match nextChain s q with
    | some c => if c.rlen < 64 || (commandKind c).isNone then takeBads (takeBad s q c) q n else s
    | none => s

/-- A CREATE_JOB consumes its handle, whatever its status (03 R60). -/
def consumed (s : State) (c : Chain) : State :=
  if cf c 0 2 = 2 then { s with images := s.images.filter fun m => m.1 != cf c 0x10 4 } else s

/-- The shape of every command: it is at the head of a queue that holds a slot and may start; a chain that is too short is
returned unused, a failed boot answers SIGFAIL, a malformed command MALFORMED. -/
def command (i : CommandKind) (q : Nat) (c : Chain) (s : State) (f : Pending → State → State) : Host.Outcome State Fault Refusal :=
  if nextChain s q ≠ some c ∨ commandKind c ≠ some i then .next s
  else
    let p : Pending := ⟨q, c⟩
    let s' := popRing s q
    if tooShort s c then .next (returnUnused s' p)
    else if !s.health.ready then .next (complete s' p stSigFail (cf c 4 4) [])
    else if !commandOk c then .next (complete (consumed s' c) p stMalformed (cf c 4 4) [])
    else .next (f p s')

/-! ## The queue mapper (03 R46-R48) -/

/-- The queues that hold a slot. -/
def slotHolders (s : State) : List (Nat × Queue) := s.queues.filter fun x => x.2.slot

/-- The unpinned holder whose last notification is oldest. -/
def oldestUnpinned : List (Nat × Queue) → Option (Nat × Queue)
  | [] => none
  | x :: l =>
    match oldestUnpinned l with
    | none => if x.2.pinned then none else some x
    | some y => if !x.2.pinned && x.2.notified ≤ y.2.notified then some x else some y

/-- A queue takes a slot, evicting another where none is free: the evicted queue keeps its ring and has its notifications
enabled (03 R46), the one that takes the slot has its own disabled (DESIGN CHOICE, log entry 22). -/
def takeSlot (s : State) (q : Nat) : State :=
  let x := { queueAt s q with slot := true, kicks := false }
  if (slotHolders s).length < 32 then setQueue s q x
  else
    match oldestUnpinned (slotHolders s) with
    | some (o, y) => setQueue (setQueue s o { y with slot := false, kicks := true }) q x
    | none => s

/-- QUEUE_NOTIFICATION: an enabled queue is brought into a slot and its commands are taken. -/
def execQueueNotification (q : Nat) (s : State) : Host.Outcome State Fault Refusal :=
  let x := queueAt s q
  if !answering s || 1024 ≤ q || !x.enabled then .next s
  else
    let s := if x.slot then s else takeSlot s q
    let s := setQueue (fresh s) q { queueAt s q with notified := s.nextId }
    .next (takeBads s q (queueAt s q).ring.length)

/-! ## Commands that name a job (03 R52, R54) -/

/-- A resident job. -/
def resident (s : State) (id : Nat) : Option Job := (jobAt s id).bind fun j => if j.status = .ended then none else some j

/-- The job that a command names, in one of the states that take it; else the command completes with NOJOB, WRONGQ or
STATE. -/
def withJob (p : Pending) (s : State) (anyQueue : Bool) (states : List JobStatus) (f : Job → State) : State :=
  let id := cf p.chain 4 4
  match resident s id with
  | none => complete s p stNoJob id []
  | some j =>
    if !anyQueue && j.queue != p.queue then complete s p stWrongQ id []
    else if !states.contains j.status then complete s p stState id []
    else f j

/-- A body field is out of its range. -/
def guardBody (ok : Bool) (p : Pending) (s : State) (f : State) : State :=
  if ok then f else complete s p stMalformed (cf p.chain 4 4) []

/-- The binding report (02 R28). -/
def bindingReport (j : Job) : List Byte :=
  BitVec.ofNat 8 j.rot :: (if j.binding.isEmpty then j.former else j.binding).map (BitVec.ofNat 8)

/-! ## LOAD_IMAGE and CREATE_JOB (03 R60) -/

/-- LOAD_IMAGE: handles count up from 1 and none is used twice before a device reset (DESIGN CHOICE, log entry 46). -/
def execLoadImage (q : Nat) (c : Chain) (s : State) : Host.Outcome State Fault Refusal :=
  command .loadImage q c s fun p s =>
    let h := cf c 0x10 8
    let len := cf c 0x18 8
    guardBody (cf c 4 4 == 0) p s <|
      if s.health.resetReq ∨ 64 ≤ s.images.length then complete s p stResource 0 []
      else if !tablesMapped s h len then complete s p stFault 0 []
      else if !(readImage s h len).any imageOk then complete s p stBadImage 0 []
      else
        complete { s with images := s.images ++ [(s.nextImage, BitVec.ofNat 64 h, BitVec.ofNat 64 len)], nextImage := s.nextImage + 1 }
          p stOk 0 (leBytes 4 s.nextImage)

/-- The first of `n` consecutive free apertures: which run a job gets is the model's choice (log entry 46). -/
def freeApertures (s : State) (n : Nat) : Option Nat :=
  (List.range 65).find? fun a => a + n ≤ 64 &&
    !(s.jobs.any fun j => j.apertures != 0 && rangesMeet a n j.aperture j.apertures)

/-- No resident job has a part of the pool range. -/
def poolFree (s : State) (off size : Nat) : Bool :=
  !(s.jobs.any fun j => j.status != .ended && size != 0 && j.poolSize != 0 && rangesMeet off size j.poolOff j.poolSize)

/-- The body of CREATE_JOB is in range. -/
def createOk (s : State) (c : Chain) : Bool :=
  let rot := cf c 0x14 1
  let size := cf c 0x28 8
  cf c 4 4 == 0 && (rot ≤ 3 || rot == 255) && cf c 0x15 1 ≤ 64 && cf c 0x18 8 % 2 ^ 30 == 0 && size % 2 ^ 30 == 0 &&
  (size == 0 || s.poolTrained.any fun n => cf c 0x20 8 + size ≤ n)

/-- The job that an image makes under one rotation, where every resource it needs is free (02 R26, R36). -/
def allocateAt (s : State) (m : Image) (q : Nat) (c : Chain) (rot : Nat) : Option Job :=
  match imagePages m rot, freeApertures s (cf c 0x15 1) with
  | some pages, some a =>
    let j := fun cores => jobOf s m q rot cores pages (BitVec.ofNat 64 (cf c 0x18 8)) a (cf c 0x15 1) (cf c 0x20 8) (cf c 0x28 8)
    if (m.stacks.all fun k => stackFree s ((k.1 + 3 * rot) % 12)) && poolFree s (cf c 0x20 8) (cf c 0x28 8) then
      (bindClusters s rot (fun cores => switchesFit s (j cores) m.groups) (clusterNeeds m.n) [] []).map j
    else none
  | _, _ => none

/-- The job that an image makes, under the first rotation that gives it all it needs (02 R29). -/
def allocate (s : State) (m : Image) (q : Nat) (c : Chain) : Option Job :=
  (if cf c 0x14 1 = 255 then [0, 1, 2, 3] else [cf c 0x14 1]).findSome? (allocateAt s m q c)

/-- The queue holds a resident job. -/
def queueTaken (s : State) (q : Nat) : Bool := s.jobs.any fun j => j.queue == q && j.status != .ended

/-- CREATE_JOB: the handle is consumed whatever the status; all of the image's resources are allocated, or nothing is. -/
def execCreateJob (q : Nat) (c : Chain) (s : State) : Host.Outcome State Fault Refusal :=
  command .createJob q c s fun p s =>
    match s.images.find? fun m => m.1 == cf c 0x10 4 with
    | none => complete s p stMalformed (cf c 4 4) []
    | some (_, h, len) =>
      let s := consumed s c
      guardBody (createOk s c) p s <|
        if s.health.resetReq || queueTaken s q then complete s p stResource 0 []
        else if !tablesMapped s h.toNat len.toNat then complete s p stFault 0 []
        else
          match readImage s h.toNat len.toNat with
          | none => complete s p stBadImage 0 []
          | some m =>
            if imageOk m && !contentsMapped s m then complete s p stFault 0 []
            else if !(imageOk m && (List.range m.nrel).all (relocOk s m)) then complete s p stBadImage 0 []
            else
              match allocate s m q c with
              | none => complete s p stResource 0 []
              | some j =>
                complete (placeJob s m j) p stOk j.id
                  (BitVec.ofNat 8 (if j.apertures = 0 then 255 else j.aperture) :: bindingReport j)

/-! ## START, SIGNAL and KILL (03 R55-R58) -/

/-- The entries of a core whose counters are zero are released. -/
def releaseTasks (now : Nat) (c : Core) : Core :=
  { c with tasks := c.tasks.map fun t =>
      if t.status = .waiting ∧ (c.counters[t.counter]?).getD 0 = 0 then { t with status := .ready, readyAt := now, boost := 0 } else t }

def execStart (q : Nat) (c : Chain) (s : State) : Host.Outcome State Fault Refusal :=
  command .start q c s fun p s =>
    withJob p s false [.created] fun j =>
      j.binding.foldl (fun s n => onCore s n (releaseTasks s.clock)) (setJob s { j with status := .running, start := some p })

/-- SIGNAL: bit 1 of EPEND in each targeted context, at once, as KILL's notice, also where the core lies beyond wall buses that pause (DESIGN
CHOICE, log entry 25). Whether the context id is in range depends on the job, so it is looked at after
NOJOB, WRONGQ and STATE (DEDUCED, log entry 19). -/
def execSignal (q : Nat) (c : Chain) (s : State) : Host.Outcome State Fault Refusal :=
  command .signal q c s fun p s =>
    withJob p s false [.running] fun j =>
      let x := cf c 0x10 2
      if x = 0xFFFF then
        complete ((jobCtxs j).foldl (fun s k => onCtx s k fun t => raiseEvents s.clock t 2) s) p stOk j.id []
      else guardBody (x < 4 * j.n) p s (complete (onCtx s (ctxKey j x) fun t => raiseEvents s.clock t 2) p stOk j.id [])

/-- KILL: at once, or with the kill notice (bit 2 of EPEND) and a time of grace for a RUNNING job. -/
def execKill (q : Nat) (c : Chain) (s : State) : Host.Outcome State Fault Refusal :=
  command .kill q c s fun p s =>
    let grace := cf c 0x10 4
    guardBody (grace ≤ 1000000) p s <|
      withJob p s true [.created, .running, .preempted] fun j =>
        if grace ≠ 0 ∧ j.status = .running then
          (jobCtxs j).foldl (fun s k => onCtx s k fun t => raiseEvents s.clock t 4)
            (setJob s { j with kill := j.kill ++ [(p, timeNow s + 1000 * grace)] })
        else complete (abortJob s j.id none) p stOk j.id []

/-- KILL_GRACE_EXPIRY: the grace of an outstanding KILL has passed. -/
def execKillGraceExpiry (job : Nat) (s : State) : Host.Outcome State Fault Refusal :=
  match resident s job with
  | none => .next s
  | some j =>
    match j.kill.find? fun x => x.2 ≤ timeNow s with
    | none => .next s
    | some x => .next (complete (abortJob (setJob s { j with kill := j.kill.erase x }) job none) x.1 stOk job [])

/-! ## The end of a job (03 R55) -/

/-- A layer that the job is bound to has been turned off (23 R411). -/
def onOffLayer (s : State) (j : Job) : Bool := j.binding.any fun n => s.layersOff.contains (coreDie n, coreLayer n)

/-- Nothing of the job is left to run: contexts IDLE, no task in a table, no engine command, no message; a launch of another part that waits
for an entry holds nothing up (R55, 18 R362). -/
def jobDone (s : State) (j : Job) : Bool :=
  (jobCtxs j).all (fun k => (ctxAt s k).status == .idle) &&
  (j.binding.all fun n => (coreAt s n).queue.isEmpty &&
    (coreAt s n).tasks.toList.all fun t => t.status == .free || t.status == .reserved) &&
  !(s.copies.any fun c => j.binding.contains (c.ctx / 4)) && !(s.reqs.any fun r => j.binding.contains (r.ctx / 4)) &&
  !(s.messages.any fun m => m.job == j.id) &&
  j.groups.all fun g => g.fifo.isEmpty && g.area.isEmpty

/-- JOB_END: a RUNNING job with nothing left ends with code 0; a job bound to a layer that is off ends with code 0x83. -/
def execJobEnd (job : Nat) (s : State) : Host.Outcome State Fault Refusal :=
  match resident s job with
  | none => .next s
  | some j =>
    if onOffLayer s j then .next (abortJob s job (some 0x83))
    else if j.status = .running ∧ jobDone s j = true then
      let s := match j.start with
        | some p => complete s p stOk job (leBytes 8 (timeNow s) ++ leBytes 2 0)
        | none => s
      let s := j.kill.foldl (fun s x => complete s x.1 stOk job []) s
      .next (releaseJob (abortCommands s j) j)
    else .next s

/-! ## Copies of the host (03 R59) -/

/-- COPY_IN or COPY_OUT enters the long copy class, where its body is in range and its state takes it. -/
def hostCopy (p : Pending) (s : State) (into : Bool) : State :=
  let c := p.chain
  let len := cf c 0x20 8
  guardBody (1 ≤ len && len ≤ 2 ^ 32 && (cf c 2 2 % 2 == 0 || cf c 0x2A 1 ≤ 63)) p s <|
    withJob p s false [.created, .running, .preempted] fun j =>
      let slice := match spaceOf (cf c 0x18 8) with | .slice n _ => decide (n < j.n) | _ => false
      if cf c 2 2 % 2 = 1 ∧ j.n ≤ cf c 0x28 2 then complete s p stMalformed j.id []
      else if slice && j.status == .preempted then complete s p stState j.id []
      else { s with hostCopies := s.hostCopies ++ [⟨s.nextId, j.id, into, p⟩], nextId := s.nextId + 1 }

def execCopyIn (q : Nat) (c : Chain) (s : State) : Host.Outcome State Fault Refusal :=
  command .copyIn q c s fun p s => hostCopy p s true
def execCopyOut (q : Nat) (c : Chain) (s : State) : Host.Outcome State Fault Refusal :=
  command .copyOut q c s fun p s => hostCopy p s false

/-- The place of a device byte of a host copy. -/
def devicePlace (s : State) (j : Job) (write : Bool) (a : Nat) : Option Nat :=
  match spaceOf a with
  | .job | .slice _ _ => match translate j a write with
    | .ok pa => if sliceOff s pa then none else some pa
    | .error _ => none
  | _ => none

/-- The granule of a byte lies wholly in [d, d + n). -/
def granuleInside (a d n : Nat) : Bool := d ≤ a / 16 * 16 && a / 16 * 16 + 16 ≤ d + n

/-- The bytes of a host copy from index `i` on are moved, up to the first that cannot be; with the status. A COPY_IN is an
engine write, which marks slice granules full. -/
def moveHostBytes (j : Job) (into : Bool) (h d len : Nat) : Nat → State → Nat → State × Nat
  | 0, s, _ => (s, stOk)
  | n + 1, s, i =>
    match devicePlace s j into (d + i), hostMapped s (h + i) with
    | some pa, true =>
      if into then
        if s.bad.contains (pa / 16) && !granuleInside (d + i) d len then (s, stPoison)
        else
          let s := if (d + i) % 16 = 15 ∧ granuleInside (d + i) d len = true then { s with bad := s.bad.erase (pa / 16) } else s
          moveHostBytes j into h d len n (markFull { s with mem := writeByte s.mem pa (readByte s.mem (hostPhys (h + i))) } pa 1) (i + 1)
      else if s.bad.contains (pa / 16) then (s, stPoison)
      else moveHostBytes j into h d len n { s with mem := writeByte s.mem (hostPhys (h + i)) (readByte s.mem pa) } (i + 1)
    | _, _ => (s, stFault)

/-- The place of byte `i` of a host copy, if it can be moved. -/
def movable (s : State) (j : Job) (into : Bool) (h d len i : Nat) : Option Nat :=
  (devicePlace s j into (d + i)).filter fun pa =>
    hostMapped s (h + i) && (!s.bad.contains (pa / 16) || (into && granuleInside (d + i) d len))

/-- The places of the device bytes that a host copy moves. -/
def hostCopyPlaces (s : State) (j : Job) (into : Bool) (h d len : Nat) : List Nat :=
  (((List.range len).map (movable s j into h d len)).takeWhile Option.isSome).filterMap id

/-- A page of the copy lies in a stack that is handed over, or the way between the I/O die and one of its bytes stands before paused wall
buses: its data are held. -/
def hostCopyHeld (s : State) (j : Job) (into : Bool) (d n : Nat) : Bool :=
  (j.pages.any fun p => rangesMeet (65536 * p.vpage) 65536 d n && handing s p.stack 1 5) ||
  (List.range n).any fun i => (devicePlace s j into (d + i)).any fun pa => wayPaused s (.unit 28) (agentOf s pa) || wayPaused s (agentOf s pa) (.unit 28)

/-- The counter that a COPY_IN or COPY_OUT names is decremented; of a pre-empted job, whose counters are in its image, at RESUME. -/
def hostDecrement (s : State) (j : Job) (core c : Nat) : State :=
  if j.status == .preempted then setJob s { j with owed := j.owed ++ [(core, c)] } else decrement s (j.binding[core]?.getD 0) c 1

/-- The decrement that ends a host copy stands before paused wall buses on its way from the I/O die to the core (04 R78); that of a
pre-empted job goes to no core. -/
def hostCounterHeld (s : State) (j : Job) (c : Chain) : Bool :=
  cf c 2 2 % 2 == 1 && j.status != .preempted && wayPaused s (.unit 28) (.core (j.binding[cf c 0x28 2]?.getD 0))

/-- HOST_COPY_COMPLETE: the data of a host copy are in place, the counter is decremented, and the command completes. -/
def execHostCopyComplete (id : Nat) (s : State) : Host.Outcome State Fault Refusal :=
  match s.hostCopies.find? fun h => h.id == id with
  | none => .next s
  | some x =>
    match resident s x.job with
    | none => .next s
    | some j =>
      let c := x.cmd.chain
      let d := cf c 0x18 8
      let len := cf c 0x20 8
      if hostCopyHeld s j x.into d len || hostCounterHeld s j c then .next s
      else
        let s := { s with hostCopies := s.hostCopies.filter fun h => h.id != id }
        let touched := hostCopyPlaces s j x.into (cf c 0x10 8) d len
        let (s, st) := moveHostBytes j x.into (cf c 0x10 8) d len len s 0
        let s := serveHeld (cached s x.into touched)
        let s := if st = stOk ∧ cf c 2 2 % 2 = 1 then hostDecrement s ((jobAt s j.id).getD j) (cf c 0x28 2) (cf c 0x2A 1) else s
        .next (complete s x.cmd st j.id [])

/-! ## SET_TOLERANCE and PEEL_REQUEST -/

/-- SET_TOLERANCE: from now on no unit enters a state that the tolerance does not admit (23 R410); one that is in such a state stays in
it until something wakes it (DEDUCED, log entry 27). -/
def execSetTolerance (q : Nat) (c : Chain) (s : State) : Host.Outcome State Fault Refusal :=
  command .setTolerance q c s fun p s =>
    guardBody (cf c 4 4 == 0) p s (complete { s with tolerance := cf c 0x10 8 } p stOk 0 [])

/-- PEEL_REQUEST: a held stack is handed to its home die or its other die, after the hand-overs that wait before it. -/
def execPeelRequest (q : Nat) (c : Chain) (s : State) : Host.Outcome State Fault Refusal :=
  command .peelRequest q c s fun p s =>
    let k := cf c 0x10 1
    guardBody (cf c 0x11 1 ≤ 1) p s <|
      withJob p s false [.created, .running, .preempted] fun j =>
        let st := boundStack j k
        if k ≤ 11 && holdsStack j st then queueHandover s st j.id (if cf c 0x11 1 = 0 then homeDie st else otherDie st) (.host p)
        else complete s p stStackOwn j.id []

/-! ## QUERY (03 R69, R70) -/

/-- A QUERY completes with its result, cut at the end of the writable part. -/
def answerQuery (s : State) (p : Pending) (job : Nat) (l : List Byte) : State := complete s p stOk job (l.take (p.chain.wlen - 16))

/-- The bytes of a string of ASCII codes, padded with NUL to `n`. -/
def padded (l : List Nat) (n : Nat) : List Byte := (List.range n).map fun i => BitVec.ofNat 8 (l[i]?.getD 0)

/-- "AX-DK9-S48" -/
def partNumber : List Nat := [0x41, 0x58, 0x2D, 0x44, 0x4B, 0x39, 0x2D, 0x53, 0x34, 0x38]

def execQueryPart (q : Nat) (c : Chain) (s : State) : Host.Outcome State Fault Refusal :=
  command .queryPart q c s fun p s =>
    let ids := (s.jobs.filter fun j => j.status != .ended).map (·.id)
    guardBody (cf c 4 4 == 0) p s (answerQuery s p 0
      (padded partNumber 16 ++ Config.revision :: leBytes 7 0 ++ leBytes 8 (featureBits s) ++ leBytes 4 (healthBits s) ++
        leBytes 4 ids.length ++ ids.flatMap (leBytes 4)))

/-- The job that selector 1 or 2 names, from any queue. -/
def queryOf (p : Pending) (s : State) (f : Job → List Byte) : State :=
  let id := cf p.chain 4 4
  match resident s id with
  | none => complete s p stNoJob id []
  | some j => answerQuery s p id (f j)

def statusCode (x : JobStatus) : Nat := match x with | .created => 0 | .running => 1 | .preempted => 2 | .ended => 3

def execQueryJob (q : Nat) (c : Chain) (s : State) : Host.Outcome State Fault Refusal :=
  command .queryJob q c s fun p s =>
    queryOf p s fun j => leBytes 1 (statusCode j.status) ++ leBytes 3 0 ++ leBytes 4 j.n ++ leBytes 4 j.lastCause.toNat

def execQueryBinding (q : Nat) (c : Chain) (s : State) : Host.Outcome State Fault Refusal :=
  command .queryBinding q c s fun p s => queryOf p s bindingReport

/-- A record of the cluster map (03 R69, 01 R11): the four columns that the cluster has now, a spare at the place of the column that it
replaces. A die whose spare stands in a cluster lists every column but the replaced one, which names its two cores as the retired
ones (01 R13); the place of the spare is log entry 44. -/
def clusterRecord (s : State) (cl : Nat) : List Byte :=
  let cols := clusterColumns s (cl / 6) (cl % 6)
  let spare := cols.contains (Config.spareColumn (cl / 6)).val
  let mask := (List.range 8).foldl (fun m i =>
    let n := 64 * (cl / 6) + 32 * (i % 2) + (cols[i / 2]?.getD 0)
    if (coreAt s n).retired then m + 2 ^ i else m) 0
  leBytes 1 (cl / 6) ++ leBytes 1 (cl % 6) ++ padded cols 4 ++ leBytes 1 (if spare then 1 else 0) ++ leBytes 1 mask

/-- QUERY_CLUSTER_MAP: the records of the 24 clusters, by die and then by cluster (DESIGN CHOICE, log entry 44: 01 R11 gives them no order). -/
def execQueryClusterMap (q : Nat) (c : Chain) (s : State) : Host.Outcome State Fault Refusal :=
  command .queryClusterMap q c s fun p s =>
    guardBody (cf c 4 4 == 0) p s (answerQuery s p 0 ((List.range 24).flatMap (clusterRecord s)))

/-- The part of the attestation report that its signature covers (03 Table host-7). -/
def reportBody (s : State) (nonce : Nat) : List Byte :=
  leBytes 2 1 ++ leBytes 2 0 ++ leBytes 4 0x194 ++ leBytes 16 Config.serial.toNat ++ leBytes 8 (timeNow s) ++ leBytes 32 nonce ++
    Config.digests.toList.flatMap (fun d => leBytes 64 d.toNat) ++ leBytes 4 (healthBits s) ++ leBytes 4 Config.svn.toNat ++ leBytes 8 0

def execQueryAttestation (q : Nat) (c : Chain) (s : State) : Host.Outcome State Fault Refusal :=
  command .queryAttestation q c s fun p s =>
    let body := reportBody s (cf c 0x20 32)
    guardBody (cf c 4 4 == 0 && Config.attestation) p s (answerQuery s p 0 (body ++ (Config.signature body).toList))

def execQueryCertChain (q : Nat) (c : Chain) (s : State) : Host.Outcome State Fault Refusal :=
  command .queryCertChain q c s fun p s => guardBody (cf c 4 4 == 0) p s (answerQuery s p 0 Config.certificates)

/-- An error-log entry as its 32 bytes (23 Table errors-4). -/
def logBytes (e : LogEntry) : List Byte :=
  leBytes 8 e.time ++ leBytes 1 e.kind ++ leBytes 1 e.core ++ leBytes 2 e.ctx ++ leBytes 4 e.job ++ leBytes 8 e.a.toNat ++ leBytes 8 e.b.toNat

def execQueryErrorLog (q : Nat) (c : Chain) (s : State) : Host.Outcome State Fault Refusal :=
  command .queryErrorLog q c s fun p s =>
    guardBody (cf c 4 4 == 0) p s (answerQuery s p 0 (s.log.reverse.flatMap logBytes))

/-! ## Reset and boot (03 R68) -/

/-- A core as a device reset leaves it: a retirement is kept in the module's flash (23 R409). -/
def resetCore (c : Core) : Core := { Core.reset with retired := c.retired }

/-- DEVICE_RESET: the part as State.reset has it; what stands outside the part (host memory and its mapping, the pool, the
turns to come) and what flash keeps stays, and no free value is used twice. -/
def execDeviceReset (s : State) : Host.Outcome State Fault Refusal :=
  .next { State.reset with
    agenda := s.agenda, free := s.free, nextId := s.nextId, hostMap := s.hostMap, mem := s.mem.filter fun c => 2 ^ 44 ≤ c.1
    cores := (s.cores.filter fun x => x.2.retired).map fun x => (x.1, resetCore x.2)
    health := { Health.reset with retired := s.health.retired, spares := s.health.spares, replace := s.health.replace } }

/-- The active cores of the part. -/
def activeAll (s : State) : List Nat := ((List.range 24).flatMap (clusterCores s)).filter fun n => !(coreAt s n).retired

/-- BOOT_COMPLETE: the images are verified and the service stores loaded, or a check has failed. -/
def execBootComplete (ok : Bool) (s : State) : Host.Outcome State Fault Refusal :=
  if answering s then .next s
  else if ok then
    let s := (activeAll s).foldl (fun s n => onCore s n fun c => { c with storeOk := true }) s
    .next (configChanged s { s.health with ready := true })
  else .next (configChanged s { s.health with fwfail := true })

end Sys2Proof.Machine
end

