-- ==== Sys2Proof/Machine/Image.lean ====
section
/-! DEFINITION. The image of a pre-empted job at SAVE (21 R393-R395, Tables intr-8, intr-9): what is written there, and what RESUME
reads. The items whose layout the manual leaves open stand as log entry 17 says. -/

namespace Sys2Proof.Machine

/-! ## SAVE as bytes -/

/-- The length of a pre-emption image (21 R393). -/
def imageLength (j : Job) : Nat := 0x1000 + j.n * 0x520000 + 0x10000 + j.groups.length * 0x1500

/-- The cells of a range, at offsets from its start. -/
def cellsOf (m : List Host.Cell) (a n : Nat) : List (Nat × Byte) := (m.filter fun c => a ≤ c.1 && c.1 < a + n).map fun c => (c.1 - a, c.2)

/-- The pieces of [a, a + n) between 64 KiB boundaries, `k` at most. -/
def pieces : Nat → Nat → Nat → List (Nat × Nat)
  | 0, _, _ => []
  | k + 1, a, n => if n = 0 then [] else (a, min n (65536 - a % 65536)) :: pieces k (a + min n (65536 - a % 65536)) (n - min n (65536 - a % 65536))

/-- Cells written over a range of SAVE from address `a` on, whose other bytes become zero. -/
def putCells (j : Job) (host : Bool) (a n : Nat) (l : List (Nat × Byte)) (s : State) : State :=
  (pieces (n / 65536 + 2) a n).foldl (fun s x =>
    match savePlace s j host true x.1 with
    | none => s
    | some pa =>
      let m := clearRange s.mem pa (pa + x.2)
      let mine := l.filter fun c => x.1 ≤ a + c.1 && a + c.1 < x.1 + x.2
      cached { s with mem := mine.foldl (fun m c => writeByte m (pa + (a + c.1 - x.1)) c.2) m } true ((List.range x.2).map (pa + ·))) s

/-- The cells of SAVE from address `a` on. -/
def takeCells (s : State) (j : Job) (host : Bool) (a n : Nat) : List (Nat × Byte) :=
  (pieces (n / 65536 + 2) a n).flatMap fun x =>
    match savePlace s j host false x.1 with
    | none => []
    | some pa => (cellsOf s.mem pa x.2).map fun c => (c.1 + (x.1 - a), c.2)

/-- The places of a range of SAVE. -/
def saveBytes (s : State) (j : Job) (host : Bool) (a n : Nat) : List Nat :=
  (pieces (n / 65536 + 2) a n).flatMap fun x => ((savePlace s j host false x.1).elim [] fun pa => (List.range x.2).map (pa + ·))

/-- The little-endian bytes of a number as cells. -/
def numCells (off n v : Nat) : List (Nat × Byte) := (List.range n).map fun i => (off + i, BitVec.ofNat 8 (v / 2 ^ (8 * i)))

/-- The header of the image (21 Table intr-8). -/
def headerCells (s : State) (j : Job) (incr : Bool) : List (Nat × Byte) :=
  numCells 0 4 0x56455250 ++ numCells 4 2 1 ++ numCells 6 1 (if incr then 1 else 0) ++ numCells 7 1 j.rot ++ numCells 8 4 j.id ++
    numCells 0x0C 2 j.n ++ numCells 0x0E 2 j.groups.length ++ numCells 0x10 8 (timeNow s) ++ numCells 0x18 8 (imageLength j)

/-- The marks of page `p` of a slice: 2 bits a granule, in 64 bytes. -/
def markCells (x : SavedCore) (p : Nat) : List (Nat × Byte) :=
  (List.range 64).map fun i =>
    (i, BitVec.ofNat 8 (packLanes 2 ((List.range 4).map fun b =>
      (if x.full.contains (256 * p + 4 * i + b) then 1 else 0) + if x.bad.contains (256 * p + 4 * i + b) then 2 else 0)))

/-- The cells of page `p` of a slice. -/
def pageCells (x : SavedCore) (p : Nat) : List (Nat × Byte) :=
  (x.slice.filter fun c => c.1 / 4096 == p).map fun c => (c.1 - 4096 * p, c.2)
def pageMarks (l : List Nat) (p : Nat) : List Nat := l.filter fun g => g / 256 == p

/-- The words of a tile as bytes. -/
def tileCells (t : Tile) : List (Nat × Byte) := t.words.flatMap fun w => numCells (4 * w.1) 4 w.2.toNat

/-- An incremental image leaves a unit whose dirty bit is clear (21 R394). -/
def leaves (incr : Bool) (x : SavedCore) (u : DirtyUnit) : Bool := incr && !x.core.dirty.contains u

/-- The bytes of units that an incremental image leaves: pages with their marks, tiles, vectors, groups of 8 predicates. -/
def cleanBytes (x : SavedCore) : Nat :=
  let clean := fun (n : Nat) (f : Nat → DirtyUnit) => ((List.range n).filter fun i => leaves true x (f i)).length
  4160 * clean 1024 .page + 0xC000 * clean 16 .tile + ((List.range 4).map fun i => 256 * clean 64 (.vector i) + 128 * clean 12 (.preds i)).sum

/-- The rest of the image, whose layout the manual leaves open or gives in part: free values (log entries 2, 17). -/
def putOpen (j : Job) (host : Bool) (a n : Nat) (s : State) : State :=
  let l := (List.range n).map fun i => (i, BitVec.ofNat 8 (bits (openAt s (i / 256)) (8 * (i % 256) + 7) (8 * (i % 256))))
  { putCells j host a n l s with free := s.free + n / 256 + 1 }

/-! ### The area of a context (21 Table intr-9); the items follow each other without a gap (log entry 17) -/

abbrev imageS : Nat := 0x4000
abbrev imageDf : Nat := 0x4200
abbrev imageV : Nat := 0x4210
abbrev imageP : Nat := 0x8210
abbrev imageE : Nat := 0x8810
abbrev imageSc : Nat := 0x8C10
abbrev imageSpecial : Nat := 0x9510
abbrev imageEnd : Nat := 0x9594

/-- What every image writes of context `k`: the frame area with the resume address as its PC, the registers that are no unit of
R394, H, EN and the priorities. The special register CCYC stands there as an MFS of the next bundle would read it, one more than the
CCYC field of the frame area, from which alone RESUME restores it (DESIGN CHOICE, log entry 17). -/
def ctxPatches (s : State) (k : Nat) (c : Ctx) : List Patch :=
  framePatches c c.ccyc c.flights c.withdrawn c.held c.tcause.toNat c.taddr c.pc ++
  [(imageS, 512, packLanes 64 (c.s.toList.map (·.toNat))), (imageDf, 8, c.sdf.toNat), (imageDf + 8, 8, c.vdf.toNat),
   (imageE, 1024, packLanes 64 (c.e.toList.map (·.toNat))), (imageSc, 2304, packLanes 1152 (c.sc.toList.map fun x => (scaleBits x).toNat)),
   (imageSpecial, 128, packLanes 64 ((List.range 16).map fun n => (specialVal s k n).toNat)),
   (imageSpecial + 128, 1, if c.h then 1 else 0), (imageSpecial + 129, 1, if c.en then 1 else 0), (imageSpecial + 130, 1, c.prio.val),
   (imageSpecial + 131, 1, c.mprio.val)]

/-- The units of context `i` of a core: vector registers and groups of 8 predicates, but for those that are left. The bytes of p0 hold
what is stored for p0, which nothing reads (DESIGN CHOICE, log entry 17). -/
def unitPatches (c : Ctx) (left : DirtyUnit → Bool) (i : Nat) : List Patch :=
  ((List.range 64).filter fun r => !left (.vector i r)).map (fun r => (imageV + 256 * r, 256, ((c.v[r]?).getD 0).toNat)) ++
  ((List.range 12).filter fun g => !left (.preds i g)).map fun g =>
    (imageP + 128 * g, 128, packLanes 128 ((List.range 8).map fun i => ((c.p[8 * g + i]?).getD 0).toNat))

/-- Numbers written in an area of SAVE from address `a` on. -/
def putPatches (j : Job) (host : Bool) (a : Nat) (l : List Patch) (s : State) : State :=
  l.foldl (fun s x => putCells j host (a + x.1) x.2.1 (numCells 0 x.2.1 x.2.2) s) s

/-- What reads an area of SAVE from address `a` on. -/
def saveReader (s : State) (j : Job) (host : Bool) (a : Nat) : Reader := fun off n => (saveField s j host (a + off) n).getD 0

/-- The area of a context in the image; what follows its items is open. -/
def putCtx (j : Job) (host : Bool) (a k : Nat) (c : Ctx) (left : DirtyUnit → Bool) (s : State) : State :=
  let l := ctxPatches s k c ++ unitPatches c left (k % 4)
  putOpen j host (a + imageEnd) (0x10000 - imageEnd) (putPatches j host a l (putCells j host a 0x4000 [] s))

/-! ### A core's own 64 KiB: tile types, tasks, counters, commands, reservations (log entry 17) -/

def boolNo (b : Bool) : Nat := if b then 1 else 0
/-- A number that may be absent: zero, or one more than it. -/
def optNo (x : Option Nat) : Nat := x.elim 0 (· + 1)
def optOf (n : Nat) : Option Nat := if n = 0 then none else some (n - 1)

def taskNo : TaskStatus → Nat
  | .free => 0 | .reserved => 1 | .waiting => 2 | .ready => 3 | .running => 4
def taskOf (n : Nat) : TaskStatus :=
  match n with | 1 => .reserved | 2 => .waiting | 3 => .ready | 4 => .running | _ => .free

/-- Task-table entry `i`, which context `runner` runs. -/
def taskPatches (i : Nat) (t : Task) (runner : Option Nat) : List Patch :=
  let b := 0x100 + 128 * i
  [(b, 1, taskNo t.status), (b + 1, 1, t.prio.val), (b + 2, 1, t.boost), (b + 3, 1, t.counter), (b + 4, 1, optNo t.bound),
   (b + 5, 1, boolNo t.retried), (b + 6, 1, optNo runner), (b + 8, 8, t.handler.toNat), (b + 16, 64, packLanes 64 (t.args.toList.map (·.toNat))),
   (b + 80, 8, t.sender.toNat), (b + 88, 8, t.group.toNat)]

/-- Entry `i` as SAVE holds it; since when it is READY is no item of the image. -/
def readTask (f : Reader) (i : Nat) (old : Task) : Task :=
  let b := 0x100 + 128 * i
  { old with
    status := taskOf (f b 1), prio := Fin.ofNat 4 (f (b + 1) 1), boost := f (b + 2) 1, counter := f (b + 3) 1, bound := optOf (f (b + 4) 1)
    retried := f (b + 5) 1 == 1, handler := BitVec.ofNat 64 (f (b + 8) 8), args := vec8 fun x => BitVec.ofNat 64 (f (b + 16 + 8 * x) 8)
    sender := BitVec.ofNat 64 (f (b + 80) 8), group := BitVec.ofNat 64 (f (b + 88) 8) }

/-- Unfinished matrix command `i` (11 R255): its operands, its progress, its priority, its tile and what attributes it. -/
def cmdPatches (i : Nat) (m : MatrixCmd) : List Patch :=
  let b := 0x2400 + 0x100 * i
  [(b, 4, slotBits m.op), (b + 4, 1, m.ctx % 4), (b + 5, 1, m.tile), (b + 6, 1, m.prio.val), (b + 7, 1, boolNo m.scaled), (b + 8, 8, m.queuedAt),
   (b + 16, 8, m.step), (b + 24, 1, m.flags.toNat), (b + 25, 1, boolNo m.epoch.handler), (b + 26, 1, boolNo m.taskEnded),
   (b + 32, 64, packLanes 64 (m.layout.toList.map (·.toNat))), (b + 96, 8, m.a.toNat), (b + 104, 8, m.b.toNat), (b + 112, 4, m.ss.toNat),
   (b + 116, 4, m.banks.toNat), (b + 120, 8, m.bundle.toNat), (b + 128, 8, m.epoch.entries), (b + 136, 8, m.id)]

/-- Command `i` as SAVE holds it: it waits in the queue. -/
def readCmd (f : Reader) (i : Nat) : Option MatrixCmd :=
  let b := 0x2400 + 0x100 * i
  let w := fun (o : Nat) => BitVec.ofNat 64 (f (b + o) 8)
  (decodeSlot .t (f b 4) none).map fun op =>
    { id := f (b + 136) 8, ctx := f (b + 4) 1, op := op, layout := vec8 fun x => w (32 + 8 * x), a := w 96, b := w 104
      ss := BitVec.ofNat 32 (f (b + 112) 4), tile := f (b + 5) 1 % 16, prio := Fin.ofNat 4 (f (b + 6) 1), queuedAt := f (b + 8) 8
      step := f (b + 16) 8, flags := BitVec.ofNat 6 (f (b + 24) 1), banks := BitVec.ofNat 32 (f (b + 116) 4), rack := none, counter := none
      words := [], wordsS32 := false, wordsBad := [], scaled := f (b + 7) 1 == 1, phase := .queued, failed := none, bundle := w 120
      epoch := ⟨f (b + 25) 1 == 1, f (b + 128) 8⟩, taskEnded := f (b + 26) 1 == 1 }

/-- The context of a core, of four, that runs entry `i`. -/
def runnerOf (l : List Ctx) (i : Nat) : Option Nat := l.findIdx? fun c => c.task == some i

/-- The 64 KiB of logical core `n`. -/
def corePatches (j : Job) (n : Nat) (x : SavedCore) : List Patch :=
  (List.range 16).flatMap (fun t => let a := x.tiles[t]?.getD Tile.reset
    [(2 * t, 1, boolNo a.s32), (2 * t + 1, 1, boolNo a.busy)]) ++
  (List.range 64).flatMap (fun i => taskPatches i (x.core.tasks[i]?.getD Task.reset) (runnerOf x.ctxs i)) ++
  (List.range 64).map (fun c => (0x2100 + 8 * c, 8, x.core.counters[c]?.getD 0)) ++
  (0x2300, 1, x.core.queue.length) :: (x.core.queue.zipIdx.flatMap fun m => cmdPatches m.2 m.1) ++
  j.groups.zipIdx.flatMap fun g => (List.range 4).map fun c =>
    (0x5000 + 1024 * c + g.2, 1, ((g.1.room.find? fun r => r.1 == 4 * n + c).map (·.2)).getD 0)

/-! ### Racks and cluster barriers (15 R320, R335; log entry 17) -/

/-- The controller's state of rack `i`: beside its trays, the pins that it has room for. -/
def rackPatches (i : Nat) (r : Rack) : List Patch :=
  let b := 0x300 * i
  [(b, 8, r.next), (b + 8, 4, r.drops), (b + 12, 2, r.pins.length)] ++
  (r.trays.zipIdx.flatMap fun t =>
    let c := b + 16 + 15 * t.2
    [(c, 1, boolNo t.1.opened + 2 * boolNo t.1.fresh + 4 * boolNo t.1.draining), (c + 1, 6, t.1.seq), (c + 7, 8, t.1.time)]) ++
  ((r.pins.take 88).zipIdx.flatMap fun x => [(b + 496 + 3 * x.2, 2, x.1.1), (b + 498 + 3 * x.2, 1, x.1.2)])

/-- Rack `i` as SAVE holds it. -/
def readRack (f : Reader) (i : Nat) (r : Rack) : Rack :=
  let b := 0x300 * i
  let pins := ((List.range (min 88 (f (b + 12) 2))).map fun x => (f (b + 496 + 3 * x) 2, f (b + 498 + 3 * x) 1)) ++ r.pins.drop 88
  { r with
    next := f b 8, drops := f (b + 8) 4, pins := pins
    trays := (List.range r.trays.length).map fun t =>
      let c := b + 16 + 15 * t
      { opened := f c 1 % 2 == 1, fresh := f c 1 / 2 % 2 == 1, draining := f c 1 / 4 % 2 == 1
        pins := (pins.filter fun p => p.2 == t).length, seq := f (c + 1) 6, time := f (c + 7) 8 } }

/-- The state of the cluster barrier with id `i` + 1. -/
def barrierPatches (i : Nat) (q : Barrier) : List Patch :=
  let b := 0xC000 + 64 * i
  if q.level.val ≠ 0 then []
  else
    [(b, 2, q.ea), (b + 2, 2, q.pa), (b + 4, 1, q.parent), (b + 5, 1, q.nextParent), (b + 6, 1, boolNo q.touched), (b + 8, 8, q.eb), (b + 16, 8, q.pb),
     (b + 24, 8, q.phase), (b + 32, 8, q.early), (b + 40, 8, q.lastOver)]

/-- The cluster barrier as SAVE holds it; a die or device barrier stays in its unit. -/
def readBarrier (f : Reader) (i : Nat) (q : Barrier) : Barrier :=
  let b := 0xC000 + 64 * i
  if q.level.val ≠ 0 then q
  else
    { q with ea := f b 2, pa := f (b + 2) 2, parent := f (b + 4) 1, nextParent := f (b + 5) 1, touched := f (b + 6) 1 == 1, eb := f (b + 8) 8
             pb := f (b + 16) 8, phase := f (b + 24) 8, early := f (b + 32) 8, lastOver := f (b + 40) 8 }

/-! ### Parked messages (21 Table intr-8) -/

/-- Parked message `i` of a group, in 80 bytes: payload, sender id, group id, priority. -/
def messagePatches (i : Nat) (m : Message) : List Patch :=
  [(80 * i, 64, packLanes 64 (m.payload.toList.map (·.toNat))), (80 * i + 64, 4, m.sender), (80 * i + 68, 4, m.group), (80 * i + 72, 8, m.prio.val)]

/-- The block of a group. -/
def groupPatches (g : Group) : List Patch := (g.fifo.zipIdx.flatMap fun m => messagePatches m.2 m.1) ++ [(0x1400, 8, g.fifo.length)]

/-- Parked message `i` as SAVE holds it, at the root of its group, with number `id`. -/
def readMessage (f : Reader) (job id : Nat) (root : Node) (i : Nat) : Message :=
  { id := id, job := job, group := f (80 * i + 68) 4, sender := f (80 * i + 64) 4, payload := vec8 fun w => BitVec.ofNat 64 (f (80 * i + 8 * w) 8)
    prio := Fin.ofNat 4 (f (80 * i + 72) 8), place := root, returned := none, bounces := 0, slot := 0, released := false, parked := true, bound := false }

/-- The parked messages of a group as SAVE holds them, numbered from `n` on. -/
def readFifo (f : Reader) (job n : Nat) (root : Node) : List Message :=
  (List.range (min 64 (f 0x1400 8))).map fun i => readMessage f job (n + i) root i

/-! ### The whole image -/

/-- The block of a core: the slice by pages, the granule marks and the tiles, its own 64 KiB, its contexts. -/
def putCore (j : Job) (host : Bool) (a n : Nat) (x : SavedCore) (incr : Bool) (s : State) : State :=
  let s := (List.range 1024).foldl (fun s p =>
    if leaves incr x (.page p) then s
    else putCells j host (a + 0x400000 + 64 * p) 64 (markCells x p) (putCells j host (a + 4096 * p) 4096 (pageCells x p) s)) s
  let s := (List.range 16).foldl (fun s t =>
    if leaves incr x (.tile t) then s
    else putCells j host (a + 0x410000 + 0xC000 * t) 0xC000 (tileCells (x.tiles[t]?.getD Tile.reset)) s) s
  let s := putPatches j host (a + 0x4D0000) (corePatches j n x) (putOpen j host (a + 0x4D0000) 0x10000 s)
  (List.range 4).foldl (fun s i => match x.ctxs[i]? with
    | some c => putCtx j host (a + 0x4E0000 + 0x10000 * i) (4 * (j.binding[n]?.getD 0) + i) c (leaves incr x) s
    | none => s) s

/-- The whole image written at SAVE. -/
def putImage (j : Job) (host : Bool) (a : Nat) (l : List SavedCore) (incr : Bool) (s : State) : State :=
  let s := putCells j host a 0x1000 (headerCells s j incr) s
  let s := l.zipIdx.foldl (fun s x => putCore j host (a + 0x1000 + x.2 * 0x520000) x.2 x.1 incr s) s
  let r := a + 0x1000 + j.n * 0x520000
  let s := putPatches j host r ((j.racks.zipIdx.flatMap fun x => rackPatches x.2 x.1) ++ j.barriers.zipIdx.flatMap fun x => barrierPatches x.2 x.1)
    (putOpen j host r 0x10000 s)
  j.groups.zipIdx.foldl (fun s x =>
    let b := r + 0x10000 + 0x1500 * x.2
    putPatches j host b (groupPatches x.1) (putCells j host b 0x1500 [] s)) s

/-! ## What RESUME reads -/

/-- The granules marked by bit `b` of the marks. -/
def markedBy (l : List (Nat × Byte)) (b : Nat) : List Nat :=
  l.flatMap fun c => (List.range 4).filterMap fun i => if c.2.toNat / 2 ^ (2 * i + b) % 2 = 1 then some (4 * c.1 + i) else none

/-- The words that the bytes of a tile give. -/
def savedWords (l : List (Nat × Byte)) : Store (BitVec 32) :=
  l.foldl (fun (w : Store (BitVec 32)) (c : Nat × Byte) =>
    let part : BitVec 32 := c.2.setWidth 32 <<< (8 * (c.1 % 4))
    put w (c.1 / 4) (look 0 w (c.1 / 4) ||| part)) []

/-- The special registers of a context as SAVE holds them: those that are state of their own. TIMER stands still, with what is left. -/
def readSpecials (f : Reader) (c : Ctx) : Ctx :=
  let v := fun (n : Nat) => BitVec.ofNat 64 (f (imageSpecial + 8 * n) 8)
  { c with
    fpstat := (v 5).setWidth 6, tvec := v 6, evec := v 7, emask := (v 8).setWidth 4, epend := (v 9).setWidth 4, tfbOff := ((v 10) >>> 14).setWidth 8
    tcause := (v 11).setWidth 25, taddr := v 12, timerAt := timerSet 0 true (v 13).toNat, frozen := true }

/-- A context as SAVE holds it (21 R395): what its area holds, with the attribution that `c` keeps of it (log entry 17). s0 and p0 are no
storage. The held faults of a context in no handler are delivered at its first boundary, those of a handler's code after it returns. -/
def readCtx (s : State) (f : Reader) (k : Nat) (c : Ctx) : Ctx :=
  let sc := fun (i : Nat) => f (imageSc + 144 * i) 132
  let h := f (imageSpecial + 128) 1 == 1
  let held := (List.range (min 32 (f 0x2E 2))).map (frameHeld s f k c.held)
  { readSpecials f c with
    pc := BitVec.ofNat 64 (f 0 8), ccyc := f 0x20 8
    flights := (List.range (min 24 (f 0x28 2))).map (recordFlight f (f 0x20 8))
    withdrawn := (List.range (min 127 (f 0x2A 2))).filterMap (pendReq s f k s.nextId c.withdrawn)
    loops := frameLoops f, streams := vec8 (frameStream s f k fun n => (c.streams[n]?).getD none), arrivals := frameArrivals f
    late := if h then held.filter (·.inHandler) else [], held := if h then held.filter fun x => !x.inHandler else held
    afterRft := !h && !held.isEmpty
    s := Vector.ofFn fun i => if i.val = 0 then 0 else BitVec.ofNat 64 (f (imageS + 8 * i.val) 8)
    sdf := BitVec.ofNat 64 (f imageDf 8), vdf := BitVec.ofNat 64 (f (imageDf + 8) 8)
    v := Vector.ofFn fun i => BitVec.ofNat 2048 (f (imageV + 256 * i.val) 256)
    p := Vector.ofFn fun i => if i.val = 0 then c.p[0] else BitVec.ofNat 128 (f (imageP + 16 * i.val) 16)
    e := Vector.ofFn fun i => BitVec.ofNat 64 (f (imageE + 8 * i.val) 8)
    sc := Vector.ofFn fun i => ⟨BitVec.ofNat 1024 (sc i.val), BitVec.ofNat 32 (sc i.val / 2 ^ 1024)⟩
    h := h, en := f (imageSpecial + 129) 1 == 1, prio := Fin.ofNat 4 (f (imageSpecial + 130) 1), mprio := Fin.ofNat 4 (f (imageSpecial + 131) 1) }

/-- The task-table entry that context `c` of a core runs. -/
def readRunner (f : Reader) (c : Nat) : Option Nat := (List.range 64).find? fun i => optOf (f (0x106 + 128 * i) 1) == some c

/-- Logical core `n` as SAVE holds it. -/
def readCore (s : State) (j : Job) (host : Bool) (a n : Nat) (x : SavedCore) : SavedCore :=
  let marks := takeCells s j host (a + 0x400000) 0x10000
  let f := saveReader s j host (a + 0x4D0000)
  { x with
    slice := takeCells s j host a 0x400000, full := markedBy marks 0, bad := markedBy marks 1
    core := { x.core with
      tasks := Vector.ofFn fun i => readTask f i.val x.core.tasks[i], counters := Vector.ofFn fun i => f (0x2100 + 8 * i.val) 8
      queue := (List.range (min 16 (f 0x2300 1))).filterMap (readCmd f) }
    ctxs := x.ctxs.zipIdx.map fun c =>
      { readCtx s (saveReader s j host (a + 0x4E0000 + 0x10000 * c.2)) (4 * (j.former[n]?.getD 0) + c.2) c.1 with task := readRunner f c.2 }
    tiles := (List.range 16).map fun t =>
      { (x.tiles[t]?.getD Tile.reset) with words := savedWords (takeCells s j host (a + 0x410000 + 0xC000 * t) 0xC000)
                                           s32 := f (2 * t) 1 == 1, busy := f (2 * t + 1) 1 == 1 } }

/-- The reservations of a group as SAVE holds them. -/
def readRoom (s : State) (j : Job) (host : Bool) (a id : Nat) (g : Group) : List (Nat × Nat) :=
  g.members.map fun m => (m, saveReader s j host (a + 0x1000 + (m / 4) * 0x520000 + 0x4D0000) (0x5000 + 1024 * (m % 4) + id) 1)

/-- What SAVE holds of a job beside its cores: its racks, its cluster barriers, its groups on their new tree. -/
def readShared (s : State) (j : Job) (host : Bool) (a : Nat) (root : Group → Node) : Job :=
  let r := a + 0x1000 + j.n * 0x520000
  let f := saveReader s j host r
  { j with
    racks := j.racks.zipIdx.map fun x => readRack f x.2 x.1, barriers := j.barriers.zipIdx.map fun x => readBarrier f x.2 x.1
    groups := j.groups.zipIdx.map fun x =>
      let g := x.1
      { g with
        root := root g, counts := [], room := readRoom s j host a x.2 g
        fifo := readFifo (saveReader s j host (r + 0x10000 + 0x1500 * x.2)) j.id (s.nextId + 64 * x.2) (root g)
        area := g.area.map fun m => { m with place := root g } } }

end Sys2Proof.Machine
end

