-- ==== Sys2Proof/Machine/Preempt.lean ====
section
/-! DEFINITION. Pre-emption (21 R391-R395, 03 R57): the stop of a job's contexts, the image, and RESUME. -/

namespace Sys2Proof.Machine

/-! ## The stop (21 R391) -/

/-- The contexts of the jobs that are to stop, and that stand where a context stops at once, stop. -/
def noteStops (s : State) : State :=
  (s.jobs.filter fun j => j.status == .running && j.preempt.isSome).foldl stopReady s

/-- Every byte of SAVE has a place. -/
def saveMapped (s : State) (j : Job) (host : Bool) (a n : Nat) (write : Bool) : Bool :=
  if host then hostRange s a n
  else (List.range ((a + n - 1) / 65536 - a / 65536 + 1)).all fun i =>
    (savePlace s j false write (if i = 0 then a else (a / 65536 + i) * 65536)).isSome

/-- PREEMPT: a SAVE that is too small stops nothing; else every context of the job is marked to stop. -/
def execPreempt (q : Nat) (c : Chain) (s : State) : Host.Outcome State Fault Refusal :=
  command .preempt q c s fun p s =>
    withJob p s false [.running] fun j =>
      let n := imageLength j
      if cf c 0x18 8 < n then complete s p stResource j.id (leBytes 8 n)
      else if !saveMapped s j (cf c 2 2 % 2 == 1) (cf c 0x10 8) n true then complete s p stFault j.id []
      else stopReady (setJob s { j with preempt := some (p, timeNow s) }) j

/-- A context that stops at its next bundle boundary has reached it. -/
def stopsAtBoundary (s : State) (k : Nat) : Bool := (ctxAt s k).status == .running && (ctxAt s k).waitc == 0 && (coreAt s (k / 4)).service.isNone

/-- PREEMPT_STOP_TIMEOUT: after 100 µs every context stops at its next bundle boundary. -/
def execPreemptStopTimeout (job : Nat) (s : State) : Host.Outcome State Fault Refusal :=
  match resident s job with
  | none => .next s
  | some j =>
    match j.preempt with
    | none => .next s
    | some (_, t) =>
      if timeNow s < t + 100000 then .next s
      else .next ((jobCtxs j).foldl (fun s k => if stopsAtBoundary s k || stopsNow s k then stopCtx s k else s) s)

/-! ## The image (21 R392-R394) -/

/-- The items that one of two lists holds and the other does not. -/
def differ {α : Type} [BEq α] (l m : List α) : List α := if l == m then [] else (l.filter fun x => !m.contains x) ++ m.filter fun x => !l.contains x

/-- A launch that waits for an entry keeps its request. -/
def waitsForEntry (s : State) (r : Req) : Bool := s.launches.any fun l => l.req == some r.id

def isGsend (i : Instr) : Bool := match i with | .gsend .. => true | _ => false

/-- A host copy to the slice window of the job is in progress. -/
def sliceCopy (s : State) (j : Job) : Bool :=
  s.hostCopies.any fun h => h.job == j.id && (match spaceOf (cf h.cmd.chain 0x18 8) with | .slice _ _ => true | _ => false)

/-- Everything of the job that must come to an end before its image is written has done so. A job that has lost a layer is never
PREEMPTED: it ends with code 0x83, its PREEMPT aborted (23 R411). -/
def quiet (s : State) (j : Job) : Bool :=
  !onOffLayer s j && (jobCtxs j).all (fun k => (ctxAt s k).stopped && (ctxAt s k).fence.isNone &&
    (ctxAt s k).streams.toList.all fun x => x.all fun st => !st.out || st.drained) &&
  (j.binding.all fun n => (coreAt s n).queue.all (fun m => m.phase == .queued && isMma m.op) && (coreAt s n).services.isEmpty &&
    (coreAt s n).service.isNone) &&
  !(s.copies.any fun c => j.binding.contains (c.ctx / 4)) && !(s.handovers.any fun h => h.job == j.id) && !sliceCopy s j &&
  (s.reqs.all fun r => !j.binding.contains (r.ctx / 4) || waitsForEntry s r || (isGsend r.op && r.status != .sent)) &&
  s.messages.all fun m => m.job != j.id || !m.bound

/-- A message that is still being steered parks, and its sender has its answer. -/
def parkSteered (s : State) (m : Message) : State :=
  match jobAt s m.job, groupAt s m.job m.group with
  | some j, some g => messageAck (parkMessage s j g m) m.id
  | _, _ => s

/-- The requests of GSENDs that have been answered are free. -/
def ackGsends (s : State) (j : Job) : State :=
  (s.reqs.filter fun r => j.binding.contains (r.ctx / 4) && isGsend r.op).foldl (fun s r => messageAck s r.id) s

/-- The granules of a slice in a set, as offsets. -/
def marksOf (l : List Nat) (core : Nat) : List Nat :=
  (l.filter fun g => slicePhys core 0 / 16 ≤ g && g < slicePhys (core + 1) 0 / 16).map (· - slicePhys core 0 / 16)

/-- The units of core `n` that differ between two states (21 R394). -/
def changedUnits (s t : State) (n : Nat) : List DirtyUnit :=
  let cells := fun (x : State) => cellsOf x.mem (slicePhys n 0) (2 ^ 22)
  let pages := (differ (cells s) (cells t)).map (·.1 / 4096) ++
    (differ (marksOf s.full n) (marksOf t.full n) ++ differ (marksOf s.bad n) (marksOf t.bad n)).map (· / 256)
  pages.map .page ++
  ((List.range 16).filter fun i => { tileAt s n i with busy := false } != { tileAt t n i with busy := false }).map .tile ++
  (List.range 4).flatMap fun i =>
    let a := ctxAt s (4 * n + i)
    let b := ctxAt t (4 * n + i)
    ((List.range 64).filter fun r => a.v[r]? != b.v[r]?).map (.vector i) ++
    ((List.range 12).filter fun g => (List.range 8).any fun x => a.p[8 * g + x]? != b.p[8 * g + x]?).map (.preds i)

/-- A change from `s` to `t` sets the dirty bits of the units that it changed. Only those of a job that RESUME has restored are
ever looked at: the first image of a job is a full one (21 R394). -/
def noteDirty (s t : State) : State :=
  ((t.jobs.filter fun j => j.status == .running && j.saveAt.isSome && (jobAt s j.id).any fun o => o.status == .running).flatMap (·.binding)).foldl
    (fun u n => onCore u n fun c => { c with dirty := (changedUnits s t n).foldl addTo c.dirty }) t

/-- A core of the job as the image holds it: what its commands have waited counts on after RESUME. -/
def saveCore (s : State) (n : Nat) : SavedCore :=
  ⟨{ coreAt s n with queue := (coreAt s n).queue.map (MatrixCmd.taken (timeNow s)) }, (List.range 4).map fun i => ctxAt s (4 * n + i), (List.range 16).map fun t => tileAt s n t,
   cellsOf s.mem (slicePhys n 0) (2 ^ 22), marksOf s.full n, marksOf s.bad n, s.reqs.filter fun r => r.ctx / 4 == n⟩

/-- A context as the image holds it: its input queues are empty, to be read again from their positions; the faults found and not
delivered are held (log entry 17), but those of loads that are issued again. -/
def savedCtx (c : Ctx) : Ctx :=
  { c with streams := c.streams.map fun x => x.map fun t => { t with queue := [], fault := none }
           held := holdAll c.held (recorded c.late ++ heldTrap c), late := [], trap := none }

/-- PREEMPT_IMAGE_WRITE: once everything has stopped, the image is written, the cores are free, and PREEMPT completes with
the bytes written. -/
def execPreemptImageWrite (job : Nat) (s : State) : Host.Outcome State Fault Refusal :=
  match resident s job with
  | none => .next s
  | some j =>
    match j.preempt with
    | none => .next s
    | some (p, _) =>
      let s := stopReady s j
      if !quiet s j then .next s
      else
        let s := (s.messages.filter fun m => m.job == job).foldl parkSteered s
        let s := noteDirty s (ackGsends s j)
        match resident s job with
        | none => .next s
        | some j =>
          let host := cf p.chain 2 2 % 2 == 1
          let a := cf p.chain 0x10 8
          let l := j.binding.map fun n => let x := saveCore s n
            { x with ctxs := x.ctxs.map savedCtx }
          match l.findSome? fun x => x.ctxs.findSome? fun c => c.held[32]? with
          | some f => .next (abortJob s job (some f.cause.code))
          | none =>
          let incr := j.saveAt == some (host, BitVec.ofNat 64 a)
          let clean := if incr then (l.map cleanBytes).sum else 0
          let s := putImage j host a l incr s
          let s := { s with
            reqs := s.reqs.filter fun r => !j.binding.contains (r.ctx / 4)
            ghosts := s.ghosts.filter fun r => !j.binding.contains (r.ctx / 4)
            prefetches := s.prefetches.filter fun x => x.job != job
            updates := s.updates.filter fun u => u.job != job, routes := s.routes.filter fun r => r.job != job }
          let s := j.binding.foldl releaseCore s
          let j := { j with
            status := .preempted, preempt := none, binding := [], former := j.binding, saved := l
            groups := j.groups.map fun g => { g with counts := [] } }
          .next (retireMarked (complete (setJob s j) p stOk job (leBytes 8 (imageLength j - clean))))

/-! ## RESUME (21 R395) -/

/-- The header at SAVE is that of an image of this job. -/
def headerMatches (s : State) (j : Job) (host : Bool) (a : Nat) : Bool :=
  let f := saveField s j host
  f a 4 == some 0x56455250 && f (a + 4) 2 == some 1 && f (a + 7) 1 == some j.rot && f (a + 8) 4 == some j.id &&
  f (a + 0x0C) 2 == some j.n && f (a + 0x0E) 2 == some j.groups.length && f (a + 0x18) 8 == some (imageLength j)

/-- A context goes on as a switched-out one: READY where it has a task. -/
def resumedCtx (c : Ctx) : Ctx :=
  { c with stopped := false, fetched := false, landing := false, status := if c.status = .waiting ∨ c.status = .running then .ready else c.status }

/-- Logical core `i` of the job restored on physical core `n`; the requests of other jobs keep the order in which they stand, that of
their arrival where they are held (10 R233). -/
def restoreCore (j : Job) (s : State) (n i : Nat) (x : SavedCore) : State :=
  let hw := coreAt s n
  let s := setCore (releaseCore s n) n { x.core with
    job := some j.id, logical := i, holder := none, services := [], service := none, storeOk := hw.storeOk, hold := false, fails := hw.fails, icache := [], half := hw.half
    corrected := hw.corrected, uncorrected := hw.uncorrected, marked := hw.marked, retired := hw.retired, gated := false, dirty := []
    queue := x.core.queue.map fun m => { m.requeued (timeNow s) with ctx := 4 * n + m.ctx % 4 } }
  let s := (List.range 4).foldl (fun s c => match x.ctxs[c]? with | some t => setCtx s (4 * n + c) (resumedCtx t) | none => s) s
  let s := (List.range 16).foldl (fun s t => match x.tiles[t]? with | some a => setTile s n t a | none => s) s
  let lo := slicePhys n 0
  { s with
    mem := x.slice.foldl (fun m c => writeByte m (lo + c.1) c.2) s.mem
    full := x.full.foldl (fun l g => include1 l (lo / 16 + g)) s.full
    bad := x.bad.foldl (fun l g => include1 l (lo / 16 + g)) s.bad
    reqs := s.reqs ++ x.reqs.map fun r => { r with ctx := 4 * n + r.ctx % 4 } }

/-- Each member's r is sent as a fresh update. -/
def sendRoom (s : State) (j : Job) : State :=
  (List.range j.groups.length).foldl (fun s i =>
    match j.groups[i]? with
    | some g => g.room.foldl (fun s x => if x.2 = 0 then s else sendUpdate s j.id i (memberCore j x.1) x.2) s
    | none => s) s

/-- A context whose task has ended issues no bundle: what its stop withdrew is issued again at once. -/
def reissueEnding (s : State) (k : Nat) : State := if (ctxAt s k).status = .ending then reissue s k else s

/-- The cores that a pre-empted job is bound to again under its rotation: the group switches have to hold its groups. -/
def bindAgain (s : State) (j : Job) : Option (List Nat) :=
  bindClusters s j.rot (fun cores => switchesFit s { j with binding := cores } (j.groups.map (·.members))) (clusterNeeds j.n) [] []

/-- RESUME: the job is bound again with its rotation and its stacks; everything of the image is restored before a context
runs. -/
def execResume (q : Nat) (c : Chain) (s : State) : Host.Outcome State Fault Refusal :=
  command .resume q c s fun p s =>
    withJob p s false [.preempted] fun j =>
      let host := cf c 2 2 % 2 == 1
      let a := cf c 0x10 8
      if !saveMapped s j host a (imageLength j) false then complete s p stFault j.id []
      else if !headerMatches s j host a then complete s p stBadImage j.id []
      else
        match bindAgain s j with
        | none => complete s p stResource j.id []
        | some cores =>
          let l := j.saved.zipIdx.map fun x => readCore s j host (a + 0x1000 + x.2 * 0x520000) x.2 x.1
          let j' := { j with binding := cores, former := [], status := .running, saved := l, saveAt := some (host, BitVec.ofNat 64 a), owed := [] }
          let j' := readShared s j' host a fun g => groupRoot s j' g.members
          let s := setJob (cores.foldl wakeFor (cached s false (saveBytes s j host a (imageLength j)))) j'
          let s := (List.range j.n).foldl (fun s i =>
            match l[i]? with
            | some x => restoreCore j' s (cores[i]?.getD 0) i x
            | none => s) s
          let s := (jobCtxs j').foldl reissueEnding { s with nextId := s.nextId + 64 * j'.groups.length }
          let s := j.owed.foldl (fun s x => decrement s (cores[x.1]?.getD 0) x.2 1) s
          let s := sendRoom s j'
          let s := (List.range j.n).foldl (fun s i => offer s j' i 64) s
          complete s p stOk j.id (bindingReport j')

end Sys2Proof.Machine
end

