-- ==== Sys2Proof/Machine/Errors.lean ====
section
/-! DEFINITION. Errors of arrays and of management data, power states and layers (23 R400-R411). -/

namespace Sys2Proof.Machine

/-! ## The scrubber (23 R400-R403, R408) -/

/-- A core is marked after 1,000 corrected errors within a second, at its second uncorrectable error, or at its second PROOF
mismatch; one that no job is bound to is retired. -/
def markCore (s : State) (n : Nat) : State :=
  let c := coreAt s n
  if 1000 ≤ c.corrected.length ∨ 2 ≤ c.uncorrected ∨ 2 ≤ c.fails.toNat then retireCore (onCore s n fun c => { c with marked := true }) n else s

/-- A corrected error is logged, at most one entry an array and a second; that of an array of no core has CORE 0xFF. -/
def logCorrected (s : State) (core : Option Nat) (array : Nat) : State :=
  let n := core.getD 0xFF
  let same := fun (e : LogEntry) => e.kind == 1 && e.core == n && e.a == BitVec.ofNat 64 array && decide (timeNow s < e.time + 1000000000)
  if s.log.any same then { s with log := s.log.map fun e => if same e then { e with b := e.b + 1 } else e }
  else logEntry s 1 n 0xFFFF ((core.bind fun n => (coreAt s n).job).getD 0) (BitVec.ofNat 64 array) 1

/-- A corrected error, which changes nothing but the log and the count of its core. -/
def correctedError (s : State) (core : Option Nat) (array : Nat) : State :=
  let s := logCorrected s core array
  match core with
  | some n => markCore (onCore s n fun c => { c with corrected := (c.corrected.filter fun t => timeNow s < t + 1000000000) ++ [timeNow s] }) n
  | none => s

/-- An uncorrectable error of core `n`. -/
def uncorrectable (s : State) (n : Nat) : State := markCore (onCore s n fun c => { c with uncorrected := c.uncorrected + 1 }) n

/-- The item of a context whose array failed holds a free value of the job until it is written (23 R403). -/
def spoil (s : State) (c : Ctx) (file : Fin 6) (ix : Nat) : Ctx :=
  let v := openValue s
  match file.val with
  | 0 => if ix = 0 then c else { c with s := c.s.setIfInBounds ix (v.setWidth 64) }
  | 1 => { c with v := c.v.setIfInBounds ix v }
  | 2 => if ix = 0 then c else { c with p := c.p.setIfInBounds ix (v.setWidth 128) }
  | 3 => { c with sc := c.sc.setIfInBounds ix ⟨v.setWidth 1024, (v >>> 1024).setWidth 32⟩ }
  | 4 => { c with e := c.e.setIfInBounds ix (v.setWidth 64) }
  | _ => { c with loops := c.loops.modify ix fun _ => ⟨v.setWidth 64, (v >>> 64).setWidth 64, (v >>> 128).setWidth 64⟩ }

/-- The UE of a failed register array: TADDR 0, POS 15; BUNDLE is the bundle at the PC. -/
def arrayFault (s : State) (k : Nat) : FaultRec := ⟨.ue, 0, 0, (ctxAt s k).pc, 15, true, (ctxAt s k).epoch, s.nextId, none⟩

/-- The bundle at an address leaves the instruction cache of core `n`: its fetch is a miss (23 R401). -/
def fetchAgain (s : State) (n a : Nat) : State :=
  let s := onCore s n fun q => { q with icache := q.icache.filter (· != a) }
  ([0, 1, 2, 3] : List Nat).foldl (fun s i =>
    onCtx s (4 * n + i) fun c => if c.pc.toNat = a then { c with fetched := false } else c) s

/-- The core that an array belongs to. -/
def arrayCore (e : ArrayError) : Option Nat :=
  match e with
  | .clean => none
  | .accumulator n _ _ | .serviceStore n | .instruction n _ _ | .instructionLost n _ => some n
  | .corrected core _ | .granules core _ _ => core
  | .registers k _ _ | .stream k _ _ => some (k / 4)
  | .switchTable .. => none

/-- Queued vector `index` of a stream is lost (DESIGN CHOICE, log entry 49): the vectors before it go on, and at its turn the context
has the UE of poison met there. -/
def loseVector (st : Stream) (index : Nat) : Stream :=
  if st.queue.length ≤ index then st
  else
    let l := streamAddrs st (st.pos + 256 * index)
    { st with queue := st.queue.take index, fault := some (streamFaultRec st (.ue, BitVec.ofNat 64 (l.foldl min (l.headD 0)))) }

/-- The switch that a place number names. -/
def switchNode (i : Nat) : Node := if i < 24 then .cluster i else if i < 28 then .die (i - 24) else .spine

/-- The counts of a group in one switch are open values from now on (DESIGN CHOICE, log entry 49): they steer messages, and no more. -/
def loseCounts (s : State) (j : Job) (group : Nat) (n : Node) : State :=
  match j.groups[group]? with
  | none => s
  | some g =>
    let g := (downPorts s j g.members n).zipIdx.foldl (fun g x => setCount g n x.1 ((openAt s x.2).setWidth 32).toNat) g
    setGroup { s with free := s.free + 8 } j.id group g

/-- SCRUB_PASS: what the scrubber finds in a block, with what follows: an error in one row changes nothing but the log. A bundle lost
in an instruction cache is fetched again, for text is never written (DESIGN CHOICE, log entry 49). -/
def execScrubPass (e : ArrayError) (s : State) : Host.Outcome State Fault Refusal :=
  if !(arrayCore e).all isCoreId then .next s else
  match e with
  | .clean => .next s
  | .corrected n array => .next (correctedError s n array)
  | .granules core g n =>
    let s := logEntry { s with bad := (List.range n).foldl (fun l i => include1 l (g + i)) s.bad } 2 (core.getD 0xFF) 0xFFFF
      ((core.bind fun n => (coreAt s n).job).getD 0) (BitVec.ofNat 64 (16 * g)) 0
    .next (match core with | some n => uncorrectable s n | none => s)
  | .registers k file ix =>
    let s := uncorrectable s (k / 4)
    let s' := openUsed (onCtx s k fun c => spoil s c file ix)
    .next (if (ctxAt s k).task.isSome then lateFault (fresh s') k (arrayFault s k) else s')
  | .accumulator n t w =>
    let tile := tileAt s n t
    .next (setTile (uncorrectable s n) n t { tile with bad := include1 tile.bad w })
  | .serviceStore n => .next (onCore (uncorrectable s n) n fun c => { c with storeOk := false })
  | .instruction n array a => .next (fetchAgain (correctedError s (some n) array) n a)
  | .instructionLost n a => .next (fetchAgain (uncorrectable s n) n a)
  | .stream k n i =>
    .next (onCtx (uncorrectable s (k / 4)) k fun c =>
      { c with streams := c.streams.setIfInBounds n.val (((c.streams[n.val]?).getD none).map fun st => loseVector st i) })
  | .switchTable job g i =>
    match resident s job with
    | some j => .next (loseCounts s j g (switchNode i.val))
    | none => .next s

/-- SERVICE_STORE_RELOAD: the management complex reloads a store, and the core is held. -/
def execServiceStoreReload (n : Nat) (s : State) : Host.Outcome State Fault Refusal :=
  .next (if isCoreId n then onCore s n fun c => { c with storeOk := false } else s)

/-- SERVICE_STORE_RELOAD_DONE: the store is in place again. -/
def execServiceStoreReloadDone (n : Nat) (s : State) : Host.Outcome State Fault Refusal :=
  if s.health.ready && isCoreId n then .next (onCore s n fun c => { c with storeOk := true }) else .next s

/-- MGMT_DATA_ERROR: an error in a job's tagged data ends that job; one in global data ends every job and asks for a
reset. -/
def execMgmtDataError (job : Option Nat) (s : State) : Host.Outcome State Fault Refusal :=
  match job with
  | some id => .next (abortJob (logEntry s 7 0xFF 0xFFFF id 0 0x81) id (some 0x81))
  | none =>
    let s := logEntry s 7 0xFF 0xFFFF 0 0 0x82
    let s := ((s.jobs.filter fun j => j.status != .ended).map (·.id)).foldl (fun s id => abortJob s id (some 0x82)) s
    .next (configChanged s { s.health with resetReq := true })

/-! ## Power states (23 Table errors-2, R410) -/

/-- The cores of a layer. -/
def layerCores (s : State) (die layer : Nat) : List Nat := (activeAll s).filter fun n => coreDie n == die && coreLayer n == layer

/-- A full/empty request is held at the slice of core `n`. -/
def heldAt (s : State) (n : Nat) : Bool :=
  s.reqs.any fun r => r.status == .held && (windowPhys s (r.ctx / 4) r.addr).any fun pa => pa / 2 ^ 22 == n

/-- A core has every context IDLE, and no engine command or held request, its slice no request of another core held. -/
def coreIdle (s : State) (n : Nat) : Bool :=
  !heldAt s n &&
  [0, 1, 2, 3].all (fun i => (ctxAt s (4 * n + i)).status == .idle) && (coreAt s n).queue.isEmpty &&
  !(s.copies.any fun c => c.ctx / 4 == n) && !(s.reqs.any fun r => r.ctx / 4 == n) &&
  (coreAt s n).tasks.toList.all fun t => t.status != .ready

/-- The exit time of a state in ns, and its condition. A stack that is handed over is accessed; a die that a PEEL has woken is awake until
the owner register names it (13 R290). -/
def powerState (s : State) : PowerUnit → Nat × Bool
  | .core n => (50, isCoreId n && coreIdle s n)
  | .stack st => (10000, decide (st < 12) && !(s.handovers.any fun h => h.stack == st && h.step != 0))
  | .layerGate d l => (20000, decide (d < 4) && decide (l < 2) && (layerCores s d l).all fun n => (coreAt s n).gated)
  | .layerOff d l => (400000, decide (d < 4) && decide (l < 2) && (layerCores s d l).all fun n => (coreAt s n).job.isNone)
  | .die d => (3000000, decide (d < 4) && s.layersOff.contains (d, 0) && s.layersOff.contains (d, 1) &&
      !(s.handovers.any fun h => h.toDie == d && h.step != 0) && !(s.jobs.any fun j => j.status != .ended && j.holds.any fun h => ownerDie s h.1 == d))

/-- The unit is in its state. -/
def enterPower (s : State) : PowerUnit → State
  | .core n => onCore s n fun c => { c with gated := true }
  | .stack st => { s with stacksAsleep := addTo s.stacksAsleep st }
  | .layerGate d l => { s with layersGated := addTo s.layersGated (d, l) }
  | .layerOff d l => { loseSlices s d l with layersOff := addTo s.layersOff (d, l) }
  | .die d => { s with diesOff := addTo s.diesOff d }

/-- Since when the condition of a unit has held, as far as it has been watched (log entry 27). -/
def idleSince (s : State) (u : PowerUnit) : Option Nat := (s.idle.find? fun x => x.1 == u).map (·.2)

/-- The tolerance admits a deeper state of the unit, whose condition holds. -/
def deeper (s : State) : PowerUnit → Bool
  | .layerGate d l => let (t, ok) := powerState s (.layerOff d l); ok && t ≤ s.tolerance
  | _ => false

/-- The unit enters its state now: the deepest that the tolerance admits, whose condition has held for 4 times the exit time. -/
def entersNow (s : State) (u : PowerUnit) : Bool :=
  let (t, ok) := powerState s u
  ok && t ≤ s.tolerance && s.tolerance != 0 && !deeper s u && (idleSince s u).any fun a => a + 4 * t ≤ timeNow s

/-- POWER_STATE_ENTRY: a unit whose time has come enters its state. -/
def execPowerStateEntry (u : PowerUnit) (s : State) : Host.Outcome State Fault Refusal :=
  if entersNow s u then .next (enterPower s u) else .next s

/-- The units that have power states. -/
def powerUnits : List PowerUnit :=
  (List.range 256).map .core ++ (List.range 12).map .stack ++
  (List.range 8).flatMap (fun i => [.layerGate (i / 2) (i % 2), .layerOff (i / 2) (i % 2)]) ++ (List.range 4).map .die

/-- A step has been taken: each gated core that is not idle any more is awake, and while a tolerance is set each unit whose
condition holds is watched from now on, or goes on being watched, and enters its state when its time has come (23 R410). -/
def noteIdle (s : State) : State :=
  let s := ((s.cores.filter fun x => x.2.gated && !coreIdle s x.1).map (·.1)).foldl ungate s
  if s.tolerance = 0 then (if s.idle.isEmpty then s else { s with idle := [] })
  else
    let s := { s with idle := (powerUnits.filter fun u => (powerState s u).2).map fun u => (u, (idleSince s u).getD (timeNow s)) }
    ((s.idle.map (·.1)).filter (entersNow s)).foldl enterPower s

/-- The hold periods of some units begin again: they are watched from now on, where their conditions hold (R410). -/
def unwatch (s : State) (l : List PowerUnit) : State := { s with idle := s.idle.filter fun x => !l.contains x.1 }

/-- POWER_STATE_WAKE: a unit is awake again, and its hold period begins again; with a core its layer, with a layer its die. A layer
that was turned off under a job stays off until the job has ended. -/
def execPowerStateWake (u : PowerUnit) (s : State) : Host.Outcome State Fault Refusal :=
  match u with
  | .core n => .next (if isCoreId n then ungate s n else s)
  | .stack st => .next (wakeStack s st)
  | .layerGate d l => .next (unwatch { s with layersGated := s.layersGated.filter fun x => x != (d, l) } [.layerGate d l, .layerOff d l])
  | .layerOff d l =>
    if (layerCores s d l).any fun n => (coreAt s n).job.isSome then .next s
    else
      .next (unwatch { s with layersOff := s.layersOff.filter (fun x => x != (d, l)), diesOff := s.diesOff.filter (· != d) }
        [.layerGate d l, .layerOff d l, .die d])
  | .die d => .next (unwatch { s with diesOff := s.diesOff.filter (· != d) } [.die d])

/-- LAYER_EMERGENCY_OFF: the supply of a layer has failed. -/
def execLayerEmergencyOff (die layer : Nat) (s : State) : Host.Outcome State Fault Refusal :=
  if 4 ≤ die ∨ 2 ≤ layer then .next s else .next (emergencyOff s die layer)

end Sys2Proof.Machine
end

