-- ==== Sys2Proof/Machine/Predicate.lean ====
section
/-! DEFINITION. The predicate instructions of spec/07_scalar_instructions.md: compares, PLOG, PUN and PFROMS. -/

namespace Sys2Proof.Machine

/-! ## Compares (07 R157) -/

/-- The one-bit result of a scalar compare. -/
def condition (c : Fin 8) (x y : Word) : Bool :=
  match c.val with
  | 0 => x == y
  | 1 => x != y
  | 2 => x.slt y
  | 3 => x.sle y
  | 4 => x.ult y
  | _ => x.ule y

/-- All 128 bits hold the result. -/
def spreadBits (t : Bool) : BitVec 128 := if t then BitVec.allOnes 128 else 0

def execCmp (d : PReg) (a b : SReg) (c : Fin 8) (p : Tag) (s : State) : Host.Outcome State Fault Refusal :=
  operate (.cmp d a b c p) p s fun s => resultP s d 1 (spreadBits (condition c (readS s a) (readS s b)))
/-- The acc form ANDs the result into the destination as it stands at issue. -/
def execCmpAnd (d : PReg) (a b : SReg) (c : Fin 8) (p : Tag) (s : State) : Host.Outcome State Fault Refusal :=
  operate (.cmpAnd d a b c p) p s fun s => resultP s d 1 (readP s d &&& spreadBits (condition c (readS s a) (readS s b)))
def execCmpi (d : PReg) (a : SReg) (c : Fin 8) (i : BitVec 7) (p : Tag) (s : State) : Host.Outcome State Fault Refusal :=
  operate (.cmpi d a c i p) p s fun s => resultP s d 1 (spreadBits (condition c (readS s a) (i.signExtend 64)))
def execCmpiLong (d : PReg) (a : SReg) (c : Fin 8) (p : Tag) (m : BitVec 32) (s : State) : Host.Outcome State Fault Refusal :=
  operate (.cmpiLong d a c p m) p s fun s => resultP s d 1 (spreadBits (condition c (readS s a) (ext32 m)))

/-! ## PLOG and PUN (07 R158, R159) -/

/-- A bitwise operation on two predicates. -/
def plog (i : Instr) (d a b : PReg) (p : Tag) (f : BitVec 128 → BitVec 128 → BitVec 128) (s : State) :
    Host.Outcome State Fault Refusal :=
  operate i p s fun s => resultP s d 1 (f (readP s a) (readP s b))

def execPand (d a b : PReg) (p : Tag) (s : State) := plog (.pand d a b p) d a b p (fun x y => x &&& y) s
def execPor (d a b : PReg) (p : Tag) (s : State) := plog (.por d a b p) d a b p (fun x y => x ||| y) s
def execPxor (d a b : PReg) (p : Tag) (s : State) := plog (.pxor d a b p) d a b p (fun x y => x ^^^ y) s
def execPandn (d a b : PReg) (p : Tag) (s : State) := plog (.pandn d a b p) d a b p (fun x y => x &&& ~~~y) s

def execPnot (d a : PReg) (p : Tag) (s : State) : Host.Outcome State Fault Refusal :=
  operate (.pnot d a p) p s fun s => resultP s d 1 (~~~(readP s a))
def execPset (d : PReg) (p : Tag) (s : State) : Host.Outcome State Fault Refusal :=
  operate (.pset d p) p s fun s => resultP s d 1 (BitVec.allOnes 128)
def execPclr (d : PReg) (p : Tag) (s : State) : Host.Outcome State Fault Refusal :=
  operate (.pclr d p) p s fun s => resultP s d 1 0

/-- The lowest set bit alone. -/
def firstBit (x : BitVec 128) : BitVec 128 := x &&& (~~~x + 1)

def execPfirst (d a : PReg) (p : Tag) (s : State) : Host.Outcome State Fault Refusal :=
  operate (.pfirst d a p) p s fun s => resultP s d 1 (firstBit (readP s a))

/-! ## PFROMS (07 R160) -/

def execPfroms (d : PReg) (a b : SReg) (p : Tag) (s : State) : Host.Outcome State Fault Refusal :=
  operate (.pfroms d a b p) p s fun s => resultP s d 1 (readS s b ++ readS s a)

end Sys2Proof.Machine
end

