-- ==== Sys2Proof/Machine/Scalar.lean ====
section
/-! DEFINITION. The scalar instructions of spec/07_scalar_instructions.md: the ALU group, immediates, SHI, LDI and
LDHI, PCOUNT and SELS. -/

namespace Sys2Proof.Machine

/-! ## ALU functions (07 Table scalar-3) -/

def fShl (x : Word) (k : Nat) : Word := x <<< k
def fShr (x : Word) (k : Nat) : Word := x >>> k
def fSra (x : Word) (k : Nat) : Word := x.sshiftRight k
def fRol (x : Word) (k : Nat) : Word := if k = 0 then x else (x <<< k) ||| (x >>> (64 - k))
/-- k = y[5:0]. -/
def amount (y : Word) : Nat := y.toNat % 64
def fMin (x y : Word) : Word := if x.slt y then x else y
def fMax (x y : Word) : Word := if x.slt y then y else x
def fMinn (x y : Word) : Word := if x < y then x else y
def fMaxn (x y : Word) : Word := if x < y then y else x
def fAddw (x y : Word) : Word := (x.setWidth 32 + y.setWidth 32).signExtend 64
def fSubw (x y : Word) : Word := (x.setWidth 32 - y.setWidth 32).signExtend 64
/-- The number of leading zero bits of the low `n` bits. -/
def leadingZeros (x : Word) : Nat → Nat
  | 0 => 0
  | n + 1 => if x.getLsbD n then 0 else leadingZeros x n + 1
def fClz (x : Word) : Word := BitVec.ofNat 64 (leadingZeros x 64)
/-- The number of trailing zero bits among `n` bits from bit `i` on. -/
def trailingZeros (x : Word) (i : Nat) : Nat → Nat
  | 0 => 0
  | n + 1 => if x.getLsbD i then 0 else trailingZeros x (i + 1) n + 1
def fCtz (x : Word) : Word := BitVec.ofNat 64 (trailingZeros x 0 64)
def fPopc (x : Word) : Word := BitVec.ofNat 64 (oneBits x 64)
def fBswap (x : Word) : Word := BitVec.ofNat 64 (ofBytes (leBytes 8 x.toNat).reverse)
def fMulh (x y : Word) : Word := BitVec.ofInt 64 (x.toInt * y.toInt / 2 ^ 64)
def fMulhn (x y : Word) : Word := BitVec.ofNat 64 (x.toNat * y.toNat / 2 ^ 64)

/-! ## Shapes -/

/-- A two-source function: the destination's deferred-fault bit is the OR of the sources' (07 R149). -/
def alu2 (i : Instr) (d a b : SReg) (p : Tag) (lat : Nat) (f : Word → Word → Word) (s : State) :
    Host.Outcome State Fault Refusal :=
  operate i p s fun s => resultS s d lat (f (readS s a) (readS s b)) (deferS s a || deferS s b)

/-- A one-source function. -/
def alu1 (i : Instr) (d a : SReg) (p : Tag) (f : Word → Word) (s : State) : Host.Outcome State Fault Refusal :=
  operate i p s fun s => resultS s d 1 (f (readS s a)) (deferS s a)

/-! ## The ALU group (07 R152, R153) -/

def execAdd (d a b : SReg) (p : Tag) (s : State) := alu2 (.add d a b p) d a b p 1 (fun x y => x + y) s
def execSub (d a b : SReg) (p : Tag) (s : State) := alu2 (.sub d a b p) d a b p 1 (fun x y => x - y) s
def execAnd (d a b : SReg) (p : Tag) (s : State) := alu2 (.and d a b p) d a b p 1 (fun x y => x &&& y) s
def execOr (d a b : SReg) (p : Tag) (s : State) := alu2 (.or d a b p) d a b p 1 (fun x y => x ||| y) s
def execXor (d a b : SReg) (p : Tag) (s : State) := alu2 (.xor d a b p) d a b p 1 (fun x y => x ^^^ y) s
def execAndn (d a b : SReg) (p : Tag) (s : State) := alu2 (.andn d a b p) d a b p 1 (fun x y => x &&& ~~~y) s
def execShl (d a b : SReg) (p : Tag) (s : State) := alu2 (.shl d a b p) d a b p 1 (fun x y => fShl x (amount y)) s
def execShr (d a b : SReg) (p : Tag) (s : State) := alu2 (.shr d a b p) d a b p 1 (fun x y => fShr x (amount y)) s
def execSra (d a b : SReg) (p : Tag) (s : State) := alu2 (.sra d a b p) d a b p 1 (fun x y => fSra x (amount y)) s
def execRol (d a b : SReg) (p : Tag) (s : State) := alu2 (.rol d a b p) d a b p 1 (fun x y => fRol x (amount y)) s
def execMin (d a b : SReg) (p : Tag) (s : State) := alu2 (.min d a b p) d a b p 1 fMin s
def execMax (d a b : SReg) (p : Tag) (s : State) := alu2 (.max d a b p) d a b p 1 fMax s
def execMinn (d a b : SReg) (p : Tag) (s : State) := alu2 (.minn d a b p) d a b p 1 fMinn s
def execMaxn (d a b : SReg) (p : Tag) (s : State) := alu2 (.maxn d a b p) d a b p 1 fMaxn s
def execAddw (d a b : SReg) (p : Tag) (s : State) := alu2 (.addw d a b p) d a b p 1 fAddw s
def execSubw (d a b : SReg) (p : Tag) (s : State) := alu2 (.subw d a b p) d a b p 1 fSubw s
def execClz (d a : SReg) (p : Tag) (s : State) := alu1 (.clz d a p) d a p fClz s
def execCtz (d a : SReg) (p : Tag) (s : State) := alu1 (.ctz d a p) d a p fCtz s
def execPopc (d a : SReg) (p : Tag) (s : State) := alu1 (.popc d a p) d a p fPopc s
def execBswap (d a : SReg) (p : Tag) (s : State) := alu1 (.bswap d a p) d a p fBswap s
def execMul (d a b : SReg) (p : Tag) (s : State) := alu2 (.mul d a b p) d a b p 3 (fun x y => x * y) s
def execMulh (d a b : SReg) (p : Tag) (s : State) := alu2 (.mulh d a b p) d a b p 3 fMulh s
def execMulhn (d a b : SReg) (p : Tag) (s : State) := alu2 (.mulhn d a b p) d a b p 3 fMulhn s

/-! ## Immediates (07 R154-R156) -/

def execAddi (d a : SReg) (i : BitVec 11) (p : Tag) (s : State) := alu1 (.addi d a i p) d a p (fun x => x + ext11 i) s
def execAndi (d a : SReg) (i : BitVec 11) (p : Tag) (s : State) := alu1 (.andi d a i p) d a p (fun x => x &&& ext11 i) s
def execOri (d a : SReg) (i : BitVec 11) (p : Tag) (s : State) := alu1 (.ori d a i p) d a p (fun x => x ||| ext11 i) s
def execXori (d a : SReg) (i : BitVec 11) (p : Tag) (s : State) := alu1 (.xori d a i p) d a p (fun x => x ^^^ ext11 i) s
def execAddiLong (d a : SReg) (p : Tag) (m : BitVec 32) (s : State) :=
  alu1 (.addiLong d a p m) d a p (fun x => x + ext32 m) s
def execAndiLong (d a : SReg) (p : Tag) (m : BitVec 32) (s : State) :=
  alu1 (.andiLong d a p m) d a p (fun x => x &&& ext32 m) s
def execOriLong (d a : SReg) (p : Tag) (m : BitVec 32) (s : State) :=
  alu1 (.oriLong d a p m) d a p (fun x => x ||| ext32 m) s
def execXoriLong (d a : SReg) (p : Tag) (m : BitVec 32) (s : State) :=
  alu1 (.xoriLong d a p m) d a p (fun x => x ^^^ ext32 m) s
def execShli (d a : SReg) (n : Fin 64) (p : Tag) (s : State) := alu1 (.shli d a n p) d a p (fun x => fShl x n) s
def execShri (d a : SReg) (n : Fin 64) (p : Tag) (s : State) := alu1 (.shri d a n p) d a p (fun x => fShr x n) s
def execSrai (d a : SReg) (n : Fin 64) (p : Tag) (s : State) := alu1 (.srai d a n p) d a p (fun x => fSra x n) s
def execRoli (d a : SReg) (n : Fin 64) (p : Tag) (s : State) := alu1 (.roli d a n p) d a p (fun x => fRol x n) s

/-- LDI clears the destination's deferred-fault bit. -/
def execLdi (d : SReg) (i : BitVec 11) (p : Tag) (s : State) : Host.Outcome State Fault Refusal :=
  operate (.ldi d i p) p s fun s => resultS s d 1 (ext11 i) false
def execLdiLong (d : SReg) (p : Tag) (m : BitVec 32) (s : State) : Host.Outcome State Fault Refusal :=
  operate (.ldiLong d p m) p s fun s => resultS s d 1 (ext32 m) false
/-- LDHI replaces the upper half and keeps the lower. -/
def execLdhi (d a : SReg) (p : Tag) (m : BitVec 32) (s : State) :=
  alu1 (.ldhi d a p m) d a p (fun x => (m.setWidth 64 <<< 32) ||| (x &&& 0xFFFFFFFF)) s

/-! ## PCOUNT and SELS (07 R161, R162) -/

def execPcount (d : Fin 128) (a : PReg) (p : Tag) (s : State) : Host.Outcome State Fault Refusal :=
  operate (.pcount d a p) p s fun s => resultS s d 1 (BitVec.ofNat 64 (oneBits (readP s a) 128)) false

/-- SELS passes the deferred-fault bit of the source it selects. -/
def execSels (d a b : SReg) (g : Fin 32) (p : Tag) (s : State) : Host.Outcome State Fault Refusal :=
  operate (.sels d a b g p) p s fun s =>
    if (readP s g).getLsbD 0 then resultS s d 1 (readS s a) (deferS s a) else resultS s d 1 (readS s b) (deferS s b)

end Sys2Proof.Machine
end

