-- ==== Sys2Proof/Machine/Special.lean ====
section
/-! DEFINITION. The F class (09 R217, R218): special functions lane by lane, and reductions. Exact cases are those of
Table vector-4; elsewhere the exact result is bracketed here by arithmetic on 256 fraction bits, and where within 2 units
in the last place the part's value lies is Config.specialOffset (log entry 7). -/

namespace Sys2Proof.Machine

/-! ## Fixed-point numbers with 256 fraction bits -/

abbrev one256 : Nat := 2 ^ 256
/-- ln 2 and 2π. -/
abbrev ln2 : Nat := 0xb17217f7d1cf79abc9e3b39803f2f6af40f343267298b62d8a0d175b8baafa2b
abbrev twoPi : Nat := 0x6487ed5110b4611a62633145c06e0e68948127044533e63a0105df531d89cd912

/-- The series of e^t from term `k` on. -/
def expSeries (t : Nat) : Nat → Nat → Nat → Nat
  | 0, _, _ => 0
  | n + 1, k, term => term + expSeries t n (k + 1) (term * t / one256 / (k + 1))
/-- 2^f for a fraction f. -/
def exp2Frac (f : Nat) : Nat := expSeries (f * ln2 / one256) 80 0 one256

/-- The series of sin from the term of degree `k` on; `sq` is the square of the angle. -/
def sinSeries (sq : Nat) : Nat → Nat → Int → Int
  | 0, _, _ => 0
  | n + 1, k, term => term + sinSeries sq n (k + 2) (-(term * sq / one256 / ((k + 1) * (k + 2))))
/-- sin 2πq for 0 ≤ q < 1/4, which is below 1. -/
def sinTurn (q : Nat) : Nat :=
  let a := q * twoPi / one256
  min (sinSeries (a * a / one256) 60 1 a).toNat (one256 - 1)

/-- The series of atanh z. -/
def atanhSeries (sq : Nat) : Nat → Nat → Nat → Nat
  | 0, _, _ => 0
  | n + 1, k, term => term / k + atanhSeries sq n (k + 2) (term * sq / one256)
/-- log₂ of y, 1 ≤ y < 2. -/
def log2Frac (y : Nat) : Nat :=
  let z := (y - one256) * one256 / (y + one256)
  2 * atanhSeries (z * z / one256) 90 1 z * one256 / ln2

/-! ## The functions on an exact argument -/

/-- What a function gives: an exact value with the flags its row of Table vector-4 shows, or a value between two
neighbouring FP32 numbers, of which m × 2^e truncates to the lower. -/
inductive Fun where
  | exact (v : Val) (f : Flags)
  | near (neg : Bool) (m : Nat) (e : Int)

/-- The exponent of a power of two. -/
def powerOf (m : Nat) (e : Int) : Option Int := if m = 2 ^ Nat.log2 m then some (Nat.log2 m + e) else none

/-- ±2^k. -/
def pow2 (neg : Bool) (k : Int) : Val := .fin neg 1 k

def frcp : Val → Fun
  | .nan s => .exact (.nan false) (flagIf s flagNV)
  | .inf b => .exact (.fin b 0 0) 0
  | .fin b m e =>
    if m = 0 then .exact (.inf b) flagDZ
    else match powerOf m e with
      | some k => .exact (pow2 b (-k)) 0
      | none => .near b (2 ^ 256 / m) (-256 - e)

/-- The argument with an even exponent. -/
def evenExp (m : Nat) (e : Int) : Nat × Int := if e % 2 = 0 then (m, e) else (2 * m, e - 1)

def frsq : Val → Fun
  | .nan s => .exact (.nan false) (flagIf s flagNV)
  | .inf b => if b then .exact (.nan false) flagNV else .exact (.fin false 0 0) 0
  | .fin b m e =>
    if m = 0 then .exact (.inf b) flagDZ
    else if b then .exact (.nan false) flagNV
    else
      let (a, d) := evenExp m e
      match powerOf a d with
      | some k => if k % 2 = 0 then .exact (pow2 false (-(k / 2))) 0 else .near false (Nat.sqrt (2 ^ 512 / a)) (-256 - d / 2)
      | none => .near false (Nat.sqrt (2 ^ 512 / a)) (-256 - d / 2)

/-- √x to 128 bits below its top, odd where it is not exact, so that one rounding of it is the rounding of √x. -/
def sqrtVal (m : Nat) (e : Int) : Val :=
  let (a, d) := evenExp m e
  let q := Nat.sqrt (a * 2 ^ 128)
  if q * q = a * 2 ^ 128 then .fin false q (d / 2 - 64) else .fin false (2 * q + 1) (d / 2 - 65)

def fsqrt : Val → Fun
  | .nan s => .exact (.nan false) (flagIf s flagNV)
  | .inf b => if b then .exact (.nan false) flagNV else .exact (.inf false) 0
  | .fin b m e =>
    if m = 0 then .exact (.fin b 0 0) 0 else if b then .exact (.nan false) flagNV else .exact (sqrtVal m e) 0

/-- x as a multiple of 2^-256, rounded down. -/
def fixed256 (b : Bool) (m : Nat) (e : Int) : Int :=
  let a : Int := m
  let y := if b then -a else a
  if -256 ≤ e then y * 2 ^ (e + 256).toNat else y / 2 ^ (-256 - e).toNat

/-- 2^x for x = n × 2^-256: a fixed-point number and the power of two it is multiplied by. -/
def exp2Fixed (n : Int) : Nat × Int := (exp2Frac (n % one256).toNat, n / one256 - 256)

def fexp2 : Val → Fun
  | .nan s => .exact (.nan false) (flagIf s flagNV)
  | .inf b => .exact (if b then .fin false 0 0 else .inf false) 0
  | .fin b m e =>
    if m = 0 then .exact (pow2 false 0) 0
    else
      let x := fixed256 b m e
      if 128 * one256 ≤ x then .exact (pow2 false 2000) 0
      else if x ≤ -150 * one256 then .exact (pow2 false (-2000)) 0
      else if 0 ≤ e ∨ m % 2 ^ (-e).toNat = 0 then .exact (pow2 false (x / one256)) 0
      else .near false (exp2Fixed x).1 (exp2Fixed x).2

def flog2 : Val → Fun
  | .nan s => .exact (.nan false) (flagIf s flagNV)
  | .inf b => if b then .exact (.nan false) flagNV else .exact (.inf false) 0
  | .fin b m e =>
    if m = 0 then .exact (.inf true) flagDZ
    else if b then .exact (.nan false) flagNV
    else match powerOf m e with
      | some k => .exact (ofInt k) 0
      | none =>
        let l := Nat.log2 m
        let v : Int := (l + e) * one256 + log2Frac (m * one256 / 2 ^ l)
        .near (v < 0) v.natAbs (-256)

/-- The fraction of a magnitude in turns, with 256 fraction bits: exact, since no argument is finer than 2^-149. -/
def turnOf (m : Nat) (e : Int) : Nat := ((fixed256 false m e) % one256).toNat

abbrev quarter : Nat := one256 / 4

def fsin : Val → Fun
  | .nan s => .exact (.nan false) (flagIf s flagNV)
  | .inf _ => .exact (.nan false) flagNV
  | .fin b m e =>
    let f := turnOf m e
    if m = 0 then .exact (.fin b 0 0) 0
    else if f = 0 ∨ f = 2 * quarter then .exact (.fin false 0 0) 0
    else if f = quarter then .exact (pow2 b 0) 0
    else if f = 3 * quarter then .exact (pow2 (!b) 0) 0
    else
      let r := if 2 * quarter < f then one256 - f else f
      .near (b != decide (2 * quarter < f)) (sinTurn (if quarter < r then 2 * quarter - r else r)) (-256)

def fcos : Val → Fun
  | .nan s => .exact (.nan false) (flagIf s flagNV)
  | .inf _ => .exact (.nan false) flagNV
  | .fin _ m e =>
    let f := turnOf m e
    if f = 0 then .exact (pow2 false 0) 0
    else if f = quarter ∨ f = 3 * quarter then .exact (.fin false 0 0) 0
    else if f = 2 * quarter then .exact (pow2 true 0) 0
    else
      let r := if 2 * quarter < f then one256 - f else f
      .near (quarter < r) (sinTurn (if quarter < r then r - quarter else quarter - r)) (-256)

/-- (e^2x − 1) / (e^2x + 1) with 256 fraction bits, for x in fixed point. -/
def tanhFixed (x : Nat) : Nat :=
  let (n, e) := exp2Fixed (2 * x * one256 / ln2 : Nat)
  let a := n * 2 ^ (e + 256).toNat
  (a - one256) * one256 / (a + one256)

def ftanh : Val → Fun
  | .nan s => .exact (.nan false) (flagIf s flagNV)
  | .inf b => .exact (pow2 b 0) 0
  | .fin b m e =>
    if m = 0 then .exact (.fin b 0 0) 0
    else
      let x := (fixed256 false m e).toNat
      if 91 * one256 ≤ 10 * x then .exact (pow2 b 0) flagNX
      else if x ≤ 2 ^ 243 then .exact (.fin b m e) flagNX
      else .near b (tanhFixed x) (-256)

/-- The FP32 code of +∞. -/
abbrev infCode : Nat := 0x7F800000

/-- The FP32 code numbered `off` among those within 2 units in the last place of m × 2^e, which is no FP32 number: numbers 0 to 3 are the
code below it, less one, and the next three; the last of them lies too far away where the code above it begins a binade. Just above a
power of two the codes below lie half as far apart, and two more of them, numbers 4 and 5, may be near enough: from the power of two
itself the second below it, and the third for a result in the lower half of its interval; from the code after the power the second below,
again for a result in the lower half. Where one of them is not near enough its number stands for the code below the result. A magnitude
of 2^128 or more is ∞, and so is what is rounded past the largest finite one. -/
def nearCode (m : Nat) (e : Int) (off : Nat) : Nat :=
  let c := (encodeFmt fp32 (.fin false m e) true false).1
  let low := (encodeFmt fp32 (.fin false (m + 1) e) false false).1 == c
  let step := c % 2 ^ 23
  if 2 ^ (128 - e).toNat ≤ m then infCode
  else if off = 4 then (if 2 ^ 24 ≤ c && (step == 0 || step == 1 && low) then c - 2 else c)
  else if off = 5 then (if 2 ^ 24 ≤ c && step == 0 && low then c - 3 else c)
  else min (c + (if (c + 1) % 2 ^ 23 = 0 then min off 2 else off) - 1) infCode

/-- One lane: the function on the exact argument, then the one rounding into the lane type. A value between two FP32
numbers is one of those within 2 units in the last place; it raises NX, and UF when it is subnormal. The cases that
Table vector-4 marks F32 raise in the 16-bit types what any other result raises (09 R217). -/
def specialLane (major : Nat) (f : Val → Fun) (t : Fin 4) (x : Nat) : Nat × Flags :=
  let small := fun r : Nat => r / 2 ^ (laneFmt t).mb % 2 ^ (laneFmt t).eb == 0
  match f (laneVal t x) with
  | .exact v fl =>
    let r := encodeFmt (laneFmt t) v false false
    (r.1, fl ||| r.2 ||| flagIf (t.val != 0 && fl == flagNX && small r.1) flagUF)
  | .near neg m e =>
    let arg := (encodeFmt fp32 (laneVal t x).abs false false).1
    let c := nearCode m e (Config.specialOffset major t.val (BitVec.ofNat 32 arg)).val
    let v := decodeFmt fp32 c
    let r := encodeFmt (laneFmt t) (if neg then v.neg else v) false false
    (r.1, r.2 ||| flagNX ||| flagIf (c == infCode) flagOF ||| flagIf (small r.1) flagUF)

/-- A special function on the selected lanes. -/
def special (i : Instr) (major : Nat) (f : Val → Fun) (d a : VReg) (t : Fin 4) (g : Fin 8) (s : State) : State :=
  lanes1 i d a t g (specialLane major f t) s

def execFrcp (d a : VReg) (t : Fin 4) (g : Fin 8) (p : Tag) (s : State) : Host.Outcome State Fault Refusal :=
  operate (.frcp d a t g p) p s (special (.frcp d a t g p) 1 frcp d a t g)
def execFrsq (d a : VReg) (t : Fin 4) (g : Fin 8) (p : Tag) (s : State) : Host.Outcome State Fault Refusal :=
  operate (.frsq d a t g p) p s (special (.frsq d a t g p) 2 frsq d a t g)
def execFsqrt (d a : VReg) (t : Fin 4) (g : Fin 8) (p : Tag) (s : State) : Host.Outcome State Fault Refusal :=
  operate (.fsqrt d a t g p) p s (special (.fsqrt d a t g p) 3 fsqrt d a t g)
def execFexp2 (d a : VReg) (t : Fin 4) (g : Fin 8) (p : Tag) (s : State) : Host.Outcome State Fault Refusal :=
  operate (.fexp2 d a t g p) p s (special (.fexp2 d a t g p) 4 fexp2 d a t g)
def execFlog2 (d a : VReg) (t : Fin 4) (g : Fin 8) (p : Tag) (s : State) : Host.Outcome State Fault Refusal :=
  operate (.flog2 d a t g p) p s (special (.flog2 d a t g p) 5 flog2 d a t g)
def execFsin (d a : VReg) (t : Fin 4) (g : Fin 8) (p : Tag) (s : State) : Host.Outcome State Fault Refusal :=
  operate (.fsin d a t g p) p s (special (.fsin d a t g p) 6 fsin d a t g)
def execFcos (d a : VReg) (t : Fin 4) (g : Fin 8) (p : Tag) (s : State) : Host.Outcome State Fault Refusal :=
  operate (.fcos d a t g p) p s (special (.fcos d a t g p) 7 fcos d a t g)
def execFtanh (d a : VReg) (t : Fin 4) (g : Fin 8) (p : Tag) (s : State) : Host.Outcome State Fault Refusal :=
  operate (.ftanh d a t g p) p s (special (.ftanh d a t g p) 8 ftanh d a t g)

/-! ## Reductions (09 R218, 08 R187-R189) -/

/-- A lane as an FP32 code, converted exactly; one that the guard excludes enters as −0. -/
def sumLane (t : Fin 4) (sel : Bool) (x : Nat) : Nat × Flags :=
  if sel then encodeFmt fp32 (laneVal t x) false false else (2 ^ 31, 0)

/-- The levels of a tree over the lanes of a type. -/
def treeDepth (t : Fin 4) : Nat := if laneWidth t = 32 then 6 else 7

/-- An FP32 code with flags, rounded once into a 16-bit lane type. -/
def intoLane (t : Fin 4) (x : Nat × Flags) : Nat × Flags :=
  if t.val = 0 then x else roundTo (laneFmt t) (decodeFmt fp32 x.1, x.2)

/-- The inputs of a reduction. -/
def reduceLanes (t : Fin 4) (q : BitVec 128) (x : VWord) (f : Bool → Nat → Nat × Flags) : List (Nat × Flags) :=
  (List.range (laneCount t)).map fun j => f (selected (laneWidth t) q j) (laneOf (laneWidth t) x j)

/-- sum_tree of the selected lanes. -/
def sumTree (t : Fin 4) (q : BitVec 128) (x : VWord) : Nat × Flags :=
  intoLane t (((tree addFp32 (treeDepth t) (reduceLanes t q x (sumLane t))).head?).getD (0, 0))

/-- scan_tree of the selected lanes. -/
def scanTree (t : Fin 4) (q : BitVec 128) (x : VWord) : List (Nat × Flags) :=
  let ds := (List.range (treeDepth t)).map (2 ^ ·)
  (ds.foldl (fun l d => scanRound addFp32 d l) (reduceLanes t q x (sumLane t))).map (intoLane t)

/-- The identity that an excluded lane enters fmax or fmin with. -/
def pickIdentity (t : Fin 4) (greater : Bool) : Nat :=
  if t.val = 3 then (if greater then 2 ^ 31 else 2 ^ 31 - 1) else (encodeFmt (laneFmt t) (.inf greater) false false).1

/-- The fmax or fmin tree of the selected lanes. -/
def pickTree (t : Fin 4) (greater : Bool) (q : BitVec 128) (x : VWord) : Nat × Flags :=
  let l := reduceLanes t q x fun sel y => (if sel then y else pickIdentity t greater, 0)
  ((tree (fun a b => ((lanePick t greater a.1 b.1).1, a.2 ||| b.2 ||| (lanePick t greater a.1 b.1).2)) (treeDepth t) l).head?).getD
    (0, 0)

/-- One value written to every lane. -/
def spread (i : Instr) (d : VReg) (t : Fin 4) (r : Nat × Flags) (s : State) : State :=
  laneResult i d (laneWidth t) (fun _ => true) (fun _ => r) s

def execFsum (d a : VReg) (t : Fin 4) (g : Fin 8) (p : Tag) (s : State) : Host.Outcome State Fault Refusal :=
  operate (.fsum d a t g p) p s fun s => spread (.fsum d a t g p) d t (sumTree t (readP s g) (readV s a)) s
def execFmaxr (d a : VReg) (t : Fin 4) (g : Fin 8) (p : Tag) (s : State) : Host.Outcome State Fault Refusal :=
  operate (.fmaxr d a t g p) p s fun s => spread (.fmaxr d a t g p) d t (pickTree t true (readP s g) (readV s a)) s
def execFminr (d a : VReg) (t : Fin 4) (g : Fin 8) (p : Tag) (s : State) : Host.Outcome State Fault Refusal :=
  operate (.fminr d a t g p) p s fun s => spread (.fminr d a t g p) d t (pickTree t false (readP s g) (readV s a)) s
def execFscan (d a : VReg) (t : Fin 4) (g : Fin 8) (p : Tag) (s : State) : Host.Outcome State Fault Refusal :=
  operate (.fscan d a t g p) p s fun s =>
    let r := scanTree t (readP s g) (readV s a)
    laneResult (.fscan d a t g p) d (laneWidth t) (fun _ => true) (fun j => r[j]?.getD (0, 0)) s

end Sys2Proof.Machine
end

