-- ==== Sys2Proof/Machine/Dispatch.lean ====
section
/-! DEFINITION. The meaning of every instruction: one direct call per constructor. -/

namespace Sys2Proof.Machine

def exec (i : Instr) (s : State) : Host.Outcome State Fault Refusal :=
  match i with
  | .nop s1 => Sys2Proof.Machine.execNop s1 s
  | .add d a b p => Sys2Proof.Machine.execAdd d a b p s
  | .sub d a b p => Sys2Proof.Machine.execSub d a b p s
  | .and d a b p => Sys2Proof.Machine.execAnd d a b p s
  | .or d a b p => Sys2Proof.Machine.execOr d a b p s
  | .xor d a b p => Sys2Proof.Machine.execXor d a b p s
  | .andn d a b p => Sys2Proof.Machine.execAndn d a b p s
  | .shl d a b p => Sys2Proof.Machine.execShl d a b p s
  | .shr d a b p => Sys2Proof.Machine.execShr d a b p s
  | .sra d a b p => Sys2Proof.Machine.execSra d a b p s
  | .rol d a b p => Sys2Proof.Machine.execRol d a b p s
  | .min d a b p => Sys2Proof.Machine.execMin d a b p s
  | .max d a b p => Sys2Proof.Machine.execMax d a b p s
  | .minn d a b p => Sys2Proof.Machine.execMinn d a b p s
  | .maxn d a b p => Sys2Proof.Machine.execMaxn d a b p s
  | .addw d a b p => Sys2Proof.Machine.execAddw d a b p s
  | .subw d a b p => Sys2Proof.Machine.execSubw d a b p s
  | .clz d a p => Sys2Proof.Machine.execClz d a p s
  | .ctz d a p => Sys2Proof.Machine.execCtz d a p s
  | .popc d a p => Sys2Proof.Machine.execPopc d a p s
  | .bswap d a p => Sys2Proof.Machine.execBswap d a p s
  | .mul d a b p => Sys2Proof.Machine.execMul d a b p s
  | .mulh d a b p => Sys2Proof.Machine.execMulh d a b p s
  | .mulhn d a b p => Sys2Proof.Machine.execMulhn d a b p s
  | .addi d a imm p => Sys2Proof.Machine.execAddi d a imm p s
  | .andi d a imm p => Sys2Proof.Machine.execAndi d a imm p s
  | .ori d a imm p => Sys2Proof.Machine.execOri d a imm p s
  | .xori d a imm p => Sys2Proof.Machine.execXori d a imm p s
  | .shli d a n p => Sys2Proof.Machine.execShli d a n p s
  | .shri d a n p => Sys2Proof.Machine.execShri d a n p s
  | .srai d a n p => Sys2Proof.Machine.execSrai d a n p s
  | .roli d a n p => Sys2Proof.Machine.execRoli d a n p s
  | .ldi d imm p => Sys2Proof.Machine.execLdi d imm p s
  | .cmp d a b c p => Sys2Proof.Machine.execCmp d a b c p s
  | .cmpAnd d a b c p => Sys2Proof.Machine.execCmpAnd d a b c p s
  | .cmpi d a c imm p => Sys2Proof.Machine.execCmpi d a c imm p s
  | .pand d a b p => Sys2Proof.Machine.execPand d a b p s
  | .por d a b p => Sys2Proof.Machine.execPor d a b p s
  | .pxor d a b p => Sys2Proof.Machine.execPxor d a b p s
  | .pandn d a b p => Sys2Proof.Machine.execPandn d a b p s
  | .pnot d a p => Sys2Proof.Machine.execPnot d a p s
  | .pset d p => Sys2Proof.Machine.execPset d p s
  | .pclr d p => Sys2Proof.Machine.execPclr d p s
  | .pfirst d a p => Sys2Proof.Machine.execPfirst d a p s
  | .pfroms d a b p => Sys2Proof.Machine.execPfroms d a b p s
  | .pcount d a p => Sys2Proof.Machine.execPcount d a p s
  | .sels d a b g p => Sys2Proof.Machine.execSels d a b g p s
  | .mfs d n p => Sys2Proof.Machine.execMfs d n p s
  | .mts a n p => Sys2Proof.Machine.execMts a n p s
  | .loop a e p => Sys2Proof.Machine.execLoop a e p s
  | .loopi e c p => Sys2Proof.Machine.execLoopi e c p s
  | .brklp p => Sys2Proof.Machine.execBrklp p s
  | .waitc a n p => Sys2Proof.Machine.execWaitc a n p s
  | .trap c p => Sys2Proof.Machine.execTrap c p s
  | .rft p => Sys2Proof.Machine.execRft p s
  | .yield p => Sys2Proof.Machine.execYield p s
  | .tend p => Sys2Proof.Machine.execTend p s
  | .fencel p => Sys2Proof.Machine.execFencel p s
  | .fenceh s1 p => Sys2Proof.Machine.execFenceh s1 p s
  | .svc c p => Sys2Proof.Machine.execSvc c p s
  | .svcNop p => Sys2Proof.Machine.execSvcNop p s
  | .svcLog p => Sys2Proof.Machine.execSvcLog p s
  | .svcProbe p => Sys2Proof.Machine.execSvcProbe p s
  | .svcTouch p => Sys2Proof.Machine.execSvcTouch p s
  | .bt c o => Sys2Proof.Machine.execBt c o s
  | .bf c o => Sys2Proof.Machine.execBf c o s
  | .bany c o => Sys2Proof.Machine.execBany c o s
  | .ball c o => Sys2Proof.Machine.execBall c o s
  | .j o => Sys2Proof.Machine.execJ o s
  | .call o => Sys2Proof.Machine.execCall o s
  | .chk c o => Sys2Proof.Machine.execChk c o s
  | .jr l k => Sys2Proof.Machine.execJr l k s
  | .ldb d a o p => Sys2Proof.Machine.execLdb d a o p s
  | .ldbn d a o p => Sys2Proof.Machine.execLdbn d a o p s
  | .ldh d a o p => Sys2Proof.Machine.execLdh d a o p s
  | .ldhn d a o p => Sys2Proof.Machine.execLdhn d a o p s
  | .ldw d a o p => Sys2Proof.Machine.execLdw d a o p s
  | .ldwn d a o p => Sys2Proof.Machine.execLdwn d a o p s
  | .ldd d a o p => Sys2Proof.Machine.execLdd d a o p s
  | .stb d a o p => Sys2Proof.Machine.execStb d a o p s
  | .sth d a o p => Sys2Proof.Machine.execSth d a o p s
  | .stw d a o p => Sys2Proof.Machine.execStw d a o p s
  | .std d a o p => Sys2Proof.Machine.execStd d a o p s
  | .lds d a o p => Sys2Proof.Machine.execLds d a o p s
  | .vld d a o p => Sys2Proof.Machine.execVld d a o p s
  | .vst d a o p => Sys2Proof.Machine.execVst d a o p s
  | .vlds d a o p => Sys2Proof.Machine.execVlds d a o p s
  | .vldb d b x o p => Sys2Proof.Machine.execVldb d b x o p s
  | .vstb d b x o p => Sys2Proof.Machine.execVstb d b x o p s
  | .vgath d a b g w p => Sys2Proof.Machine.execVgath d a b g w p s
  | .vscat d a b g w p => Sys2Proof.Machine.execVscat d a b g w p s
  | .ldfe d a o p => Sys2Proof.Machine.execLdfe d a o p s
  | .ldfec d a o p => Sys2Proof.Machine.execLdfec d a o p s
  | .vldfe d a o p => Sys2Proof.Machine.execVldfe d a o p s
  | .vldfec d a o p => Sys2Proof.Machine.execVldfec d a o p s
  | .stf d a o p => Sys2Proof.Machine.execStf d a o p s
  | .vstf d a o p => Sys2Proof.Machine.execVstf d a o p s
  | .ldacq d a s1 z p => Sys2Proof.Machine.execLdacq d a s1 z p s
  | .strel d a s1 z p => Sys2Proof.Machine.execStrel d a s1 z p s
  | .atomAdd d a b r p => Sys2Proof.Machine.execAtomAdd d a b r p s
  | .atomMin d a b r p => Sys2Proof.Machine.execAtomMin d a b r p s
  | .atomMax d a b r p => Sys2Proof.Machine.execAtomMax d a b r p s
  | .atomMinn d a b r p => Sys2Proof.Machine.execAtomMinn d a b r p s
  | .atomMaxn d a b r p => Sys2Proof.Machine.execAtomMaxn d a b r p s
  | .atomAnd d a b r p => Sys2Proof.Machine.execAtomAnd d a b r p s
  | .atomOr d a b r p => Sys2Proof.Machine.execAtomOr d a b r p s
  | .atomXor d a b r p => Sys2Proof.Machine.execAtomXor d a b r p s
  | .atomSwap d a b r p => Sys2Proof.Machine.execAtomSwap d a b r p s
  | .cas d a b r p => Sys2Proof.Machine.execCas d a b r p s
  | .vatomAdd d a b r p => Sys2Proof.Machine.execVatomAdd d a b r p s
  | .vatomAnd d a b r p => Sys2Proof.Machine.execVatomAnd d a b r p s
  | .vatomOr d a b r p => Sys2Proof.Machine.execVatomOr d a b r p s
  | .vatomMax d a b r p => Sys2Proof.Machine.execVatomMax d a b r p s
  | .rkopen d a p => Sys2Proof.Machine.execRkopen d a p s
  | .rkpub a p => Sys2Proof.Machine.execRkpub a p s
  | .rktake d a p => Sys2Proof.Machine.execRktake d a p s
  | .rkdrop a p => Sys2Proof.Machine.execRkdrop a p s
  | .binit d a b p => Sys2Proof.Machine.execBinit d a b p s
  | .barv a p => Sys2Proof.Machine.execBarv a p s
  | .bwait d a p => Sys2Proof.Machine.execBwait d a p s
  | .pref a o p => Sys2Proof.Machine.execPref a o p s
  | .vadd d a b t g p => Sys2Proof.Machine.execVadd d a b t g p s
  | .vsub d a b t g p => Sys2Proof.Machine.execVsub d a b t g p s
  | .vmul d a b t g p => Sys2Proof.Machine.execVmul d a b t g p s
  | .vfma d a b t g p => Sys2Proof.Machine.execVfma d a b t g p s
  | .vfms d a b t g p => Sys2Proof.Machine.execVfms d a b t g p s
  | .vfnma d a b t g p => Sys2Proof.Machine.execVfnma d a b t g p s
  | .vmin d a b t g p => Sys2Proof.Machine.execVmin d a b t g p s
  | .vmax d a b t g p => Sys2Proof.Machine.execVmax d a b t g p s
  | .vabs d a t g p => Sys2Proof.Machine.execVabs d a t g p s
  | .vneg d a t g p => Sys2Proof.Machine.execVneg d a t g p s
  | .vcmp d a b t c p => Sys2Proof.Machine.execVcmp d a b t c p s
  | .vand d a b t g p => Sys2Proof.Machine.execVand d a b t g p s
  | .vor d a b t g p => Sys2Proof.Machine.execVor d a b t g p s
  | .vxor d a b t g p => Sys2Proof.Machine.execVxor d a b t g p s
  | .vshl d a b t g p => Sys2Proof.Machine.execVshl d a b t g p s
  | .vshr d a b t g p => Sys2Proof.Machine.execVshr d a b t g p s
  | .vsra d a b t g p => Sys2Proof.Machine.execVsra d a b t g p s
  | .vsel d a b t g p => Sys2Proof.Machine.execVsel d a b t g p s
  | .vadds d a s1 t g p => Sys2Proof.Machine.execVadds d a s1 t g p s
  | .vmuls d a s1 t g p => Sys2Proof.Machine.execVmuls d a s1 t g p s
  | .vfmas d a s1 t g p => Sys2Proof.Machine.execVfmas d a s1 t g p s
  | .vbcast d s1 t g p => Sys2Proof.Machine.execVbcast d s1 t g p s
  | .vext d a b t p => Sys2Proof.Machine.execVext d a b t p s
  | .vins d a b t p => Sys2Proof.Machine.execVins d a b t p s
  | .vperm d a b t g p => Sys2Proof.Machine.execVperm d a b t g p s
  | .vslide d a s1 t g p => Sys2Proof.Machine.execVslide d a s1 t g p s
  | .viota d t g p => Sys2Proof.Machine.execViota d t g p s
  | .vcvt d a s1 t g p => Sys2Proof.Machine.execVcvt d a s1 t g p s
  | .kunp d a f r t p => Sys2Proof.Machine.execKunp d a f r t p s
  | .kunpq d a r t c p => Sys2Proof.Machine.execKunpq d a r t c p s
  | .klds d a o p => Sys2Proof.Machine.execKlds d a o p s
  | .kldss d a o p => Sys2Proof.Machine.execKldss d a o p s
  | .qpk d a f r t n u p => Sys2Proof.Machine.execQpk d a f r t n u p s
  | .qpkq d a r t c p => Sys2Proof.Machine.execQpkq d a r t c p s
  | .qamax d a r t c p => Sys2Proof.Machine.execQamax d a r t c p s
  | .qsts d a o p => Sys2Proof.Machine.execQsts d a o p s
  | .frcp d a t g p => Sys2Proof.Machine.execFrcp d a t g p s
  | .frsq d a t g p => Sys2Proof.Machine.execFrsq d a t g p s
  | .fsqrt d a t g p => Sys2Proof.Machine.execFsqrt d a t g p s
  | .fexp2 d a t g p => Sys2Proof.Machine.execFexp2 d a t g p s
  | .flog2 d a t g p => Sys2Proof.Machine.execFlog2 d a t g p s
  | .fsin d a t g p => Sys2Proof.Machine.execFsin d a t g p s
  | .fcos d a t g p => Sys2Proof.Machine.execFcos d a t g p s
  | .ftanh d a t g p => Sys2Proof.Machine.execFtanh d a t g p s
  | .fsum d a t g p => Sys2Proof.Machine.execFsum d a t g p s
  | .fmaxr d a t g p => Sys2Proof.Machine.execFmaxr d a t g p s
  | .fminr d a t g p => Sys2Proof.Machine.execFminr d a t g p s
  | .fscan d a t g p => Sys2Proof.Machine.execFscan d a t g p s
  | .ewr e a f p => Sys2Proof.Machine.execEwr e a f p s
  | .erd e d f p => Sys2Proof.Machine.execErd e d f p s
  | .copy e a b c p => Sys2Proof.Machine.execCopy e a b c p s
  | .copyRack e a b c p => Sys2Proof.Machine.execCopyRack e a b c p s
  | .bindIn e a n p => Sys2Proof.Machine.execBindIn e a n p s
  | .bindOut e a n p => Sys2Proof.Machine.execBindOut e a n p s
  | .unbind n p => Sys2Proof.Machine.execUnbind n p s
  | .mma e a b t w p => Sys2Proof.Machine.execMma e a b t w p s
  | .mmas e a b t x p => Sys2Proof.Machine.execMmas e a b t x p s
  | .mzero t p => Sys2Proof.Machine.execMzero t p s
  | .mld e a t p => Sys2Proof.Machine.execMld e a t p s
  | .mst e a b t p => Sys2Proof.Machine.execMst e a b t p s
  | .mstRack e a b t p => Sys2Proof.Machine.execMstRack e a b t p s
  | .mpri q p => Sys2Proof.Machine.execMpri q p s
  | .spawn e a b q p => Sys2Proof.Machine.execSpawn e a b q p s
  | .tset a c p => Sys2Proof.Machine.execTset a c p s
  | .tdec a b c p => Sys2Proof.Machine.execTdec a b c p s
  | .twait c p => Sys2Proof.Machine.execTwait c p s
  | .gsend e a p => Sys2Proof.Machine.execGsend e a p s
  | .ready a b p => Sys2Proof.Machine.execReady a b p s
  | .unready a p => Sys2Proof.Machine.execUnready a p s
  | .asend e a b p => Sys2Proof.Machine.execAsend e a b p s
  | .peel a b c p => Sys2Proof.Machine.execPeel a b c p s
  | .addiLong d a p imm => Sys2Proof.Machine.execAddiLong d a p imm s
  | .andiLong d a p imm => Sys2Proof.Machine.execAndiLong d a p imm s
  | .oriLong d a p imm => Sys2Proof.Machine.execOriLong d a p imm s
  | .xoriLong d a p imm => Sys2Proof.Machine.execXoriLong d a p imm s
  | .ldiLong d p imm => Sys2Proof.Machine.execLdiLong d p imm s
  | .ldhi d a p imm => Sys2Proof.Machine.execLdhi d a p imm s
  | .cmpiLong d a c p imm => Sys2Proof.Machine.execCmpiLong d a c p imm s
  | .loopiLong e p imm => Sys2Proof.Machine.execLoopiLong e p imm s
  | .ldbLong d a p imm => Sys2Proof.Machine.execLdbLong d a p imm s
  | .ldbnLong d a p imm => Sys2Proof.Machine.execLdbnLong d a p imm s
  | .ldhLong d a p imm => Sys2Proof.Machine.execLdhLong d a p imm s
  | .ldhnLong d a p imm => Sys2Proof.Machine.execLdhnLong d a p imm s
  | .ldwLong d a p imm => Sys2Proof.Machine.execLdwLong d a p imm s
  | .ldwnLong d a p imm => Sys2Proof.Machine.execLdwnLong d a p imm s
  | .lddLong d a p imm => Sys2Proof.Machine.execLddLong d a p imm s
  | .stbLong d a p imm => Sys2Proof.Machine.execStbLong d a p imm s
  | .sthLong d a p imm => Sys2Proof.Machine.execSthLong d a p imm s
  | .stwLong d a p imm => Sys2Proof.Machine.execStwLong d a p imm s
  | .stdLong d a p imm => Sys2Proof.Machine.execStdLong d a p imm s
  | .ldsLong d a p imm => Sys2Proof.Machine.execLdsLong d a p imm s
  | .vldLong d a p imm => Sys2Proof.Machine.execVldLong d a p imm s
  | .vstLong d a p imm => Sys2Proof.Machine.execVstLong d a p imm s
  | .vldsLong d a p imm => Sys2Proof.Machine.execVldsLong d a p imm s
  | .ldfeLong d a p imm => Sys2Proof.Machine.execLdfeLong d a p imm s
  | .ldfecLong d a p imm => Sys2Proof.Machine.execLdfecLong d a p imm s
  | .vldfeLong d a p imm => Sys2Proof.Machine.execVldfeLong d a p imm s
  | .vldfecLong d a p imm => Sys2Proof.Machine.execVldfecLong d a p imm s
  | .stfLong d a p imm => Sys2Proof.Machine.execStfLong d a p imm s
  | .vstfLong d a p imm => Sys2Proof.Machine.execVstfLong d a p imm s
  | .prefLong a p imm => Sys2Proof.Machine.execPrefLong a p imm s
  | .vaddsLong d a t g p imm => Sys2Proof.Machine.execVaddsLong d a t g p imm s
  | .vmulsLong d a t g p imm => Sys2Proof.Machine.execVmulsLong d a t g p imm s
  | .vfmasLong d a t g p imm => Sys2Proof.Machine.execVfmasLong d a t g p imm s
  | .vbcastLong d t g p imm => Sys2Proof.Machine.execVbcastLong d t g p imm s
  | .mproof a t p imm => Sys2Proof.Machine.execMproof a t p imm s
  | .queueNotification q => Sys2Proof.Machine.execQueueNotification q s
  | .pin q => Sys2Proof.Machine.execPin q s
  | .unpin q => Sys2Proof.Machine.execUnpin q s
  | .configWrite w => Sys2Proof.Machine.execConfigWrite w s
  | .loadImage q c => Sys2Proof.Machine.execLoadImage q c s
  | .createJob q c => Sys2Proof.Machine.execCreateJob q c s
  | .start q c => Sys2Proof.Machine.execStart q c s
  | .signal q c => Sys2Proof.Machine.execSignal q c s
  | .preempt q c => Sys2Proof.Machine.execPreempt q c s
  | .resume q c => Sys2Proof.Machine.execResume q c s
  | .kill q c => Sys2Proof.Machine.execKill q c s
  | .copyIn q c => Sys2Proof.Machine.execCopyIn q c s
  | .copyOut q c => Sys2Proof.Machine.execCopyOut q c s
  | .hostCopyComplete id => Sys2Proof.Machine.execHostCopyComplete id s
  | .setTolerance q c => Sys2Proof.Machine.execSetTolerance q c s
  | .queryPart q c => Sys2Proof.Machine.execQueryPart q c s
  | .queryJob q c => Sys2Proof.Machine.execQueryJob q c s
  | .queryBinding q c => Sys2Proof.Machine.execQueryBinding q c s
  | .queryClusterMap q c => Sys2Proof.Machine.execQueryClusterMap q c s
  | .queryAttestation q c => Sys2Proof.Machine.execQueryAttestation q c s
  | .queryCertChain q c => Sys2Proof.Machine.execQueryCertChain q c s
  | .queryErrorLog q c => Sys2Proof.Machine.execQueryErrorLog q c s
  | .peelRequest q c => Sys2Proof.Machine.execPeelRequest q c s
  | .inboundPostedWrite r off data ro => Sys2Proof.Machine.execInboundPostedWrite r off data ro s
  | .inboundPacketRelease id => Sys2Proof.Machine.execInboundPacketRelease id s
  | .inboundPacketAck id => Sys2Proof.Machine.execInboundPacketAck id s
  | .inboundRead r off len tag => Sys2Proof.Machine.execInboundRead r off len tag s
  | .deviceReset => Sys2Proof.Machine.execDeviceReset s
  | .bootComplete ok => Sys2Proof.Machine.execBootComplete ok s
  | .poolTransactionTimeout id k => Sys2Proof.Machine.execPoolTransactionTimeout id k s
  | .writeAck id => Sys2Proof.Machine.execWriteAck id s
  | .wallBusRealignment die col => Sys2Proof.Machine.execWallBusRealignment die col s
  | .realignmentDeferralEnd die col => Sys2Proof.Machine.execRealignmentDeferralEnd die col s
  | .realignmentPauseEnd die col => Sys2Proof.Machine.execRealignmentPauseEnd die col s
  | .flitArrival link ok f => Sys2Proof.Machine.execFlitArrival link ok f s
  | .linkRetrain link => Sys2Proof.Machine.execLinkRetrain link s
  | .linkRetrainEnd link => Sys2Proof.Machine.execLinkRetrainEnd link s
  | .coltempRefresh die col t => Sys2Proof.Machine.execColtempRefresh die col t s
  | .instructionFetchComplete k => Sys2Proof.Machine.execInstructionFetchComplete k s
  | .exposedResultLand k => Sys2Proof.Machine.execExposedResultLand k s
  | .longResultLand id => Sys2Proof.Machine.execLongResultLand id s
  | .contextSelect core => Sys2Proof.Machine.execContextSelect core s
  | .waitcEnd k => Sys2Proof.Machine.execWaitcEnd k s
  | .contextIdle k => Sys2Proof.Machine.execContextIdle k s
  | .gatherBufferFlush id => Sys2Proof.Machine.execGatherBufferFlush id s
  | .fencehComplete k => Sys2Proof.Machine.execFencehComplete k s
  | .remoteAccessPerform x => Sys2Proof.Machine.execRemoteAccessPerform x s
  | .translationWalkComplete id => Sys2Proof.Machine.execTranslationWalkComplete id s
  | .routeStaleResend id => Sys2Proof.Machine.execRouteStaleResend id s
  | .fullEmptyRequestArrival id => Sys2Proof.Machine.execFullEmptyRequestArrival id s
  | .copyElementFault id k => Sys2Proof.Machine.execCopyElementFault id k s
  | .copyElementReplay id k => Sys2Proof.Machine.execCopyElementReplay id k s
  | .copyComplete id => Sys2Proof.Machine.execCopyComplete id s
  | .copyFailure id => Sys2Proof.Machine.execCopyFailure id s
  | .copyByteReport id n => Sys2Proof.Machine.execCopyByteReport id n s
  | .streamReadAhead k n => Sys2Proof.Machine.execStreamReadAhead k n s
  | .streamDrainWrite k n => Sys2Proof.Machine.execStreamDrainWrite k n s
  | .matrixCommandStart core => Sys2Proof.Machine.execMatrixCommandStart core s
  | .matrixBoundary core => Sys2Proof.Machine.execMatrixBoundary core s
  | .matrixCommandComplete core => Sys2Proof.Machine.execMatrixCommandComplete core s
  | .mstComplete id => Sys2Proof.Machine.execMstComplete id s
  | .matrixFetchFault core => Sys2Proof.Machine.execMatrixFetchFault core s
  | .matrixPriorityAgeing core id => Sys2Proof.Machine.execMatrixPriorityAgeing core id s
  | .handoverStopAndHold stack => Sys2Proof.Machine.execHandoverStopAndHold stack s
  | .handoverQueueDrain stack => Sys2Proof.Machine.execHandoverQueueDrain stack s
  | .handoverWriteback stack => Sys2Proof.Machine.execHandoverWriteback stack s
  | .handoverTlbInvalidate stack => Sys2Proof.Machine.execHandoverTlbInvalidate stack s
  | .handoverOwnerFlip stack => Sys2Proof.Machine.execHandoverOwnerFlip stack s
  | .handoverHeldRequests stack => Sys2Proof.Machine.execHandoverHeldRequests stack s
  | .handoverComplete stack => Sys2Proof.Machine.execHandoverComplete stack s
  | .barrierArrival id => Sys2Proof.Machine.execBarrierArrival id s
  | .barvPhaseReturn id => Sys2Proof.Machine.execBarvPhaseReturn id s
  | .counterDecrement id => Sys2Proof.Machine.execCounterDecrement id s
  | .taskStart core => Sys2Proof.Machine.execTaskStart core s
  | .taskPriorityAgeing core slot => Sys2Proof.Machine.execTaskPriorityAgeing core slot s
  | .launchArrival id => Sys2Proof.Machine.execLaunchArrival id s
  | .asendRemoteArrival m => Sys2Proof.Machine.execAsendRemoteArrival m s
  | .readinessUpdate id => Sys2Proof.Machine.execReadinessUpdate id s
  | .groupMessageSteer id => Sys2Proof.Machine.execGroupMessageSteer id s
  | .memberCoreDelivery id => Sys2Proof.Machine.execMemberCoreDelivery id s
  | .groupBounce id => Sys2Proof.Machine.execGroupBounce id s
  | .refreshAnswer id => Sys2Proof.Machine.execRefreshAnswer id s
  | .parkRelease job g => Sys2Proof.Machine.execParkRelease job g s
  | .groupMessageAck id => Sys2Proof.Machine.execGroupMessageAck id s
  | .eventEntry k => Sys2Proof.Machine.execEventEntry k s
  | .trapEntry k => Sys2Proof.Machine.execTrapEntry k s
  | .lateFaultDelivery k => Sys2Proof.Machine.execLateFaultDelivery k s
  | .timerExpiry k => Sys2Proof.Machine.execTimerExpiry k s
  | .serviceContextEntry core => Sys2Proof.Machine.execServiceContextEntry core s
  | .serviceContextReturn core => Sys2Proof.Machine.execServiceContextReturn core s
  | .serviceDeadline core => Sys2Proof.Machine.execServiceDeadline core s
  | .preemptStopTimeout job => Sys2Proof.Machine.execPreemptStopTimeout job s
  | .preemptImageWrite job => Sys2Proof.Machine.execPreemptImageWrite job s
  | .killGraceExpiry job => Sys2Proof.Machine.execKillGraceExpiry job s
  | .jobEnd job => Sys2Proof.Machine.execJobEnd job s
  | .scrubPass e => Sys2Proof.Machine.execScrubPass e s
  | .serviceStoreReload core => Sys2Proof.Machine.execServiceStoreReload core s
  | .mgmtDataError job => Sys2Proof.Machine.execMgmtDataError job s
  | .powerStateEntry u => Sys2Proof.Machine.execPowerStateEntry u s
  | .powerStateWake u => Sys2Proof.Machine.execPowerStateWake u s
  | .layerEmergencyOff die layer => Sys2Proof.Machine.execLayerEmergencyOff die layer s
  | .rackControllerOperation id => Sys2Proof.Machine.execRackControllerOperation id s
  | .barrierUnitRequest id => Sys2Proof.Machine.execBarrierUnitRequest id s
  | .mstTileRead core => Sys2Proof.Machine.execMstTileRead core s
  | .serviceStoreReloadDone core => Sys2Proof.Machine.execServiceStoreReloadDone core s
  | .cxlPortTraining size => Sys2Proof.Machine.execCxlPortTraining size s
  | .launchAcknowledgement id => Sys2Proof.Machine.execLaunchAcknowledgement id s

end Sys2Proof.Machine
end

