-- ==== Sys2Proof/Machine/Schedule.lean ====
section
/-! DEFINITION. What moves next (log entry 1): the turns of the agenda, and while it is empty a schedule of the model's own.
A core's issue stage takes one move at a time: a selection, landings, an entry, an empty cycle, or a whole bundle. -/

namespace Sys2Proof.Machine

/-- What a step answers. -/
abbrev Answer := Host.Outcome State Fault Refusal

/-! ## Issuing a bundle (06 R105-R140) -/

/-- The operations run one after another, each at its position: of two stores of one bundle to one byte, which the manual does not order
(06 R107 exempts memory from the group rules), the one that comes later in MASK order takes effect last (DESIGN CHOICE, log entry 54). -/
def runOps (run : Instr → State → Answer) : List Op → State → Answer
  | [], s => .next s
  | x :: l, s =>
    match run x.2 { s with cur := { s.cur with pos := x.1 } } with
    | .next t => runOps run l t
    | .fault f => .fault f
    | .refused r => .refused r

/-- An operation whose request reads memory. -/
def readsMemory (i : Instr) : Bool := isPlainLoad i || isFullEmpty i || (isSyncAccess i && !isStrel i) || (match i with | .vgath .. => true | _ => false)

/-- The state in which a bundle of context `k` that has passed its checks begins to issue, with the operations `ex` that execute. -/
def begun (s : State) (k len : Nat) (ex : List Op) : State :=
  { s with cur := { Issue.reset with key := k, h := (ctxAt s k).pc, len := len, checked := true, mem := s.mem, bad := s.bad
                                     arrivals := (ctxAt s k).arrivals, first := s.nextId, reads := ex.any (fun x => readsMemory x.2)
                                     late := ex.flatMap fun x => lateSpans (ctxAt s k) x.2 } }

/-- The bundle has issued: its tests first, its operations in MASK order, its retirement, then what follows it. -/
def issueGo (run : Instr → State → Answer) (s : State) (k : Nat) (b : Bundle) (taken : Option Nat) : Answer :=
  let l := opsOf b
  let written := (executing taken l).flatMap (opWrites (ctxAt s k) taken)
  match (if b.slots.isEmpty then run (.nop (if b.stop then 1 else 0)) (begun s k b.len (executing taken l))
         else runOps run (testsOf l ++ mainOf l) (begun s k b.len (executing taken l))) with
  | .next t =>
    match runOps run (postOf l) (retire t b.stop written) with
    | .next u => .next { u with cur := Issue.reset }
    | o => o
  | o => o

/-- A bundle that waits: a context that is to stop for pre-emption stops before it (21 R391). -/
def heldBundle (s : State) (k : Nat) : State := if jobStops s k then stopCtx s k else waiting s k

/-- A trap at issue is taken at once by TRAP_ENTRY. -/
def issueTrap (s : State) (k : Nat) (f : FaultRec) : Answer := execTrapEntry k (onCtx s k fun c => { c with trap := some f })

/-- A decoded bundle at the PC of context `k`: the checks of R96 from step 5 on, and its issue. -/
def issueBundle (run : Instr → State → Answer) (s : State) (k : Nat) (b : Bundle) : Answer :=
  let l := opsOf b
  let c := ctxAt s k
  if testsWait s k l then .next (heldBundle s k)
  else
    let taken := firstTaken c (testsOf l)
    match verdict s k taken c.pc b.len l (executing taken l) with
    | .go => issueGo run s k b taken
    | .wait => .next (heldBundle s k)
    | .trap f => issueTrap s k f
    | .late f => .next (notIssued s k (.late f))

/-- The cause of a fate of decoding. -/
def fateCause (f : DecodeFate) : Cause := match f with | .illop => .illop | .illbnd => .illbnd

/-- The context's next bundle is fetched, decoded and issued. A PAGE or PERM fault is first offered to the service context
(05 R87, 21 R388); a misaligned PC traps; poisoned text gives the late fault UE (23 R403). -/
def issueNext (run : Instr → State → Answer) (s : State) (k : Nat) : Answer :=
  match jobOfCtx s k with
  | none => .next s
  | some j =>
    if !(ctxAt s k).withdrawn.isEmpty then .next (reissue s k)
    else if fetchHeld s k then .next (heldBundle s k)
    else match fetchBundle s j (ctxAt s k).pc, fetchPoison s k with
    | .error e, _ =>
      if e.1 == .align then issueTrap s k (fetchFault s k e) else .next (leaveStage (toService s k (.fetch k)) k)
    | .ok ws, some a => .next (lateFault (fresh (fetchTouch s (k / 4) (ctxAt s k).pc (4 * ws.length))) k { fetchFault s k (.ue, a) with late := true })
    | .ok ws, none =>
      match decodeBundle ws with
      | .error (f, p) => issueTrap s k (issueFault s k (ctxAt s k).pc (fateCause f) p 0)
      | .ok b => issueBundle run s k b

/-! ## A move of a core's issue stage -/

/-- A result of context `k` is due. -/
def landsNow (s : State) (k : Nat) : Bool := (ctxAt s k).flights.any (dueFlight (ctxAt s k))

/-- The context is to stop at this boundary: it has issued a bundle at which a pre-emption lands, or 100 µs have passed since PREEMPT
was taken (21 R391). -/
def stopsHere (s : State) (k : Nat) : Bool :=
  (jobOfCtx s k).any fun j => j.preempt.any fun x => (ctxAt s k).landing || decide (x.2 + 100000 ≤ timeNow s)

/-- The RUNNING context `k` makes its next move. While a fence of it is in progress it waits before its next bundle, whatever that
bundle is, and enters no handler (14 R304). -/
def moveCtx (run : Instr → State → Answer) (s : State) (k : Nat) : Answer :=
  let c := ctxAt s k
  if landsNow s k then execExposedResultLand k s
  else if c.waitc = 1 then execWaitcEnd k s
  else if c.waitc ≠ 0 then .next (emptyCycle s k)
  else if stopsHere s k then .next (stopCtx s k)
  else if c.fence.isSome then .next (heldBundle s k)
  else
    match candidate c with
    | none => if c.fetched then issueNext run s k else .next (heldBundle s k)
    | some .event =>
      if jobStops s k then (if c.fetched then issueNext run s k else .next (heldBundle s k))
      else if entryBlocked s k then .next (waiting s k) else execEventEntry k s
    | some (.trap _) => if entryBlocked s k then .next (heldBundle s k) else execTrapEntry k s
    | some _ => if entryBlocked s k then .next (heldBundle s k) else execLateFaultDelivery k s

/-- The issue stage of core `n` makes its next move, or nothing while the service context has it or the core is held. A cause for the
service context takes the stage before any user context (06 R126, 22 R397). -/
def issueStage (run : Instr → State → Answer) (n : Nat) (s : State) : Answer :=
  match jobOfCore s n with
  | none => .fault (.unboundCore n)
  | some j =>
    let q := coreAt s n
    if j.status ≠ .running ∨ q.service.isSome ∨ q.storeOk = false then .next s
    else if q.services ≠ [] then execServiceContextEntry n s
    else if q.hold = true then .next s
    else
      match runningCtx s n with
      | none => execContextSelect n s
      | some c =>
        let k := 4 * n + c.val
        let higher := (bestReady s n).any fun o => decide ((ctxAt s k).prio.val < (ctxAt s (4 * n + o.val)).prio.val)
        if higher && (ctxAt s k).waitc == 0 then execContextSelect n s else moveCtx run s k

/-! ## The model's own schedule -/

/-- A move of the schedule. -/
abbrev Move := State → Answer

/-- The move comes about: it changes the state. -/
def comesAbout (s : State) (m : Move) : Bool := match m s with | .next t => decide (t ≠ s) | _ => true

/-- The answer of the first move that comes about. -/
def firstMove (s : State) : List Move → Option Answer
  | [] => none
  | m :: l => if comesAbout s m then some (m s) else firstMove s l

/-- The row of the command at the head of a queue. -/
def queueMoves (s : State) (q : Nat) : List Move :=
  match nextChain s q with
  | none => []
  | some c =>
    match commandKind c with
    | none => [fun s => .next (takeBads s q (queueAt s q).ring.length)]
    | some .loadImage => [execLoadImage q c]
    | some .createJob => [execCreateJob q c]
    | some .start => [execStart q c]
    | some .signal => [execSignal q c]
    | some .preempt => [execPreempt q c]
    | some .resume => [execResume q c]
    | some .kill => [execKill q c]
    | some .copyIn => [execCopyIn q c]
    | some .copyOut => [execCopyOut q c]
    | some .setTolerance => [execSetTolerance q c]
    | some .queryPart => [execQueryPart q c]
    | some .queryJob => [execQueryJob q c]
    | some .queryBinding => [execQueryBinding q c]
    | some .queryClusterMap => [execQueryClusterMap q c]
    | some .queryAttestation => [execQueryAttestation q c]
    | some .queryCertChain => [execQueryCertChain q c]
    | some .queryErrorLog => [execQueryErrorLog q c]
    | some .peelRequest => [execPeelRequest q c]

/-- The steps of a request on the fabric. -/
def reqMoves (r : Req) : List Move :=
  [execGatherBufferFlush r.id, execTranslationWalkComplete r.id, execRouteStaleResend r.id, execFullEmptyRequestArrival r.id,
   execRemoteAccessPerform (.request r.id), execRackControllerOperation r.id, execBarrierUnitRequest r.id, execBarrierArrival r.id,
   execBarvPhaseReturn r.id, execCounterDecrement r.id, execLaunchArrival r.id, execLaunchAcknowledgement r.id,
   execGroupMessageSteer r.id, execGroupMessageAck r.id, execLongResultLand r.id, execWriteAck r.id]

/-- The lowest number that a rising list does not hold, from `k` on. -/
def firstGap (k : Nat) : List Nat → Nat
  | [] => k
  | x :: l => if x = k then firstGap (k + 1) l else k

/-- The steps of a copy. -/
def copyMoves (c : Copy) : List Move :=
  let k := firstGap 0 (c.moved.foldl include1 ((c.suspended.map (·.1)).foldl include1 []))
  [execCopyFailure c.id, execCopyElementFault c.id k, execRemoteAccessPerform (.element c.id k)] ++
    (c.suspended.map fun x => execCopyElementReplay c.id x.1) ++ [execCopyByteReport c.id c.unreported, execCopyComplete c.id]

/-- The steps of a core's engines, service context and task table. -/
def coreMoves (s : State) (n : Nat) : List Move :=
  let q := coreAt s n
  [execServiceContextEntry n, execServiceContextReturn n, execTaskStart n, execMatrixCommandStart n, execMatrixFetchFault n,
   execMatrixBoundary n, execMatrixCommandComplete n, execMstTileRead n] ++
  (q.queue.filter fun m => isMst m.op).flatMap (fun m => [execRemoteAccessPerform (.element m.id m.step), execMstComplete m.id]) ++
  (q.queue.map fun m => execMatrixPriorityAgeing n m.id) ++
  (List.range 64).map (fun i => execTaskPriorityAgeing n i)

/-- The steps of a context. -/
def ctxMoves (s : State) (k : Nat) : List Move :=
  (if (ctxAt s k).fetched then [] else [execInstructionFetchComplete k]) ++
  [execTimerExpiry k, execFencehComplete k, execContextIdle k] ++
  (List.finRange 8).flatMap fun n => [execStreamReadAhead k n, execStreamDrainWrite k n]

/-- The steps of a withdrawn load whose response is still to come. -/
def ghostMoves (r : Req) : List Move := [execRouteStaleResend r.id, execLongResultLand r.id]

/-- The steps of a job. -/
def jobMoves (j : Job) : List Move :=
  [execKillGraceExpiry j.id, execJobEnd j.id, execPreemptStopTimeout j.id, execPreemptImageWrite j.id] ++
  (List.range j.groups.length).map fun g => execParkRelease j.id g

/-- The steps of a group's messages and updates. -/
def messageMoves (m : Message) : List Move :=
  [execGroupMessageSteer m.id, execMemberCoreDelivery m.id, execGroupBounce m.id, execGroupMessageAck m.id]
def updateMoves (u : Update) : List Move := [execReadinessUpdate u.id, execRefreshAnswer u.id]

/-- The steps of a hand-over. -/
def handoverMoves (h : Handover) : List Move :=
  [execHandoverStopAndHold h.stack, execHandoverQueueDrain h.stack, execHandoverWriteback h.stack, execHandoverTlbInvalidate h.stack,
   execHandoverOwnerFlip h.stack, execHandoverHeldRequests h.stack, execHandoverComplete h.stack]

/-- The steps of the inbound window. -/
def inboundMoves (s : State) : List Move :=
  s.packets.flatMap (fun p => [execInboundPacketRelease p.id, execRemoteAccessPerform (.packet p.id), execInboundPacketAck p.id]) ++
  s.reads.map fun r => execInboundRead r.requester r.offset r.len r.tag

/-- The steps of a column: its realignment, and a layer that grows too hot (23 R411). -/
def columnMoves (s : State) (die col : Nat) : List Move :=
  [execWallBusRealignment die col, execRealignmentDeferralEnd die col, execRealignmentPauseEnd die col] ++
  if 500 ≤ (columnAt s die col).temp.toInt then [execLayerEmergencyOff die 0, execLayerEmergencyOff die 1] else []

/-- A link that has replayed more than 16 times within a millisecond retrains (04 R83). -/
def linkMoves (s : State) (l : Nat) : List Move := if 16 < (linkAt s l).replays.length then [execLinkRetrain l] else []

/-- The cores bound to a RUNNING job. -/
def runningCores (s : State) : List Nat := (s.jobs.filter fun j => j.status == .running).flatMap (·.binding)

/-- Every step of the part but those of the issue stages, in the order in which the schedule looks at them. -/
def partMoves (s : State) : List Move :=
  execBootComplete true ::
  (runningCores s).flatMap (fun n => [execTimerExpiry (4 * n), execTimerExpiry (4 * n + 1), execTimerExpiry (4 * n + 2), execTimerExpiry (4 * n + 3)]) ++
  (s.queues.map (·.1)).flatMap (queueMoves s) ++ s.reqs.flatMap reqMoves ++ s.ghosts.flatMap ghostMoves ++ s.copies.flatMap copyMoves ++
  (s.hostCopies.map fun h => execHostCopyComplete h.id) ++ s.messages.flatMap messageMoves ++ s.updates.flatMap updateMoves ++
  s.handovers.flatMap handoverMoves ++ (s.inbox.map fun m => execAsendRemoteArrival m) ++ inboundMoves s ++ (runningCores s).flatMap (coreMoves s) ++
  (runningCores s).flatMap (fun n => (List.range 4).flatMap fun i => ctxMoves s (4 * n + i)) ++
  (s.jobs.filter fun j => j.status != .ended).flatMap jobMoves ++
  (List.range 16).flatMap (linkMoves s) ++ (List.range 4).flatMap fun d => (List.range 25).flatMap fun c => columnMoves s d c

/-- The issue stages in turn: the first one looked at moves on with the clock. -/
def stageMoves (run : Instr → State → Answer) (s : State) : List Move :=
  let l := runningCores s
  (l.rotateLeft (s.clock % l.length)).map fun n => issueStage run n

/-- The turn of the schedule: a step of the part, else a move of an issue stage, else a clock of device time. -/
def defaultTurn (run : Instr → State → Answer) (s : State) : Answer :=
  match firstMove s (partMoves s) with
  | some a => a
  | none => (firstMove s (stageMoves run s)).getD (.next (passClocks s 1))

/-- An operation of a bundle is no step of its own: it is run by its core's issue stage. -/
def isSlotOp (i : Instr) : Bool := match i with | .nop _ => true | i => (slotWord i).isSome

/-- What every step does beside its turn: TIMERs that have run out set their events (07 R165), contexts that are to stop and that
stand at a place where they do so at once stop (21 R391), changed units have their dirty bits set (21 R394), and units that may
enter a power state, or leave one, are watched (23 R410). -/
def noteStep (s t : State) : State := noteIdle (noteDirty s (noteStops (noteTimers t)))
def stepped (s : State) (a : Answer) : Answer := match a with | .next t => .next (noteStep s t) | o => o

/-- A turn of the agenda. -/
def runTurn (run : Instr → State → Answer) (t : Turn) (s : State) : Answer :=
  match t with
  | .row i => if isSlotOp i then .next s else run i s
  | .issue n => issueStage run n s
  | .pass c => .next (passClocks s c)
  | .hostWrite a l => .next { s with mem := writeMasked s.mem (hostPhys a) (l.map some) }
  | .hostMaps l => .next { s with hostMap := l }

/-! ## Placing an instruction (the host's question) -/

/-- The core whose stage the next step moves: that of the first turn, or core 0. -/
def stageCore (s : State) : Nat := match s.agenda with | .issue n :: _ => n | _ => 0

/-- A job that holds core `n` alone, with no declarations: what CREATE_JOB and START leave of a one-core image. -/
def lonelyJob (s : State) (n : Nat) : Job where
  id := s.nextJob
  queue := 0
  status := .running
  n := 1
  rot := 0
  binding := [n]
  former := []
  holds := [(0, false)]
  park := 1
  pages := []
  racks := []
  groups := []
  barriers := []
  tiles := []
  masks := []
  winBase := 0
  aperture := 0
  apertures := 0
  poolOff := 0
  poolSize := 0
  lastCause := 0
  start := none
  kill := []
  preempt := none
  saved := []
  saveAt := none
  owed := []

/-- Core `n` bound to a RUNNING job. -/
def withJobOn (s : State) (n : Nat) : State :=
  match jobOfCore s n with
  | some j => setJob s { j with status := .running, preempt := none }
  | none =>
    onCore { s with jobs := s.jobs ++ [lonelyJob s n], nextJob := s.nextJob + 1 } n fun c => { c with job := some s.nextJob, logical := 0 }

/-- The job with the page of an address executable and resident: the page it has, or a new one in stack 0. -/
def withPage (j : Job) (a : Nat) : Job :=
  match pageOf j a with
  | some p => { j with pages := { p with exec := true, resident := true } :: j.pages.filter (· != p) }
  | none =>
    let used := j.pages.filter fun p => p.stack == 0
    { j with pages := ⟨a / 65536, 0, (used.map (·.frame)).foldl max j.park + 1, false, true, true⟩ :: j.pages }

/-- The words of a bundle at an address of a job. -/
def putWords (j : Job) (s : State) (a : Nat) : List Nat → State
  | [] => s
  | w :: l =>
    let pa := match pageOf j a with | some p => pagePhys p a | none => 0
    putWords j { s with mem := writeLE s.mem pa 4 w, bad := exclude s.bad (pa / 16) (pa / 16 + 1) } (a + 4) l

/-- A context that issues at its next move: nothing is due, pending at the boundary, or in progress. -/
def issuing (c : Ctx) (a : Word) : Ctx :=
  { c with
    pc := a, status := .running, task := some (c.task.getD 0), flights := c.flights.filter fun f => !dueFlight c f
    waitc := 0, fence := none, trap := none, late := [], afterRft := false, fetched := true, stopped := false, landing := false
    epend := 0, group := [], prio := 3 }

/-- The state with the words of a bundle placed at the PC of the context that issues next, on the first turn. -/
def withBundle (s : State) (words : List Nat) : State :=
  let n := stageCore s
  let s := withJobOn s n
  let c := (runningCtx s n).getD 0
  let k := 4 * n + c.val
  let pc : Word := if (ctxAt s k).pc.toNat % 4 = 0 ∧ spaceOf ((ctxAt s k).pc.toNat + 64) = .job then (ctxAt s k).pc else 0
  match jobOfCore s n with
  | none => s
  | some j =>
    let j := withPage (withPage j pc.toNat) (pc.toNat + 4 * words.length)
    let s := onCtx (setJob s j) k fun x => issuing x pc
    let s := onCore s n fun q => { q with holder := some c, service := none, hold := false, storeOk := true }
    putWords j { s with agenda := .issue n :: (match s.agenda with | .issue _ :: l => l | l => l) } pc.toNat words

end Sys2Proof.Machine
end

