-- ==== Sys2Proof/Machine/Step.lean ====
section
/-! DEFINITION. One step of the part: the first turn of the agenda, or while it is empty a turn of the model's schedule. -/

namespace Sys2Proof.Machine

/-- One step. -/
def step (s : State) : Host.Outcome State Fault Refusal :=
  stepped s (match s.agenda with
    | [] => defaultTurn exec s
    | t :: l => runTurn exec t { s with agenda := l })

/-- The state with the instruction of a table word stored where the first turn's issue stage fetches (log entry 1): a program
is loaded by CREATE_JOB and released by START, and this stands for both. -/
def State.withFetchWord (s : State) (nbits w : Nat) : State := withBundle s (tableBundle nbits w)

end Sys2Proof.Machine
end

