-- ==== Sys2Proof/Safety.lean ====
section
/-! DEFINITION. The terms in which statements about the machine are made: when an operation issues, what a step leaves as it
was, and the invariants. -/

namespace Sys2Proof.Machine

/-! ## When a slot operation issues (05 R92, R93, R96) -/

/-- The operation executes under its path tag, and its checks are passed: those of the whole bundle it issues in, or, where
it stands alone, those of its own (`verdict`: R96 steps 5 to 9 and the engine waits of 06 Table issue-5). -/
def Issues (i : Instr) (p : Tag) (s : State) : Prop :=
  executes s.cur.taken p = true ∧
  (s.cur.checked = true ∨
   verdict s s.cur.key (aloneTaken s i) s.cur.h s.cur.len [(s.cur.pos, i)] [(s.cur.pos, i)] = .go)

/-! ## Frames -/

/-- Every byte of memory, every full bit and every poison mark is as before. -/
def MemoryKept (s t : State) : Prop :=
  (∀ a, readByte t.mem a = readByte s.mem a) ∧ t.full = s.full ∧ t.bad = s.bad

/-- Every context but `k` is as before. -/
def OthersKept (s t : State) (k : Nat) : Prop := ∀ q, q ≠ k → ctxAt t q = ctxAt s q

/-- The cores (task tables, counters, matrix queues, service contexts) and the tiles are as before. -/
def CoresKept (s t : State) : Prop := (∀ n, coreAt t n = coreAt s n) ∧ ∀ n a, tileAt t n a = tileAt s n a

/-- What the jobs hold, the requests, the copies, the hand-overs and what else is under way are as before. -/
def WorkKept (s t : State) : Prop :=
  t.jobs = s.jobs ∧ t.reqs = s.reqs ∧ t.copies = s.copies ∧ t.handovers = s.handovers ∧ t.launches = s.launches ∧
  t.messages = s.messages ∧ t.updates = s.updates ∧ t.ghosts = s.ghosts ∧ t.prefetches = s.prefetches

/-- The host's side and the rest of the part are as before. -/
def PartKept (s t : State) : Prop :=
  t.queues = s.queues ∧ t.completions = s.completions ∧ t.images = s.images ∧ t.packets = s.packets ∧ t.log = s.log ∧
  t.portB = s.portB ∧ t.routes = s.routes ∧ t.columns = s.columns ∧ t.links = s.links ∧ t.health = s.health ∧ t.clock = s.clock

/-- Everything is as before but context `k` (and the model's own counters). -/
def OnlyContext (s t : State) (k : Nat) : Prop :=
  OthersKept s t k ∧ MemoryKept s t ∧ CoresKept s t ∧ WorkKept s t ∧ PartKept s t

/-! ## Results in flight (06 R114, 07 R148) -/

/-- The issuing context has one more result in flight, to land `lat` context cycles after its own cycle; but for a commit
mark (23 R404) nothing else has changed: no register, no flag, no special register, no byte of memory. -/
def Sends (i : Instr) (s t : State) (dest : Item) (lat : Nat) (value mask : VWord) (df : Bool) (flags : BitVec 6) : Prop :=
  ctxAt t s.cur.key = { ctxAt s s.cur.key with
    flights := (ctxAt s s.cur.key).flights ++ [⟨dest, value, mask, df, flags, (ctxAt s s.cur.key).ccyc + 1 + lat, s.nextId⟩]
    committed := (ctxAt s s.cur.key).committed || commits s s.cur.key i } ∧
  OnlyContext s t s.cur.key

/-- A scalar result of a value with its deferred-fault bit; toward s0 nothing is sent at all (07 R148). -/
def SendsScalar (i : Instr) (s t : State) (d lat : Nat) (v : Word) (df : Bool) : Prop :=
  if d = 0 then ctxAt t s.cur.key = ctxAt s s.cur.key ∧ OnlyContext s t s.cur.key
  else Sends i s t ⟨.scalar, d⟩ lat (v.setWidth 2048) (BitVec.allOnes 2048) df 0

/-- A predicate result that raises no flags; toward p0 nothing is sent at all (07 R148). -/
def SendsPred (i : Instr) (s t : State) (d lat : Nat) (v : BitVec 128) : Prop :=
  if d = 0 then ctxAt t s.cur.key = ctxAt s s.cur.key ∧ OnlyContext s t s.cur.key
  else Sends i s t ⟨.pred, d⟩ lat (v.setWidth 2048) (BitVec.allOnes 2048) false 0

/-- Where operation `i` issues, exec answers a next state in which a scalar result is on its way. -/
def GivesScalar (i : Instr) (p : Tag) (d lat : Nat) (v : State → Word) (df : State → Bool) : Prop :=
  ∀ s, Issues i p s → ∃ t, exec i s = .next t ∧ SendsScalar i s t d lat (v s) (df s)

/-- The same for a predicate result. -/
def GivesPred (i : Instr) (p : Tag) (d lat : Nat) (v : State → BitVec 128) : Prop :=
  ∀ s, Issues i p s → ∃ t, exec i s = .next t ∧ SendsPred i s t d lat (v s)

/-- Where operation `i` issues, one result toward vector register `d` is on its way: lanes of `w` bits, of which those that
`sel` selects are written, lane `j` with the first part of `f s j`, and the flags of the selected lanes together; the
deferred-fault bit is that of the sources. -/
def GivesLanes (i : Instr) (p : Tag) (d lat w : Nat) (sel : State → Nat → Bool) (f : State → Nat → Nat × BitVec 6) : Prop :=
  ∀ s, Issues i p s → ∃ t v, exec i s = .next t ∧
    Sends i s t ⟨.vector, d⟩ lat v (laneMask w (2048 / w) (sel s)) (sourceDf s i)
      (allFlags ((List.range (2048 / w)).map fun j => if sel s j then (f s j).2 else 0)) ∧
    ∀ j, j < 2048 / w → sel s j = true → laneOf w v j = (f s j).1 % 2 ^ w

/-- Where operation `i` issues, exec answers a next state with one result toward `dest` on its way. -/
def SendsResult (i : Instr) (p : Tag) (dest : Item) (lat : Nat) : Prop :=
  ∀ s, Issues i p s → ∃ t v mask df flags, exec i s = .next t ∧ Sends i s t dest lat v mask df flags

/-! ## Requests (06 R120-R122) -/

/-- One request more is outstanding, `r`, behind the stores of its context that a release sends from the gather buffer (14 R298);
but for a commit mark of the issuing context nothing else has changed. -/
def Requests (i : Instr) (s t : State) (r : Req) : Prop :=
  t.reqs = (emptied s r).reqs ++ [r] ∧
  ctxAt t s.cur.key = { ctxAt s s.cur.key with committed := (ctxAt s s.cur.key).committed || commits s s.cur.key i } ∧
  OthersKept s t s.cur.key ∧ MemoryKept s t ∧ CoresKept s t ∧ t.jobs = s.jobs ∧ t.copies = s.copies ∧ t.handovers = s.handovers ∧
  PartKept s t

/-- The request carries the operation, the address, the two scalar operands and the two vector operands that its context
read at issue, and belongs to the bundle now issuing. -/
def Carries (s : State) (r : Req) (i : Instr) (addr arg1 arg2 : Word) (vec1 vec2 : VWord) : Prop :=
  r.op = i ∧ r.id = s.nextId ∧ r.ctx = s.cur.key ∧ r.addr = addr ∧ r.arg1 = arg1 ∧ r.arg2 = arg2 ∧ r.vec1 = vec1 ∧ r.vec2 = vec2 ∧
  r.bundle = s.cur.h ∧ r.pos = s.cur.pos ∧ r.epoch = (ctxAt s s.cur.key).epoch ∧ r.found = none ∧ r.discard = false ∧ r.redirect = false

/-- Where operation `i` issues, it leaves as one request with these operands. -/
def GivesRequest (i : Instr) (p : Tag) (addr arg1 arg2 : State → Word) (vec1 vec2 : State → VWord) : Prop :=
  ∀ s, Issues i p s → ∃ t r, exec i s = .next t ∧ Requests i s t r ∧ Carries s r i (addr s) (arg1 s) (arg2 s) (vec1 s) (vec2 s)

/-! ## Loads and stores (10 R224-R229) -/

/-- The state in which an access of the own slice meets its fate: a store's as it issues; a load's as its bundle issued (00 R7). -/
def ownView (s : State) (write : Bool) : State := if write then s else asIssued s

/-- The `n` bytes at `x` lie wholly in the own slice, at physical address `pa`, and meet no fate of Table feed-2. -/
def OwnPlace (s : State) (x : Word) (n : Nat) (write : Bool) (pa : Nat) : Prop :=
  ∃ o, ownOffset s s.cur.key x n = some o ∧ pa = slicePhys (s.cur.key / 4) o ∧ physFate (ownView s write) pa x.toNat n n write = none

/-- The `n` bytes at `x` lie wholly in the own slice, and meet the fate `c` at address `a`. -/
def OwnFate (s : State) (x : Word) (n : Nat) (write : Bool) (c : Cause) (a : Word) : Prop :=
  ∃ o, ownOffset s s.cur.key x n = some o ∧ physFate (ownView s write) (slicePhys (s.cur.key / 4) o) x.toNat n n write = some (c, a)

/-- The job of core `n` has ended, and HEALTH says with which end code. -/
def EndsJob (s t : State) (n code : Nat) : Prop :=
  (∀ j, jobAt t ((coreAt s n).job.getD 0) = some j → j.status = .ended) ∧
  ∀ j, jobAt s ((coreAt s n).job.getD 0) = some j → j.status ≠ .ended → t.health.jerrCode = code

/-- A context has found a fault: if it waits it is READY for it, but a wait for its own FENCEH goes on (14 R304; log entry 36). -/
def foundBy (c : Ctx) : Ctx := if c.fence.isNone then wake c else c

/-- The issuing context has found one late fault more, of the bundle and the position now issuing; a context that waits is
READY for it; nothing else has changed, but for a commit mark. A UE in a task that carries the retried mark ends the job instead
(23 R405). -/
def FindsLate (i : Instr) (s t : State) (c : Cause) (a : Word) : Prop :=
  if c = .ue ∧ retriedTask s s.cur.key = true then EndsJob s t (s.cur.key / 4) 0x84
  else
    ctxAt t s.cur.key = foundBy { ctxAt s s.cur.key with
      late := (ctxAt s s.cur.key).late ++ [⟨c, 0, a, s.cur.h, s.cur.pos, true, (ctxAt s s.cur.key).epoch, s.nextId, none⟩]
      committed := (ctxAt s s.cur.key).committed || commits s s.cur.key i } ∧
    OnlyContext s t s.cur.key

/-- A load of `n` bytes into s[d]: of the own slice as it stands at the issue of the bundle, in 4 context cycles, `ext` of the little-endian number there; a fate is
a late fault; elsewhere it leaves as a request. -/
def LoadsScalar (i : Instr) (p : Tag) (d n : Nat) (addr : State → Word) (ext : Nat → Word) : Prop :=
  (∀ s pa, Issues i p s → OwnPlace s (addr s) n false pa →
    ∃ t, exec i s = .next t ∧ SendsScalar i s t d 4 (ext (readLE (asIssued s).mem pa n)) false) ∧
  (∀ s c a, Issues i p s → OwnFate s (addr s) n false c a → ∃ t, exec i s = .next t ∧ FindsLate i s t c a) ∧
  ∀ s, Issues i p s → ownOffset s s.cur.key (addr s) n = none →
    ∃ t r, exec i s = .next t ∧ Requests i s t r ∧ Carries s r i (addr s) 0 0 0 0

/-- A vector load, in the same three cases. -/
def LoadsVector (i : Instr) (p : Tag) (d : Nat) (addr : State → Word) : Prop :=
  (∀ s pa, Issues i p s → OwnPlace s (addr s) 256 false pa →
    ∃ t, exec i s = .next t ∧ Sends i s t ⟨.vector, d⟩ 4 (BitVec.ofNat 2048 (readLE (asIssued s).mem pa 256)) (BitVec.allOnes 2048) false 0) ∧
  (∀ s c a, Issues i p s → OwnFate s (addr s) 256 false c a → ∃ t, exec i s = .next t ∧ FindsLate i s t c a) ∧
  ∀ s, Issues i p s → ownOffset s s.cur.key (addr s) 256 = none →
    ∃ t r, exec i s = .next t ∧ Requests i s t r ∧ Carries s r i (addr s) 0 0 0 0

/-! ## Stores into the own slice (06 R117) -/

/-- The `n` bytes at physical address `pa` hold the low bytes of `v`; every other byte of memory, and but for a commit mark
everything else but poison marks that the write has healed, is as before. -/
def Stores (i : Instr) (s t : State) (pa n v : Nat) : Prop :=
  readLE t.mem pa n = v % 2 ^ (8 * n) ∧
  (∀ a, a < pa ∨ pa + n ≤ a → readByte t.mem a = readByte s.mem a) ∧
  ctxAt t s.cur.key = { ctxAt s s.cur.key with committed := (ctxAt s s.cur.key).committed || commits s s.cur.key i } ∧
  t.full = s.full ∧ t.bad = healed s.bad pa n ∧
  OthersKept s t s.cur.key ∧ CoresKept s t ∧ WorkKept s t ∧ PartKept s t

/-! ## Invariants -/

/-- Memory has its canonical form: rising addresses, no entry that says what an unlisted byte reads as. -/
def CanonicalMemory (s : State) : Prop := wfMemory s.mem = true

/-! ## Stores and engine commands -/

/-- The store leaves as one request with its bytes, and memory is as before. -/
def SendsStore (i : Instr) (s : State) (x : Word) (v : Nat) (status : ReqStatus) : Prop :=
  ∃ t r, exec i s = .next t ∧ Requests i s t r ∧ Carries s r i x 0 0 (BitVec.ofNat 2048 v) 0 ∧ r.status = status

/-- A store of the low `n` bytes of `v`: into the own slice at once, but as a request behind a synchronising access or a full/empty
load of its bundle that accesses those bytes (00 R7); a fate is a late fault and nothing is written; elsewhere it leaves as a request
that may be gathered. -/
def StoresOrSends (i : Instr) (p : Tag) (n : Nat) (addr : State → Word) (v : State → Nat) : Prop :=
  (∀ s pa, CanonicalMemory s → Issues i p s → OwnPlace s (addr s) n true pa → meetsLate s (addr s).toNat n = false →
    ∃ t, exec i s = .next t ∧ Stores i s t pa n (v s)) ∧
  (∀ s pa, Issues i p s → OwnPlace s (addr s) n true pa → meetsLate s (addr s).toNat n = true → SendsStore i s (addr s) (v s) .sent) ∧
  (∀ s c a, Issues i p s → OwnFate s (addr s) n true c a → ∃ t, exec i s = .next t ∧ FindsLate i s t c a) ∧
  ∀ s, Issues i p s → ownOffset s s.cur.key (addr s) n = none → SendsStore i s (addr s) (v s) .gathered

/-- One copy command more is outstanding, `c`; but for a commit mark of the issuing context nothing else has changed. -/
def AddsCopy (i : Instr) (s t : State) (c : Copy) : Prop :=
  t.copies = s.copies ++ [c] ∧
  ctxAt t s.cur.key = { ctxAt s s.cur.key with committed := (ctxAt s s.cur.key).committed || commits s s.cur.key i } ∧
  OthersKept s t s.cur.key ∧ MemoryKept s t ∧ CoresKept s t ∧ t.reqs = s.reqs ∧ t.handovers = s.handovers ∧ PartKept s t

/-- One matrix command more, `m`, is in the queue of the issuing context's core, and its tile is busy; every register, all of
memory and every other tile are as before. -/
def AddsCommand (i : Instr) (s t : State) (m : MatrixCmd) : Prop :=
  coreAt t (s.cur.key / 4) = { coreAt s (s.cur.key / 4) with queue := (coreAt s (s.cur.key / 4)).queue ++ [m] } ∧
  (∀ n, n ≠ s.cur.key / 4 → coreAt t n = coreAt s n) ∧
  (∀ n x, tileAt t n x = if 16 * n + x = 16 * (s.cur.key / 4) + m.tile then { tileAt s n x with busy := true } else tileAt s n x) ∧
  ctxAt t s.cur.key = { ctxAt s s.cur.key with committed := (ctxAt s s.cur.key).committed || commits s s.cur.key i } ∧
  OthersKept s t s.cur.key ∧ MemoryKept s t ∧ t.reqs = s.reqs ∧ t.copies = s.copies ∧ t.handovers = s.handovers ∧ PartKept s t

/-! ## Requests at their place (04 R73, R74, 13 R283-R285) -/

/-- Request `id` stands at its place in its turn and alone in its line: no hand-over holds it, and no route that it has come by is stale. -/
def AtItsPlace (s : State) (id : Nat) (r : Req) (j : Job) : Prop :=
  reqAt s id = some r ∧ jobOfCtx s r.ctx = some j ∧ r.status = .sent ∧ isMemoryReq r = true ∧ inTurn s j r = true ∧
  (lineOf s r).length ≤ 1 ∧ (∀ x ∈ reqTargets r, ∀ st, stackOf j x.1 = some st → handing s st 1 5 = false) ∧
  (∀ w ∈ r.ways, staleWay s j w = false) ∧ CanonicalMemory s

/-- REMOTE_ACCESS_PERFORM performs request `r`, with no effect on any context; it is answered with a value, of which, and of the state
after it, `P` holds; but a write that lies wholly in the own slice is over with that, for the own slice sends no acknowledgement (10 R226). -/
def PerformsAs (s : State) (r : Req) (P : State → VWord → Prop) : Prop :=
  ∃ t v, exec (.remoteAccessPerform (.request r.id)) s = .next t ∧ t.ctxs = s.ctxs ∧ P t v ∧
    if hasResult r.op = false ∧ (∀ x ∈ reqTargets r, ownTarget s r x = true) then reqAt t r.id = none
    else ∃ q, reqAt t r.id = some q ∧ q.status = .performed ∧ q.value = v

/-- From memory `m` to memory `m'` nothing changes but the `n` bytes at `pa`. -/
def OnlyBytes (m m' : List Host.Cell) (pa n : Nat) : Prop := ∀ x, x < pa ∨ pa + n ≤ x → readByte m' x = readByte m x

/-! ## The sums of the matrix engine (08 R183-R185) -/

/-- The number that a finite value stands for. -/
def Val.toRat : Val → ℚ
  | .fin neg m e => (if neg then -1 else 1) * m * (2 : ℚ) ^ e
  | _ => 0
def Val.isFinite : Val → Bool | .fin _ _ _ => true | _ => false
def Val.isInf : Val → Bool | .inf _ => true | _ => false
def Val.isZero : Val → Bool | .fin _ m _ => m == 0 | _ => false

/-- A product of an infinity and a zero. -/
def noProduct (x : Val × Val) : Bool := (x.1.isInf && x.2.isZero) || (x.1.isZero && x.2.isInf)
/-- The sign of a product. -/
def productNeg (x : Val × Val) : Bool := x.1.isNeg != x.2.isNeg

/-- `w`, with flags `fl`, is what an FP32 accumulator `old` becomes by a step whose sum has the factor `scale` and the products `l`: the
exact products, the exact sum, one rounding, and the rules of R183 for zeros, infinities and NaNs; `extra` are flags of the operands
themselves. -/
def StepWord (old : BitVec 32) (scale : Val) (l : List (Val × Val)) (extra : Flags) (w : BitVec 32) (fl : Flags) : Prop :=
  let acc := decodeFmt fp32 old.toNat
  let canonical : BitVec 32 := 0x7FC00000
  (acc.isFinite = true → scale.isFinite = true → (∀ x ∈ l, x.1.isFinite = true ∧ x.2.isFinite = true) →
    ∃ sum : Val, ∃ z n e, sum.toRat = (l.map fun x => x.1.toRat * x.2.toRat).sum ∧ (sum.isZero = true → sum.isNeg = l.all productNeg) ∧
      (Val.fin z n e).toRat = acc.toRat + scale.toRat * sum.toRat ∧ (n = 0 → z = (acc.isNeg && (scale.isNeg != sum.isNeg))) ∧
      w.toNat = (encodeFmt fp32 (.fin z n e) false false).1 ∧ fl = (encodeFmt fp32 (.fin z n e) false false).2 ||| extra) ∧
  (acc.isNan = true ∨ scale.isNan = true ∨ (∃ x ∈ l, x.1.isNan = true ∨ x.2.isNan = true) → w = canonical) ∧
  ((∃ x ∈ l, noProduct x = true) ∨ acc.isSnan = true ∨ (∃ x ∈ l, x.1.isSnan = true ∨ x.2.isSnan = true) →
    w = canonical ∧ fl.getLsbD 0 = true) ∧
  ((∀ x ∈ l, x.1.isNan = false ∧ x.2.isNan = false ∧ noProduct x = false) →
    let infinite := fun neg => ∃ x ∈ l, (x.1.isInf = true ∨ x.2.isInf = true) ∧ productNeg x = neg
    (infinite true → infinite false → w = canonical ∧ fl.getLsbD 0 = true) ∧
    (∀ neg, infinite neg → ¬infinite (!neg) → acc.isNan = false → scale.isFinite = true → scale.isZero = false →
      let b := neg != scale.isNeg
      if acc = .inf !b then w = canonical ∧ fl.getLsbD 0 = true else w = if b then 0xFF800000 else 0x7F800000))

/-- The `n` bytes from address `a` on, which a job reads, make the little-endian number `v`. -/
def RowReads (s : State) (j : Job) (a n v : Nat) : Prop :=
  ∀ t, t < n → ∃ pa, translate j ((a + t) % 2 ^ 64) false = .ok pa ∧ v / 2 ^ (8 * t) % 256 = (readByte s.mem pa).toNat

/-! ## Commands of the host (03 R49-R54) -/

/-- The chain at the head of queue `q` may be taken, is long enough, is a well-formed command of the kind, and the part is
ready. -/
def Accepted (k : CommandKind) (q : Nat) (c : Chain) (s : State) : Prop :=
  nextChain s q = some c ∧ commandKind c = some k ∧ tooShort s c = false ∧ s.health.ready = true ∧ commandOk c = true

/-- The completion of the chain `c` of queue `q`: its tag, a status, a job and a result. -/
def completionOf (q : Nat) (c : Chain) (status job : Nat) (result : List Byte) : Completion :=
  ⟨q, BitVec.ofNat 64 (bits c.cmd 127 64), BitVec.ofNat 16 status, BitVec.ofNat 32 job, result, 16 + result.length⟩

/-- One completion more, of that chain. -/
def Completes (s t : State) (q : Nat) (c : Chain) (status job : Nat) (result : List Byte) : Prop :=
  t.completions = s.completions ++ [completionOf q c status job result]

/-- The command names a resident job of its own queue in a state. -/
def NamesJob (q : Nat) (c : Chain) (s : State) (j : Job) (x : JobStatus) : Prop :=
  resident s (cf c 4 4) = some j ∧ j.queue = q ∧ j.status = x

end Sys2Proof.Machine
end

