-- ==== Sys2Proof/Certificates/Slice0/Obligations.lean ====
section
/-! DEFINITION. The statements for the provers, in the terms of Sys2Proof/Safety.lean. An operation that issues is one that
executes under its path tag and whose bundle has passed its checks (`Issues`). -/

open Sys2Proof Sys2Proof.Machine

/-! ## Scalar results (07 R148-R163) -/

/-- R152, R149: each ALU operation sends its function of s[a] and s[b] to s[d], which lands 1 context cycle later (3 for the
multiplies), with the OR of the sources' deferred-fault bits; nothing else changes, and toward s0 nothing is sent. CLZ and CTZ give 64
for zero, and BSWAP reverses the bytes. -/
def Obligations.AluResults : Prop :=
  ∀ (d a b : SReg) (p : Tag),
    let df := fun s => deferS s a || deferS s b
    GivesScalar (.add d a b p) p d 1 (fun s => readS s a + readS s b) df ∧
    GivesScalar (.sub d a b p) p d 1 (fun s => readS s a - readS s b) df ∧
    GivesScalar (.and d a b p) p d 1 (fun s => readS s a &&& readS s b) df ∧
    GivesScalar (.or d a b p) p d 1 (fun s => readS s a ||| readS s b) df ∧
    GivesScalar (.xor d a b p) p d 1 (fun s => readS s a ^^^ readS s b) df ∧
    GivesScalar (.andn d a b p) p d 1 (fun s => readS s a &&& ~~~readS s b) df ∧
    GivesScalar (.shl d a b p) p d 1 (fun s => readS s a <<< ((readS s b).toNat % 64)) df ∧
    GivesScalar (.shr d a b p) p d 1 (fun s => readS s a >>> ((readS s b).toNat % 64)) df ∧
    GivesScalar (.sra d a b p) p d 1 (fun s => (readS s a).sshiftRight ((readS s b).toNat % 64)) df ∧
    GivesScalar (.rol d a b p) p d 1 (fun s => (readS s a).rotateLeft ((readS s b).toNat % 64)) df ∧
    GivesScalar (.min d a b p) p d 1 (fun s => if (readS s a).toInt < (readS s b).toInt then readS s a else readS s b) df ∧
    GivesScalar (.max d a b p) p d 1 (fun s => if (readS s a).toInt < (readS s b).toInt then readS s b else readS s a) df ∧
    GivesScalar (.minn d a b p) p d 1 (fun s => if (readS s a).toNat < (readS s b).toNat then readS s a else readS s b) df ∧
    GivesScalar (.maxn d a b p) p d 1 (fun s => if (readS s a).toNat < (readS s b).toNat then readS s b else readS s a) df ∧
    GivesScalar (.addw d a b p) p d 1 (fun s => ((readS s a + readS s b).setWidth 32).signExtend 64) df ∧
    GivesScalar (.subw d a b p) p d 1 (fun s => ((readS s a - readS s b).setWidth 32).signExtend 64) df ∧
    GivesScalar (.mul d a b p) p d 3 (fun s => BitVec.ofInt 64 ((readS s a).toInt * (readS s b).toInt)) df ∧
    GivesScalar (.mulh d a b p) p d 3 (fun s => BitVec.ofInt 64 ((readS s a).toInt * (readS s b).toInt / 2 ^ 64)) df ∧
    GivesScalar (.mulhn d a b p) p d 3 (fun s => BitVec.ofNat 64 ((readS s a).toNat * (readS s b).toNat / 2 ^ 64)) df ∧
    GivesScalar (.clz d a p) p d 1
      (fun s => BitVec.ofNat 64 (if readS s a = 0 then 64 else 63 - Nat.log2 (readS s a).toNat)) (fun s => deferS s a) ∧
    GivesScalar (.ctz d a p) p d 1
      (fun s => BitVec.ofNat 64 (if readS s a = 0 then 64 else padicValNat 2 (readS s a).toNat)) (fun s => deferS s a) ∧
    GivesScalar (.popc d a p) p d 1
      (fun s => BitVec.ofNat 64 ((List.range 64).countP fun i => (readS s a).getLsbD i)) (fun s => deferS s a) ∧
    (∀ s, Issues (.bswap d a p) p s → ∃ t v, exec (.bswap d a p) s = .next t ∧
      SendsScalar (.bswap d a p) s t d 1 v (deferS s a) ∧
      ∀ i, i < 8 → v.extractLsb' (8 * i) 8 = (readS s a).extractLsb' (8 * (7 - i)) 8)

/-- R161: PCOUNT counts the bits of a predicate.

R154-R156, R162: the immediate forms, short and long, the constant shifts, LDI, LDHI and SELS. -/
def Obligations.CountsAndImmediates : Prop :=
  (∀ (e : Fin 128) (q : PReg) (p : Tag), GivesScalar (.pcount e q p) p e 1
       (fun s => BitVec.ofNat 64 ((List.range 128).countP fun i => (readP s q).getLsbD i)) (fun _ => false)) ∧
  (∀ (d a b : SReg) (p : Tag) (i : BitVec 11) (m : BitVec 32) (n : Fin 64) (g : Fin 32),
     let df := fun s => deferS s a
     GivesScalar (.addi d a i p) p d 1 (fun s => readS s a + i.signExtend 64) df ∧
     GivesScalar (.andi d a i p) p d 1 (fun s => readS s a &&& i.signExtend 64) df ∧
     GivesScalar (.ori d a i p) p d 1 (fun s => readS s a ||| i.signExtend 64) df ∧
     GivesScalar (.xori d a i p) p d 1 (fun s => readS s a ^^^ i.signExtend 64) df ∧
     GivesScalar (.addiLong d a p m) p d 1 (fun s => readS s a + m.signExtend 64) df ∧
     GivesScalar (.andiLong d a p m) p d 1 (fun s => readS s a &&& m.signExtend 64) df ∧
     GivesScalar (.oriLong d a p m) p d 1 (fun s => readS s a ||| m.signExtend 64) df ∧
     GivesScalar (.xoriLong d a p m) p d 1 (fun s => readS s a ^^^ m.signExtend 64) df ∧
     GivesScalar (.shli d a n p) p d 1 (fun s => readS s a <<< n.val) df ∧
     GivesScalar (.shri d a n p) p d 1 (fun s => readS s a >>> n.val) df ∧
     GivesScalar (.srai d a n p) p d 1 (fun s => (readS s a).sshiftRight n.val) df ∧
     GivesScalar (.roli d a n p) p d 1 (fun s => (readS s a).rotateLeft n.val) df ∧
     GivesScalar (.ldi d i p) p d 1 (fun _ => i.signExtend 64) (fun _ => false) ∧
     GivesScalar (.ldiLong d p m) p d 1 (fun _ => m.signExtend 64) (fun _ => false) ∧
     GivesScalar (.ldhi d a p m) p d 1 (fun s => m ++ (readS s a).setWidth 32) df ∧
     GivesScalar (.sels d a b g p) p d 1
       (fun s => if (readP s g).getLsbD 0 then readS s a else readS s b)
       (fun s => if (readP s g).getLsbD 0 then deferS s a else deferS s b))

/-- R163, R164, Table scalar-5: what MFS reads from each special register of the issuing context, and what MTS sends. -/
def Obligations.SpecialRegisterReads : Prop :=
  ∀ (d a : SReg) (p : Tag),
    let reads := fun (n : Fin 2048) (v : State → Word) => GivesScalar (.mfs d n p) p d 1 v fun _ => false
    reads 0 (fun s => BitVec.ofNat 64 (4 * (coreAt s (s.cur.key / 4)).logical + s.cur.key % 4)) ∧
    reads 1 (fun s => BitVec.ofNat 64 ((coreAt s (s.cur.key / 4)).job.getD 0)) ∧
    reads 2 (fun s => BitVec.ofNat 64 (s.clock * 4 / 9)) ∧
    reads 3 (fun s => BitVec.ofNat 64 ((ctxAt s s.cur.key).ccyc + 1)) ∧
    reads 4 (fun s =>
      let c := columnAt s (coreDie (s.cur.key / 4)) (coreCol (s.cur.key / 4))
      BitVec.ofNat 64 (c.temp.toNat + if c.half then 2 ^ 16 else 0)) ∧
    reads 5 (fun s => (ctxAt s s.cur.key).fpstat.setWidth 64) ∧
    reads 6 (fun s => (ctxAt s s.cur.key).tvec) ∧
    reads 7 (fun s => (ctxAt s s.cur.key).evec) ∧
    reads 8 (fun s => (ctxAt s s.cur.key).emask.setWidth 64) ∧
    reads 9 (fun s => (ctxAt s s.cur.key).epend.setWidth 64) ∧
    reads 10 (fun s => BitVec.ofNat 64 (15 * 2 ^ 48 + (coreAt s (s.cur.key / 4)).logical * 2 ^ 22 +
      (ctxAt s s.cur.key).tfbOff.toNat * 2 ^ 14)) ∧
    reads 11 (fun s => (ctxAt s s.cur.key).tcause.setWidth 64) ∧
    reads 12 (fun s => (ctxAt s s.cur.key).taddr) ∧
    reads 13 (fun s => BitVec.ofNat 64 (match (ctxAt s s.cur.key).timerAt with
      | none => 0
      | some at' => if (ctxAt s s.cur.key).frozen then at' else at' - timeNow s)) ∧
    reads 14 (fun s => BitVec.ofNat 64 (ctxAt s s.cur.key).loops.length) ∧
    reads 15 (fun s => (coreAt s (s.cur.key / 4)).fails.setWidth 64) ∧
    ∀ n : Fin 2048, ∀ s, Issues (.mts a n p) p s → ∃ t, exec (.mts a n p) s = .next t ∧
      Sends (.mts a n p) s t ⟨.special, n⟩ 1 ((readS s a).setWidth 2048) (BitVec.allOnes 2048) false 0

/-! ## Predicates (07 R157-R160) -/

/-- R157-R160: compares write all 128 bits; CMP_AND ANDs into the destination; PLOG, PUN and PFROMS. -/
def Obligations.PredicateResults : Prop :=
  ∀ (d x y : PReg) (a b : SReg) (p : Tag) (i : BitVec 7) (m : BitVec 32) (c : Fin 8), c.val < 6 →
    let holds := fun (x y : Word) => match c.val with
      | 0 => decide (x = y)
      | 1 => decide (x ≠ y)
      | 2 => decide (x.toInt < y.toInt)
      | 3 => decide (x.toInt ≤ y.toInt)
      | 4 => decide (x.toNat < y.toNat)
      | _ => decide (x.toNat ≤ y.toNat)
    let all := fun t : Bool => if t then BitVec.allOnes 128 else 0
    let gives := fun (i : Instr) (v : State → BitVec 128) => GivesPred i p d 1 v
    gives (.cmp d a b c p) (fun s => all (holds (readS s a) (readS s b))) ∧
    gives (.cmpAnd d a b c p) (fun s => readP s d &&& all (holds (readS s a) (readS s b))) ∧
    gives (.cmpi d a c i p) (fun s => all (holds (readS s a) (i.signExtend 64))) ∧
    gives (.cmpiLong d a c p m) (fun s => all (holds (readS s a) (m.signExtend 64))) ∧
    gives (.pand d x y p) (fun s => readP s x &&& readP s y) ∧
    gives (.por d x y p) (fun s => readP s x ||| readP s y) ∧
    gives (.pxor d x y p) (fun s => readP s x ^^^ readP s y) ∧
    gives (.pandn d x y p) (fun s => readP s x &&& ~~~readP s y) ∧
    gives (.pnot d x p) (fun s => ~~~readP s x) ∧
    gives (.pset d p) (fun _ => BitVec.allOnes 128) ∧
    gives (.pclr d p) (fun _ => 0) ∧
    gives (.pfroms d a b p) (fun s => readS s b ++ readS s a) ∧
    ∀ s, Issues (.pfirst d x p) p s → ∃ t v, exec (.pfirst d x p) s = .next t ∧ SendsPred (.pfirst d x p) s t d 1 v ∧
      ∀ i, i < 128 → (v.getLsbD i = true ↔ (readP s x).getLsbD i = true ∧ ∀ j, j < i → (readP s x).getLsbD j = false)

/-! ## Vector lanes (09 R191-R206) -/

/-- R192-R196: lane-wise arithmetic on the guarded lanes: in the S32 type modulo 2^32, in the float types the exact result of
IEEE 754 rounded once, with its flags; 2 context cycles in S32, else 4. -/
def Obligations.LaneArithmetic : Prop :=
  ∀ (d a b : VReg) (t : Fin 4) (g : Fin 8) (p : Tag),
    let lat := if t.val = 3 then 2 else 4
    let F := laneFmt t
    let x := fun s j => laneOf (laneWidth t) (readV s a) j
    let y := fun s j => laneOf (laneWidth t) (readV s b) j
    let z := fun s j => laneOf (laneWidth t) (readV s d) j
    let val := fun n => decodeFmt F n
    let gives := fun (i : Instr) (whole : State → Nat → Nat) (float : State → Nat → Nat × Flags) =>
      GivesLanes i p d lat (laneWidth t) (fun s => selected (laneWidth t) (readP s g))
        fun s j => if t.val = 3 then (whole s j, 0) else float s j
    let fused := fun (negProduct negZ : Bool) (s : State) (j : Nat) =>
      let m := Val.mul (val (x s j)) (val (y s j))
      let sum := Val.add (if negZ then (val (z s j)).neg else val (z s j)) (if negProduct then m.1.neg else m.1)
      roundTo F (sum.1, m.2 ||| sum.2)
    gives (.vadd d a b t g p) (fun s j => (x s j + y s j) % 2 ^ 32) (fun s j => roundTo F (Val.add (val (x s j)) (val (y s j)))) ∧
    gives (.vsub d a b t g p) (fun s j => (x s j + (2 ^ 32 - y s j)) % 2 ^ 32)
      (fun s j => roundTo F (Val.add (val (x s j)) (val (y s j)).neg)) ∧
    gives (.vmul d a b t g p) (fun s j => x s j * y s j % 2 ^ 32) (fun s j => roundTo F (Val.mul (val (x s j)) (val (y s j)))) ∧
    gives (.vmin d a b t g p) (fun s j => if signed 32 (y s j) < signed 32 (x s j) then y s j else x s j)
      (fun s j => roundTo F (fmin (val (x s j)) (val (y s j)), flagIf ((val (x s j)).isSnan || (val (y s j)).isSnan) flagNV)) ∧
    gives (.vmax d a b t g p) (fun s j => if signed 32 (x s j) < signed 32 (y s j) then y s j else x s j)
      (fun s j => roundTo F (fmax (val (x s j)) (val (y s j)), flagIf ((val (x s j)).isSnan || (val (y s j)).isSnan) flagNV)) ∧
    gives (.vabs d a t g p) (fun s j => unsigned 32 (signed 32 (x s j)).natAbs)
      (fun s j => if (val (x s j)).isNan then (F.canonical, flagIf (val (x s j)).isSnan flagNV)
        else (x s j % 2 ^ (laneWidth t - 1), 0)) ∧
    gives (.vneg d a t g p) (fun s j => unsigned 32 (-signed 32 (x s j)))
      (fun s j => if (val (x s j)).isNan then (F.canonical, flagIf (val (x s j)).isSnan flagNV)
        else ((x s j + 2 ^ (laneWidth t - 1)) % 2 ^ laneWidth t, 0)) ∧
    (t.val ≠ 3 →
      gives (.vfma d a b t g p) (fun _ _ => 0) (fused false false) ∧
      gives (.vfms d a b t g p) (fun _ _ => 0) (fused true false) ∧
      gives (.vfnma d a b t g p) (fun _ _ => 0) (fused false true))

/-- R198, R199, R202-R205: lane-wise logic, shifts by the low bits of a lane, VSEL, VINS, VPERM, VSLIDE and VIOTA. -/
def Obligations.LaneLogicAndMoves : Prop :=
  ∀ (d a b : VReg) (k m : SReg) (t : Fin 4) (g : Fin 8) (p : Tag),
    let W := laneWidth t
    let x := fun s j => laneOf W (readV s a) j
    let y := fun s j => laneOf W (readV s b) j
    let sel := fun s => selected W (readP s g)
    let gives := fun (i : Instr) (lat : Nat) (f : State → Nat → Nat) => GivesLanes i p d lat W sel fun s j => (f s j, 0)
    gives (.vand d a b t g p) 2 (fun s j => x s j &&& y s j) ∧
    gives (.vor d a b t g p) 2 (fun s j => x s j ||| y s j) ∧
    gives (.vxor d a b t g p) 2 (fun s j => x s j ^^^ y s j) ∧
    gives (.vshl d a b t g p) 2 (fun s j => x s j * 2 ^ (y s j % W)) ∧
    gives (.vshr d a b t g p) 2 (fun s j => x s j / 2 ^ (y s j % W)) ∧
    gives (.vsra d a b t g p) 2 (fun s j => unsigned W (signed W (x s j) / 2 ^ (y s j % W))) ∧
    GivesLanes (.vsel d a b t g p) p d 2 W (fun _ _ => true) (fun s j => (if sel s j then x s j else y s j, 0)) ∧
    GivesLanes (.vins d k m t p) p d 2 W (fun s j => j == (readS s m).toNat % (2048 / W)) (fun s _ => ((readS s k).toNat, 0)) ∧
    gives (.vperm d a b t g p) 4 (fun s j => x s (y s j % (2048 / W))) ∧
    gives (.vslide d a k t g p) 2 (fun s j =>
      let o := (readS s k).toInt + j
      if 0 ≤ o ∧ o < (2048 / W : Nat) then x s o.toNat else 0) ∧
    gives (.viota d t g p) 2 (fun _ j => if t.val = 3 then j else (encodeFmt (laneFmt t) (ofInt j) false false).1)

/-- R200: the scalar-operand forms use the low bits of s[b], the long forms those of the immediate, as the second operand of
every lane; VBCAST copies them. -/
def Obligations.LaneScalarOperands : Prop :=
  ∀ (d a : VReg) (k : SReg) (t : Fin 4) (g : Fin 8) (p : Tag) (m : BitVec 32),
    let W := laneWidth t
    let F := laneFmt t
    let lat := if t.val = 3 then 2 else 4
    let x := fun s j => laneOf W (readV s a) j
    let z := fun s j => laneOf W (readV s d) j
    let val := fun n => decodeFmt F n
    let gives := fun (i : Instr) (lat : Nat) (f : State → Nat → Nat × Flags) =>
      GivesLanes i p d lat W (fun s => selected W (readP s g)) f
    let sum := fun (y : Nat) (s : State) (j : Nat) =>
      if t.val = 3 then ((x s j + y) % 2 ^ 32, 0) else roundTo F (Val.add (val (x s j)) (val y))
    let product := fun (y : Nat) (s : State) (j : Nat) =>
      if t.val = 3 then (x s j * y % 2 ^ 32, 0) else roundTo F (Val.mul (val (x s j)) (val y))
    let fused := fun (y : Nat) (s : State) (j : Nat) =>
      let q := Val.mul (val (x s j)) (val y)
      let r := Val.add (val (z s j)) q.1
      roundTo F (r.1, q.2 ||| r.2)
    let low := fun s : State => (readS s k).toNat % 2 ^ W
    let imm := m.toNat % 2 ^ W
    gives (.vadds d a k t g p) lat (fun s => sum (low s) s) ∧
    gives (.vmuls d a k t g p) lat (fun s => product (low s) s) ∧
    gives (.vbcast d k t g p) 2 (fun s _ => (low s, 0)) ∧
    gives (.vaddsLong d a t g p m) lat (fun s => sum imm s) ∧
    gives (.vmulsLong d a t g p m) lat (fun s => product imm s) ∧
    gives (.vbcastLong d t g p m) 2 (fun _ _ => (imm, 0)) ∧
    (t.val ≠ 3 → gives (.vfmas d a k t g p) lat (fun s => fused (low s) s) ∧
      gives (.vfmasLong d a t g p m) lat (fun s => fused imm s))

/-- R197, R201, R206: VCMP sets the bits of each lane together and raises NV; VEXT gives one lane, extended by its type; VCVT
converts lane by lane, and writes zero to the lanes a narrowing has no source for. -/
def Obligations.LaneCompareExtractConvert : Prop :=
  ∀ (d : PReg) (e : SReg) (v a b : VReg) (k : SReg) (t u c : Fin 4) (g : Fin 8) (p : Tag),
    let W := laneWidth t
    let x := fun s j => laneOf W (readV s a) j
    let y := fun s j => laneOf W (readV s b) j
    let val := fun n => decodeFmt (laneFmt t) n
    let holds := fun (s : State) (j : Nat) =>
      if t.val = 3 then
        match c.val with
        | 0 => decide (x s j = y s j)
        | 1 => decide (x s j ≠ y s j)
        | 2 => decide (signed 32 (x s j) < signed 32 (y s j))
        | _ => decide (signed 32 (x s j) ≤ signed 32 (y s j))
      else
        match c.val with
        | 0 => Val.eq (val (x s j)) (val (y s j))
        | 1 => !Val.eq (val (x s j)) (val (y s j))
        | 2 => Val.lt (val (x s j)) (val (y s j))
        | _ => Val.le (val (x s j)) (val (y s j))
    let nv := fun (s : State) (j : Nat) =>
      t.val ≠ 3 ∧ (if c.val < 2 then (val (x s j)).isSnan || (val (y s j)).isSnan
        else (val (x s j)).isNan || (val (y s j)).isNan) = true
    (∀ s, Issues (.vcmp d a b t c p) p s → ∃ (t' : State) (r : BitVec 128) (fl : Flags), exec (.vcmp d a b t c p) s = .next t' ∧
      Sends (.vcmp d a b t c p) s t' ⟨.pred, d⟩ 2 (r.setWidth 2048) (BitVec.allOnes 2048) false fl ∧
      (∀ i, i < 128 → r.getLsbD i = holds s (i / (W / 16))) ∧
      (fl = 0 ∨ fl = flagNV) ∧ (fl = flagNV ↔ ∃ j, j < 2048 / W ∧ nv s j)) ∧
    GivesScalar (.vext e a k t p) p e 2
      (fun s =>
        let l := x s ((readS s k).toNat % (2048 / W))
        if t.val = 3 then (BitVec.ofNat 32 l).signExtend 64 else BitVec.ofNat 64 l)
      (fun s => deferV s a || deferS s k) ∧
    GivesLanes (.vcvt v a t u g p) p v 4 (laneWidth u) (fun s => selected (laneWidth u) (readP s g)) (fun s j =>
      if j < 2048 / W then
        let n := if t.val = 3 then ofInt (signed 32 (x s j)) else val (x s j)
        if u.val = 3 then toInt 32 n false else encodeFmt (laneFmt u) n false false
      else (0, 0))

/-! ## Packing and scales (09 R207-R216) -/

/-- R210, R212-R215: KUNP and KUNPQ widen the elements of a part, one for each lane; QPK and QPKQ narrow lanes into a part of
a packed run and leave its other bits; QAMAX writes one block scale for each lane and the super-scale of its source. -/
def Obligations.PackedResults : Prop :=
  ∀ (d a : VReg) (e : CReg) (f : Fin 8) (r t n u : Fin 4) (c : Fin 16) (p : Tag), f.val < 6 → f.val ≠ 3 →
    let W := laneWidth t
    let N := 2048 / W
    let width := match f.val with | 2 => 6 | 5 => 4 | _ => 8
    let x := fun s j => laneOf W (readV s a) j
    let s8 := fun (s : State) (k : Nat) => bits (scVal (ctxAt s s.cur.key) c).bs (8 * (k % 128) + 7) (8 * (k % 128))
    let big := fun s : State => decodeFmt fp32 (scVal (ctxAt s s.cur.key) c).ss.toNat
    let narrows := fun (i : Instr) (w : Nat) (g : State → Nat → Nat × Flags) =>
      ∀ s, Issues i p s → ∃ t' v m, exec i s = .next t' ∧
        Sends i s t' ⟨.vector, d⟩ 3 v m (sourceDf s i) (allFlags ((List.range N).map fun j => (g s j).2)) ∧
        (∀ k, k < 2048 → m.getLsbD k = decide (w * (r.val * N) ≤ k ∧ k < w * ((r.val + 1) * N))) ∧
        ∀ j, j < N → laneOf w v (r.val * N + j) = (g s j).1 % 2 ^ w
    GivesLanes (.kunp d a f r t p) p d 2 W (fun _ _ => true) (fun s j =>
      let v := packedVal f (laneOf width (readV s a) (r.val * N + j))
      if t.val = 3 then toInt 32 v false else encodeFmt (laneFmt t) v false false) ∧
    GivesLanes (.kunpq d a r t c p) p d 3 W (fun _ _ => true) (fun s j =>
      roundTo (laneFmt t) (q4nValue (laneOf 4 (readV s a) (r.val * N + j)) (s8 s (r.val * N + j)) (big s))) ∧
    (width * ((r.val + 1) * N) ≤ 2048 → narrows (.qpk d a f r t n u p) width fun s j =>
      packVal f (if t.val = 3 then ofInt (signed 32 (x s j)) else decodeFmt (laneFmt t) (x s j)) (n.val == 1) (u.val == 1)) ∧
    (4 * ((r.val + 1) * N) ≤ 2048 → narrows (.qpkq d a r t c p) 4 fun s j =>
      q4nEncode (decodeFmt (laneFmt t) (x s j)) (s8 s (r.val * N + j)) (big s)) ∧
    ∀ s, Issues (.qamax e a r t c p) p s → ∃ t' v m, exec (.qamax e a r t c p) s = .next t' ∧
      Sends (.qamax e a r t c p) s t' ⟨.scale, e⟩ 3 v m false
        (allFlags ((List.range N).map fun j => (qamaxOne (decodeFmt (laneFmt t) (x s j)) (big s)).2)) ∧
      (∀ k, k < 2048 → m.getLsbD k = decide ((8 * (r.val * N % 128) ≤ k ∧ k < 8 * (r.val * N % 128 + N)) ∨ (1024 ≤ k ∧ k < 1056))) ∧
      (∀ j, j < N → laneOf 8 v (r.val * N % 128 + j) = (qamaxOne (decodeFmt (laneFmt t) (x s j)) (big s)).1 % 2 ^ 8) ∧
      bits v 1055 1024 = (scVal (ctxAt s s.cur.key) c).ss.toNat

/-! ## Special functions and reductions (09 R217, R218) -/

/-- R217, Table vector-4: each special function works on the guarded lanes alone and lands after 8 context cycles, with the flags of its
lanes together: at a NaN, an infinity, a zero and every other exact case of its row (FRCP, FRSQ and FLOG2 at powers of two, FEXP2 at integers
and out of range, FSIN and FCOS at quarter turns, in FP32 FTANH at its limits) the row's result with its
flags, rounded once into the lane's type; FSQRT one rounding of the root, exact or held between neighbours of 64 bits and more; where the model's bracketing of the function (`frcp` and the rest) has the exact result, that
result; elsewhere, with NX, one of the FP32 numbers within 2 units in the last place of the exact one, at most six of them, rounded into
the lane's type. Which of them it is stays open (log entry 7). -/
def Obligations.SpecialFunctionLanes : Prop :=
  ∀ (d a : VReg) (t : Fin 4) (g : Fin 8) (p : Tag), t.val ≠ 3 →
    let W := laneWidth t
    let N := 2048 / W
    let F := laneFmt t
    let sel := fun s : State => selected W (readP s g)
    let code := fun r : Val => (encodeFmt F r false false).1 % 2 ^ W
    let gives := fun (i : Instr) (f : Val → Fun) (row : Val → Option (Val × Flags)) => ∀ s, Issues i p s →
      ∃ (t' : State) (v : VWord) (h : Nat → Flags), exec i s = .next t' ∧
      Sends i s t' ⟨.vector, d⟩ 8 v (laneMask W N (sel s)) (sourceDf s i)
        (allFlags ((List.range N).map fun j => if sel s j then h j else 0)) ∧
      ∀ j, j < N → sel s j = true →
        let z := decodeFmt F (laneOf W (readV s a) j)
        (∀ r fl, row z = some (r, fl) → laneOf W v j = code r ∧ h j = fl ||| (encodeFmt F r false false).2) ∧
        (∀ r fl, f z = .exact r fl → laneOf W v j = code r ∧ h j &&& fl = fl ∧ (fl ≠ flagNX → h j = fl ||| (encodeFmt F r false false).2)) ∧
        ∀ neg m e, f z = .near neg m e → h j &&& flagNX = flagNX ∧ ∃ o, o < 6 ∧
          let n := decodeFmt fp32 (nearCode m e o)
          laneOf W v j = code (if neg then n.neg else n)
    let invalid : Option (Val × Flags) := some (.nan false, flagNV)
    let zero : Val := .fin false 0 0
    let one : Val := .fin false 1 0
    let quiet := fun signalling : Bool => (some (.nan false, if signalling then flagNV else 0) : Option (Val × Flags))
    let power := fun (m : Nat) => decide (m = 2 ^ Nat.log2 m)
    let rat := fun b m e => (Val.fin b m e).toRat
    gives (.frcp d a t g p) frcp (fun z => match z with
      | .nan b => quiet b
      | .inf b => some (.fin b 0 0, 0)
      | .fin b m e => if m = 0 then some (.inf b, flagDZ) else if power m then some (.fin b 1 (-(Nat.log2 m + e)), 0) else none) ∧
    gives (.frsq d a t g p) frsq (fun z => match z with
      | .nan b => quiet b
      | .inf b => if b then invalid else some (zero, 0)
      | .fin b m e => if m = 0 then some (.inf b, flagDZ) else if b then invalid
          else if power m && (Nat.log2 m + e) % 2 == 0 then some (.fin false 1 (-((Nat.log2 m + e) / 2)), 0) else none) ∧
    gives (.fsqrt d a t g p) fsqrt (fun z => match z with
      | .nan b => quiet b
      | .inf b => if b then invalid else some (.inf false, 0)
      | .fin b m _ => if m = 0 then some (.fin b 0 0, 0) else if b then invalid else none) ∧
    (∀ m e, m ≠ 0 → (∃ r, fsqrt (.fin false m e) = .exact r 0 ∧ 0 < r.toRat ∧ r.toRat ^ 2 = rat false m e) ∨
      ∃ (q : Nat) (k : Int), 2 ^ 64 ≤ q ∧ fsqrt (.fin false m e) = .exact (.fin false (2 * q + 1) (k - 1)) 0 ∧
        ((q : ℚ) * (2 : ℚ) ^ k) ^ 2 < rat false m e ∧ rat false m e < (((q : ℚ) + 1) * (2 : ℚ) ^ k) ^ 2) ∧
    gives (.fexp2 d a t g p) fexp2 (fun z => match z with
      | .nan b => quiet b
      | .inf b => some (if b then zero else .inf false, 0)
      | .fin b m e => if 128 ≤ rat b m e then some (.inf false, flagOF ||| flagNX) else if rat b m e ≤ -150 then some (zero, flagUF ||| flagNX)
          else if (rat b m e).den = 1 then some (.fin false 1 (rat b m e).num, 0) else none) ∧
    gives (.flog2 d a t g p) flog2 (fun z => match z with
      | .nan b => quiet b
      | .inf b => if b then invalid else some (.inf false, 0)
      | .fin b m e => if m = 0 then some (.inf true, flagDZ) else if b then invalid
          else if power m then some (ofInt (Nat.log2 m + e), 0) else none) ∧
    gives (.fsin d a t g p) fsin (fun z => match z with
      | .nan b => quiet b
      | .inf _ => invalid
      | .fin b m e => if m = 0 then some (.fin b 0 0, 0) else if (2 * rat b m e).den = 1 then some (zero, 0)
          else if (4 * rat b m e).den = 1 then some (.fin (decide ((rat b m e - 1 / 4).den ≠ 1)) 1 0, 0) else none) ∧
    gives (.fcos d a t g p) fcos (fun z => match z with
      | .nan b => quiet b
      | .inf _ => invalid
      | .fin b m e => if (rat b m e).den = 1 then some (one, 0) else if (2 * rat b m e).den = 1 then some (one.neg, 0)
          else if (4 * rat b m e).den = 1 then some (zero, 0) else none) ∧
    gives (.ftanh d a t g p) ftanh (fun z => match z with
      | .nan b => quiet b
      | .inf b => some (.fin b 1 0, 0)
      | .fin b m e => if m = 0 then some (.fin b 0 0, 0) else if t.val ≠ 0 then none
          else if 91 / 10 ≤ rat false m e then some (.fin b 1 0, flagNX) else if rat false m e ≤ 1 / 2 ^ 13 then some (.fin b m e, flagNX) else none)

/-- R218, 08 R187-R189: FSUM, FMAXR and FMINR write to every lane the value at the root of the pairwise tree over the lanes of va, FSCAN
to each lane its prefix sum by doubling distances; a lane that the guard excludes enters as −0, or as the identity of the maximum or the
minimum; sums are added in FP32, with the flags of every addition, and rounded once into the lane's type. All land after 6 context
cycles. -/
def Obligations.ReductionLanes : Prop :=
  ∀ (d a : VReg) (t : Fin 4) (g : Fin 8) (p : Tag),
    let W := laneWidth t
    let F := laneFmt t
    let levels := if W = 32 then 6 else 7
    let x := fun (s : State) (j : Nat) => laneOf W (readV s a) j
    let sel := fun s : State => selected W (readP s g)
    let gives := fun (i : Instr) (f : State → Nat → Nat × Flags) => GivesLanes i p d 6 W (fun _ _ => true) f
    let level := fun (f : Nat × Flags → Nat × Flags → Nat × Flags) (y : Nat → Nat × Flags) (j : Nat) => f (y (2 * j)) (y (2 * j + 1))
    let root := fun (f : Nat × Flags → Nat × Flags → Nat × Flags) (y : Nat → Nat × Flags) => ((level f)^[levels] y) 0
    let single := fun (s : State) (j : Nat) =>
      if sel s j then encodeFmt fp32 (decodeFmt F (x s j)) false false else (2 ^ 31, (0 : Flags))
    let plus := fun (y z : Nat × Flags) =>
      let r := Val.add (decodeFmt fp32 y.1) (decodeFmt fp32 z.1)
      roundTo fp32 (r.1, y.2 ||| z.2 ||| r.2)
    let narrow := fun (y : Nat × Flags) => if t.val = 0 then y else roundTo F (decodeFmt fp32 y.1, y.2)
    let prefixes := fun (y : Nat → Nat × Flags) => (List.range levels).foldl
      (fun (y : Nat → Nat × Flags) k => fun j => if j < 2 ^ k then y j else plus (y (j - 2 ^ k)) (y j)) y
    let pick := fun (greater : Bool) (y z : Nat × Flags) =>
      if t.val = 3 then
        let less := decide (signed 32 y.1 < signed 32 z.1)
        let more := decide (signed 32 z.1 < signed 32 y.1)
        ((if greater then (if less then z.1 else y.1) else if more then z.1 else y.1), y.2 ||| z.2)
      else
        let u := decodeFmt F y.1
        let w := decodeFmt F z.1
        roundTo F (if greater then fmax u w else fmin u w, y.2 ||| z.2 ||| if u.isSnan || w.isSnan then flagNV else 0)
    let enters := fun (greater : Bool) (s : State) (j : Nat) =>
      (if sel s j then x s j
        else if t.val = 3 then (if greater then 2 ^ 31 else 2 ^ 31 - 1)
        else (encodeFmt F (.inf greater) false false).1, (0 : Flags))
    gives (.fmaxr d a t g p) (fun s _ => root (pick true) (enters true s)) ∧
    gives (.fminr d a t g p) (fun s _ => root (pick false) (enters false s)) ∧
    (t.val ≠ 3 →
      gives (.fsum d a t g p) (fun s _ => narrow (root plus (single s))) ∧
      gives (.fscan d a t g p) fun s j => narrow (prefixes (single s) j))

/-! ## Loads and stores (10 R224-R230) -/

/-- R224, R226, R227: the scalar loads, short (s[a] + size × offset) and long (s[a] + the immediate), sign- or zero-extended. -/
def Obligations.ScalarLoads : Prop :=
  ∀ (d a : SReg) (o : BitVec 11) (m : BitVec 32) (p : Tag),
    let short := fun (k : Nat) (s : State) => readS s a + BitVec.ofNat 64 k * o.signExtend 64
    let long := fun s : State => readS s a + m.signExtend 64
    let b := fun x : Nat => (BitVec.ofNat 8 x).signExtend 64
    let h := fun x : Nat => (BitVec.ofNat 16 x).signExtend 64
    let w := fun x : Nat => (BitVec.ofNat 32 x).signExtend 64
    let u := fun x : Nat => BitVec.ofNat 64 x
    LoadsScalar (.ldb d a o p) p d 1 (short 1) b ∧ LoadsScalar (.ldbLong d a p m) p d 1 long b ∧
    LoadsScalar (.ldbn d a o p) p d 1 (short 1) u ∧ LoadsScalar (.ldbnLong d a p m) p d 1 long u ∧
    LoadsScalar (.ldh d a o p) p d 2 (short 2) h ∧ LoadsScalar (.ldhLong d a p m) p d 2 long h ∧
    LoadsScalar (.ldhn d a o p) p d 2 (short 2) u ∧ LoadsScalar (.ldhnLong d a p m) p d 2 long u ∧
    LoadsScalar (.ldw d a o p) p d 4 (short 4) w ∧ LoadsScalar (.ldwLong d a p m) p d 4 long w ∧
    LoadsScalar (.ldwn d a o p) p d 4 (short 4) u ∧ LoadsScalar (.ldwnLong d a p m) p d 4 long u ∧
    LoadsScalar (.ldd d a o p) p d 8 (short 8) u ∧ LoadsScalar (.lddLong d a p m) p d 8 long u

/-- R227, 00 R7: the scalar stores write the low bytes of s[d], little-endian, and no other byte; where a synchronising access or a
full/empty load of the same bundle reads those bytes of the own slice, the store leaves as a request, performed behind it. -/
def Obligations.ScalarStores : Prop :=
  ∀ (d a : SReg) (o : BitVec 11) (m : BitVec 32) (p : Tag),
    let short := fun (k : Nat) (s : State) => readS s a + BitVec.ofNat 64 k * o.signExtend 64
    let long := fun s : State => readS s a + m.signExtend 64
    let v := fun s : State => (readS s d).toNat
    StoresOrSends (.stb d a o p) p 1 (short 1) v ∧ StoresOrSends (.stbLong d a p m) p 1 long v ∧
    StoresOrSends (.sth d a o p) p 2 (short 2) v ∧ StoresOrSends (.sthLong d a p m) p 2 long v ∧
    StoresOrSends (.stw d a o p) p 4 (short 4) v ∧ StoresOrSends (.stwLong d a p m) p 4 long v ∧
    StoresOrSends (.std d a o p) p 8 (short 8) v ∧ StoresOrSends (.stdLong d a p m) p 8 long v

/-- R228, R230: vector loads and stores of 256 bytes, and the bank forms, which name a bank and a unit of
the own slice; a load reads the slice as its bundle issued, and a fate there is a late fault; a store to bytes that a synchronising
access or a full/empty load of its bundle reads leaves as a request, performed behind it. -/
def Obligations.VectorLoadsAndStores : Prop :=
  ∀ (d : VReg) (a : SReg) (o : BitVec 11) (m : BitVec 32) (b : Fin 32) (u : Fin 64) (p : Tag),
    let short := fun s : State => readS s a + 256 * o.signExtend 64
    let long := fun s : State => readS s a + m.signExtend 64
    let v := fun s : State => (readV s d).toNat
    let off := fun s : State => 131072 * b.val + 256 * (readS s a + BitVec.ofNat 64 u.val).toNat
    let inBank := fun s : State => (readS s a + BitVec.ofNat 64 u.val).toNat < 512
    let fate := fun (s : State) (w : Bool) => physFate (ownView s w) (slicePhys (s.cur.key / 4) (off s))
      (windowAddr (coreAt s (s.cur.key / 4)).logical (off s) % 2 ^ 64) 256 256 w
    LoadsVector (.vld d a o p) p d short ∧ LoadsVector (.vldLong d a p m) p d long ∧
    StoresOrSends (.vst d a o p) p 256 short v ∧ StoresOrSends (.vstLong d a p m) p 256 long v ∧
    (∀ s, Issues (.vldb d b a u p) p s → inBank s → fate s false = none → ∃ t, exec (.vldb d b a u p) s = .next t ∧
      Sends (.vldb d b a u p) s t ⟨.vector, d⟩ 4 (BitVec.ofNat 2048 (readLE (asIssued s).mem (slicePhys (s.cur.key / 4) (off s)) 256))
        (BitVec.allOnes 2048) false 0) ∧
    let address := fun s : State => BitVec.ofNat 64 (windowAddr (coreAt s (s.cur.key / 4)).logical (off s))
    (∀ s, CanonicalMemory s → Issues (.vstb d b a u p) p s → inBank s → fate s true = none → meetsLate s (address s).toNat 256 = false →
      ∃ t, exec (.vstb d b a u p) s = .next t ∧ Stores (.vstb d b a u p) s t (slicePhys (s.cur.key / 4) (off s)) 256 (v s)) ∧
    (∀ s, Issues (.vstb d b a u p) p s → inBank s → fate s true = none → meetsLate s (address s).toNat 256 = true →
      SendsStore (.vstb d b a u p) s (address s) (v s) .sent) ∧
    ∀ s c x, inBank s →
      (Issues (.vldb d b a u p) p s → fate s false = some (c, x) →
        ∃ t, exec (.vldb d b a u p) s = .next t ∧ FindsLate (.vldb d b a u p) s t c x) ∧
      (Issues (.vstb d b a u p) p s → fate s true = some (c, x) →
        ∃ t, exec (.vstb d b a u p) s = .next t ∧ FindsLate (.vstb d b a u p) s t c x)

/-- R229: a speculative load whose base is deferred-faulted, or that meets a fate, gives zero with the deferred-fault bit set
and no fault; otherwise it is a plain load. That the zero of a deferred base lands in 4 context cycles whatever the address is the
model's reading (log entry 47). -/
def Obligations.SpeculativeLoads : Prop :=
  ∀ (d a : SReg) (e : VReg) (o : BitVec 11) (m : BitVec 32) (p : Tag),
    let scalar := fun (i : Instr) (addr : State → Word) =>
      (∀ s, Issues i p s → deferS s a = true ∨ (∃ c x, OwnFate s (addr s) 8 false c x) →
        ∃ t, exec i s = .next t ∧ SendsScalar i s t d 4 0 true) ∧
      (∀ s pa, Issues i p s → deferS s a = false → OwnPlace s (addr s) 8 false pa →
        ∃ t, exec i s = .next t ∧ SendsScalar i s t d 4 (BitVec.ofNat 64 (readLE (asIssued s).mem pa 8)) false) ∧
      ∀ s, Issues i p s → deferS s a = false → ownOffset s s.cur.key (addr s) 8 = none →
        ∃ t r, exec i s = .next t ∧ Requests i s t r ∧ Carries s r i (addr s) 0 0 0 0
    let vector := fun (i : Instr) (addr : State → Word) =>
      (∀ s, Issues i p s → deferS s a = true ∨ (∃ c x, OwnFate s (addr s) 256 false c x) →
        ∃ t, exec i s = .next t ∧ Sends i s t ⟨.vector, e⟩ 4 0 (BitVec.allOnes 2048) true 0) ∧
      (∀ s pa, Issues i p s → deferS s a = false → OwnPlace s (addr s) 256 false pa → ∃ t, exec i s = .next t ∧
        Sends i s t ⟨.vector, e⟩ 4 (BitVec.ofNat 2048 (readLE (asIssued s).mem pa 256)) (BitVec.allOnes 2048) false 0) ∧
      ∀ s, Issues i p s → deferS s a = false → ownOffset s s.cur.key (addr s) 256 = none →
        ∃ t r, exec i s = .next t ∧ Requests i s t r ∧ Carries s r i (addr s) 0 0 0 0
    scalar (.lds d a o p) (fun s => readS s a + 8 * o.signExtend 64) ∧ scalar (.ldsLong d a p m) (fun s => readS s a + m.signExtend 64) ∧
    vector (.vlds e a o p) (fun s => readS s a + 256 * o.signExtend 64) ∧ vector (.vldsLong e a p m) fun s => readS s a + m.signExtend 64

/-- R211, R216: a scale register's block scales or super-scale are loaded from the own slice, and its block scales stored
there (beside a synchronising access or a full/empty load of its bundle to those bytes, by a request behind it: 00 R7). That an access outside it is PERM whatever its alignment, with its address as TADDR, is the model's choice (log entry 9). -/
def Obligations.ScaleLoadsAndStores : Prop :=
  ∀ (d : CReg) (a : SReg) (o : BitVec 11) (p : Tag),
    let wide := fun s : State => readS s a + 128 * o.signExtend 64
    let narrow := fun s : State => readS s a + 4 * o.signExtend 64
    let place := fun (s : State) (x : Word) (n align : Nat) (w : Bool) (pa : Nat) =>
      ∃ q, ownOffset s s.cur.key x n = some q ∧ pa = slicePhys (s.cur.key / 4) q ∧ physFate (ownView s w) pa x.toNat n align w = none
    (∀ s pa, Issues (.klds d a o p) p s → place s (wide s) 128 1 false pa → ∃ t v m, exec (.klds d a o p) s = .next t ∧
      Sends (.klds d a o p) s t ⟨.scale, d⟩ 4 v m false 0 ∧ v.toNat % 2 ^ 1024 = readLE (asIssued s).mem pa 128 ∧
      ∀ j, m.getLsbD j = decide (j < 1024)) ∧
    (∀ s pa, Issues (.kldss d a o p) p s → place s (narrow s) 4 4 false pa → ∃ t v m, exec (.kldss d a o p) s = .next t ∧
      Sends (.kldss d a o p) s t ⟨.scale, d⟩ 4 v m false 0 ∧ v.toNat / 2 ^ 1024 = readLE (asIssued s).mem pa 4 ∧
      ∀ j, m.getLsbD j = decide (1024 ≤ j ∧ j < 1056)) ∧
    (∀ s pa, Issues (.qsts d a o p) p s → place s (wide s) 128 1 true pa → meetsLate s (wide s).toNat 128 = true →
      SendsStore (.qsts d a o p) s (wide s) (scVal (ctxAt s s.cur.key) d).bs.toNat .sent) ∧
    (∀ s pa, CanonicalMemory s → Issues (.qsts d a o p) p s → place s (wide s) 128 1 true pa → meetsLate s (wide s).toNat 128 = false →
      ∃ t, exec (.qsts d a o p) s = .next t ∧
        Stores (.qsts d a o p) s t pa 128 (scVal (ctxAt s s.cur.key) d).bs.toNat) ∧
    ∀ s, (Issues (.klds d a o p) p s → ownOffset s s.cur.key (wide s) 128 = none →
        ∃ t, exec (.klds d a o p) s = .next t ∧ FindsLate (.klds d a o p) s t .perm (wide s)) ∧
      (Issues (.kldss d a o p) p s → ownOffset s s.cur.key (narrow s) 4 = none →
        ∃ t, exec (.kldss d a o p) s = .next t ∧ FindsLate (.kldss d a o p) s t .perm (narrow s)) ∧
      (Issues (.qsts d a o p) p s → ownOffset s s.cur.key (wide s) 128 = none →
        ∃ t, exec (.qsts d a o p) s = .next t ∧ FindsLate (.qsts d a o p) s t .perm (wide s))

/-! ## Gather, scatter, full and empty granules (10 R231-R237) -/

/-- R231, 00 R7: VGATH leaves as one request with its base, offsets and guard, and with what its guarded lanes of the own slice find there
as its bundle issues: their bytes, or the fate of the lowest that fails; a VSCAT whose guarded lanes all lie in the own slice and meet no
fate writes them one by one, ascending, and no other byte; one with a guarded lane elsewhere and no fate, or one of whose lanes a walk
fails, leaves whole as one request with memory as before (that it does so with its own-slice lanes: log entry 54), and so does one whose bundle has a synchronising access or a full/empty load
of a lane's bytes (00 R7); any other fate is a
late fault of the lowest such lane and nothing is written. -/
def Obligations.GatherAndScatter : Prop :=
  ∀ (d : VReg) (a : SReg) (b : VReg) (g : Fin 8) (w : Fin 4) (p : Tag),
    let z := gatherBytes w
    let ls := fun s : State => guardLanes z (readP s g)
    let walks := fun (s : State) (j : Job) => ((ls s).map fun l => (laneAddr (readS s a) (readV s b) z l, z, true)).findSome? (walkFate j)
    (∀ s, Issues (.vgath d a b g w p) p s →
      let place := fun l => laneAddr (readS s a) (readV s b) z l
      let own := fun l o => ownOffset s s.cur.key (BitVec.ofNat 64 (place l)) z = some o
      let fate := fun l o => physFate (asIssued s) (slicePhys (s.cur.key / 4) o) (place l) z z false
      ∃ t r, exec (.vgath d a b g w p) s = .next t ∧
      Requests (.vgath d a b g w p) s t r ∧ r.op = .vgath d a b g w p ∧ r.addr = readS s a ∧ r.vec1 = readV s b ∧
      (∀ l ∈ ls s, ∀ o, own l o → fate l o = none → laneOf (8 * z) r.vec2 l = readLE (asIssued s).mem (slicePhys (s.cur.key / 4) o) z) ∧
      (r.found = none ↔ ∀ l ∈ ls s, ∀ o, own l o → fate l o = none) ∧
      (∀ e, r.found = some e → ∃ l ∈ ls s, r.arg1 = BitVec.ofNat 64 l ∧ (∃ o, own l o ∧ fate l o = some e) ∧
        ∀ k ∈ ls s, k < l → ∀ o, own k o → fate k o = none) ∧
      r.guard = readP s g ∧ (r.arg2 = 1 ↔ (deferS s a || deferV s b || (g.val != 0 && deferV s d)) = true)) ∧
    let place := fun (s : State) l => laneAddr (readS s a) (readV s b) z l
    let own := fun (s : State) l => (ownOffset s s.cur.key (BitVec.ofNat 64 (place s l)) z).isSome
    (∀ (s : State) (j : Job) (q : Nat → Nat), Issues (.vscat d a b g w p) p s → CanonicalMemory s → jobOfCtx s s.cur.key = some j → walks s j = none →
      (∀ l ∈ ls s, own s l = true ∧ meetsLate s (place s l) z = false ∧ access s j (place s l) z z true = .ok (q l)) →
      -- the memory before each lane and after the last one
      ∃ (t : State) (after : Nat → List Host.Cell), exec (.vscat d a b g w p) s = .next t ∧ after 0 = s.mem ∧ after (256 / z) = t.mem ∧
        (∀ l, l < 256 / z → if l ∈ ls s then OnlyBytes (after l) (after (l + 1)) (q l) z ∧
          readLE (after (l + 1)) (q l) z = laneOf (8 * z) (readV s d) l else after (l + 1) = after l) ∧
        t.full = s.full ∧ t.reqs = s.reqs ∧ OthersKept s t s.cur.key) ∧
    (∀ s j, Issues (.vscat d a b g w p) p s → jobOfCtx s s.cur.key = some j → walks s j ≠ none ∨
        ((∃ l ∈ ls s, own s l = false ∨ meetsLate s (place s l) z = true) ∧ scatterFate s j (readS s a) (readV s b) z true (ls s) = none) →
      ∃ t r, exec (.vscat d a b g w p) s = .next t ∧ Requests (.vscat d a b g w p) s t r ∧ r.guard = guardOf z (ls s) ∧
        Carries s r (.vscat d a b g w p) (readS s a) 0 0 (readV s b) (readV s d)) ∧
    ∀ s j c x, Issues (.vscat d a b g w p) p s → jobOfCtx s s.cur.key = some j → walks s j = none →
      scatterFate s j (readS s a) (readV s b) z true (ls s) = some (c, x) →
      ∃ t, exec (.vscat d a b g w p) s = .next t ∧ FindsLate (.vscat d a b g w p) s t c x

/-- R232-R234: a full/empty load to another slice travels as a request; at its own slice it is served when every granule it
covers is full (the C forms empty them), else it is held. With no other request held there.

R235, R237: STF and VSTF store and mark their granules full in one step, where no request is held at the slice; to another
slice, or beside a synchronising access or a full/empty load of their bundle to those bytes (00 R7), they leave as requests. PREF brings its line into the cache of the die that owns it, and changes no result; before wall buses that pause it waits (04 R78). -/
def Obligations.FullEmptyAndPrefetch : Prop :=
  (∀ (d a : SReg) (e : VReg) (o : BitVec 11) (m : BitVec 32) (p : Tag),
     let loads := fun (i : Instr) (n : Nat) (clears : Bool) (addr : State → Word) =>
       (∀ s, Issues i p s → ownOffset s s.cur.key (addr s) n = none → ∃ t r, exec i s = .next t ∧ Requests i s t r ∧
         Carries s r i (addr s) 0 0 0 0 ∧ r.status = if mayEnter s r then .sent else .walking) ∧
       ∀ s o' pa, Issues i p s → ownOffset s s.cur.key (addr s) n = some o' → windowPhys s (s.cur.key / 4) (addr s) = some pa →
         (addr s).toNat % n = 0 → sliceOff s pa = false → poisonedAt s.bad pa n = none → (∀ q ∈ s.reqs, q.status ≠ .held) →
         ∃ t r, exec i s = .next t ∧ t.reqs = s.reqs.filter (fun q => q.id != s.nextId) ++ [r] ∧ r.op = i ∧ r.addr = addr s ∧
           t.mem = s.mem ∧ ctxAt t s.cur.key = ctxAt s s.cur.key ∧
           if includesAll s.full (pa / 16) (granules pa n) then
             r.status = .performed ∧ r.value = BitVec.ofNat 2048 (readLE s.mem pa n) ∧
             t.full = if clears then exclude s.full (pa / 16) (pa / 16 + granules pa n) else s.full
           else r.status = .held ∧ t.full = s.full
     let s8 := fun s : State => readS s a + 8 * o.signExtend 64
     let s256 := fun s : State => readS s a + 256 * o.signExtend 64
     let long := fun s : State => readS s a + m.signExtend 64
     loads (.ldfe d a o p) 8 false s8 ∧ loads (.ldfec d a o p) 8 true s8 ∧
     loads (.ldfeLong d a p m) 8 false long ∧ loads (.ldfecLong d a p m) 8 true long ∧
     loads (.vldfe e a o p) 256 false s256 ∧ loads (.vldfec e a o p) 256 true s256 ∧
     loads (.vldfeLong e a p m) 256 false long ∧ loads (.vldfecLong e a p m) 256 true long) ∧
  (∀ (d a : SReg) (e : VReg) (o : BitVec 11) (m : BitVec 32) (p : Tag),
     let stores := fun (i : Instr) (n : Nat) (addr : State → Word) (v : State → Nat) =>
       (∀ s pa, CanonicalMemory s → Issues i p s → OwnPlace s (addr s) n true pa → inSlice pa = true →
         meetsLate s (addr s).toNat n = false → ∃ t, exec i s = .next t ∧ readLE t.mem pa n = v s % 2 ^ (8 * n) ∧
           (∀ x, x < pa ∨ pa + n ≤ x → readByte t.mem x = readByte s.mem x) ∧
           ((∀ q ∈ s.reqs, q.status ≠ .held) → t.full = includeFrom s.full (pa / 16) (granules pa n) ∧ t.reqs = s.reqs)) ∧
       (∀ s pa, Issues i p s → OwnPlace s (addr s) n true pa → meetsLate s (addr s).toNat n = true → SendsStore i s (addr s) (v s) .sent) ∧
       (∀ s c x, Issues i p s → OwnFate s (addr s) n true c x → ∃ t, exec i s = .next t ∧ FindsLate i s t c x) ∧
       ∀ s, Issues i p s → ownOffset s s.cur.key (addr s) n = none → SendsStore i s (addr s) (v s) .gathered
     let v8 := fun s : State => (readS s d).toNat
     let v256 := fun s : State => (readV s e).toNat
     let long := fun s : State => readS s a + m.signExtend 64
     stores (.stf d a o p) 8 (fun s => readS s a + 8 * o.signExtend 64) v8 ∧ stores (.stfLong d a p m) 8 long v8 ∧
     stores (.vstf e a o p) 256 (fun s => readS s a + 256 * o.signExtend 64) v256 ∧ stores (.vstfLong e a p m) 256 long v256 ∧
     let fetches := fun (i : Instr) (x : State → Word) => ∀ s, Issues i p s → ∃ t, exec i s = .next t ∧ t.ctxs = s.ctxs ∧
       MemoryKept s t ∧ CoresKept s t ∧ WorkKept s { t with prefetches := s.prefetches } ∧ PartKept s { t with routes := s.routes } ∧
       (deferS s a = true → t.lines = s.lines ∧ t.routes = s.routes ∧ t.prefetches = s.prefetches) ∧
       ∀ j pa, jobOfCtx s s.cur.key = some j → access s j (x s).toNat 1 1 false = .ok pa → deferS s a = false →
         if touchPaused s (s.cur.key / 4) pa = true then
           t.prefetches = s.prefetches ++ [⟨s.cur.key / 4, j.id, (x s).toNat⟩] ∧ t.lines = s.lines ∧ t.routes = s.routes
         else t.prefetches = s.prefetches ∧
           (inStack pa = true → handing s (physStack pa) 1 5 = false → ∃ dirty, (pa / 256, dirty) ∈ t.lines)
     fetches (.pref a o p) (fun s => readS s a + 256 * o.signExtend 64) ∧ fetches (.prefLong a p m) long)

/-! ## Atomics, racks and barriers at issue (15 R313-R326) -/

/-- R313, R316-R319: LDACQ, STREL, the atomics, CAS and the vector atomics each leave as one request with the operands read
at issue; no register and no byte of memory changes at issue.

R324-R326, R330-R334: the rack operations and BINIT leave as requests; BARV makes its barrier's arrival record pending;
BWAIT waits for the phase of the context's record as its bundle issued (00 R7), which it consumes, else for the phase current at its
issue. -/
def Obligations.SynchronisingRequestsIssue : Prop :=
  (∀ (d a b : SReg) (e f : VReg) (c : Fin 8) (z : Fin 4) (r : Fin 2) (p : Tag),
     let base := fun s : State => readS s a
     let zero := fun _ : State => (0 : Word)
     let none' := fun _ : State => (0 : VWord)
     let y := fun s : State => readS s b
     let atom := fun i : Instr => GivesRequest i p base y zero none' none'
     let vatom := fun i : Instr => GivesRequest i p base zero zero (fun s => readV s f) (fun s => readV s e)
     GivesRequest (.ldacq d a c z p) p base zero zero none' none' ∧
     GivesRequest (.strel d a c z p) p base zero zero (fun s => (readS s d).setWidth 2048) none' ∧
     atom (.atomAdd d a b r p) ∧ atom (.atomMin d a b r p) ∧ atom (.atomMax d a b r p) ∧ atom (.atomMinn d a b r p) ∧
     atom (.atomMaxn d a b r p) ∧ atom (.atomAnd d a b r p) ∧ atom (.atomOr d a b r p) ∧ atom (.atomXor d a b r p) ∧
     atom (.atomSwap d a b r p) ∧
     GivesRequest (.cas d a b r p) p base y (fun s => readS s d) none' none' ∧
     vatom (.vatomAdd e a f r p) ∧ vatom (.vatomAnd e a f r p) ∧ vatom (.vatomOr e a f r p) ∧ vatom (.vatomMax e a f r p)) ∧
  (∀ (d a b : SReg) (p : Tag),
     let base := fun s : State => readS s a
     let zero := fun _ : State => (0 : Word)
     let none' := fun _ : State => (0 : VWord)
     let rack := fun i : Instr => GivesRequest i p base zero zero none' none'
     rack (.rkopen d a p) ∧ rack (.rkpub a p) ∧ rack (.rktake d a p) ∧ rack (.rkdrop a p) ∧
     (∀ s q, Issues (.binit d a b p) p s → barrierOf s s.cur.key (readS s a) 16 = some q →
       binitOk s s.cur.key q (readS s a) (readS s b) (readS s d) = true → ∃ t r, exec (.binit d a b p) s = .next t ∧
         Requests (.binit d a b p) s t r ∧ Carries s r (.binit d a b p) (readS s a) (readS s b) (readS s d) 0 0) ∧
     (∀ s q, Issues (.barv a p) p s → barrierOf s s.cur.key (readS s a) 8 = some q → ∃ t r, exec (.barv a p) s = .next t ∧
       t.reqs = (emptied s r).reqs ++ [r] ∧ Carries s r (.barv a p) (readS s a) 0 0 0 0 ∧ t.mem = s.mem ∧
       (ctxAt t s.cur.key).arrivals = ((ctxAt s s.cur.key).arrivals.filter fun x => x.barrier != (readS s a).toNat % 256) ++
         [⟨(readS s a).toNat % 256, 0, true⟩]) ∧
     (∀ s q, Issues (.bwait d a p) p s → barrierOf s s.cur.key (readS s a) 8 = some q → ∃ t r, exec (.bwait d a p) s = .next t ∧
       t.reqs = s.reqs ++ [r] ∧ t.mem = s.mem ∧ r.op = .bwait d a p ∧ r.addr = readS s a ∧
       r.arg2 = BitVec.ofNat 64 ((((arrivalsIssued s).find? fun x => x.barrier == (readS s a).toNat % 256).map (·.phase)).getD q.phase) ∧
       ∀ x, x ∈ (ctxAt t s.cur.key).arrivals ↔ x ∈ (ctxAt s s.cur.key).arrivals ∧ (x.barrier ≠ (readS s a).toNat % 256 ∨ x.pending = true)) ∧
     ∀ s, (Issues (.binit d a b p) p s → barrierOf s s.cur.key (readS s a) 16 = none →
         ∃ t, exec (.binit d a b p) s = .next t ∧ FindsLate (.binit d a b p) s t .perm (readS s a)) ∧
       (Issues (.barv a p) p s → barrierOf s s.cur.key (readS s a) 8 = none →
         ∃ t, exec (.barv a p) s = .next t ∧ FindsLate (.barv a p) s t .perm (readS s a)) ∧
       (Issues (.bwait d a p) p s → barrierOf s s.cur.key (readS s a) 8 = none →
         ∃ t, exec (.bwait d a p) s = .next t ∧ FindsLate (.bwait d a p) s t .perm (readS s a)))

/-! ## Control flow (06 R128-R140) -/

/-- R131-R133, 05 R103: a test that is true and that no earlier test of its bundle precedes is taken, and gives the successor
and nothing else but the link (s63 with the address of the next bundle) of CALL and of JR with link; any other test changes no
register, no flag and no memory.

R135-R137, R140, 05 R89: LOOP, LOOPI and BRKLP leave for their bundle's retirement the entry to push, the body to pass
over, or the pop; WAITC leaves at most 65,535 empty cycles (the greater count where another WAITC of its bundle has left some, which
is the model's choice, log entry 40); NOP changes nothing. -/
def Obligations.BranchesAndLoops : Prop :=
  (∀ (g : PReg) (c : Fin 128) (k : SReg) (o : BitVec 22),
     let direct := fun s : State => s.cur.h + 4 * o.signExtend 64
     let tests := fun (i : Instr) (hit : State → Bool) (target : State → Word) => ∀ s, Issues i 0 s →
       (s.cur.taken = none → hit s = true → ∃ t, exec i s = .next t ∧ t.cur.taken = some s.cur.pos ∧ t.cur.succ = target s ∧
         ctxAt t s.cur.key = ctxAt s s.cur.key ∧ OnlyContext s t s.cur.key) ∧
       (s.cur.taken ≠ none ∨ hit s = false → ∃ t, exec i s = .next t ∧ t.cur.taken = s.cur.taken ∧ t.cur.succ = s.cur.succ ∧
         ctxAt t s.cur.key = ctxAt s s.cur.key ∧ OnlyContext s t s.cur.key)
     let links := fun (i : Instr) (target : State → Word) => ∀ s, Issues i 0 s →
       (s.cur.taken = none → ∃ t, exec i s = .next t ∧ t.cur.taken = some s.cur.pos ∧ t.cur.succ = target s ∧
         SendsScalar i s t 63 1 (s.cur.h + BitVec.ofNat 64 s.cur.len) false) ∧
       (s.cur.taken ≠ none → ∃ t, exec i s = .next t ∧ t.cur.taken = s.cur.taken ∧ t.cur.succ = s.cur.succ ∧
         ctxAt t s.cur.key = ctxAt s s.cur.key ∧ OnlyContext s t s.cur.key)
     tests (.bt g o) (fun s => (readP s g).getLsbD 0) direct ∧
     tests (.bf g o) (fun s => !(readP s g).getLsbD 0) direct ∧
     tests (.bany g o) (fun s => readP s g != 0) direct ∧
     tests (.ball g o) (fun s => readP s g == BitVec.allOnes 128) direct ∧
     tests (.chk c o) (fun s => if c.val < 64 then deferS s c else deferV s (c - 64)) direct ∧
     tests (.j o) (fun _ => true) direct ∧
     tests (.jr 0 k) (fun _ => true) (fun s => readS s k) ∧
     links (.call o) direct ∧ links (.jr 1 k) fun s => readS s k) ∧
  (∀ (a : SReg) (e : Fin 2048) (f : Fin 4096) (c n : Fin 2048) (m : BitVec 32) (b : Fin 2) (p : Tag) (s : State),
     let k := s.cur.key
     let entry := fun (count : Word) (words : Nat) => (⟨count, s.cur.h + BitVec.ofNat 64 s.cur.len,
       s.cur.h + BitVec.ofNat 64 (4 * words)⟩ : LoopEntry)
     let gives := fun (i : Instr) (q : Issue) =>
       ∃ t, exec i s = .next t ∧ t.cur = q ∧ ctxAt t k = ctxAt s k ∧ OnlyContext s t k
     let stop := s.cur.h + BitVec.ofNat 64 (4 * e.val)
     (Issues (.loop a e p) p s → readS s a ≠ 0 → gives (.loop a e p) { s.cur with push := some (entry (readS s a) e) }) ∧
     (Issues (.loop a e p) p s → readS s a = 0 →
       gives (.loop a e p) { s.cur with skip := some (stop + BitVec.ofNat 64 (bundleLenAt s k stop)) }) ∧
     (Issues (.loopi f c p) p s → gives (.loopi f c p) { s.cur with push := some (entry (BitVec.ofNat 64 c) f) }) ∧
     (Issues (.loopiLong f p m) p s → gives (.loopiLong f p m) { s.cur with push := some (entry (m.setWidth 64) f) }) ∧
     (Issues (.brklp p) p s → gives (.brklp p) { s.cur with pop := true }) ∧
     (Issues (.waitc a n p) p s → ∃ t, exec (.waitc a n p) s = .next t ∧
       ctxAt t k = { ctxAt s k with waitc := max (ctxAt s k).waitc (min 65535 ((readS s a).toNat + n)) } ∧ OnlyContext s t k) ∧
     exec (.nop b) s = .next s)

/-- R138, R139: at the end of the bundle at H a taken test gives the successor and no count changes; otherwise, after the pop of a BRKLP,
the innermost entry whose body ends at H is decremented, and at a count above one its start is the successor; at one it is popped, and the
next entry is looked at; with none, the bundle in sequence follows, or the one that a LOOP of no iterations skips to. A LOOP's entry is
pushed last. The context cycle passes. That a loop-back goes before the skip of a LOOP of no
iterations is the model's reading (log entry 18). -/
def Obligations.LoopBackAtRetirement : Prop :=
  ∀ (s : State) (stop : Bool) (w : List Item) (e : LoopEntry) (l : List LoopEntry),
    let k := s.cur.key
    let c := ctxAt s k
    let t := ctxAt (retire s stop w) k
    let loops := if s.cur.pop then c.loops.drop 1 else c.loops
    let pushed := fun l : List LoopEntry => match s.cur.push with | some x => x :: l | none => l
    let next := match s.cur.skip with | some a => a | none => s.cur.h + BitVec.ofNat 64 s.cur.len
    t.ccyc = c.ccyc + 1 ∧
    (s.cur.taken ≠ none → t.pc = s.cur.succ ∧ t.loops = pushed loops) ∧
    (s.cur.taken = none → loops = [] → t.pc = next ∧ t.loops = pushed []) ∧
    (s.cur.taken = none → loops = e :: l → e.stop ≠ s.cur.h → t.pc = next ∧ t.loops = pushed loops) ∧
    (s.cur.taken = none → loops = e :: l → e.stop = s.cur.h → e.count ≠ 1 →
      t.pc = e.start ∧ t.loops = pushed ({ e with count := e.count - 1 } :: l)) ∧
    (s.cur.taken = none → loops = e :: l → e.stop = s.cur.h → e.count = 1 →
      let u := ctxAt (retire { onCtx s k (fun c => { c with loops := l }) with cur := { s.cur with pop := false } } stop w) k
      t.pc = u.pc ∧ t.loops = u.loops)

/-! ## Results landing (06 R114-R116, 07 R148, R163-R166) -/

/-- R114, R148: EXPOSED_RESULT_LAND writes a result that is due, alone in flight, into its register with its deferred-fault
bit, and ORs its flags into FPSTAT; one that is not due stays; nothing else changes. -/
def Obligations.ResultsLand : Prop :=
  ∀ (s : State) (k : Nat) (f : Flight),
    let c := ctxAt s k
    let lands := fun (d : Ctx) => ∃ t, exec (.exposedResultLand k) s = .next t ∧ OnlyContext s t k ∧
      ctxAt t k = { d with flights := [], fpstat := c.fpstat ||| f.flags }
    c.flights = [f] →
    (c.ccyc + 1 < f.land → ∃ t, exec (.exposedResultLand k) s = .next t ∧ OnlyContext s t k ∧ ctxAt t k = c) ∧
    (f.land ≤ c.ccyc + 1 →
      (f.dest.file = .scalar → f.dest.ix ≠ 0 →
        lands { c with s := c.s.setIfInBounds f.dest.ix (f.value.setWidth 64), sdf := setDf c.sdf f.dest.ix f.df }) ∧
      (f.dest = ⟨.scalar, 0⟩ ∨ f.dest = ⟨.pred, 0⟩ → lands c) ∧
      (f.dest.file = .vector → streamOf c f.dest.ix = none →
        lands { c with v := c.v.setIfInBounds f.dest.ix (blend (c.v[f.dest.ix]?.getD 0) f.value f.mask),
                       vdf := setDf c.vdf f.dest.ix f.df }) ∧
      (f.dest.file = .pred → f.dest.ix ≠ 0 → lands { c with p := c.p.setIfInBounds f.dest.ix (f.value.setWidth 128) }) ∧
      (f.dest.file = .engine → lands { c with e := c.e.setIfInBounds f.dest.ix (f.value.setWidth 64) }) ∧
      (f.dest.file = .scale →
        let x := scaleOf (blend (scaleBits (scVal c f.dest.ix)) f.value f.mask)
        lands { c with sc := c.sc.setIfInBounds f.dest.ix x }))

/-- Table scalar-5: what an MTS does to each special register under its access code when it lands: FPSTAT, TVEC, EVEC, EMASK,
EPEND (write-1-to-clear but for its top bit, which it sets), TFB, TCAUSE, TADDR and TIMER; the read-only ones keep theirs.
Flags and events that the hardware raises in the same clock stay raised, and a TIMER that has reached zero sets its event first (R165). -/
def Obligations.SpecialRegisterWrites : Prop :=
  ∀ (s : State) (k : Nat) (v : Word) (order land : Nat) (n : Nat),
    let c := ctxAt s k
    c.flights = [⟨⟨.special, n⟩, v.setWidth 2048, BitVec.allOnes 2048, false, 0, land, order⟩] → land ≤ c.ccyc + 1 →
    ∃ t, exec (.exposedResultLand k) s = .next t ∧ OnlyContext s t k ∧ ctxAt t k =
      (let d := { c with flights := [] }
      match n with
      | 5 => { d with fpstat := v.setWidth 6 ||| if c.raised.clock = s.clock then c.raised.flags else 0 }
      | 6 => { d with tvec := v &&& ~~~3 }
      | 7 => { d with evec := v &&& ~~~3 }
      | 8 => { d with emask := v.setWidth 4 }
      | 9 => { d with epend := (c.epend &&& ~~~v.setWidth 4 &&& 7) ||| (v.setWidth 4 &&& 8) |||
          if c.raised.clock = s.clock then c.raised.events else 0 }
      | 10 => { d with tfbOff := (v >>> 14).setWidth 8 }
      | 11 => { d with tcause := v.setWidth 25 }
      | 12 => { d with taddr := v }
      | 13 =>
        let e := if timerDue (timeNow s) c then expireTimer s.clock d else d
        { e with timerAt := if v = 0 then none else some (if c.frozen then v.toNat else timeNow s + v.toNat) }
      | _ => d)

/-! ## SYS operations (06 R141-R147) -/

/-- R142, R144-R147: TRAP with a handler and nothing else to take enters it at TVEC; YIELD leaves the stage READY; TEND ends
the task and frees its entry, or, where a fault of a handler's code is found, its job; FENCEL sends the gathered stores; FENCEH also
waits for what its context has outstanding; SVC makes its context SERVICED with its code queued at the core. That a YIELD or an SVC
beside a WAITC takes effect after the empty cycles is the model's reading (log entry 40). -/
def Obligations.SystemOperations : Prop :=
  ∀ (code : BitVec 12) (sc : Fin 64) (p : Tag) (s : State),
    let k := s.cur.key
    let c := ctxAt s k
    let core := coreAt s (k / 4)
    let serves := fun (i : Instr) (x : BitVec 12) =>
      (Issues i p s → c.waitc = 0 → ∃ t, exec i s = .next t ∧
        ctxAt t k = { c with status := .serviced } ∧ coreAt t (k / 4) = { core with services := core.services ++ [.svc k x] } ∧
        OthersKept s t k ∧ MemoryKept s t ∧ WorkKept s t ∧ PartKept s t) ∧
      (Issues i p s → c.waitc ≠ 0 → ∃ t, exec i s = .next t ∧ ctxAt t k = { c with svc := some x } ∧ OnlyContext s t k)
    let sent := s.reqs.map fun r => if r.ctx = k ∧ r.heads then sendReq s r else r
    (Issues (.trap code p) p s → c.h = false → c.tvec ≠ 0 → c.fence = none → c.afterRft = false → c.late = [] →
      c.status = .running → c.waitc = 0 → c.streams = Vector.replicate 8 none → (∀ f ∈ c.flights, c.ccyc + 1 < f.land) →
      c.held.length ≤ 32 → ∃ t, exec (.trap code p) s = .next t ∧ (ctxAt t k).pc = c.tvec ∧ (ctxAt t k).h = true ∧
        (ctxAt t k).en = false ∧ (ctxAt t k).loops = [] ∧ (ctxAt t k).taddr = 0 ∧
        (ctxAt t k).tcause = BitVec.ofNat 25 (64 + 256 * code.toNat + 1048576 * (s.cur.pos % 16))) ∧
    (Issues (.yield p) p s → c.waitc = 0 → ∃ t, exec (.yield p) s = .next t ∧
      ctxAt t k = { c with status := .ready, landing := true, yields := false } ∧
      (coreAt t (k / 4)).last = Fin.ofNat 4 k ∧ (coreAt t (k / 4)).holder ≠ some (Fin.ofNat 4 k) ∧
      OthersKept s t k ∧ MemoryKept s t ∧ WorkKept s t ∧ PartKept s t) ∧
    (Issues (.yield p) p s → c.waitc ≠ 0 → ∃ t, exec (.yield p) s = .next t ∧
      ctxAt t k = { c with landing := true, yields := true } ∧ OnlyContext s t k) ∧
    (∀ f, Issues (.tend p) p s → handlerFault c = some f → ∃ t, exec (.tend p) s = .next t ∧ EndsJob s t (k / 4) f.cause.code) ∧
    (Issues (.tend p) p s → handlerFault c = none → ∃ t, exec (.tend p) s = .next t ∧ (ctxAt t k).status = .ending ∧ (ctxAt t k).task = none ∧
      (ctxAt t k).flights = [] ∧ (ctxAt t k).loops = [] ∧ (ctxAt t k).s = c.s ∧ (ctxAt t k).v = c.v ∧ (ctxAt t k).p = c.p ∧
      MemoryKept s t ∧ OthersKept s t k ∧ (∀ r ∈ t.reqs, r.ctx = k → r.discard = true) ∧
      (∀ i, c.task = some i → i < 64 → s.launches = [] → ((coreAt t (k / 4)).tasks[i]?.map (·.status)) = some .free)) ∧
    (Issues (.fencel p) p s → ∃ t, exec (.fencel p) s = .next t ∧ t.reqs = sent ∧ ctxAt t k = { c with fencel := s.nextId } ∧ OthersKept s t k ∧
      MemoryKept s t ∧ CoresKept s t ∧ PartKept s t) ∧
    (Issues (.fenceh sc p) p s → ∃ t f, exec (.fenceh sc p) s = .next t ∧ t.reqs = sent ∧ ctxAt t k = { c with fence := some f } ∧
      f.scope = max ((c.fence.map (·.scope)).getD 0) sc.val ∧ f.points = false ∧ (∀ r ∈ sent, r.ctx = k → r.status ≠ .performed → r.status ≠ .refused → r.id ∈ f.waits) ∧
      OthersKept s t k ∧ MemoryKept s t ∧ CoresKept s t ∧ PartKept s t) ∧
    serves (.svc code p) code ∧ serves (.svcNop p) 0 ∧ serves (.svcLog p) 1 ∧ serves (.svcProbe p) 2 ∧ serves (.svcTouch p) 3

/-! ## Engine registers, copies and streams at issue (10 R238-R248) -/

/-- R238, R240, R244, R245, R248: EWR and ERD; a COPY with a legal pattern is outstanding with what it read at issue, one with
an illegal pattern is PERM with TADDR 0; COPY to a rack opens a tray of it, or with no FREE tray counts a drop and decrements its counter, and a
pattern beyond the tray is PERM; BIND binds its register, a refused one is PERM and keeps the old binding (the model's choice, log entry
55), and UNBIND ends a binding. -/
def Obligations.EngineOperations : Prop :=
  ∀ (e : Fin 16) (d a b : SReg) (f : Fin 8) (c : Fin 64) (n : Fin 8) (p : Tag) (s : State),
    let k := s.cur.key
    let x := ctxAt s k
    let pattern := eAll x e
    let copy : Instr := .copy e a b c p
    let rack : Instr := .copyRack e a b c p
    let carries := fun (y : Copy) => y.id = s.nextId ∧ y.ctx = k ∧ y.pattern = pattern ∧ y.src = readS s a ∧ y.counter = c ∧
      y.moved = [] ∧ y.failed = none ∧ y.taskEnded = false
    let binds := fun (i : Instr) (out : Bool) => Issues i p s → bindOk pattern (readS s a) out = true → s.cur.pops = [] →
      ∃ t st, exec i s = .next t ∧ st.out = out ∧ st.pattern = pattern ∧ st.base = readS s a ∧ st.pos = 0 ∧ st.queue = [] ∧
        ctxAt t k = { x with streams := x.streams.setIfInBounds n (some st),
                             committed := x.committed || commits s k i } ∧ OnlyContext s t k
    (Issues (.ewr e a f p) p s → ∃ t, exec (.ewr e a f p) s = .next t ∧
      Sends (.ewr e a f p) s t ⟨.engine, 8 * e + f⟩ 1 ((readS s a).setWidth 2048) (BitVec.allOnes 2048) false 0) ∧
    (Issues (.erd e d f p) p s → ∃ t, exec (.erd e d f p) s = .next t ∧ SendsScalar (.erd e d f p) s t d 2 (x.e[8 * e.val + f]?.getD 0) false) ∧
    (Issues copy p s → patternOk pattern = true → ∃ t y, exec copy s = .next t ∧ AddsCopy copy s t y ∧ t.jobs = s.jobs ∧
      carries y ∧ y.dst = readS s b ∧ y.rack = none ∧ y.long = (longRange (readS s a) || longRange (readS s b))) ∧
    (Issues copy p s → patternOk pattern = false → ∃ t, exec copy s = .next t ∧ FindsLate copy s t .perm 0) ∧
    (∀ j id r, Issues rack p s → rackTarget s k (readS s b) = some (j, id, r) → patternOk pattern = true →
      0 ≤ (patternExtent pattern true).1 → (patternExtent pattern true).2 < r.size → ∀ r' tr, openTray r (some s.nextId) = (r', some tr) →
      ∃ t y, exec rack s = .next t ∧ AddsCopy rack s t y ∧ carries y ∧ y.rack = some (id, tr) ∧
        y.dst = r.base + BitVec.ofNat 64 (tr * r.size) ∧ jobOfCtx t k = some { j with racks := j.racks.set id r' } ∧
        (∀ x, x ≠ j.id → jobAt t x = jobAt s x) ∧ r'.command = some s.nextId ∧ (r'.trays[tr]?).map (·.opened) = some true) ∧
    (∀ j id r r', Issues rack p s → rackTarget s k (readS s b) = some (j, id, r) → patternOk pattern = true →
      0 ≤ (patternExtent pattern true).1 → (patternExtent pattern true).2 < r.size → openTray r (some s.nextId) = (r', none) →
      ∃ t, exec rack s = .next t ∧ t.copies = s.copies ∧ t.reqs = s.reqs ∧ MemoryKept s t ∧ OthersKept s t k ∧
        jobOfCtx t k = some { j with racks := j.racks.set id r' } ∧ r'.drops = min 65535 (r.drops + 1) ∧
        (coreAt t (k / 4)).counters =
          (coreAt s (k / 4)).counters.setIfInBounds c (((coreAt s (k / 4)).counters[c.val]?).getD 0 - 1)) ∧
    (∀ j id r, Issues rack p s → rackTarget s k (readS s b) = some (j, id, r) →
      patternOk pattern = false ∨ (patternExtent pattern true).1 < 0 ∨ (r.size : Int) ≤ (patternExtent pattern true).2 →
      ∃ t, exec rack s = .next t ∧ FindsLate rack s t .perm 0) ∧
    (Issues rack p s → rackTarget s k (readS s b) = none → ∃ t, exec rack s = .next t ∧ FindsLate rack s t .rackid (readS s b)) ∧
    binds (.bindIn e a n p) false ∧ binds (.bindOut e a n p) true ∧
    (Issues (.bindIn e a n p) p s → bindOk pattern (readS s a) false = false → ∃ t, exec (.bindIn e a n p) s = .next t ∧
      FindsLate (.bindIn e a n p) s t .perm 0) ∧
    (Issues (.bindOut e a n p) p s → bindOk pattern (readS s a) true = false → ∃ t, exec (.bindOut e a n p) s = .next t ∧
      FindsLate (.bindOut e a n p) s t .perm 0) ∧
    (Issues (.unbind n p) p s → s.cur.pops = [] → ∃ t, exec (.unbind n p) s = .next t ∧
      ctxAt t k = { x with streams := x.streams.setIfInBounds n none } ∧ OnlyContext s t k)

/-! ## The matrix engine at issue (11 R252-R273) -/

/-- R252, R266-R273, 02 R39: a matrix command on a tile of its context's mask that meets no fault enters its core's queue with
the operands read at issue (the super-scale of an MMA of pair 2 and the counter of MST's completion word among them), and its tile is
busy; MST to a rack opens its tray, or with no FREE one counts a drop and decrements its counter; on any other tile it is PERM with TADDR 0; MPRI sets the matrix priority. -/
def Obligations.MatrixOperations : Prop :=
  ∀ (e : Fin 16) (a b : SReg) (t : Fin 16) (pair : Fin 8) (axis q : Fin 4) (imm : BitVec 32) (p : Tag) (s : State),
    let k := s.cur.key
    let x := ctxAt s k
    let f := eAll x e
    let queuesWith := fun (i : Instr) (A B : Word) (layout : Vector Word 8) (counter : Option Nat) (P : MatrixCmd → Prop) =>
      Issues i p s → tileAllowed s k t = true →
      ∃ u m, exec i s = .next u ∧ AddsCommand i s u m ∧ m.id = s.nextId ∧ m.ctx = k ∧ m.op = i ∧ m.tile = t ∧ m.a = A ∧ m.b = B ∧
        m.layout = layout ∧ m.prio = x.mprio ∧ m.phase = .queued ∧ m.step = 0 ∧ m.flags = 0 ∧ m.failed = none ∧ m.rack = none ∧
        m.counter = counter ∧ u.jobs = s.jobs ∧ P m
    let queues := fun (i : Instr) (A B : Word) (layout : Vector Word 8) => queuesWith i A B layout none fun _ => True
    let counter : Option Nat := if bits (readS s b) 6 6 = 1 then none else some (bits (readS s b) 5 0)
    let denied := fun (i : Instr) => Issues i p s → tileAllowed s k t = false → ∃ u, exec i s = .next u ∧ FindsLate i s u .perm 0
    let zero : Vector Word 8 := Vector.replicate 8 0
    (mmaFault s k e (readS s a) (readS s b) pair = none → queuesWith (.mma e a b t pair p) (readS s a) (readS s b) f none fun m =>
      pair.val = 2 → bits f[2] 0 0 = 0 → m.ss = ((x.sc[bits f[2] 23 16]?).map (·.ss)).getD 0) ∧
    (mmasFault s k e (readS s a) (readS s b) = none → queues (.mmas e a b t axis p) (readS s a) (readS s b) f) ∧
    queues (.mzero t p) 0 0 zero ∧
    (f[1].toNat < 2 → rowAlign (readS s a) f[0] 4 = none → queues (.mld e a t p) (readS s a) 0 f) ∧
    (mstOk f (readS s b) = true → rowAlign (readS s a) f[0] (outBytes f[1]) = none → queuesWith (.mst e a b t p) (readS s a) 0 f counter fun _ => True) ∧
    queues (.mproof a t p imm) (readS s a) 0 zero ∧
    denied (.mma e a b t pair p) ∧ denied (.mmas e a b t axis p) ∧ denied (.mzero t p) ∧ denied (.mld e a t p) ∧
    denied (.mst e a b t p) ∧ denied (.mstRack e a b t p) ∧ denied (.mproof a t p imm) ∧
    (∀ j id r r' tr, Issues (.mstRack e a b t p) p s → tileAllowed s k t = true → rackTarget s k (readS s a) = some (j, id, r) →
      mstOk f (readS s b) = true → 127 * f[0].toNat + 96 * outBytes f[1] ≤ r.size → openTray r (some s.nextId) = (r', some tr) →
      rowAlign (trayAddr r' tr) f[0] (outBytes f[1]) = none →
      ∃ u m, exec (.mstRack e a b t p) s = .next u ∧ AddsCommand (.mstRack e a b t p) s u m ∧ m.rack = some (id, tr) ∧
        m.a = trayAddr r' tr ∧ m.layout = f ∧ m.tile = t ∧ m.counter = counter ∧ m.prio = x.mprio ∧ m.phase = .queued ∧
        jobOfCtx u k = some { j with racks := j.racks.set id r' } ∧ (∀ y, y ≠ j.id → jobAt u y = jobAt s y) ∧
        r'.command = some s.nextId ∧ (r'.trays[tr]?).map (·.opened) = some true) ∧
    (∀ j id r r', Issues (.mstRack e a b t p) p s → tileAllowed s k t = true → rackTarget s k (readS s a) = some (j, id, r) →
      mstOk f (readS s b) = true → 127 * f[0].toNat + 96 * outBytes f[1] ≤ r.size → openTray r (some s.nextId) = (r', none) →
      ∃ u, exec (.mstRack e a b t p) s = .next u ∧ (coreAt u (k / 4)).queue = (coreAt s (k / 4)).queue ∧ (∀ n y, tileAt u n y = tileAt s n y) ∧
        MemoryKept s u ∧ OthersKept s u k ∧ jobOfCtx u k = some { j with racks := j.racks.set id r' } ∧ r'.drops = min 65535 (r.drops + 1) ∧
        (coreAt u (k / 4)).counters = (match counter with
          | some c => (coreAt s (k / 4)).counters.setIfInBounds c (((coreAt s (k / 4)).counters[c]?).getD 0 - 1)
          | none => (coreAt s (k / 4)).counters)) ∧
    (Issues (.mpri q p) p s → ∃ u, exec (.mpri q p) s = .next u ∧ ctxAt u k = { x with mprio := q } ∧ OnlyContext s u k)

/-! ## Tasks, groups and hand-overs at issue (17 R344-R355, 13 R282) -/

/-- R345-R355, 13 R282: TSET sets its counter; TWAIT changes nothing; TDEC, SPAWN, ASEND and GSEND leave as requests; READY
reserves entries of the core for the group and UNREADY gives them up; PEEL asks for a hand-over. -/
def Obligations.TaskOperations : Prop :=
  ∀ (e : Fin 16) (a b : SReg) (c : Fin 64) (q : Fin 4) (p : Tag) (s : State),
    let k := s.cur.key
    let n := k / 4
    let f := eAll (ctxAt s k) e
    let cores := ((jobOfCtx s k).map (·.n)).getD 0
    let leaves := fun (i : Instr) (addr arg : Word) => ∃ t r, exec i s = .next t ∧ Requests i s t r ∧
      Carries s r i addr arg 0 0 0 ∧ (i = .tdec a b c p ∨ r.args = f)
    (Issues (.tset a c p) p s → (readS s a).toNat ≤ 65535 → ∃ t, exec (.tset a c p) s = .next t ∧
      (coreAt t n).counters = (coreAt s n).counters.setIfInBounds c (readS s a).toNat ∧ MemoryKept s t ∧ WorkKept s t) ∧
    (Issues (.tset a c p) p s → 65535 < (readS s a).toNat →
      ∃ t, exec (.tset a c p) s = .next t ∧ FindsLate (.tset a c p) s t .perm (readS s a)) ∧
    (Issues (.twait c p) p s → exec (.twait c p) s = .next s) ∧
    (Issues (.tdec a b c p) p s → (readS s a).toNat < cores → (readS s b).toNat ≤ 65535 →
      leaves (.tdec a b c p) (readS s a) (readS s b)) ∧
    (Issues (.spawn e a b q p) p s → (readS s a).toNat < cores → handlerOk (readS s b) = true →
      leaves (.spawn e a b q p) (readS s a) (readS s b)) ∧
    (Issues (.spawn e a b q p) p s → cores ≤ (readS s a).toNat →
      ∃ t, exec (.spawn e a b q p) s = .next t ∧ FindsLate (.spawn e a b q p) s t .perm (readS s a)) ∧
    (Issues (.asend e a b p) p s → asendRefused s (readS s a) = false → (readS s b).toNat % 4 = 0 →
      leaves (.asend e a b p) (readS s a) (readS s b)) ∧
    (∀ g, Issues (.gsend e a p) p s → namedGroup s k (readS s a) false = some g → handlerOk f[0] = true →
      leaves (.gsend e a p) (readS s a) 0) ∧
    (Issues (.gsend e a p) p s → namedGroup s k (readS s a) false = none →
      ∃ t, exec (.gsend e a p) s = .next t ∧ FindsLate (.gsend e a p) s t .groupid (readS s a)) ∧
    (∀ j g, Issues (.ready a b p) p s → namedGroup s k (readS s a) true = some (j, g) → readS s b ≠ 0 →
      (readS s b).toNat + roomOf g (ctxId s k) ≤ 64 → (readS s b).toNat ≤ freeEntries (coreAt s n).tasks →
      ∃ t u, exec (.ready a b p) s = .next t ∧ t.updates = s.updates ++ [u] ∧ u.delta = ((readS s b).toNat : Int) ∧
        u.group = (readS s a).toNat ∧ u.child = .core n ∧ u.refresh = false ∧ MemoryKept s t ∧
        (coreAt t n).tasks = reserve (coreAt s n).tasks (k % 4) (readS s a) (readS s b).toNat) ∧
    (∀ j g, Issues (.unready a p) p s → namedGroup s k (readS s a) true = some (j, g) → roomOf g (ctxId s k) ≠ 0 →
      s.launches = [] → ∃ t u, exec (.unready a p) s = .next t ∧ t.updates = s.updates ++ [u] ∧
        u.delta = -(roomOf g (ctxId s k) : Int) ∧ u.group = (readS s a).toNat ∧ u.child = .core n ∧ MemoryKept s t ∧
        ∀ (i : Nat) (x : Task), (coreAt t n).tasks[i]? = some x → isReserved (k % 4) (readS s a) x = false) ∧
    (∀ j, Issues (.peel a b c p) p s → jobOfCtx s k = some j → (readS s a).toNat ≤ 11 →
      holdsStack j (boundStack j (readS s a).toNat) = true → (readS s b).toNat ≤ 3 →
      (boundDie j (readS s b).toNat = homeDie (boundStack j (readS s a).toNat) ∨
        boundDie j (readS s b).toNat = otherDie (boundStack j (readS s a).toNat)) →
      ∃ t h, exec (.peel a b c p) s = .next t ∧ t.handovers = s.handovers ++ [h] ∧ h.stack = boundStack j (readS s a).toNat ∧
        h.toDie = boundDie j (readS s b).toNat ∧ h.step = 0 ∧ MemoryKept s t) ∧
    ∀ j, Issues (.peel a b c p) p s → jobOfCtx s k = some j →
      (11 < (readS s a).toNat ∨ holdsStack j (boundStack j (readS s a).toNat) = false) →
      ∃ t, exec (.peel a b c p) s = .next t ∧ FindsLate (.peel a b c p) s t .stackown (readS s a)

/-! ## Exceptions (21 R372-R385) -/

/-- R375, R378-R380, 22 R398: an entry for a trap with no streams bound, records within the frame's room, and no engine command that writes the
frame's area (R377): the PC, CAUSE, ADDR, BUNDLE and CCYC
words, s60-s63, the loop count, the flight records in the order of issue with what has still to pass, the pending entries and the ARRIVE words of
the frame; s60, s61 and s62; H and EN; the handler at TVEC; other registers and the bytes
outside the frame as before. -/
def Obligations.TrapEntry : Prop :=
  ∀ (s : State) (k : Nat) (f : FaultRec),
    let c := ctxAt s k
    let base := framePhys s k
    atBoundary s k = true → candidate c = some (.trap f) → f.cause ≠ .ue → f.inHandler = false → c.tvec ≠ 0 →
    c.streams = Vector.replicate 8 none → frameClash s k = [] → (∀ x ∈ c.flights, c.ccyc + 1 < x.land ∧ x.land ≤ c.ccyc + 8 ∧ x.dest.ix < 128) →
    c.flights.length ≤ 24 → c.loops.length ≤ 6 → c.held.length ≤ 32 →
    (∀ a ∈ c.arrivals, a.barrier < 256) → c.withdrawn = [] →
    let kept := c.flights.filter fun x => !superseded s k x
    let pend := withdrawnOf (prepareEntry s k) k
    pend.length ≤ 127 → wfMemory s.mem = true →
    ∃ t, exec (.trapEntry k) s = .next t ∧
      let d := ctxAt t k
      d.pc = c.tvec ∧ d.h = true ∧ d.en = false ∧ d.tcause = BitVec.ofNat 25 f.tcause ∧ d.taddr = f.addr ∧ d.loops = [] ∧
      sVal d 60 = tfb s k ∧ sVal d 61 = BitVec.ofNat 64 f.tcause ∧ sVal d 62 = f.addr ∧ sVal d 63 = sVal c 63 ∧
      (∀ r, r < 60 → sVal d r = sVal c r) ∧ d.v = c.v ∧ d.p = c.p ∧ d.e = c.e ∧ d.sc = c.sc ∧ d.flights = [] ∧
      (kept = c.flights → d.fpstat = c.fpstat) ∧ d.tvec = c.tvec ∧ d.evec = c.evec ∧ d.emask = c.emask ∧ d.epend = c.epend ∧ d.ccyc = c.ccyc ∧
      readLE t.mem base 8 = c.pc.toNat ∧ readLE t.mem (base + 0x08) 8 = f.tcause ∧ readLE t.mem (base + 0x10) 8 = f.addr.toNat ∧
      readLE t.mem (base + 0x18) 8 = f.bundle.toNat ∧ readLE t.mem (base + 0x20) 8 = c.ccycLast % 2 ^ 64 ∧ readLE t.mem (base + 0x2C) 1 = c.loops.length ∧
      readLE t.mem (base + 0x40) 8 = (sVal c 60).toNat ∧ readLE t.mem (base + 0x48) 8 = (sVal c 61).toNat ∧
      readLE t.mem (base + 0x50) 8 = (sVal c 62).toNat ∧ readLE t.mem (base + 0x58) 8 = (sVal c 63).toNat ∧
      readLE t.mem (base + 0x28) 2 = kept.length ∧ readLE t.mem (base + 0x2A) 2 = pend.length ∧ readLE t.mem (base + 0x2E) 2 = c.held.length ∧
      (∀ j f, kept[j]? = some f →
        let w := readLE t.mem (base + 0x100 + 16 * j) 8
        let slot := base + 0x400 + 288 * j
        w % 2 ^ 7 = f.dest.ix ∧ w / 2 ^ 7 % 2 ^ 3 = fileNo f.dest.file ∧ (w / 2 ^ 10 % 2 = 1 ↔ f.df = true) ∧
        w / 2 ^ 11 % 2 ^ 3 = f.land - (c.ccyc + 1) ∧ w / 2 ^ 16 % 2 ^ 6 = f.flags.toNat ∧
        (f.dest.file = .scalar → readLE t.mem (base + 0x108 + 16 * j) 8 = f.value.toNat % 2 ^ 64) ∧
        (f.dest.file = .vector → readLE t.mem slot 256 = f.value.toNat ∧
          ∀ i, i < 128 → (readLE t.mem (slot + 256) 32).testBit i = f.mask.getLsbD (16 * i)) ∧
        (f.dest.file = .pred → readLE t.mem slot 16 = f.value.toNat % 2 ^ 128) ∧
        (f.dest.file = .scale → readLE t.mem slot 132 = f.value.toNat % 2 ^ 1056 ∧
          ∀ i, i < 132 → (readLE t.mem (slot + 256) 32).testBit i = f.mask.getLsbD (8 * i))) ∧
      (∀ j r, pend[j]? = some r → readLE t.mem (base + 0x2000 + 16 * j) 8 = slotBits r.op + 2 ^ 32 * ((pendKind r).getD 0) ∧
        readLE t.mem (base + 0x2008 + 16 * j) 8 =
          if isBwait r.op then r.arg2.toNat % 2 ^ 32 + 2 ^ 32 * bits r.addr 7 0 else r.addr.toNat) ∧
      (∀ a ∈ c.arrivals, a.pending = false → (∀ b ∈ c.arrivals, b.barrier = a.barrier → b = a) →
        readLE t.mem (base + 0x3200 + 4 * a.barrier) 4 = a.phase % 2 ^ 32) ∧
      (∀ b, b < 256 → (∀ a ∈ c.arrivals, a.barrier ≠ b) → readLE t.mem (base + 0x3200 + 4 * b) 4 = 0) ∧
      (∀ a, a < base ∨ base + 0x4000 ≤ a → readByte t.mem a = readByte s.mem a) ∧ OthersKept s t k

/-- R373-R376, R384, R385: an enabled pending event enters at EVEC with the events taken in TCAUSE; a late fault is delivered
at TVEC with its own cause; a fault found in a handler's code, or with TVEC zero, ends the job instead.

05 R96, 06 R106-R110, 10 R230, 11 R259: the checks that stop a bundle before it issues, each with its cause, position and TADDR: ILLDEP of
an item that the issue group writes or that two operations write; ILLBANK of two bank forms of one bank group, both at the later of the two
positions (the model's reading of R96's first offending position, log entry 8); and, with nothing to wait
for, DFUSE of a deferred-faulted source, BANKRANGE of a unit beyond its bank, MATRIXBANK of operands that share a bank group, or that
need any byte of group 7 beside a tile handle. What such a verdict does to a step is in StepRunsDecodedInstruction. -/
def Obligations.EventAndFaultEntries : Prop :=
  (∀ (s : State) (k p q : Nat) (taken : Option Nat) (h : Word) (len : Nat) (all : List Op),
    let c := ctxAt s k
    let traps := fun (ex : List Op) (cause : Cause) (pos : Nat) (a : Word) => ∃ f, verdict s k taken h len all ex = .trap f ∧
      f.cause = cause ∧ f.pos = pos ∧ f.addr = a ∧ f.bundle = h ∧ f.late = false
    let fits := fun (ex : List Op) => sysDefect all ex = none ∧ (ex.find? fun x => loopEndsShort len x.2) = none
    let noWait := fun (ex : List Op) => staticDefect s k taken len all ex = none ∧ (ex.findSome? fun y => streamFault c y.2) = none ∧
      bundleWaits s k taken ex = false
    (∀ y, p < 10 → fits [(p, y)] → (∃ i ∈ (usesOf c y).reads ++ (usesOf c y).writes, i ∈ c.group) → traps [(p, y)] .illdep p 0) ∧
    (∀ y z, p < 10 → q < 10 → fits [(p, y), (q, z)] → c.group = [] → (∃ i ∈ (usesOf c y).writes, i ∈ (usesOf c z).writes) →
      (∃ r, (r = p ∨ r = q) ∧ traps [(p, y), (q, z)] .illdep r 0) ∧
      (c.flights.length ≤ 22 → c.streams = Vector.replicate 8 none → traps [(p, y), (q, z)] .illdep q 0)) ∧
    (∀ (d d' : VReg) (b b' : Fin 32) (x x' : SReg) (o o' : Fin 64) (t t' : Tag) (z : Instr), p < 10 → q < 10 → z = .vstb d' b' x' o' t' ∨ (z = .vldb d' b' x' o' t' ∧ d ≠ d') →
      fits [(p, .vldb d b x o t), (q, z)] → c.group = [] → c.flights.length ≤ 22 → c.streams = Vector.replicate 8 none →
      b.val / 4 = b'.val / 4 → traps [(p, .vldb d b x o t), (q, z)] .illbank q 0) ∧
    (∀ y, noWait [(p, y)] → (∀ t, y ≠ .rft t) → (usesOf c y).strict = true →
      (∃ r ∈ (usesOf c y).rs, sDf c r = true) ∨ (∃ r ∈ (usesOf c y).rv, vDf c r = true) → traps [(p, y)] .dfuse p 0) ∧
    (∀ (d : VReg) (b : Fin 32) (x : SReg) (o : Fin 64) (t : Tag) (y : Instr), y = .vldb d b x o t ∨ y = .vstb d b x o t → noWait [(p, y)] → dfuseDefect c y = false →
      512 ≤ (sVal c x + BitVec.ofNat 64 o.val).toNat → traps [(p, y)] .bankrange p (sVal c x + BitVec.ofNat 64 o.val)) ∧
    ∀ e a b t w g oa, let y : Instr := .mma e a b t w g
      let last := fun o n : Nat => (o + (n - 1)) / 0x80000
      let lo := windowAddr (coreAt s (k / 4)).logical 0
      noWait [(p, y)] → dfuseDefect c y = false → matrixCount c e ≠ 0 →
      (bits (eVal c e 2) 0 0 = 1 → (∃ n, n < mmaABytes c e w ∧ lo + 0x380000 ≤ (sVal c a).toNat + n ∧ (sVal c a).toNat + n < lo + 0x400000) →
        traps [(p, y)] .matrixbank p 0) ∧
      ∀ ob i, ownOffset s k (sVal c a) (mmaABytes c e w) = some oa → bits (eVal c e 2) 0 0 = 0 → ownOffset s k (sVal c b) (mmaBBytes c e w) = some ob → i < 8 →
        oa / 0x80000 ≤ i → i ≤ last oa (mmaABytes c e w) → ob / 0x80000 ≤ i → i ≤ last ob (mmaBBytes c e w) →
        traps [(p, y)] .matrixbank p 0) ∧
  ∀ (s : State) (k : Nat) (f : FaultRec),
    let c := ctxAt s k
    let job := (coreAt s (k / 4)).job.getD 0
    atBoundary s k = true →
    c.streams = Vector.replicate 8 none → (∀ x ∈ c.flights, c.ccyc + 1 < x.land) → c.held.length ≤ 32 →
    (candidate c = some .event → jobStops s k = false → ∃ t, exec (.eventEntry k) s = .next t ∧
      (ctxAt t k).pc = c.evec ∧ (ctxAt t k).h = true ∧ (ctxAt t k).en = false ∧ (ctxAt t k).taddr = 0 ∧
      (ctxAt t k).tcause = BitVec.ofNat 25 (65 + 256 * (c.epend &&& c.emask).toNat + 1048576 * 15)) ∧
    (candidate c = some (.late f) → f.cause ≠ .ue → f.inHandler = false → c.tvec ≠ 0 → c.trap = none → c.late = [f] →
      c.held = [] → f.load = none → ∃ t, exec (.lateFaultDelivery k) s = .next t ∧ (ctxAt t k).pc = c.tvec ∧
        (ctxAt t k).h = true ∧ (ctxAt t k).tcause = BitVec.ofNat 25 f.tcause ∧ (ctxAt t k).taddr = f.addr ∧ (ctxAt t k).late = []) ∧
    ∀ j, candidate c = some (.trap f) → f.cause ≠ .ue → f.inHandler = true ∨ c.tvec = 0 → jobAt s job = some j → j.status ≠ .ended →
      ∃ t x, exec (.trapEntry k) s = .next t ∧ jobAt t job = some x ∧ x.status = .ended ∧ x.binding = [] ∧
        t.health.jerrId = job ∧ t.health.jerrCode = f.cause.code

/-- R381: RFT that issues restores from the frame, as its bundle issued, the PC, the loop stack, s60-s63, and EN and H, and the matrix
priority saved with it (log entry 41); every other scalar register,
every vector register, predicate and special register and all of memory are as before. -/
def Obligations.ReturnFromTrap : Prop :=
  ∀ (s : State) (p : Tag),
    let k := s.cur.key
    let c := ctxAt s k
    let base := framePhys s k
    let m := (asIssued s).mem
    Issues (.rft p) p s → ∃ t, exec (.rft p) s = .next t ∧
      let d := ctxAt t k
      d.pc = BitVec.ofNat 64 (readLE m base 8) ∧ d.h = false ∧ d.en = true ∧ d.afterRft = true ∧ d.mprio = c.mprioSaved ∧
      d.loops.length = readLE m (base + 0x2C) 1 ∧
      (∀ i, i < 4 → sVal d (60 + i) = BitVec.ofNat 64 (readLE m (base + 0x40 + 8 * i) 8)) ∧
      (∀ i, i < readLE m (base + 0x2C) 1 → d.loops[readLE m (base + 0x2C) 1 - 1 - i]? =
        some ⟨BitVec.ofNat 64 (readLE m (base + 0x60 + 24 * i) 8), BitVec.ofNat 64 (readLE m (base + 0x68 + 24 * i) 8),
          BitVec.ofNat 64 (readLE m (base + 0x70 + 24 * i) 8)⟩) ∧
      (∀ r, r < 60 → sVal d r = sVal c r) ∧ d.v = c.v ∧ d.p = c.p ∧ d.e = c.e ∧ d.sc = c.sc ∧ d.fpstat = c.fpstat ∧
      d.tcause = c.tcause ∧ d.taddr = c.taddr ∧ d.epend = c.epend ∧ d.emask = c.emask ∧ d.tvec = c.tvec ∧ d.evec = c.evec ∧
      MemoryKept s t ∧ OthersKept s t k ∧ CoresKept s t

/-- R165, R388-R390: TIMER_EXPIRY raises EPEND.TIMER and stops the timer; the service context takes the stage for the oldest
cause; on a return within 20,000 clocks it answers SVC 1, 2 and 3 in s1, and an undefined code in TCAUSE; after 20,000 clocks it is made to
return. How TIMER is kept is the
model's form (log entry 15). -/
def Obligations.TimerAndServiceContext : Prop :=
  ∀ (s : State) (k n : Nat),
    let c := ctxAt s k
    let core := coreAt s n
    (∀ d, c.timerAt = some d → d ≤ timeNow s → c.frozen = false → ∃ t, exec (.timerExpiry k) s = .next t ∧
      (ctxAt t k).epend = c.epend ||| 1 ∧ (ctxAt t k).timerAt = none ∧ (ctxAt t k).s = c.s ∧ (ctxAt t k).pc = c.pc ∧ OnlyContext s t k) ∧
    (∀ x l, core.services = x :: l → core.service = none → core.storeOk = true → ∃ t,
      exec (.serviceContextEntry n) s = .next t ∧ (coreAt t n).services = l ∧ (coreAt t n).service = some (x, s.clock) ∧
      MemoryKept s t ∧ WorkKept s t) ∧
    (∀ j q code since, core.service = some (.svc q code, since) → core.services = [] → jobOfCore s n = some j → q / 4 = n →
      s.clock < since + 20000 → (ctxAt s q).status = .serviced → (ctxAt s q).waitc = 0 → ∃ t, exec (.serviceContextReturn n) s = .next t ∧ (coreAt t n).service = none ∧
        (ctxAt t q).status = .ready ∧ MemoryKept s t ∧
        (code = 2 → sVal (ctxAt t q) 1 = BitVec.ofNat 64 (probeBits j (sVal (ctxAt s q) 1).toNat)) ∧
        (code = 1 → sVal (ctxAt t q) 1 = 0) ∧
        (code = 3 → sVal (ctxAt t q) 1 = BitVec.ofNat 64 (touchCode j (sVal (ctxAt s q) 1).toNat)) ∧
        (3 < code.toNat → (ctxAt t q).tcause = BitVec.ofNat 25 (64 + 256 * code.toNat) ∧ (ctxAt t q).s = (ctxAt s q).s)) ∧
    (∀ x since, core.service = some (x, since) → since + 20000 ≤ s.clock → ∃ t, exec (.serviceDeadline n) s = .next t ∧
      exec (.serviceContextReturn n) s = .next t ∧ (coreAt t n).service = none ∧
      -- the fate of a stream's transfer may end the job, whose own entries follow
      ((match x with | .stream q i _ => ∀ st j, ((ctxAt s q).streams[i]?).getD none = some st → jobOfCore s n = some j → nextFate s j st = none | _ => True) →
        ∃ e ∈ t.log, e.kind = 12 ∧ e.core = n))

/-! ## Requests on the fabric (04 R73-R75, 13 R281-R285, 10 R220, R232) -/

/-- R298, 10 R220, 13 R277, R281, R285, 10 R232: a gathered store is sent; a walk that its page answers sends its request
by the route its core or its die's walker holds, else to the owner, and a write waits there for a read of its own bundle (00 R7); one that a page fails gives it to the service context; a stale
request is sent on to the owner with a mark, unless its way to the die that refuses it pauses (04 R78); the response of a withdrawn load
is discarded, and its mark updates the core's route (20 R369, 21 Table intr-3); a full/empty request that reaches its slice is served or held. -/
def Obligations.RequestsTravel : Prop :=
  ∀ (s : State) (id : Nat) (r : Req) (j : Job), reqAt s id = some r → jobOfCtx s r.ctx = some j →
    let core := r.ctx / 4
    let becomes := fun (i : Instr) (r' : Req) => ∃ t, exec i s = .next t ∧ reqAt t id = some r' ∧ MemoryKept s t ∧ t.ctxs = s.ctxs
    (r.heads = true → becomes (.gatherBufferFlush id) (sendReq s r)) ∧
    (r.status = .walking → readInCore s r = true → exec (.translationWalkComplete id) s = .next s) ∧
    (∀ a n w st, r.status = .walking → mayEnter s r = true → readInCore s r = false → isFullEmpty r.op = false → reqTargets r = [(a, n, w)] →
      stackOf j a = some st → (cachedRoute s core j.id (a / 65536) = none → handing s st 1 4 = false) → walkFate j (a, n, w) = none →
      becomes (.translationWalkComplete id) { departs s.nextId r with
        ways := [(a / 65536, (cachedRoute s core j.id (a / 65536)).getD
          ((cachedRoute s (256 + coreDie core) j.id (a / 65536)).getD (ownerDie s st)))] }) ∧
    (∀ a n w e, r.status = .walking → mayEnter s r = true → readInCore s r = false → isFullEmpty r.op = false → reqTargets r = [(a, n, w)] → (∀ st, stackOf j a = some st → handing s st 1 4 = false) →
      walkFate j (a, n, w) = some e → isSpeculative r.op = false → r.discard = false → (coreAt s core).services = [] →
      (coreAt s core).service = none → (ctxAt s r.ctx).status ≠ .idle → (ctxAt s r.ctx).status ≠ .ending →
      ∃ t, exec (.translationWalkComplete id) s = .next t ∧ (coreAt t core).services = [.walk id] ∧
        (ctxAt t r.ctx).status = .serviced ∧ t.mem = s.mem ∧ t.reqs = s.reqs) ∧
    (∀ v d st, r.status = .sent → r.ways = [(v, d)] → stackOf j (65536 * v) = some st → d ≠ ownerDie s st → handing s st 1 5 = false →
      if routePaused s core (v, d) = true then exec (.routeStaleResend id) s = .next s
      else becomes (.routeStaleResend id) { r with ways := [(v, ownerDie s st)], marks := r.marks ++ [v] }) ∧
    (∀ (g : Req) (v d : Nat), reqAt s g.id = none → ghostAt s g.id = some g → jobOfCtx s g.ctx = some j →
      g.status = .performed ∨ g.status = .refused → answerPaused s g = false → g.ways = [(v, d)] → g.marks = [v] →
      ∃ t, exec (.longResultLand g.id) s = .next t ∧ ghostAt t g.id = none ∧ t.ctxs = s.ctxs ∧ t.reqs = s.reqs ∧ MemoryKept s t ∧
        (cachedRoute s (g.ctx / 4) j.id v ≠ none → cachedRoute t (g.ctx / 4) j.id v = some d)) ∧
    (∀ pa, isFullEmpty r.op = true → r.status = .sent → inTurn s j r = true → r.discard = false → windowPhys s core r.addr = some pa →
      r.addr.toNat % feBytes r.op = 0 → sliceOff s pa = false → poisonedAt s.bad pa (feBytes r.op) = none →
      (∀ q ∈ s.reqs, q.status ≠ .held) → ∃ t r', exec (.fullEmptyRequestArrival id) s = .next t ∧ reqAt t id = some r' ∧
        t.mem = s.mem ∧ if includesAll s.full (pa / 16) (granules pa (feBytes r.op)) then
          r'.status = .performed ∧ r'.value = BitVec.ofNat 2048 (readLE s.mem pa (feBytes r.op)) else r'.status = .held)

/-- 15 R316-R319, 10 R231, R235, 04 R73: an access that has reached its place in its turn, with no fate there, is performed in one
step: a load answers the bytes there; a store writes its operand, and STF and VSTF set the full bits of their granules; an atomic
answers the old word and writes the new one; CAS writes only where the old word is the one expected; a gather answers the bytes of its
guarded lanes, those of the own slice as its bundle found them (00 R7); a scatter writes its guarded lanes and a vector atomic works on its 64 lanes one by one, ascending. No other byte
changes. A write of the own slice is over with that, for no acknowledgement comes (10 R226); any other waits for its answer. An access with a fate is refused with it, and writes nothing. -/
def Obligations.AccessesPerform : Prop :=
  ∀ (s : State) (id : Nat) (r : Req) (j : Job), AtItsPlace s id r j →
    (∀ c a, storeOutside r = false → reqFate s j r = some (c, a) → ∃ t r', exec (.remoteAccessPerform (.request id)) s = .next t ∧
      reqAt t id = some r' ∧ r'.status = .refused ∧ r'.found = some (c, a) ∧ MemoryKept s t ∧ t.ctxs = s.ctxs) ∧
    (storeOutside r = true → ∃ t r', exec (.remoteAccessPerform (.request id)) s = .next t ∧
      reqAt t id = some r' ∧ r'.status = .refused ∧ r'.found = some (.perm, r.addr) ∧ MemoryKept s t ∧ t.ctxs = s.ctxs) ∧
    (∀ n w pa d a b rl p, storeOutside r = false → reqAccess r.op = some (n, w) → access s j r.addr.toNat n (match r.op with | .qsts .. => 1 | _ => n) w = .ok pa →
      PerformsAs s r fun t x => OnlyBytes s.mem t.mem pa n ∧
        let old := BitVec.ofNat 64 (readLE s.mem pa 8)
        let new := BitVec.ofNat 64 (readLE t.mem pa 8)
        let y := r.arg1
        (w = false → t.mem = s.mem ∧ x = BitVec.ofNat 2048 (readLE s.mem pa n)) ∧
        (w = true → isSyncAccess r.op = false → readLE t.mem pa n = r.vec1.toNat % 2 ^ (8 * n)) ∧
        (isFullEmptyStore r.op = false → t.full = s.full) ∧
        (isFullEmptyStore r.op = true → inSlice pa = true → (∀ q ∈ s.reqs, q.status ≠ .held) →
          t.full = includeFrom s.full (pa / 16) (granules pa n)) ∧
        (∀ c z, r.op = .strel d a c z p → readLE t.mem pa n = r.vec1.toNat % 2 ^ (8 * n)) ∧
        (r.op = .atomAdd d a b rl p → x = old.setWidth 2048 ∧ new = old + y) ∧
        (r.op = .atomMin d a b rl p → x = old.setWidth 2048 ∧ new = if old.toInt < y.toInt then old else y) ∧
        (r.op = .atomMax d a b rl p → x = old.setWidth 2048 ∧ new = if old.toInt < y.toInt then y else old) ∧
        (r.op = .atomMinn d a b rl p → x = old.setWidth 2048 ∧ new = if old.toNat < y.toNat then old else y) ∧
        (r.op = .atomMaxn d a b rl p → x = old.setWidth 2048 ∧ new = if old.toNat < y.toNat then y else old) ∧
        (r.op = .atomAnd d a b rl p → x = old.setWidth 2048 ∧ new = old &&& y) ∧
        (r.op = .atomOr d a b rl p → x = old.setWidth 2048 ∧ new = old ||| y) ∧
        (r.op = .atomXor d a b rl p → x = old.setWidth 2048 ∧ new = old ^^^ y) ∧
        (r.op = .atomSwap d a b rl p → x = old.setWidth 2048 ∧ new = y) ∧
        (r.op = .cas d a b rl p → x = old.setWidth 2048 ∧ new = if old = r.arg2 then y else old)) ∧
    ∀ (e f : VReg) (a : SReg) (g : Fin 8) (w : Fin 4) (rl : Fin 2) (p : Tag) (q : Nat → Nat),
      let z := gatherBytes w
      let lane := fun (n : Nat) (v : VWord) (l : Nat) => bits v (8 * n * l + (8 * n - 1)) (8 * n * l)
      let places := fun (n : Nat) (write : Bool) (sel : Nat → Bool) => ∀ l, l < 256 / n → sel l = true →
        access s j ((r.addr + BitVec.ofNat 64 (n * lane n r.vec1 l)).toNat) n n write = .ok (q l)
      -- the memory before each lane and after the last one
      let steps := fun (n : Nat) (sel : Nat → Bool) (new : Nat → BitVec 32 → Nat) (t : State) (after : Nat → List Host.Cell) =>
        after 0 = s.mem ∧ after (256 / n) = t.mem ∧ ∀ l, l < 256 / n → if sel l then OnlyBytes (after l) (after (l + 1)) (q l) n ∧
          readLE (after (l + 1)) (q l) n = new l (BitVec.ofNat 32 (readLE (after l) (q l) n)) else after (l + 1) = after l
      let atomics := fun (i : Instr) (new : BitVec 32 → BitVec 32 → BitVec 32) => r.op = i → places 4 true (fun _ => true) →
        PerformsAs s r fun t x => t.full = s.full ∧ ∃ after, steps 4 (fun _ => true) (fun l old => (new old (BitVec.ofNat 32 (lane 4 r.vec2 l))).toNat) t after ∧
          ∀ l, l < 64 → lane 4 x l = readLE (after l) (q l) 4
      (r.op = .vgath e a f g w p → r.found = none →
        let own := fun l => (ownOffset s r.ctx (BitVec.ofNat 64 (laneAddr r.addr r.vec1 z l)) z).isSome
        places z false (fun l => selected (8 * z) r.guard l && !own l) → PerformsAs s r fun t x => MemoryKept s t ∧
        ∀ l, l < 256 / z → selected (8 * z) r.guard l = true →
          lane z x l = if own l then lane z r.vec2 l else readLE s.mem (q l) z) ∧
      (r.op = .vscat e a f g w p → places z true (selected (8 * z) r.guard) → PerformsAs s r fun t _ => t.full = s.full ∧
        ∃ after, steps z (selected (8 * z) r.guard) (fun l _ => lane z r.vec2 l) t after) ∧
      atomics (.vatomAdd e a f rl p) (fun old y => old + y) ∧ atomics (.vatomAnd e a f rl p) (fun old y => old &&& y) ∧
      atomics (.vatomOr e a f rl p) (fun old y => old ||| y) ∧
      atomics (.vatomMax e a f rl p) (fun old y => if old.toInt < y.toInt then y else old)

/-- 06 R121, 10 R227-R232, 15 R319, R334, 04 R75: the response of a long load, an atomic, a BWAIT or a rack operation lands, extended by
its form, and the pending mark goes; of a gather the guarded lanes alone are written, with the deferred-fault bit of its sources; a
refused speculative load lands zero with the deferred-fault bit; any other refused operation is a late fault of its context, held while
a handler that did not issue it runs, and leaves the destination; the acknowledgement of a write frees its request. -/
def Obligations.ResponsesReturn : Prop :=
  ∀ (s : State) (id : Nat) (r : Req) (d a b : SReg) (v u : VReg) (o : BitVec 11) (m : BitVec 32) (sc g : Fin 8) (z w : Fin 4) (rl : Fin 2)
    (p : Tag), reqAt s id = some r → r.discard = false → r.redirect = false → r.faulted = false → answerPaused s r = false →
    (ctxAt s r.ctx).flights = [] →
    let c := ctxAt s r.ctx
    let gone := s.reqs.filter fun q => q.id != id
    let ends := fun (i : Instr) (t : State) => exec i s = .next t ∧ t.reqs = gone ∧ (ctxAt t r.ctx).pc = c.pc ∧
      (ctxAt t r.ctx).p = c.p ∧ (ctxAt t r.ctx).e = c.e ∧ (ctxAt t r.ctx).fpstat = c.fpstat ∧ OthersKept s t r.ctx ∧ MemoryKept s t
    let scalar := fun (x : Word) (df : Bool) => ∃ t, ends (.longResultLand id) t ∧
      (ctxAt t r.ctx).s = (if d = 0 then c.s else c.s.setIfInBounds d x) ∧ (ctxAt t r.ctx).sdf = (if d = 0 then c.sdf else setDf c.sdf d df) ∧
      (ctxAt t r.ctx).v = c.v ∧ (ctxAt t r.ctx).vdf = c.vdf
    let vector := fun (x : VWord) (df : Bool) => ∃ t, ends (.longResultLand id) t ∧ (ctxAt t r.ctx).v = c.v.setIfInBounds v x ∧
      (ctxAt t r.ctx).vdf = setDf c.vdf v df ∧ (ctxAt t r.ctx).s = c.s ∧ (ctxAt t r.ctx).sdf = c.sdf
    let whole := r.value.setWidth 64
    (r.status = .performed → r.found = none →
      (r.op = .ldb d a o p ∨ r.op = .ldbLong d a p m → scalar ((r.value.setWidth 8).signExtend 64) false) ∧
      (r.op = .ldh d a o p ∨ r.op = .ldhLong d a p m → scalar ((r.value.setWidth 16).signExtend 64) false) ∧
      (r.op = .ldw d a o p ∨ r.op = .ldwLong d a p m → scalar ((r.value.setWidth 32).signExtend 64) false) ∧
      (r.op = .ldbn d a o p ∨ r.op = .ldbnLong d a p m ∨ r.op = .ldhn d a o p ∨ r.op = .ldhnLong d a p m ∨ r.op = .ldwn d a o p ∨
        r.op = .ldwnLong d a p m ∨ r.op = .ldd d a o p ∨ r.op = .lddLong d a p m ∨ r.op = .lds d a o p ∨ r.op = .ldsLong d a p m ∨
        r.op = .ldfe d a o p ∨ r.op = .ldfec d a o p ∨ r.op = .ldfeLong d a p m ∨ r.op = .ldfecLong d a p m ∨
        r.op = .ldacq d a sc z p ∨ r.op = .atomAdd d a b rl p ∨ r.op = .atomMin d a b rl p ∨
        r.op = .atomMax d a b rl p ∨ r.op = .atomMinn d a b rl p ∨ r.op = .atomMaxn d a b rl p ∨ r.op = .atomAnd d a b rl p ∨
        r.op = .atomOr d a b rl p ∨ r.op = .atomXor d a b rl p ∨ r.op = .atomSwap d a b rl p ∨ r.op = .cas d a b rl p ∨
        r.op = .bwait d a p ∨ r.op = .rkopen d a p → scalar whole false) ∧
      (r.op = .rktake d a p → d ≠ 0 → d.val + 2 < 64 → ∃ t, ends (.longResultLand id) t ∧ sVal (ctxAt t r.ctx) d.val = whole ∧
        sVal (ctxAt t r.ctx) (d.val + 1) = (r.value >>> 64).setWidth 64 ∧ sVal (ctxAt t r.ctx) (d.val + 2) = (r.value >>> 128).setWidth 64 ∧
        (∀ x, x < d.val ∨ d.val + 2 < x → sVal (ctxAt t r.ctx) x = sVal c x) ∧ (ctxAt t r.ctx).v = c.v) ∧
      (streamOf c v = none →
        (r.op = .vld v a o p ∨ r.op = .vldLong v a p m ∨ r.op = .vlds v a o p ∨ r.op = .vldsLong v a p m ∨ r.op = .vldfe v a o p ∨
          r.op = .vldfec v a o p ∨ r.op = .vldfeLong v a p m ∨ r.op = .vldfecLong v a p m ∨ r.op = .vatomAdd v a u rl p ∨
          r.op = .vatomAnd v a u rl p ∨ r.op = .vatomOr v a u rl p ∨ r.op = .vatomMax v a u rl p → vector r.value false) ∧
        (r.op = .vgath v a u g w p → ∃ x, vector x (r.arg2 == 1) ∧ ∀ l, l < 256 / gatherBytes w →
          laneOf (8 * gatherBytes w) x l = if selected (8 * gatherBytes w) r.guard l then laneOf (8 * gatherBytes w) r.value l
            else laneOf (8 * gatherBytes w) (vVal c v) l)) ∧
      ((isMemoryReq r = true ∨ isRackOp r.op = true) → hasResult r.op = false → ∃ t, ends (.writeAck id) t ∧ ctxAt t r.ctx = c)) ∧
    (∀ x y, r.status = .refused → r.found = some (x, y) →
      (r.op = .lds d a o p ∨ r.op = .ldsLong d a p m → scalar 0 true) ∧
      (streamOf c v = none → r.op = .vlds v a o p ∨ r.op = .vldsLong v a p m → vector 0 true) ∧
      (isSpeculative r.op = false → ¬(x = .ue ∧ retriedTask s r.ctx = true) →
        let late := fun (i : Instr) => ∃ t f, exec i s = .next t ∧ f.cause = x ∧ f.addr = y ∧ f.bundle = r.bundle ∧ f.pos = r.pos ∧
          f.late = true ∧ f.epoch = r.epoch ∧ f.order = r.order ∧ (ctxAt t r.ctx).s = c.s ∧ (ctxAt t r.ctx).v = c.v ∧
          OthersKept s t r.ctx ∧ MemoryKept s t ∧
          (c.h = r.epoch.handler → (ctxAt t r.ctx).late = c.late ++ [f] ∧ (ctxAt t r.ctx).held = c.held) ∧
          (c.h = true → r.epoch.handler = false → c.heldSaved.length + c.held.length < 32 →
            (ctxAt t r.ctx).held = insertFault f c.held ∧ (ctxAt t r.ctx).late = c.late)
        (c.h = r.epoch.handler ∨ c.h = true ∧ c.heldSaved.length + c.held.length < 32 →
          (hasResult r.op = true → late (.longResultLand id)) ∧
          (hasResult r.op = false → isMemoryReq r = true ∨ isRackOp r.op = true → late (.writeAck id)))))

/-! ## The issue stage (06 R123-R127, R140, R145, 14 R304) -/

/-- 05 R86, 06 R125, R140, R145, 13 R287, 14 R304: a fetch completes, which puts its bundle into the instruction cache of the core where it
can be read, but one that misses not while its stack is handed over; a free
stage goes to the READY context of the highest priority, of several to the first in ascending number, cyclically, after the last holder; the last empty cycle of a WAITC passes, and what stood beside it takes effect (log entry 40); an ended task's context with no synchronising access and no gathered store outstanding becomes IDLE; a fence whose accesses are all performed
takes the fence points of its scope, and past them, when what it then waits for is performed, completes. That the instruction cache
keeps the 2,048 bundles fetched last, the newest first, is the model's choice (log entry 39). -/
def Obligations.StageSteps : Prop :=
  ∀ (s : State) (k n : Nat) (c : Fin 4) (j : Job),
    let x := ctxAt s k
    (jobOfCtx s k = some j → x.pc.toNat ∈ (coreAt s (k / 4)).icache ∨
        (∀ a ∈ [x.pc.toNat, x.pc.toNat + 4 * (bundleLenWords s j x.pc.toNat - 1)], ∀ g, pageOf j a = some g →
          handing s g.stack 1 5 = false ∧ touchPaused s (k / 4) (pagePhys g a) = false) →
      ∃ t, exec (.instructionFetchComplete k) s = .next t ∧ ctxAt t k = { x with fetched := true } ∧ OthersKept s t k ∧
        MemoryKept s t ∧ WorkKept s t ∧
        (∀ ws, fetchBundle s j x.pc = .ok ws → fetchPoison s k = none → (coreAt t (k / 4)).icache =
          (x.pc.toNat :: (coreAt s (k / 4)).icache.filter (· != x.pc.toNat)).take icacheBundles) ∧
        (∀ e, fetchBundle s j x.pc = .error e → OnlyContext s t k)) ∧
    (∀ g, jobOfCtx s k = some j → x.pc.toNat ∉ (coreAt s (k / 4)).icache → pageOf j x.pc.toNat = some g → handing s g.stack 1 5 = true →
      exec (.instructionFetchComplete k) s = .next s) ∧
    (let ready := fun y : Fin 4 => let z := ctxAt s (4 * n + y.val)
       (z.status = .ready ∨ (z.status = .waiting ∧ bundleBlocked s (4 * n + y.val) = false)) ∧ z.stopped = false
     let prio := fun y : Fin 4 => (ctxAt s (4 * n + y.val)).prio.val
     let after := fun y : Fin 4 => (y.val + 3 - (((coreAt s n).holder).getD (coreAt s n).last).val) % 4
     stageOpen s n = true → countHeld s n = false → (∀ i, jobOfCore s n = some i → i.preempt = none) → runningCtx s n = none →
     ready c → (∀ y, ready y → y ≠ c → prio y < prio c ∨ (prio y = prio c ∧ after c < after y)) →
      ∃ t, exec (.contextSelect n) s = .next t ∧ (coreAt t n).holder = some c ∧ (ctxAt t (4 * n + c)).status = .running ∧
        OthersKept s t (4 * n + c) ∧ MemoryKept s t ∧ WorkKept s t) ∧
    (x.waitc = 1 → x.status = .running → stageOpen s (k / 4) = true → x.svc = none → ∃ t, exec (.waitcEnd k) s = .next t ∧
      OthersKept s t k ∧ MemoryKept s t ∧
      if x.yields then ctxAt t k = { x with waitc := 0, ccyc := x.ccyc + 1, yields := false, status := .ready } ∧
        (coreAt t (k / 4)).holder ≠ some (Fin.ofNat 4 k)
      else ctxAt t k = { x with waitc := 0, ccyc := x.ccyc + 1 }) ∧
    (∀ code, x.waitc = 1 → x.status = .running → stageOpen s (k / 4) = true → x.svc = some code → ∃ t, exec (.waitcEnd k) s = .next t ∧
      OthersKept s t k ∧ MemoryKept s t ∧ (ctxAt t k).status = .serviced ∧
      (coreAt t (k / 4)).services = (coreAt s (k / 4)).services ++ [.svc k code]) ∧
    (x.status = .ending → x.fence = none → x.withdrawn = [] → x.streams = Vector.replicate 8 none → (∀ r ∈ s.reqs, r.ctx = k → keepsBusy r = false) →
      ∃ t, exec (.contextIdle k) s = .next t ∧ ctxAt t k = { x with status := .idle } ∧ OthersKept s t k ∧ MemoryKept s t) ∧
    ∀ f, x.fence = some f → fenceReady s f = true →
      (f.points = true → ∃ t, exec (.fencehComplete k) s = .next t ∧ ctxAt t k = { x with fence := none } ∧ OnlyContext s t k) ∧
      (f.points = false → ∃ t g, exec (.fencehComplete k) s = .next t ∧ ctxAt t k = { x with fence := some g } ∧ g.scope = f.scope ∧
        g.points = true ∧ OthersKept s t k ∧ MemoryKept s t ∧ CoresKept s t ∧
        ∀ r ∈ t.reqs, inScope s f.scope k r.ctx = true → r.heads = false ∧
          (r.status ≠ .performed → r.status ≠ .refused → r.id ∈ g.waits))

/-! ## Copies and streams (10 R240-R248) -/

/-- 10 R242-R244, 03 R67: an element is moved byte by byte from its places to its places, toward host memory by a landing of its
own, where a page that the host does not map suspends it and, while unresolved at the replay, fails the copy; a job-side translation fault suspends
it and goes to the service context, and it replays once resolved; a pool transaction is retried four times; bytes performed are
reported to the barrier, whose PB falls by them: the last ones complete its phase, and more than PB holds complete it by an overrun, with LASTOVER the
phase and an entry in the log; the end publishes the tray of a COPY to a rack and decrements the counter; a failure is a late fault and keeps the counter.
What wall buses under realignment hold up is left out by the premises (04 R78). -/
def Obligations.CopySteps : Prop :=
  ∀ (s : State) (id k n : Nat) (c : Copy) (j : Job), copyAt s id = some c → jobOfCtx s c.ctx = some j →
    let core := c.ctx / 4
    let x := bits c.pattern[0] 31 24
    (∀ a b, elementPaused s c k = false → elementReady s c k = true → elementPlaces s j c k = .ok (a, b) → elementFree s a = true →
      (∀ pa, some pa ∈ b → inFrame s core pa = false) →
      elementFree s b = true → badPlace s (a.filterMap fun x => x) false = none → badPlace s (b.filterMap fun x => x) true = none →
      (∀ x ∈ a, x ≠ none) → (∀ x ∈ b, x ≠ none) → ∃ t c', exec (.remoteAccessPerform (.element id k)) s = .next t ∧ copyAt t id = some c' ∧
        t.ctxs = s.ctxs ∧
        ((∀ pa, some pa ∈ b → inHost pa = false) → c'.moved = include1 c.moved k ∧ t.mem = (putBytes s b (elementBytes s a)).mem ∧
          (CanonicalMemory s → (∀ x, some x ∉ b → readByte t.mem x = readByte s.mem x) ∧
            (b.Nodup → ∀ (i x y : Nat), b[i]? = some (some x) → a[i]? = some (some y) → readByte t.mem x = readByte s.mem y))) ∧
        ((∃ pa, some pa ∈ b ∧ inHost pa = true) → c'.moved = c.moved ∧ c'.sent = c.sent ++ [(k, elementBytes s a)] ∧ MemoryKept s t)) ∧
    (∀ x b, c.sent.find? (fun y => y.1 == k) = some x → c.holds k = false → elementDst s j c k = .ok b →
      (∀ y ∈ b, y ≠ none) → wayPaused s (.unit 28) (.core core) = false →
      ∃ t c', exec (.remoteAccessPerform (.element id k)) s = .next t ∧ copyAt t id = some c' ∧
        c'.moved = include1 c.moved k ∧ c'.sent = c.sent.filter (fun y => y.1 != k) ∧ t.mem = (putBytes s b x.2).mem ∧ t.ctxs = s.ctxs ∧
        (CanonicalMemory s → (∀ y, some y ∉ b → readByte t.mem y = readByte s.mem y) ∧
          (b.Nodup → ∀ (i y : Nat) (v : Byte), b[i]? = some (some y) → x.2[i]? = some v → readByte t.mem y = v))) ∧
    (∀ x a, elementReady s c k = true → elementPlaces s j c k = .error (.jobSide x a) → ∃ t c', exec (.copyElementFault id k) s = .next t ∧
      copyAt t id = some c' ∧ c'.suspended = c.suspended ++ [(k, false)] ∧
      (coreAt t core).services = (coreAt s core).services ++ [.element id k] ∧ MemoryKept s t) ∧
    (∀ a, c.failed = none → c.hasSent k = true → elementDst s j c k = .error (.hostSide a) →
      (c.holds k = false → ∃ t c', exec (.copyElementFault id k) s = .next t ∧ copyAt t id = some c' ∧
        c'.suspended = c.suspended ++ [(k, true)] ∧ c'.sent = c.sent ∧ c'.moved = c.moved ∧ MemoryKept s t) ∧
      ((k, true) ∈ c.suspended → inService s core id k = false → ∃ t c', exec (.copyElementReplay id k) s = .next t ∧
        copyAt t id = some c' ∧ c'.failed = some (.page, BitVec.ofNat 64 a) ∧ MemoryKept s t)) ∧
    (∀ x, (k, false) ∈ c.suspended → c.hasSent k = false → inService s core id k = false → elementPlaces s j c k = .ok x → ∃ t c',
      exec (.copyElementReplay id k) s = .next t ∧ copyAt t id = some c' ∧ c'.suspended = c.suspended.filter (fun y => y.1 != k) ∧
      c'.failed = c.failed ∧ MemoryKept s t) ∧
    (∀ a, poolElement c k = some a → elementReady s c k = true → look 0 c.retries k < 4 → ∃ t c',
      exec (.poolTransactionTimeout id k) s = .next t ∧ copyAt t id = some c' ∧ look 0 c'.retries k = look 0 c.retries k + 1 ∧
      c'.failed = none ∧ MemoryKept s t) ∧
    (∀ a, poolElement c k = some a → elementReady s c k = true → 4 ≤ look 0 c.retries k → ∃ t c' x,
      exec (.poolTransactionTimeout id k) s = .next t ∧ copyAt t id = some c' ∧ c'.failed = some (x, a) ∧ MemoryKept s t) ∧
    (n ≠ 0 → n ≤ c.unreported → reportHeld s core x = false → ∃ t c', exec (.copyByteReport id n) s = .next t ∧ copyAt t id = some c' ∧
      c'.unreported = c.unreported - n ∧ MemoryKept s t) ∧
    (∀ q, n ≠ 0 → n ≤ c.unreported → reportHeld s core x = false → x ≠ 0 → j.barriers[x - 1]? = some q →
      let reports := fun (P : State → Barrier → Prop) => ∃ t q', exec (.copyByteReport id n) s = .next t ∧
        jobOfCtx t c.ctx = some { j with barriers := j.barriers.set (x - 1) q' } ∧ P t q'
      (n ≤ q.pb → q.pa ≠ 0 ∨ n < q.pb → reports fun t q' => q' = { q with pb := q.pb - n, touched := true } ∧ t.log = s.log) ∧
      (n = q.pb → q.pa = 0 → q.parent = 0 → q.eb ≠ 0 ∨ q.early < q.ea → reports fun t q' => q'.phase = q.phase + 1 ∧
        q'.pa = q.ea - q.early ∧ q'.pb = q.eb ∧ q'.lastOver = q.lastOver ∧ t.log = s.log) ∧
      (q.pb < n → q.parent = 0 → q.eb ≠ 0 ∨ q.early < q.ea → reports fun t q' => q'.phase = q.phase + 1 ∧ q'.lastOver = q.phase ∧
        q'.pa = q.ea - q.early ∧ q'.pb = q.eb ∧ ∃ e ∈ t.log, e.kind = 10)) ∧
    (c.failed = none → patternElements c.pattern ≤ c.moved.length → c.unreported = 0 → completionHeld s core = false →
      targetHeld s c.ctx c.rack = false → ∃ t, exec (.copyComplete id) s = .next t ∧
      t.copies = s.copies.filter (fun x => x.id != id) ∧ MemoryKept s t ∧
      (coreAt t core).counters = (coreAt s core).counters.setIfInBounds c.counter (((coreAt s core).counters[c.counter]?).getD 0 - 1) ∧
      ∀ i tr r, c.rack = some (i, tr) → j.racks[i]? = some r → r.command = some id →
        (jobOfCtx t c.ctx).bind (fun k => k.racks[i]?) = some (publishTray (timeNow s) r tr) ∧
        (c.taskEnded = false → (ctxAt t c.ctx).committed = true)) ∧
    (∀ x a, c.failed = some (x, a) → c.taskEnded = false → c.unreported = 0 → targetHeld s c.ctx c.rack = false → failureHeld s c = false → (ctxAt s c.ctx).h = c.epoch.handler →
      ¬(x = .ue ∧ retriedTask s c.ctx = true) → ∃ t f,
      exec (.copyFailure id) s = .next t ∧ t.copies = s.copies.filter (fun y => y.id != id) ∧
      (ctxAt t c.ctx).late = (ctxAt s c.ctx).late ++ [f] ∧ f.cause = x ∧ f.addr = a ∧ (coreAt t core).counters = (coreAt s core).counters ∧
      MemoryKept s t)

/-- 10 R246, R247: read-ahead puts the next vector of an input stream at the tail of its queue, gives a page
that the walker cannot find to the service context, or holds the fate it meets; a drain writes the head vector of an output stream's queue and takes it off, and the binding ends with its
last vector, or after TEND with the last one queued (R248). That the context of a stream is SERVICED while the service context has its
page is the model's reading (log entry 9), as is when the binding ends after TEND (log entry 37). -/
def Obligations.StreamSteps : Prop :=
  ∀ (s : State) (k : Nat) (n : Fin 8) (st : Stream) (j : Job), jobOfCtx s k = some j → (ctxAt s k).streams[n] = some st →
    let c := ctxAt s k
    let pos := st.pos + 256 * st.queue.length
    (st.out = false → st.fault = none → st.queue.length < 8 → pos < patternBytes st.pattern → streamHeld s j k st pos = false →
      streamBehind s k st pos = false →
      (∀ v, streamRead s j st pos = .ok v → (∀ m, (coreAt s m).gated = false) → ∃ t, exec (.streamReadAhead k n) s = .next t ∧
        OthersKept s t k ∧ MemoryKept s t ∧ CoresKept s t ∧ WorkKept s t ∧ PartKept s { t with routes := s.routes } ∧
        (ctxAt t k).streams = c.streams.setIfInBounds n (some { st with queue := st.queue ++ [v] }) ∧ (ctxAt t k).v = c.v) ∧
      (∀ x a, streamRead s j st pos = .error (x, a) → walkable (x, a) = true → (coreAt s (k / 4)).services = [] →
        (coreAt s (k / 4)).service = none → c.status ≠ .idle → c.status ≠ .ending → ∃ t, exec (.streamReadAhead k n) s = .next t ∧
        (coreAt t (k / 4)).services = [.stream k n st.order] ∧ ctxAt t k = { c with status := .serviced } ∧ MemoryKept s t) ∧
      (∀ x a, streamRead s j st pos = .error (x, a) → walkable (x, a) = false → ∃ t f, exec (.streamReadAhead k n) s = .next t ∧
        OthersKept s t k ∧ MemoryKept s t ∧ WorkKept s t ∧ (x ≠ .ue → OnlyContext s t k) ∧
        (ctxAt t k).streams = c.streams.setIfInBounds n (some { st with fault := some f }) ∧ f.cause = x ∧ f.addr = a ∧
        (ctxAt t k).late = c.late)) ∧
    (∀ v q u, st.out = true → st.queue = v :: q → streamHeld s j k st st.pos = false → streamBehind s k st st.pos = false →
      streamWrite s j st st.pos v = .ok u → ∃ t, exec (.streamDrainWrite k n) s = .next t ∧ t.mem = u.mem ∧
        (CanonicalMemory s → let l := placesOf j true (streamAddrs st st.pos)
          (∀ x, x ∉ l → readByte t.mem x = readByte s.mem x) ∧
          (l.Nodup → ∀ (i x : Nat), l[i]? = some x → readByte t.mem x = BitVec.ofNat 8 (v.toNat / 256 ^ i))) ∧
        (ctxAt t k).streams = c.streams.setIfInBounds n
          (if patternBytes st.pattern ≤ st.pos + 256 ∨ (c.status = .ending ∧ q = []) then none else some { st with pos := st.pos + 256, queue := q }))

/-! ## The matrix engine (11 R251-R273) -/

/-- R252-R255, R257, R262, R267-R269, 08 R183-R185: an idle engine starts the queued command of the highest priority, the oldest of them,
a level up for every 65,536 ns of waiting; a step of an MMA or MMAS reads its rows of A and B from memory and gives each word of the
tile its new value from their elements (with the block scale and the super-scale for pair 2, modulo 2^32 for pair 6), with the flags of
all; MZERO leaves a tile of zeros; an MMA or MMAS whose steps are all done leaves its tile with its words and their poison; a page
fault of its data holds the core and goes to the service context. What becomes of the tile's poison is the model's reading (log entry
43). -/
def Obligations.MatrixSteps : Prop :=
  ∀ (s : State) (n : Nat) (m : MatrixCmd) (j : Job) (e t : Fin 16) (a b : SReg) (w : Fin 8) (axis : Fin 4) (p : Tag),
    let old := tileAt s n m.tile
    let level := fun x : MatrixCmd => min 3 (x.prio.val + (timeNow s - x.queuedAt) / 65536)
    (runningCmd s n = none → jobOfCore s n = some j → j.preempt = none → m ∈ (coreAt s n).queue → m.phase = .queued →
      (∀ x ∈ (coreAt s n).queue, x.phase = .queued → x = m ∨ level x < level m ∨ (level x = level m ∧ m.id < x.id)) →
      ∃ u m', exec (.matrixCommandStart n) s = .next u ∧ m' ∈ (coreAt u n).queue ∧ m'.id = m.id ∧ m'.phase = .running ∧
        m'.prio.val = level m ∧ m'.op = m.op ∧ m'.step = m.step ∧ (∀ x ∈ (coreAt s n).queue, x.id ≠ m.id → x ∈ (coreAt u n).queue) ∧
        MemoryKept s u ∧ u.ctxs = s.ctxs ∧ u.tiles = s.tiles) ∧
    (∀ rows, runningCmd s n = some m → jobOfCore s n = some j → isMma m.op = true → m.failed = none → m.step < m.count →
      old.bad = [] → stepWaits s j m = false → readRows s j (nextRows j m) = .ok rows → m.handle = false →
      ∃ (u : State) (m' : MatrixCmd) (new : Nat → BitVec 32) (fl : Nat → Flags), exec (.matrixBoundary n) s = .next u ∧
        m' ∈ (coreAt u n).queue ∧ m'.id = m.id ∧ m'.step = m.step + 1 ∧ MemoryKept s u ∧ u.ctxs = s.ctxs ∧
        (∀ x, x < 12288 → look 0 (tileAt u n m.tile).words x = new x) ∧ (tileAt u n m.tile).busy = old.busy ∧
        m'.flags = m.flags ||| allFlags ((List.range 12288).map fl) ∧
        (∀ i, i ≠ m.tile → i < 16 → tileAt u n i = tileAt s n i) ∧
        let one : Val := .fin false 1 0
        let word := fun x => look 0 old.words x
        let row := fun i => rows[i]?.getD 0
        (m.op = .mma e a b t w p →
          let A := fun r k => elem (pairBytes w) (row r) k
          let B := fun k c => elem (pairBytes w) (row (128 + k)) c
          let step := row 128
          let code := fun k c => step / 2 ^ (4 * (96 * k + c)) % 16
          (∀ r, r < 128 → RowReads s j (m.a.toNat + m.step * m.field 3 + r * m.field 0) (pairDepth w * pairBytes w) (row r)) ∧
          (w.val ≠ 2 → ∀ k, k < pairDepth w → RowReads s j (m.b.toNat + m.step * m.field 4 + k * m.field 1) (96 * pairBytes w) (row (128 + k))) ∧
          (w.val = 2 → RowReads s j (m.b.toNat + m.step * m.field 4) 3168 step) ∧
          ∀ x, x < 12288 →
            (w.val = 6 → fl x = 0 ∧ new x = BitVec.ofInt 32 ((word x).toInt +
              ((List.range 64).map fun k => (BitVec.ofNat 8 (A (x / 96) k)).toInt * (BitVec.ofNat 8 (B k (x % 96))).toInt).sum)) ∧
            (w.val < 6 → w.val ≠ 2 → StepWord (word x) one ((List.range (pairDepth w)).map fun k =>
              (decodeFmt (pairFmtA w) (A (x / 96) k), decodeFmt (pairFmtB w) (B k (x % 96)))) 0 (new x) (fl x)) ∧
            (w.val = 2 → StepWord (word x) (Val.mul (.fin false (elem 1 step (3072 + x % 96) + 1) (-8)) (decodeFmt fp32 m.ss.toNat)).1
              ((List.range 64).map fun k => (decodeFmt f8a (A (x / 96) k), q4nVal (code k (x % 96))))
              (if (List.range 64).any (fun k => code k (x % 96) == 0) then flagQP else 0) (new x) (fl x))) ∧
        (m.op = .mmas e a b t axis p →
          let U := fun x y z => decodeFmt fp32 (elem 4 (row 0) (64 * z + 8 * y + x))
          let D := fun i l => decodeFmt fp32 (elem 4 (row 1) (8 * i + l))
          RowReads s j (m.a.toNat + m.step * m.field 0) 2048 (row 0) ∧ RowReads s j m.b.toNat 256 (row 1) ∧
          (∀ x, x < 12288 → x / 512 ≠ m.step → new x = word x ∧ fl x = 0) ∧
          ∀ x y z, x < 8 → y < 8 → z < 8 →
            let i := 512 * m.step + 64 * z + 8 * y + x
            i < 12288 → StepWord (word i) one ((List.range 8).map fun l => match axis.val with
              | 0 => (D x l, U l y z)
              | 1 => (D y l, U x l z)
              | _ => (D z l, U x y l)) 0 (new i) (fl i))) ∧
    (runningCmd s n = some m → jobOfCore s n = some j → m.op = .mzero t p → m.failed = none → m.flags = 0 →
      ∃ u, exec (.matrixCommandComplete n) s = .next u ∧ tileAt u n m.tile = ⟨[], old.s32, false, []⟩ ∧
        (coreAt u n).queue = (coreAt s n).queue.filter (fun x => x.id != m.id) ∧ MemoryKept s u) ∧
    (runningCmd s n = some m → jobOfCore s n = some j → isMma m.op = true → m.failed = none → m.step = m.count → m.handle = false →
      ∃ u, exec (.matrixCommandComplete n) s = .next u ∧ tileAt u n m.tile = ⟨old.words, finalType m old.s32, false, old.bad⟩ ∧
        (ctxAt u m.ctx).fpstat = (ctxAt s m.ctx).fpstat ||| m.flags ∧ MemoryKept s u) ∧
    (∀ e, runningCmd s n = some m → jobOfCore s n = some j → isMma m.op = true → m.failed = none → m.step < m.count →
      stepFate s j m = some e → walkable e = true → (coreAt s n).services = [] → (coreAt s n).service = none →
      ∃ u, exec (.matrixFetchFault n) s = .next u ∧ (coreAt u n).hold = true ∧ (coreAt u n).services = [.operand m.id] ∧
        MemoryKept s u ∧ u.ctxs = s.ctxs) ∧
    ((coreAt s n).queue.find? (fun x => x.id == m.id) = some m → m.phase = .queued →
      ∃ u m', exec (.matrixPriorityAgeing n m.id) s = .next u ∧ m' ∈ (coreAt u n).queue ∧ m'.id = m.id ∧
        m'.prio.val = level m ∧ MemoryKept s u)

/-- R269-R272: MLD fills its tile with the rows it reads; MST frees its tile once it is read, writes its 128 rows, and when
all are written publishes its tray, if it has one, and decrements its counter; a MPROOF whose checksum differs counts a failure and goes to the service context.
That MLD and MPROOF leave their tile without poison is the model's reading (log entry 43). -/
def Obligations.MatrixLoadsAndStores : Prop :=
  ∀ (s : State) (n : Nat) (m : MatrixCmd) (j : Job) (e : Fin 16) (a : SReg) (t : Fin 16) (imm : BitVec 32) (p : Tag),
    (∀ rows, runningCmd s n = some m → jobOfCore s n = some j → m.op = .mld e a t p → m.failed = none → stepWaits s j m = false →
      readRows s j (nextRows j m) = .ok rows → ∃ u, exec (.matrixCommandComplete n) s = .next u ∧
        tileAt u n m.tile = ⟨tileWords fun w => BitVec.ofNat 32 (elem 4 (rows[w / 96]?.getD 0) (w % 96)), m.field 1 % 2 == 1, false, []⟩ ∧
        MemoryKept s u) ∧
    (runningCmd s n = some m → isMst m.op = true → m.phase = .running → ∃ u m', exec (.mstTileRead n) s = .next u ∧
      (tileAt u n m.tile).busy = false ∧ (tileAt u n m.tile).words = (tileAt s n m.tile).words ∧ m' ∈ (coreAt u n).queue ∧
      m'.id = m.id ∧ m'.phase = .writing ∧ m'.words = (tileAt s n m.tile).words ∧ MemoryKept s u) ∧
    (∀ l, cmdAt s m.id = some (n, m) → copyAt s m.id = none → jobOfCore s n = some j → isMst m.op = true → m.phase = .writing →
      m.failed = none → m.step < 128 → m.wordsBad = [] → stepWaits s j m = false → stepFate s j m = none →
      runPlaces s j true (mstRow m).1 (mstRow m).2 = .ok l → (∀ pa ∈ l, inFrame s n pa = false) →
      let z := outBytes m.layout[1]
      let row := (List.range 96).map fun x => (mstElement m.layout m.wordsS32 (look 0 m.words (96 * m.step + x))).1
      ∃ u m', exec (.remoteAccessPerform (.element m.id m.step)) s = .next u ∧ m' ∈ (coreAt u n).queue ∧ m'.id = m.id ∧
        m'.step = m.step + 1 ∧ m'.failed = none ∧ u.mem = (scatterBytesAt s (packLanes (8 * z) row) (l.take (z * 96))).mem ∧ u.ctxs = s.ctxs) ∧
    (cmdAt s m.id = some (n, m) → isMst m.op = true → m.phase = .writing → m.failed = none → 128 ≤ m.step →
      (m.counter ≠ none → completionHeld s n = false) → targetHeld s m.ctx m.rack = false →
      ∃ u, exec (.mstComplete m.id) s = .next u ∧ (coreAt u n).queue = (coreAt s n).queue.filter (fun x => x.id != m.id) ∧
        MemoryKept s u ∧
        (∀ c, m.counter = some c →
          (coreAt u n).counters = (coreAt s n).counters.setIfInBounds c (((coreAt s n).counters[c]?).getD 0 - 1)) ∧
        ∀ i tr k r, m.rack = some (i, tr) → jobOfCtx s m.ctx = some k → k.racks[i]? = some r → r.command = some m.id →
          (jobOfCtx u m.ctx).bind (fun k => k.racks[i]?) = some (publishTray (timeNow s) r tr) ∧
          (m.taskEnded = false → (ctxAt u m.ctx).committed = true)) ∧
    (runningCmd s n = some m → jobOfCore s n = some j → m.op = .mproof a t p imm → m.failed = none →
      ∃ u, exec (.matrixCommandComplete n) s = .next u ∧ tileAt u n m.tile = ⟨proofTile m.a, false, false, []⟩ ∧ MemoryKept s u ∧
        (proofSum (proofTile m.a) = imm → (coreAt u n).fails = (coreAt s n).fails) ∧
        (proofSum (proofTile m.a) ≠ imm → (coreAt u n).services = (coreAt s n).services ++ [.proof m.ctx m.a] ∧
          ((coreAt s n).fails ≠ BitVec.allOnes 32 → (coreAt u n).fails = (coreAt s n).fails + 1)))

/-! ## Hand-overs (13 R282-R289) -/

/-- 13 R283, R288: of the hand-overs of a stack, none of them under way, the first that has reached the base die has its turn; the seven
steps of a hand-over: hold, drain, write back, invalidate the routes of both dies, flip the owner, serve
what was held, and complete, which for a PEEL decrements its counter. -/
def Obligations.HandoverSteps : Prop :=
  ∀ (s : State) (st : Nat) (h : Handover), currentHandover s st = some h →
    let at' := fun (t : State) (n : Nat) => t.handovers = s.handovers.map fun x => if x = h then { h with step := n } else x
    let goes := fun (i : Instr) (n : Nat) => h.step = n → ∃ t, exec i s = .next t ∧ at' t (n + 1) ∧ MemoryKept s t ∧
      t.ctxs = s.ctxs ∧ t.reqs = s.reqs
    (∀ l x r, s.handovers = l ++ x :: r → (∀ y ∈ s.handovers, y.stack = st → y.step = 0) →
      (∀ y ∈ l, y.stack = st → y.reached = false) → x.stack = st → x.reached = true → x = h) ∧
    (h.step = 0 → notOwner s h = none → h.toDie ≠ ownerDie s st → ∃ t, exec (.handoverStopAndHold st) s = .next t ∧
      t.handovers = (s.handovers.map fun x => if x = h then { h with step := 1, startAt := s.clock } else x) ∧ MemoryKept s t ∧
      t.portB = s.portB ∧ t.ctxs = s.ctxs) ∧
    goes (.handoverQueueDrain st) 1 ∧ goes (.handoverWriteback st) 2 ∧ goes (.handoverTlbInvalidate st) 3 ∧
    (h.step = 1 → ∃ t, exec (.handoverQueueDrain st) s = .next t ∧ ∀ x, x ∈ t.writeQueue ↔ x ∈ s.writeQueue ∧ lineStack x ≠ st) ∧
    (h.step = 2 → ∃ t, exec (.handoverWriteback st) s = .next t ∧ ∀ x, x ∈ t.lines ↔ x ∈ s.lines ∧ lineStack x.1 ≠ st) ∧
    (h.step = 3 → ∃ t, exec (.handoverTlbInvalidate st) s = .next t ∧ ∀ r ∈ t.routes, staleRoute s st r = false) ∧
    goes (.handoverOwnerFlip st) 4 ∧
    (h.step = 4 → (h.toDie = homeDie st ∨ h.toDie = otherDie st) → ∃ t, exec (.handoverOwnerFlip st) s = .next t ∧
      ownerDie t st = h.toDie ∧ ∀ x, x ≠ st → ownerDie t x = ownerDie s x) ∧
    (h.step = 5 → (s.reqs.filter (heldFor s st)) = [] → ∃ t, exec (.handoverHeldRequests st) s = .next t ∧ at' t 6 ∧
      MemoryKept s t ∧ t.reqs = s.reqs) ∧
    (∀ r j n w pa, h.step = 5 → s.reqs.filter (heldFor s st) = [r] → reqAt s r.id = some r → jobOfCtx s r.ctx = some j →
      reqAccess r.op = some (n, w) → isSyncAccess r.op = false → isFullEmptyStore r.op = false →
      access s j r.addr.toNat n n w = .ok pa → (lineOf s r).length ≤ 1 →
      wfMemory s.mem = true →
      let u := setHandover s h { h with step := 6 }
      inTurn u j r = true → handing u st 1 5 = false → ∃ t r', exec (.handoverHeldRequests st) s = .next t ∧ at' t 6 ∧
        reqAt t r.id = some r' ∧ r'.status = .performed ∧ (∀ v d, (v, d) ∈ r'.ways → stackOf j (65536 * v) = some st → d = h.toDie) ∧
        (∀ x, x < pa ∨ pa + n ≤ x → readByte t.mem x = readByte s.mem x) ∧
        (w = false → t.mem = s.mem ∧ r'.value = BitVec.ofNat 2048 (readLE s.mem pa n)) ∧
        (w = true → readLE t.mem pa n = r.vec1.toNat % 2 ^ (8 * n))) ∧
    (∀ id k c x b ih te, h.step = 6 → peelHeld s h = false → h.source = .context id k c x b ih te false → ∃ t, exec (.handoverComplete st) s = .next t ∧
      t.handovers = s.handovers.erase h ∧ t.reqs = s.reqs.filter (fun r => r.id != id) ∧ MemoryKept s t ∧
      (coreAt t (k / 4)).counters = (coreAt s (k / 4)).counters.setIfInBounds c (((coreAt s (k / 4)).counters[c]?).getD 0 - 1)) ∧
    (∀ p, h.step = 6 → h.source = .host p → ∃ t, exec (.handoverComplete st) s = .next t ∧ t.handovers = s.handovers.erase h ∧
      Completes s t p.queue p.chain 0 h.job (leBytes 8 ((s.clock - h.startAt) * 4 / 9)))

/-! ## Barriers, racks and counters (15 R320-R335, 17 R338) -/

/-- 15 R322-R327, 14 R300: a BARV that its core holds leaves once what it must follow is settled; an arrival counts toward the current phase; the last one, with no bytes awaited, completes it; a BWAIT of a
completed phase, whose turn has come, is answered with the last completed phase; BINIT takes effect in an untouched phase; the phase number of a BARV
becomes the context's record. -/
def Obligations.BarrierSteps : Prop :=
  ∀ (s : State) (id : Nat) (r : Req) (j : Job) (q : Barrier) (d a b : SReg) (p : Tag),
    let x := bits r.addr 7 0
    reqAt s id = some r → jobOfCtx s r.ctx = some j → x ≠ 0 → j.barriers[x - 1]? = some q →
    let now := fun (t : State) (f : Barrier → Prop) => ∃ j' q', jobOfCtx t r.ctx = some j' ∧ j'.barriers[x - 1]? = some q' ∧ f q'
    (r.op = .barv a p → r.status = .sent → r.left ≠ 0 → inTurn s j r = true →
      (1 < q.pa → ∃ t, exec (.barrierArrival id) s = .next t ∧ MemoryKept s t ∧
        now t fun q' => q'.pa = q.pa - 1 ∧ q'.phase = q.phase ∧ q'.touched = true) ∧
      (q.pa = 1 → q.pb = 0 → q.parent = 0 → q.early = 0 → q.ea ≠ 0 → ∃ t, exec (.barrierArrival id) s = .next t ∧ MemoryKept s t ∧
        now t fun q' => q'.phase = q.phase + 1 ∧ q'.pa = q.ea ∧ q'.pb = q.eb ∧ q'.touched = false) ∧
      (q.pa ≠ 0 → ∃ t r', exec (.barrierArrival id) s = .next t ∧ reqAt t id = some r' ∧ r'.status = .performed ∧
        r'.value = BitVec.ofNat 2048 q.phase)) ∧
    (r.op = .bwait d a p → r.status = .sent → inTurn s j r = true → r.arg2.toNat < q.phase → ∃ t r', exec (.barrierUnitRequest id) s = .next t ∧
      reqAt t id = some r' ∧ r'.status = .performed ∧ MemoryKept s t ∧
      r'.value = (BitVec.ofNat 64 ((q.phase - 1) % 2 ^ 32 + (if r.arg2.toNat ≤ q.lastOver then 2 ^ 32 else 0))).setWidth 2048) ∧
    (r.op = .binit d a b p → r.status = .sent → r.left ≠ 0 → inTurn s j r = true → q.touched = false →
      ∃ t, exec (.barrierUnitRequest id) s = .next t ∧ MemoryKept s t ∧ t.reqs = s.reqs.filter (fun y => y.id != id) ∧
        now t fun q' => q'.ea = r.arg1.toNat ∧ q'.eb = r.arg2.toNat ∧ q'.pa = r.arg1.toNat ∧ q'.pb = r.arg2.toNat ∧
          q'.parent = bits r.addr 15 8 ∧ q'.phase = q.phase) ∧
    (r.op = .barv a p → r.status = .sent → r.left = 0 → releaseReady s r = true → ∃ t, exec (.barrierArrival id) s = .next t ∧
      reqAt t id = some { r with left := s.nextId } ∧ t.jobs = s.jobs ∧ MemoryKept s t) ∧
    (r.op = .barv a p → r.status = .performed → r.discard = false → r.redirect = false → answerPaused s r = false →
      (∀ y ∈ s.reqs, y.id ≠ id → isBarv y.op = false) →
      ∃ t, exec (.barvPhaseReturn id) s = .next t ∧ MemoryKept s t ∧
        (ctxAt t r.ctx).arrivals = ((ctxAt s r.ctx).arrivals.filter fun y => y.barrier != x) ++ [⟨x, r.value.toNat, false⟩])

/-- 15 R330-R335: RKOPEN opens the lowest-numbered FREE tray and answers its address, or counts a drop and answers zero;
RKTAKE of a rack with a fresh tray pins it and answers its address; a rack number the job has not is RACKID. 17 R338, R339: a
decrement reaches its counter and stops at zero. -/
def Obligations.RackAndCounterSteps : Prop :=
  ∀ (s : State) (id : Nat) (r : Req) (j : Job) (d a b : SReg) (c : Fin 64) (p : Tag), reqAt s id = some r → jobOfCtx s r.ctx = some j →
    r.status = .sent → r.left ≠ 0 → inTurn s j r = true →
    let answers := fun (P : State → Req → Prop) => ∃ t r', exec (.rackControllerOperation id) s = .next t ∧ reqAt t id = some r' ∧
      P t r' ∧ MemoryKept s t ∧ t.ctxs = s.ctxs
    let rack := fun (t : State) (i : Nat) => (jobOfCtx t r.ctx).bind fun j => j.racks[i]?
    (∀ i k, rackOf s j r = some (i, k) → r.op = .rkopen d a p →
      (∀ n, (openTray k none).2 = some n → answers fun t r' => r'.status = .performed ∧ r'.value = (trayAddr k n).setWidth 2048 ∧
        rack t i = some (openTray k none).1) ∧
      ((openTray k none).2 = none → answers fun t r' => r'.status = .performed ∧ r'.value = 0 ∧
        (rack t i).map (·.drops) = some (min 65535 (k.drops + 1)))) ∧
    (∀ i k f x, rackOf s j r = some (i, k) → r.op = .rktake d a p → trayWhere (·.fresh) k = some f → k.trays[f]? = some x →
      pinOf k (ctxId s r.ctx) = none → k.pins.length < 64 → answers fun t r' => r'.status = .performed ∧
        r'.value.setWidth 64 = k.base + BitVec.ofNat 64 (f * k.size) ∧
        (rack t i).map (fun y => pinOf y (ctxId s r.ctx)) = some (some f)) ∧
    (∀ i k, rackOf s j r = some (i, k) → r.op = .rkpub a p → ∃ t, exec (.rackControllerOperation id) s = .next t ∧
      t.reqs = s.reqs.filter (fun y => y.id != id) ∧ rack t i = some (rackPublish (timeNow s) k) ∧ MemoryKept s t) ∧
    (∀ i k, rackOf s j r = some (i, k) → r.op = .rkdrop a p → ∃ t, exec (.rackControllerOperation id) s = .next t ∧
      t.reqs = s.reqs.filter (fun y => y.id != id) ∧ rack t i = some (rackDrop k (ctxId s r.ctx)) ∧ MemoryKept s t) ∧
    (rackOf s j r = none → isRackOp r.op = true → answers fun _ r' => r'.status = .refused ∧ r'.found = some (.rackid, r.addr)) ∧
    (r.op = .tdec a b c p → ∃ t, exec (.counterDecrement id) s = .next t ∧ MemoryKept s t ∧
      let n := j.binding[r.addr.toNat]?.getD 0
      (coreAt t n).counters = (coreAt s n).counters.setIfInBounds c (((coreAt s n).counters[c.val]?).getD 0 - r.arg1.toNat))

/-! ## Tasks and groups (17 R340-R360) -/

/-- 17 R340-R343, R349, R350: an IDLE context of a RUNNING job that is the lowest-numbered of those that have a READY entry which they may run takes the entry of highest current priority, of several the
one READY first, of those the lowest, and starts it with its arguments in s1-s8, s9 and
s10, whose deferred-fault bits are clear, no arrival-phase record and the task's priority as matrix priority; a SPAWN's launch enters, unbound, the
lowest FREE entry of its core (that it is the lowest is the model's choice, log entry 46), an ASEND within the part one bound to its context; a launch that waits for an entry keeps its request; an
acknowledged launch frees its request; an active message of another part, the first that has come from there, enters a table. -/
def Obligations.TaskSteps : Prop :=
  ∀ (s : State) (n id c i : Nat) (x : Task) (r : Req) (j : Job) (m : RemoteSend) (e : Fin 16) (a b : SReg) (q : Fin 4) (p : Tag),
    (let idle := fun y : Nat => (ctxAt s (4 * n + y)).status = .idle
     let may := fun (y : Nat) (w : Task) => w.status = .ready ∧ (w.bound = none ∨ w.bound = some y)
     let prio := fun w : Task => w.prio.val + min (3 - w.prio.val) ((s.clock - w.readyAt) / 147456)
     jobOfCore s n = some j → j.status = .running → j.preempt = none → c < 4 → i < 64 → (coreAt s n).tasks[i]? = some x →
     idle c → may c x → (∀ y, y < c → idle y → ∀ (k : Nat) (w : Task), (coreAt s n).tasks[k]? = some w → ¬ may y w) →
     (∀ (k : Nat) (w : Task), (coreAt s n).tasks[k]? = some w → may c w → k ≠ i →
       prio w < prio x ∨ (prio w = prio x ∧ (x.readyAt < w.readyAt ∨ (x.readyAt = w.readyAt ∧ i < k)))) →
      ∃ t, exec (.taskStart n) s = .next t ∧ MemoryKept s t ∧ OthersKept s t (4 * n + c) ∧
        (((coreAt t n).tasks[i]?).map (·.status)) = some .running ∧
        let d := ctxAt t (4 * n + c)
        d.pc = x.handler ∧ d.status = .ready ∧ d.task = some i ∧ d.prio.val = min 3 (prio x) ∧ d.loops = [] ∧ d.h = false ∧ d.en = true ∧ d.committed = false ∧
        d.arrivals = [] ∧ d.mprio = d.prio ∧ (∀ y, 1 ≤ y → y ≤ 10 → sDf d y = false) ∧
        (∀ y, 10 < y → sDf d y = sDf (ctxAt s (4 * n + c)) y) ∧
        (∀ y, y < 8 → sVal d (y + 1) = (x.args[y]?).getD 0) ∧ sVal d 9 = x.sender ∧ sVal d 10 = x.group ∧
        (∀ y, 10 < y → sVal d y = sVal (ctxAt s (4 * n + c)) y) ∧ d.v = (ctxAt s (4 * n + c)).v ∧ d.p = (ctxAt s (4 * n + c)).p ∧
        d.fpstat = (ctxAt s (4 * n + c)).fpstat ∧ d.tvec = (ctxAt s (4 * n + c)).tvec ∧ d.e = (ctxAt s (4 * n + c)).e) ∧
    ((coreAt s n).tasks[i]? = some x → x.status = .ready → ∃ t, exec (.taskPriorityAgeing n i) s = .next t ∧
      ((coreAt t n).tasks[i]?).map (·.boost) = some (min (3 - x.prio.val) ((s.clock - x.readyAt) / 147456)) ∧
      MemoryKept s t ∧ t.ctxs = s.ctxs) ∧
    (reqAt s id = some r → jobOfCtx s r.ctx = some j → r.op = .spawn e a b q p → r.status = .sent → r.left ≠ 0 → inTurn s j r = true →
      s.launches = [] → r.addr.toNat < j.n → (∀ k, freeSlot (coreAt s (j.binding[r.addr.toNat]?.getD 0)).tasks = some k →
        ∃ t y r', exec (.launchArrival id) s = .next t ∧ (coreAt t (j.binding[r.addr.toNat]?.getD 0)).tasks[k]? = some y ∧
          y.status = .ready ∧ y.handler = r.arg1 ∧ y.args = r.args ∧ y.prio = r.prio ∧ y.sender = BitVec.ofNat 64 (ctxId s r.ctx) ∧
          y.bound = none ∧ reqAt t id = some r' ∧ r'.status = .performed ∧ MemoryKept s t) ∧
      (freeSlot (coreAt s (j.binding[r.addr.toNat]?.getD 0)).tasks = none → ∃ t r', exec (.launchArrival id) s = .next t ∧
        t.launches.length = 1 ∧ reqAt t id = some r' ∧ r'.status = .held ∧ MemoryKept s t)) ∧
    (reqAt s id = some r → jobOfCtx s r.ctx = some j → r.op = .asend e a b p → r.status = .sent → r.left ≠ 0 → inTurn s j r = true →
      s.launches = [] → bits r.addr 27 16 = 0 →
      let home := j.binding[bits r.addr 15 0 / 4]?.getD 0
      ∀ k, freeSlot (coreAt s home).tasks = some k → ∃ t y r', exec (.launchArrival id) s = .next t ∧ (coreAt t home).tasks[k]? = some y ∧
        y.status = .ready ∧ y.handler = r.arg1 ∧ y.args = r.args ∧ y.prio = r.prio ∧ y.sender = BitVec.ofNat 64 (ctxId s r.ctx) ∧
        y.bound = some (bits r.addr 15 0 % 4) ∧ reqAt t id = some r' ∧ r'.status = .performed ∧ MemoryKept s t) ∧
    (reqAt s id = some r → r.op = .spawn e a b q p → r.status = .performed → answerPaused s r = false → ∃ t, exec (.launchAcknowledgement id) s = .next t ∧
      t.reqs = s.reqs.filter (fun y => y.id != id) ∧ MemoryKept s t) ∧
    ((s.inbox.find? fun x => x.part == m.part) = some m → messagePaused s m = false →
      jobAt s m.job.toNat = some j → j.status = .running → m.ctx.toNat / 4 < j.n → handlerOk m.handler = true → s.launches = [] →
      ∀ k, freeSlot (coreAt s (j.binding[m.ctx.toNat / 4]?.getD 0)).tasks = some k → ∃ t y, exec (.asendRemoteArrival m) s = .next t ∧
        (coreAt t (j.binding[m.ctx.toNat / 4]?.getD 0)).tasks[k]? = some y ∧ y.status = .ready ∧ y.handler = m.handler ∧
        y.args = m.args ∧ y.bound = some (m.ctx.toNat % 4) ∧ y.sender = BitVec.ofNat 64 (m.sender.toNat + 65536 * m.part.toNat) ∧
        t.inbox = s.inbox.erase m ∧ MemoryKept s t)

/-- 17 R354-R360: an update changes the count of its port and passes up; a refresh replaces a count by the child's total; a
message at its root with a counted port goes down it and the count falls by one; at a member core with room it binds, filling a
RESERVED entry; returned, its child's count is zeroed and a refresh is asked for; with no room anywhere it parks; the head of
the park FIFO is released when a port counts; an answered GSEND frees its request. -/
def Obligations.GroupSteps : Prop :=
  ∀ (s : State) (id : Nat) (u : Update) (m : Message) (g : Group) (j : Job) (r : Req) (e : Fin 16) (a : SReg) (p : Tag),
    let group := fun t : State => groupAt t m.job m.group
    (s.updates.find? (fun x => x.id == id) = some u → groupAt s u.job u.group = some g → updateFirst s u = true → u.refresh = false →
      ∃ t g', exec (.readinessUpdate id) s = .next t ∧ groupAt t u.job u.group = some g' ∧ MemoryKept s t ∧
        countAt g' u.parent u.child = ((countAt g u.parent u.child : Int) + u.delta).toNat ∧
        t.updates = (s.updates.filter fun x => x.id != id) ++ (match parentNode s g.root u.parent with
          | none => []
          | some q => [{ u with child := u.parent, parent := q }])) ∧
    (s.updates.find? (fun x => x.id == id) = some u → groupAt s u.job u.group = some g → jobAt s u.job = some j →
      updateFirst s u = true → u.refresh = true → ∃ t g', exec (.refreshAnswer id) s = .next t ∧ groupAt t u.job u.group = some g' ∧
        countAt g' u.parent u.child = childTotal s j g u.child ∧ t.updates = (s.updates.filter fun x => x.id != id) ∧ MemoryKept s t) ∧
    (s.messages.find? (fun x => x.id == id) = some m → jobAt s m.job = some j → group s = some g →
      (m.place = g.root → (∀ c, m.place ≠ .core c) → m.returned = none → m.bound = false → g.fifo = [] → g.area = [] →
        (∀ c v, m.bounces < 8 → bestPort g m.place (downPorts s j g.members m.place) = some (c, v) → ∃ t g', exec (.groupMessageSteer id) s = .next t ∧
          (t.messages.find? fun x => x.id == id) = some { m with place := c, returned := none } ∧ group t = some g' ∧
          countAt g' m.place c = v - 1 ∧ MemoryKept s t) ∧
        (bestPort g m.place (downPorts s j g.members m.place) = none → m.released = false → parentNode s g.root m.place = none →
          ∃ t g', exec (.groupMessageSteer id) s = .next t ∧ group t = some g' ∧ g'.fifo.map (·.id) = [m.id] ∧
            t.messages = (s.messages.filter fun x => x.id != m.id) ∧ MemoryKept s t)) ∧
      (∀ n c, m.place = .core n → m.bound = false → m.released = false → wayPaused s (.unit (4 + clusterOf s n)) (.core n) = false →
        memberWithRoom j g n = some c →
        ∃ t g', exec (.memberCoreDelivery id) s = .next t ∧ group t = some g' ∧ roomOf g' c = roomOf g c - 1 ∧
          (t.messages.find? fun x => x.id == id) = some { m with bound := true } ∧ MemoryKept s t ∧
          (coreAt t n).tasks = fillReserved (coreAt s n).tasks (c % 4) (BitVec.ofNat 64 m.group) (messageTask s.clock c m)) ∧
      (∀ c, m.returned = some c → climbPaused s c = false → m.bounces < 7 → g.fifo = [] → g.area = [] → ∃ t x g', exec (.groupBounce id) s = .next t ∧
        group t = some g' ∧ countAt g' m.place c = 0 ∧
        t.updates = s.updates ++ [x] ∧ x.refresh = true ∧ x.child = c ∧ x.parent = m.place ∧ MemoryKept s t)) ∧
    (∀ l, jobAt s m.job = some j → groupAt s m.job m.group = some g → g.fifo = m :: l → m.released = false → (∀ x ∈ s.messages, x.id ≠ m.id) →
      (bestPort g g.root (downPorts s j g.members g.root)).isSome → m.group < j.groups.length →
      ∃ t x, exec (.parkRelease m.job m.group) s = .next t ∧ (t.messages.find? fun y => y.id == m.id) = some x ∧ x.released = true ∧
        x.place ≠ g.root ∧ MemoryKept s t) ∧
    (reqAt s id = some r → r.op = .gsend e a p → r.status = .performed → r.found = none → answerPaused s r = false → (∀ x ∈ s.messages, x.id ≠ id) →
      ∃ t, exec (.groupMessageAck id) s = .next t ∧ t.reqs = s.reqs.filter (fun y => y.id != id) ∧ MemoryKept s t)

/-! ## The host side (03 R43-R63, R68-R70) -/

/-- 03 R43-R48, R68: a verified part answers its configuration; PIN is refused for a ninth queue; a notification brings an enabled
queue into a free slot. Boot makes the part ready with every active core's store loaded, or reports a failure. A device reset
leaves no job, no request and no queue, and the slices and stacks zero. What a reset keeps is the model's reading (log entry 28). -/
def Obligations.HostConfiguration : Prop :=
  ∀ (s : State),
    let gives := fun (i : Instr) (t : State) => exec i s = .next t
    (answering s = true →
      (∀ b, gives (.configWrite (.driverFeatures b)) { s with driverFeatures := b }) ∧
      gives (.configWrite .featuresOk) { s with
        featuresOk := s.driverFeatures &&& required == required && s.driverFeatures &&& ~~~offered == 0 } ∧
      (∀ q n on, q < 1024 → 1 ≤ n → n ≤ 4096 → ∃ t, gives (.configWrite (.queueSetup q n on)) t ∧ (queueAt t q).enabled = on ∧
        (queueAt t q).size = n ∧ (queueAt t q).ring = (queueAt s q).ring ∧ ∀ x, x ≠ q → queueAt t x = queueAt s x) ∧
      (∀ q c, (queueAt s q).enabled = true → (queueAt s q).ring.length < (queueAt s q).size → ∃ t,
        gives (.configWrite (.available q c)) t ∧ (queueAt t q).ring = (queueAt s q).ring ++ [c] ∧ ∀ x, x ≠ q → queueAt t x = queueAt s x) ∧
      (∀ o v, gives (.configWrite (.other o v)) { s with transport := put s.transport o v }) ∧
      (∀ q : BitVec 16, q.toNat < 1024 → ((queueAt s q.toNat).pinned = true ∨ (pinned s).length < 8) → ∃ t, gives (.pin q) t ∧
        (queueAt t q.toNat).pinned = true ∧ t.pinRefused = false ∧ t.mem = s.mem) ∧
      (∀ q : BitVec 16, 1024 ≤ q.toNat ∨ ((queueAt s q.toNat).pinned = false ∧ 8 ≤ (pinned s).length) →
        gives (.pin q) { s with pinRefused := true }) ∧
      (∀ q : BitVec 16, q.toNat < 1024 → ∃ t, gives (.unpin q) t ∧ (queueAt t q.toNat).pinned = false ∧ t.pinRefused = false) ∧
      (∀ q, q < 1024 → (queueAt s q).enabled = true → (queueAt s q).ring = [] → (queueAt s q).slot = false →
        (slotHolders s).length < 32 → ∃ t, gives (.queueNotification q) t ∧ (queueAt t q).slot = true ∧
          (queueAt t q).notified = s.nextId ∧ t.completions = s.completions)) ∧
    (answering s = false →
      (∃ t, gives (.bootComplete true) t ∧ t.health.ready = true ∧ t.generation = s.generation + 1 ∧
        ∀ n ∈ activeAll s, (coreAt t n).storeOk = true) ∧
      ∃ t, gives (.bootComplete false) t ∧ t.health.fwfail = true ∧ t.health.ready = s.health.ready ∧ t.cores = s.cores) ∧
    ∃ t, gives .deviceReset t ∧ t.jobs = [] ∧ t.reqs = [] ∧ t.queues = [] ∧ t.ctxs = [] ∧ t.tiles = [] ∧ t.portB = [] ∧ t.clock = 0 ∧
      t.health.ready = false ∧ t.log = [] ∧ ∀ a, a < 2 ^ 44 → readByte t.mem a = 0

/-- 03 R69, R70, 02 R28: each QUERY completes OK with its result, cut at the end of the writable part, and changes nothing else; an
attestation that the part does not offer is MALFORMED. That QUERY of the binding of a PREEMPTED job answers the binding it had is the
model's reading (log entry 19). -/
def Obligations.Queries : Prop :=
  ∀ (s : State) (q : Nat) (c : Chain) (j : Job),
    let gives := fun (k : CommandKind) (i : Instr) (job : Nat) (result : List Byte) => Accepted k q c s →
      ∃ t, exec i s = .next t ∧ Completes s t q c 0 job (result.take (c.wlen - 16)) ∧ t.jobs = s.jobs ∧ t.ctxs = s.ctxs ∧
        t.cores = s.cores ∧ MemoryKept s t
    let ids := (s.jobs.filter fun j => j.status != .ended).map (·.id)
    let body := reportBody s (cf c 0x20 32)
    (cf c 4 4 = 0 →
      gives .queryPart (.queryPart q c) 0 (padded partNumber 16 ++ Config.revision :: leBytes 7 0 ++ leBytes 8 (featureBits s) ++
        leBytes 4 (healthBits s) ++ leBytes 4 ids.length ++ ids.flatMap (leBytes 4)) ∧
      gives .queryClusterMap (.queryClusterMap q c) 0 ((List.range 24).flatMap (clusterRecord s)) ∧
      (Accepted .queryAttestation q c s → ∃ t, exec (.queryAttestation q c) s = .next t ∧ MemoryKept s t ∧ t.jobs = s.jobs ∧
        if Config.attestation then Completes s t q c 0 0 ((body ++ (Config.signature body).toList).take (c.wlen - 16))
        else Completes s t q c 1 0 []) ∧
      gives .queryCertChain (.queryCertChain q c) 0 Config.certificates ∧
      gives .queryErrorLog (.queryErrorLog q c) 0 (s.log.reverse.flatMap logBytes)) ∧
    (resident s (cf c 4 4) = some j →
      gives .queryJob (.queryJob q c) (cf c 4 4) (leBytes 1 (statusCode j.status) ++ leBytes 3 0 ++ leBytes 4 j.n ++ leBytes 4 j.lastCause.toNat) ∧
      gives .queryBinding (.queryBinding q c) (cf c 4 4) (BitVec.ofNat 8 j.rot ::
        (if j.binding.isEmpty then j.former else j.binding).map (BitVec.ofNat 8)))

/-- 03 R52-R61: what START, SIGNAL, KILL, SET_TOLERANCE, COPY_IN, COPY_OUT and PEEL_REQUEST do with a job that takes them, START with its WAITING tasks whose counters are zero (17 R338), PEEL_REQUEST in each state of a
resident job; and
the statuses NOJOB, WRONGQ and STATE of a START whose job does not. The order of these, WRONGQ whatever the job's status is, is the model's
reading (log entry 19). -/
def Obligations.JobCommands : Prop :=
  ∀ (s : State) (q : Nat) (c : Chain) (j : Job),
    let id := cf c 4 4
    let p : Pending := ⟨q, c⟩
    let copies := fun (k : CommandKind) (i : Instr) (into : Bool) => Accepted k q c s → resident s id = some j → j.queue = q →
      j.status = .created ∨ j.status = .running ∨ (j.status = .preempted ∧ ∀ n o, spaceOf (cf c 0x18 8) = .slice n o → j.n ≤ n) → 1 ≤ cf c 0x20 8 → cf c 0x20 8 ≤ 2 ^ 32 →
      (cf c 2 2 % 2 = 1 → cf c 0x2A 1 ≤ 63 ∧ cf c 0x28 2 < j.n) → ∃ t, exec i s = .next t ∧
        t.hostCopies = s.hostCopies ++ [⟨s.nextId, id, into, p⟩] ∧ t.completions = s.completions ∧ MemoryKept s t
    (Accepted .setTolerance q c s → id = 0 → ∃ t, exec (.setTolerance q c) s = .next t ∧ t.tolerance = cf c 0x10 8 ∧
      Completes s t q c 0 0 [] ∧ t.jobs = s.jobs ∧ MemoryKept s t) ∧
    (Accepted .start q c s → NamesJob q c s j .created → ∃ t x, exec (.start q c) s = .next t ∧ jobAt t id = some x ∧
      x.status = .running ∧ x.start = some p ∧ t.completions = s.completions ∧ MemoryKept s t ∧ t.ctxs = s.ctxs ∧
      ∀ n ∈ j.binding, ∀ (i : Nat) (w : Task), (coreAt s n).tasks[i]? = some w →
        (coreAt t n).tasks[i]? = some (if w.status = .waiting ∧ ((coreAt s n).counters[w.counter]?).getD 0 = 0
          then { w with status := .ready, readyAt := s.clock, boost := 0 } else w)) ∧
    (Accepted .start q c s → resident s id = none → ∃ t, exec (.start q c) s = .next t ∧ Completes s t q c 4 id [] ∧ t.jobs = s.jobs) ∧
    (Accepted .start q c s → resident s id = some j → j.queue ≠ q → ∃ t, exec (.start q c) s = .next t ∧
      Completes s t q c 5 id [] ∧ t.jobs = s.jobs) ∧
    (Accepted .start q c s → NamesJob q c s j .running → ∃ t, exec (.start q c) s = .next t ∧ Completes s t q c 6 id [] ∧ t.jobs = s.jobs) ∧
    (Accepted .signal q c s → NamesJob q c s j .running → cf c 0x10 2 < 4 * j.n → cf c 0x10 2 ≠ 65535 → ∃ t,
      exec (.signal q c) s = .next t ∧ Completes s t q c 0 id [] ∧ OthersKept s t (ctxKey j (cf c 0x10 2)) ∧ MemoryKept s t ∧
      (ctxAt t (ctxKey j (cf c 0x10 2))).epend = (ctxAt s (ctxKey j (cf c 0x10 2))).epend ||| 2) ∧
    (Accepted .signal q c s → NamesJob q c s j .running → cf c 0x10 2 = 65535 → ∃ t, exec (.signal q c) s = .next t ∧
      Completes s t q c 0 id [] ∧ (∀ k ∈ jobCtxs j, (ctxAt t k).epend = (ctxAt s k).epend ||| 2) ∧
      ∀ k, k ∉ jobCtxs j → ctxAt t k = ctxAt s k) ∧
    (Accepted .signal q c s → NamesJob q c s j .running → 4 * j.n ≤ cf c 0x10 2 → cf c 0x10 2 ≠ 65535 → ∃ t,
      exec (.signal q c) s = .next t ∧ Completes s t q c 1 id [] ∧ t.ctxs = s.ctxs ∧ t.jobs = s.jobs) ∧
    (Accepted .kill q c s → resident s id = some j → cf c 0x10 4 = 0 → ∃ t x l, exec (.kill q c) s = .next t ∧
      jobAt t id = some x ∧ x.status = .ended ∧ x.binding = [] ∧ t.completions = l ++ [completionOf q c 0 id []]) ∧
    (Accepted .kill q c s → resident s id = some j → j.status = .running → 0 < cf c 0x10 4 → cf c 0x10 4 ≤ 1000000 → ∃ t x,
      exec (.kill q c) s = .next t ∧ jobAt t id = some x ∧ x.kill = j.kill ++ [(p, timeNow s + 1000 * cf c 0x10 4)] ∧
      x.status = .running ∧ t.completions = s.completions ∧ ∀ k ∈ jobCtxs j, (ctxAt t k).epend = (ctxAt s k).epend ||| 4) ∧
    (copies .copyIn (.copyIn q c) true ∧ copies .copyOut (.copyOut q c) false) ∧
    (Accepted .peelRequest q c s → resident s id = some j → j.queue = q → cf c 0x11 1 ≤ 1 →
      (11 < cf c 0x10 1 ∨ holdsStack j (boundStack j (cf c 0x10 1)) = false) →
      ∃ t, exec (.peelRequest q c) s = .next t ∧ Completes s t q c 10 id [] ∧ t.handovers = s.handovers ∧ t.jobs = s.jobs) ∧
    (Accepted .peelRequest q c s → resident s id = some j → j.queue = q → cf c 0x10 1 ≤ 11 → cf c 0x11 1 ≤ 1 →
      holdsStack j (boundStack j (cf c 0x10 1)) = true → ∃ t h, exec (.peelRequest q c) s = .next t ∧
        t.handovers = s.handovers ++ [h] ∧ h.stack = boundStack j (cf c 0x10 1) ∧ h.job = id ∧ h.step = 0 ∧ h.source = .host p ∧
        h.toDie = (if cf c 0x11 1 = 0 then homeDie h.stack else otherDie h.stack) ∧ t.completions = s.completions)

/-- 03 R60, 02 R29, 23 R407: LOAD_IMAGE of a well-formed image gives it a handle, and RESOURCE where no image can be held or the part
asks for a reset; CREATE_JOB of one whose resources are all free makes a CREATED job of it and answers its binding. Which cores the loader
takes is the model's choice (log entry 16), and so is that the handles count up (log entry 46). -/
def Obligations.ImagesAndJobs : Prop :=
  ∀ (s : State) (q : Nat) (c : Chain),
    let p := popRing s q
    (Accepted .loadImage q c s → cf c 4 4 = 0 → s.health.resetReq = false → s.images.length < 64 →
      tablesMapped p (cf c 0x10 8) (cf c 0x18 8) = true → (readImage p (cf c 0x10 8) (cf c 0x18 8)).any imageOk = true →
      ∃ t, exec (.loadImage q c) s = .next t ∧ Completes s t q c 0 0 (leBytes 4 s.nextImage) ∧ t.nextImage = s.nextImage + 1 ∧
        t.images = s.images ++ [(s.nextImage, BitVec.ofNat 64 (cf c 0x10 8), BitVec.ofNat 64 (cf c 0x18 8))] ∧ MemoryKept s t) ∧
    (Accepted .loadImage q c s → cf c 4 4 = 0 → s.health.resetReq = true ∨ 64 ≤ s.images.length →
      ∃ t, exec (.loadImage q c) s = .next t ∧ Completes s t q c 3 0 [] ∧ t.images = s.images ∧ MemoryKept s t) ∧
    ∀ h len m j,
      let u := { p with images := s.images.filter fun x => x.1 != cf c 0x10 4 }
      Accepted .createJob q c s → s.images.find? (fun x => x.1 == cf c 0x10 4) = some (cf c 0x10 4, h, len) → createOk u c = true →
      s.health.resetReq = false → queueTaken u q = false → tablesMapped u h.toNat len.toNat = true →
      readImage u h.toNat len.toNat = some m → imageOk m = true → contentsMapped u m = true →
      (List.range m.nrel).all (relocOk u m) = true →
      allocate u m q c = some j → ∃ t, exec (.createJob q c) s = .next t ∧ t.jobs = s.jobs ++ [j] ∧ j.id = s.nextJob ∧ j.status = .created ∧
        j.queue = q ∧ t.images = u.images ∧
        Completes s t q c 0 j.id (BitVec.ofNat 8 (if j.apertures = 0 then 255 else j.aperture) :: bindingReport j)

/-- 21 R391-R395, 03 R57: PREEMPT with room and a mapped SAVE stops the contexts that stand at a boundary; after 100 µs all that
do are stopped; once the job is quiet its image is written (in host memory at SAVE stand its header, and of each context the resume PC, the scalar
registers and, in a full image, the vector registers), its cores are free and PREEMPT completes with the bytes written, L for a full image; RESUME
binds the job again, makes it RUNNING and gives its contexts the PC, the cycle count and the scalar, vector and predicate registers that SAVE holds. The
places of the registers within a context's area, and the rest of the image where the manual leaves it open, are the model's choice (log entry 17). -/
def Obligations.PreemptionSteps : Prop :=
  ∀ (s : State) (q : Nat) (c : Chain) (j : Job) (p : Pending) (since : Nat),
    let id := cf c 4 4
    let host := cf c 2 2 % 2 == 1
    (Accepted .preempt q c s → NamesJob q c s j .running → imageLength j ≤ cf c 0x18 8 →
      saveMapped s j host (cf c 0x10 8) (imageLength j) true = true → ∃ t x, exec (.preempt q c) s = .next t ∧
        jobAt t id = some x ∧ x.preempt = some (⟨q, c⟩, timeNow s) ∧ x.status = .running ∧ t.completions = s.completions ∧
        MemoryKept s t ∧ ∀ k ∈ jobCtxs j, jobOfCtx s k = some j → stopsNow s k = true → (ctxAt t k).stopped = true) ∧
    (resident s j.id = some j → j.preempt = some (p, since) → since + 100000 ≤ timeNow s → ∃ t,
      exec (.preemptStopTimeout j.id) s = .next t ∧ MemoryKept s t ∧
      ∀ k ∈ jobCtxs j, jobOfCtx s k = some j → stopsAtBoundary s k = true ∨ stopsNow s k = true → (ctxAt t k).stopped = true) ∧
    (resident s j.id = some j → j.preempt = some (p, since) → quiet (stopReady s j) j = true → s.messages = [] →
      (∀ r ∈ s.reqs, j.binding.contains (r.ctx / 4) = false) → (∀ k ∈ jobCtxs j, (savedCtx (ctxAt (stopReady s j) k)).held.length ≤ 32) →
      let a := cf p.chain 0x10 8
      let incr : Bool := j.saveAt == some (cf p.chain 2 2 % 2 == 1, BitVec.ofNat 64 a)
      ∃ t x n, exec (.preemptImageWrite j.id) s = .next t ∧
        jobAt t j.id = some x ∧ x.status = .preempted ∧ x.binding = [] ∧ x.former = j.binding ∧ x.preempt = none ∧
        Completes s t p.queue p.chain 0 j.id (leBytes 8 n) ∧ n ≤ imageLength j ∧ (incr = false → n = imageLength j) ∧
        (cf p.chain 2 2 % 2 = 1 → CanonicalMemory s → (∀ y, a ≤ y → y < a + imageLength j → hostMapped s y = true) →
          let field := saveField t j true
          field a 4 = some 0x56455250 ∧ field (a + 4) 2 = some 1 ∧ field (a + 6) 1 = some (if incr then 1 else 0) ∧
          field (a + 7) 1 = some (j.rot % 2 ^ 8) ∧ field (a + 8) 4 = some (j.id % 2 ^ 32) ∧ field (a + 0xC) 2 = some (j.n % 2 ^ 16) ∧
          field (a + 0xE) 2 = some (j.groups.length % 2 ^ 16) ∧ field (a + 0x18) 8 = some (imageLength j % 2 ^ 64) ∧
          ∀ m core i, m < j.n → j.binding[m]? = some core → i < 4 →
            let y := ctxAt (stopReady s j) (4 * core + i)
            let b := a + 0x1000 + m * 0x520000 + 0x4E0000 + 0x10000 * i
            field b 8 = some y.pc.toNat ∧ (∀ r : Fin 64, field (b + imageS + 8 * r) 8 = some (y.s[r]).toNat) ∧
            (incr = false → ∀ r : Fin 64, field (b + imageV + 256 * r) 256 = some (y.v[r]).toNat))) ∧
    (∀ cores, Accepted .resume q c s → NamesJob q c s j .preempted →
      saveMapped s j host (cf c 0x10 8) (imageLength j) false = true → headerMatches s j host (cf c 0x10 8) = true →
      bindAgain s j = some cores → j.groups = [] → ∃ t x, exec (.resume q c) s = .next t ∧
        jobAt t id = some x ∧ x.status = .running ∧ x.binding = cores ∧
        (j.saved.length = j.n → cores.length = j.n → ∀ n ∈ cores, (coreAt t n).dirty = []) ∧
        (∀ m core i y, cores.length = j.n → cores.Nodup → cores[m]? = some core → j.saved[m]? = some y → y.ctxs.length = 4 → i < 4 →
          let read := fun off n => (saveField s j host (cf c 0x10 8 + 0x1000 + m * 0x520000 + 0x4E0000 + 0x10000 * i + off) n).getD 0
          let z := ctxAt t (4 * core + i)
          z.pc = BitVec.ofNat 64 (read 0 8) ∧ z.ccyc = read 0x20 8 ∧ (∀ r : Fin 64, r ≠ 0 → z.s[r] = BitVec.ofNat 64 (read (imageS + 8 * r) 8)) ∧
          (∀ r : Fin 64, z.v[r] = BitVec.ofNat 2048 (read (imageV + 256 * r) 256)) ∧
          ∀ r : Fin 96, r ≠ 0 → z.p[r] = BitVec.ofNat 128 (read (imageP + 16 * r) 16)) ∧
        Completes s t q c 0 id (BitVec.ofNat 8 j.rot :: cores.map (BitVec.ofNat 8)))

/-- 03 R55, R56, R59, 23 R411, R412: a host copy completes with the status its bytes meet, and where every byte can be moved each is, from
host memory or to it, and no other byte of memory changes; with FLAGS[0] one that completes OK decrements its counter (of a PREEMPTED job at RESUME),
one that fails does not; a KILL whose grace has passed ends the job and
completes OK; a RUNNING job with nothing left, all START awaits, ends and START completes with code 0; a job that is bound to a layer
which has been turned off ends and START completes with JOBERR and code 0x83. What becomes of the job's other commands, and that the bytes
are moved at the completion, is the model's reading (log entries 20, 21). -/
def Obligations.JobEndings : Prop :=
  ∀ (s : State) (id : Nat) (j : Job) (x : HostCopy) (y : Pending × Nat),
    (s.hostCopies.find? (fun h => h.id == id) = some x → resident s x.job = some j →
      let c := x.cmd.chain
      let u := { s with hostCopies := s.hostCopies.filter fun h => h.id != id }
      hostCopyHeld s j x.into (cf c 0x18 8) (cf c 0x20 8) = false → cf c 2 2 % 2 = 0 →
      ∃ t, exec (.hostCopyComplete id) s = .next t ∧ t.hostCopies = u.hostCopies ∧
        t.mem = (moveHostBytes j x.into (cf c 0x10 8) (cf c 0x18 8) (cf c 0x20 8) (cf c 0x20 8) u 0).1.mem ∧
        Completes s t x.cmd.queue c (moveHostBytes j x.into (cf c 0x10 8) (cf c 0x18 8) (cf c 0x20 8) (cf c 0x20 8) u 0).2 j.id []) ∧
    (s.hostCopies.find? (fun h => h.id == id) = some x → resident s x.job = some j → CanonicalMemory s →
      let c := x.cmd.chain
      let len := cf c 0x20 8
      let host := fun i : Nat => hostPhys (cf c 0x10 8 + i)
      hostCopyHeld s j x.into (cf c 0x18 8) len = false → cf c 2 2 % 2 = 0 →
      ∀ q : Nat → Nat, (∀ i, i < len → devicePlace s j x.into (cf c 0x18 8 + i) = some (q i) ∧ hostMapped s (cf c 0x10 8 + i) = true ∧
          q i / 16 ∉ s.bad ∧ ∀ k, k < len → (q i = q k → i = k) ∧ q i ≠ host k) →
      ∃ t, exec (.hostCopyComplete id) s = .next t ∧ Completes s t x.cmd.queue c 0 j.id [] ∧
        (∀ i, i < len → if x.into then readByte t.mem (q i) = readByte s.mem (host i) else readByte t.mem (host i) = readByte s.mem (q i)) ∧
        ∀ a, (∀ i, i < len → a ≠ if x.into then q i else host i) → readByte t.mem a = readByte s.mem a) ∧
    (s.hostCopies.find? (fun h => h.id == id) = some x → resident s x.job = some j →
      let c := x.cmd.chain
      let u := { s with hostCopies := s.hostCopies.filter fun h => h.id != id }
      let done := moveHostBytes j x.into (cf c 0x10 8) (cf c 0x18 8) (cf c 0x20 8) (cf c 0x20 8) u 0
      let n := j.binding[cf c 0x28 2]?.getD 0
      let k := cf c 0x2A 1
      hostCopyHeld s j x.into (cf c 0x18 8) (cf c 0x20 8) = false → hostCounterHeld s j c = false → cf c 2 2 % 2 = 1 →
      ∃ t, exec (.hostCopyComplete id) s = .next t ∧ t.mem = done.1.mem ∧ Completes s t x.cmd.queue c done.2 j.id [] ∧
        (done.2 ≠ 0 → ∀ m, (coreAt t m).counters = (coreAt s m).counters) ∧
        (done.2 = 0 → j.status ≠ .preempted →
          (coreAt t n).counters = (coreAt s n).counters.setIfInBounds k (((coreAt s n).counters[k]?).getD 0 - 1)) ∧
        (done.2 = 0 → j.status = .preempted → (jobAt t j.id).map (·.owed) = some (j.owed ++ [(cf c 0x28 2, k)]) ∧
          ∀ m, (coreAt t m).counters = (coreAt s m).counters)) ∧
    (resident s id = some j → j.kill.find? (fun x => x.2 ≤ timeNow s) = some y → ∃ t j' l, exec (.killGraceExpiry id) s = .next t ∧
      jobAt t id = some j' ∧ j'.status = .ended ∧ t.completions = l ++ [completionOf y.1.queue y.1.chain 0 id []]) ∧
    (resident s id = some j → onOffLayer s j = false → j.status = .running → jobDone s j = true → j.start = some y.1 →
      ∃ t j' l, exec (.jobEnd id) s = .next t ∧ jobAt t id = some j' ∧ j'.status = .ended ∧ j'.binding = [] ∧
        t.completions = s.completions ++ completionOf y.1.queue y.1.chain 0 id (leBytes 8 (timeNow s) ++ leBytes 2 0) :: l) ∧
    (resident s id = some j → onOffLayer s j = true → j.start = some y.1 → ∃ t j' l, exec (.jobEnd id) s = .next t ∧
      jobAt t id = some j' ∧ j'.status = .ended ∧
      t.completions = s.completions ++ completionOf y.1.queue y.1.chain 12 id (leBytes 8 (timeNow s) ++ leBytes 2 0x83) :: l)

/-! ## The inbound window, the links and the columns (03 R64-R67, 04 R77-R84, 01 R18-R20) -/

/-- 03 R64-R66: a posted write of a PCIe requester of up to a packet waits as one packet; a packet with a writable page leaves in its turn on the
route of the owner's die, to the place translated for it, one with none is dropped and logged; performed, its bytes are at their page, and its acknowledgement
frees it; a read that nothing holds is answered, and logged where it meets an unmapped page (03 R64). What a poisoned or an unmapped
part does is the model's reading (log entry 23). -/
def Obligations.InboundSteps : Prop :=
  ∀ (s : State) (r off len tag id : Nat) (data : List (Option Byte)) (ro : Bool) (k : Packet) (pa : Nat),
    (data ≠ [] → data.length ≤ 256 - off % 256 → off + data.length ≤ 2 ^ 36 → ∃ t, exec (.inboundPostedWrite r off data ro) s = .next t ∧
      t.packets = s.packets ++ [⟨s.nextId, r, s.writes, off, data, ro, false, none, none, 0, 0, .waiting⟩] ∧ t.writes = s.writes + 1 ∧ MemoryKept s t) ∧
    (packetAt s id = some k → k.status = .waiting → windowPlace s k.offset true = some pa →
      packetReady s k (ownerDie s (physStack pa)) = true → ∃ t k', exec (.inboundPacketRelease id) s = .next t ∧ packetAt t id = some k' ∧
        k'.status = .released ∧ k'.begun = true ∧ k'.place = some pa ∧ k'.route = ownerDie s (physStack pa) ∧ k'.data = k.data ∧ MemoryKept s t) ∧
    (packetAt s id = some k → k.status = .waiting → k.reply = none → windowPlace s k.offset true = none → ∃ t e, exec (.inboundPacketRelease id) s = .next t ∧
      t.packets = s.packets.filter (fun x => x.id != id) ∧ e ∈ t.log ∧ e.kind = 9 ∧ MemoryKept s t) ∧
    (packetAt s id = some k → k.status = .released → k.place = some pa → handing s (physStack pa) 1 5 = false →
      (∀ x ∈ s.packets, x.route = k.route → x.status = .released → k.seq ≤ x.seq) → s.bad = [] → CanonicalMemory s → ∃ t k',
        exec (.remoteAccessPerform (.packet id)) s = .next t ∧ packetAt t id = some k' ∧ k'.status = .performed ∧
        (∀ i b, k.data[i]? = some (some b) → readByte t.mem (pa + i) = b) ∧
        (∀ i, k.data[i]? = some none → readByte t.mem (pa + i) = readByte s.mem (pa + i)) ∧
        ∀ a, a < pa ∨ pa + k.data.length ≤ a → readByte t.mem a = readByte s.mem a) ∧
    (packetAt s id = some k → k.status = .performed → k.reply = none → ∃ t, exec (.inboundPacketAck id) s = .next t ∧
      t.packets = s.packets.filter (fun x => x.id != id) ∧ MemoryKept s t) ∧
    (len ≤ 4096 → off + len ≤ 2 ^ 36 → s.reads = [] → readReady s ⟨r, off, len, tag, s.writes, none⟩ = true → ∃ t,
      exec (.inboundRead r off len tag) s = .next t ∧ t.reads = [] ∧ t.answers = s.answers ++ [(tag, readAnswer s off len)] ∧ MemoryKept s t ∧
        let unmapped := fun i => (windowJob s (off + i)).isSome = true ∧ windowPlace s (off + i) false = none
        ((∃ i, i < len ∧ unmapped i) → ∃ e ∈ t.log, e.kind = 9) ∧ ((∀ i, i < len → ¬unmapped i) → t.log = s.log))

/-- 01 R18, R19, 04 R77, R78, R81-R84, 03 R67: a sound flit in link sequence is taken, and what it acknowledges leaves the replay
buffer; one for another part goes on toward it; a class 1 flit is delivered in end-to-end sequence, held when early and discarded when
late; the last flit of an active message makes it whole; a class 0 flit is delivered once; an unsound flit is discarded and asked for
again; a flit that leaves carries the number its link has taken; a due link retrains, and returns if the
system configuration has it; a reading of a column is due every 1,000 ns, HALF is set above 105 °C and cleared at 100 °C, and at 125 °C the
layers of the die are turned off; a due realignment
pauses its column, or is deferred for 250 µs at most, and ends after 2 µs; the CXL port trains once. The shape of the flits and what
counts as a replay are the model's choice (log entry 24), which copies defer a realignment (log entry 25) and when the layers go off at
125 °C (23 R411; log entry 27) its reading. -/
def Obligations.LinkAndColumnSteps : Prop :=
  ∀ (s : State) (l die col size : Nat) (f : Flit) (temp : BitVec 16),
    let c := columnAt s die col
    let k := linkAt s l
    let src := f.source.toNat
    let taken := { k with
      expect := k.expect + 1, ask := false
      unacked := (k.unacked.filter fun g => f.ack ≤ g.seq).map fun g => if f.again then { g with ack := k.expect + 1, again := false } else g
      replays := if f.again then k.replayed (timeNow s) else k.replays }
    let arrives := fun (P : State → Prop) => ∃ t, exec (.flitArrival l true f) s = .next t ∧ P t
    (l < 16 → k.trained = true → f.body.fits = true →
      (f.seq = k.expect →
        (f.dest = Config.partId → f.body.ordered = true →
          (f.endToEnd < look 0 s.endToEnd src → arrives fun t => t = setLink s l taken) ∧
          (s.early = [] → look 0 s.endToEnd src < f.endToEnd → arrives fun t => t = { setLink s l taken with early := [f] }) ∧
          (∀ off n x y, s.early = [] → f.endToEnd = look 0 s.endToEnd src → f.body = .copyRead off n x y → arrives fun t =>
            linkAt t l = taken ∧ look 0 t.endToEnd src = f.endToEnd + 1 ∧ t.early = [] ∧ MemoryKept s t ∧
            t.reads = s.reads ++ [⟨partRequester f.source, off, n, f.endToEnd, s.writes, some (src, x, y)⟩]) ∧
          ∀ m args, s.early = [] → f.endToEnd = look 0 s.endToEnd src → f.body = .messageArgs true args →
            s.coming.find? (fun x => x.1 == src) = some (src, m) → arrives fun t => ∃ x : Vector Word 8, t.inbox = s.inbox ++ [{ m with args := x }] ∧
              MemoryKept s t ∧ ∀ i, i < 4 → x[i]? = m.args[i]? ∧ x[4 + i]? = args[i]?) ∧
        (f.dest = Config.partId → f.body.ordered = false → (src, f.endToEnd) ∈ s.bulk → arrives fun t => t = setLink s l taken) ∧
        (∀ off d x y i, f.dest = Config.partId → f.body = .copyWrite off d x y i → (src, f.endToEnd) ∉ s.bulk → arrives fun t =>
          linkAt t l = taken ∧ t.bulk = s.bulk ++ [(src, f.endToEnd)] ∧ MemoryKept s t ∧
          t.packets = (postWrite s (partRequester f.source) off (d.map some) false (some (src, x, y, i))).packets) ∧
        (f.dest ≠ Config.partId → routesTo s f.dest.toNat = [] → arrives fun t => t = { setLink s l taken with parked := s.parked ++ [f] }) ∧
        ∀ m ms, f.dest ≠ Config.partId → routesTo s f.dest.toNat = m :: ms → m ≠ l → arrives fun t => linkAt t l = taken ∧
          (linkAt t m).unacked = (linkAt s m).unacked ++ [{ f with seq := (linkAt s m).next, ack := (linkAt s m).expect, again := (linkAt s m).ask }] ∧ MemoryKept s t) ∧
      (∀ ok, ok = false ∨ f.seq ≠ k.expect → ∃ t, exec (.flitArrival l ok f) s = .next t ∧ linkAt t l = { k with ask := true, replays := k.replayed (timeNow s) } ∧
        t.jobs = s.jobs ∧ t.endToEnd = s.endToEnd ∧ MemoryKept s t) ∧
      (retrainDue s l = true → ∃ t, exec (.linkRetrain l) s = .next t ∧ (linkAt t l).trained = false ∧ MemoryKept s t) ∧
      (retrainDue s l = false → exec (.linkRetrain l) s = .next s)) ∧
    (∀ h : l < 16, k.trained = false → ∃ t, exec (.linkRetrainEnd l) s = .next t ∧
      (linkAt t l).trained = Config.linkConfigured ⟨l, h⟩ ∧ MemoryKept s t) ∧
    (die < 4 → col < 25 →
      (timeNow s < c.tempDue → exec (.coltempRefresh die col temp) s = .next s) ∧
      (-160 ≤ temp.toInt → temp.toInt ≤ 600 → c.tempDue ≤ timeNow s → ∃ t, exec (.coltempRefresh die col temp) s = .next t ∧
        (columnAt t die col).temp = temp ∧ (columnAt t die col).tempDue = c.tempDue + 1000 ∧
        (temp.toInt < 500 → MemoryKept s t) ∧ (500 ≤ temp.toInt → (die, 0) ∈ t.layersOff ∧ (die, 1) ∈ t.layersOff) ∧
        (420 < temp.toInt → (columnAt t die col).half = true) ∧ (temp.toInt ≤ 400 → (columnAt t die col).half = false) ∧
        (400 < temp.toInt → temp.toInt ≤ 420 → (columnAt t die col).half = c.half)) ∧
      (realignmentDue s die col ≤ timeNow s → c.deferred = none → c.pausing = none → ∃ t, exec (.wallBusRealignment die col) s = .next t ∧
        (columnAt t die col).dueAt = c.dueAt + 20000000 ∧ MemoryKept s t ∧
        if realignmentHeld s die col then (columnAt t die col).deferred = some (timeNow s) ∧ (columnAt t die col).pausing = none
        else (columnAt t die col).pausing = some (timeNow s))) ∧
    (∀ at', c.deferred = some at' → realignmentHeld s die col = false ∨ at' + 250000 ≤ timeNow s → ∃ t,
      exec (.realignmentDeferralEnd die col) s = .next t ∧ (columnAt t die col).deferred = none ∧
      (columnAt t die col).pausing = some (timeNow s)) ∧
    (∀ at', c.pausing = some at' → at' + 2000 ≤ timeNow s → ∃ t, exec (.realignmentPauseEnd die col) s = .next t ∧
      (columnAt t die col).pausing = none ∧ MemoryKept s t) ∧
    (s.poolTrained = none → size ≤ 2 ^ 42 → exec (.cxlPortTraining size) s = .next { s with poolTrained := some size })

/-! ## Errors and power (23 R400-R411) -/

/-- 23 R400-R411: the scrubber's findings; a store reload holds its core until it is done; an error in a job's management data
ends it; a unit whose condition has held for four times the exit time of the deepest state that is tolerated enters it and wakes from it; a layer turned
off in an emergency loses its slices. The records of the error log and the conditions of the power states are partly the
model's readings (log entries 26, 27, 49). -/
def Obligations.ErrorAndPowerSteps : Prop :=
  ∀ (s : State) (n g die layer : Nat) (j : Job) (u : PowerUnit),
    let core := coreAt s n
    exec (.scrubPass .clean) s = .next s ∧
    (∀ a c, c.all isCoreId = true → s.log.length < 4096 → ∃ t, exec (.scrubPass (.corrected c a)) s = .next t ∧ t.ctxs = s.ctxs ∧
      MemoryKept s t ∧ ∃ e ∈ t.log, e.kind = 1 ∧ e.core = c.getD 0xFF) ∧
    (∀ m, ∃ t, exec (.scrubPass (.granules none g m)) s = .next t ∧ (∀ x, x ∈ t.bad ↔ x ∈ s.bad ∨ (g ≤ x ∧ x < g + m)) ∧ t.ctxs = s.ctxs ∧
      (∀ a, readByte t.mem a = readByte s.mem a) ∧ ∃ e ∈ t.log, e.kind = 2) ∧
    (isCoreId n = true → core.marked = false → core.uncorrected = 0 → core.corrected.length < 1000 → ∃ t, exec (.scrubPass (.serviceStore n)) s = .next t ∧
      (coreAt t n).storeOk = false ∧ (coreAt t n).uncorrected = 1 ∧ MemoryKept s t) ∧
    (isCoreId n = true → ∃ t, exec (.scrubPass (.instruction n layer g)) s = .next t ∧ g ∉ (coreAt t n).icache ∧
      (∀ k, (ctxAt t k).s = (ctxAt s k).s ∧ (ctxAt t k).pc = (ctxAt s k).pc) ∧ MemoryKept s t) ∧
    (isCoreId n = true → ∃ t, exec (.serviceStoreReload n) s = .next t ∧ (coreAt t n).storeOk = false ∧ MemoryKept s t ∧ t.ctxs = s.ctxs) ∧
    (isCoreId n = true → s.health.ready = true → ∃ t, exec (.serviceStoreReloadDone n) s = .next t ∧ (coreAt t n).storeOk = true ∧ MemoryKept s t ∧
      t.ctxs = s.ctxs) ∧
    (jobAt s j.id = some j → j.status ≠ .ended → ∃ t x, exec (.mgmtDataError (some j.id)) s = .next t ∧ jobAt t j.id = some x ∧
      x.status = .ended ∧ t.health.jerrId = j.id ∧ t.health.jerrCode = 0x81 ∧ t.health.resetReq = s.health.resetReq) ∧
    (∃ t, exec (.mgmtDataError none) s = .next t ∧ t.health.resetReq = true) ∧
    (∀ a, (powerState s u).2 = true → (powerState s u).1 ≤ s.tolerance → s.tolerance ≠ 0 → deeper s u = false → idleSince s u = some a →
      a + 4 * (powerState s u).1 ≤ timeNow s → exec (.powerStateEntry u) s = .next (enterPower s u)) ∧
    (isCoreId n = true → ∃ t, exec (.powerStateWake (.core n)) s = .next t ∧ (coreAt t n).gated = false ∧ (coreDie n, coreLayer n) ∉ t.layersGated) ∧
    (∃ t, exec (.powerStateWake (.stack g)) s = .next t ∧ g ∉ t.stacksAsleep ∧ MemoryKept s t) ∧
    (∃ t, exec (.powerStateWake (.die g)) s = .next t ∧ g ∉ t.diesOff ∧ MemoryKept s t) ∧
    (die < 4 → layer < 2 → (die, layer) ∉ s.layersOff → ∃ t, exec (.layerEmergencyOff die layer) s = .next t ∧
      (die, layer) ∈ t.layersOff ∧ (∃ e ∈ t.log, e.kind = 14) ∧
      ∀ x ∈ layerCores s die layer, ∀ o, o < 2 ^ 22 → readByte t.mem (slicePhys x o) = 0)

/-! ## Bundles and words (05 R88-R103) -/

/-- R88-R103, every slot operation at every value of its fields: a well-formed operation encoded alone decodes to itself, at its class's
first position; with a path tag that names an absent test it is ILLBND there, and a loop that ends inside its own bundle is ILLOP (log
entry 13). A NOP header decodes to an empty bundle. -/
def Obligations.BundleRoundTrip : Prop :=
  (∀ e : Fin 2, decodeBundle ((encode (.nop e)).map (·.toNat)) = .ok ⟨e.val == 1, 4, []⟩) ∧
  ∀ (i : Instr) (c : Cls) (w : Nat) (m : Option (BitVec 32)), i.wellFormed = true → slotWord i = some (c, w, m) →
    let n := 4 * (encode i).length
    let p := match c with | .x => 0 | .m => 2 | .v => 4 | .k => 6 | .q => 7 | .f => 8 | .t => 9 | .b => 10
    let bundle := decodeBundle ((encode i).map (·.toNat))
    (c = .b ∨ w % 8 = 0 ∨ w % 8 = 5 →
      bundle = if loopEndsShort n i then .error (.illop, p) else .ok ⟨true, n, [⟨p, i⟩]⟩) ∧
    (c ≠ .b → w % 8 ≠ 0 → w % 8 ≠ 5 → bundle = .error (.illbnd, p))

/-- The two bundles that the manual encodes (Tables fetch-15 and fetch-16), an all-zero word (R88), and one word of every class
written out bit by bit from its form in Table fetch-5. -/
def Obligations.DecodeWords : Prop :=
  decodeBundle [0xF001005B, 0x1C300000, 0x00012000, 0x14418400] = .ok ⟨true, 16, [⟨0, .ldiLong 3 0 0x00012000⟩, ⟨2, .ldw 4 6 128 0⟩]⟩ ∧
  decodeBundle [0xE018005B, 0x08514009, 0x0861800D, 0x02400028, 0x22BFFFF8] =
    .ok ⟨true, 20, [⟨0, .addi 5 5 1 1⟩, ⟨1, .addi 6 6 1 5⟩, ⟨10, .bt 9 40⟩, ⟨11, .bf 10 (-8)⟩]⟩ ∧
  decodeBundle [0] = .error (.illop, 15) ∧
  -- SUB s3, s1, s2: major 000001, d 000011, a 000001, b 000010, fn 00001, P 000
  decodeSlot .x 0b00000100001100000100001000001000 none = some (.sub 3 1 2 0) ∧
  -- VLDB v5, bank 7, s9, offset 2: major 010000, vd 000101, bank 00111, x 001001, off6 000010, P 000
  decodeSlot .m 0b01000000010100111001001000010000 none = some (.vldb 5 7 9 2 0) ∧
  -- VADD v1, v2, v3, BF16, guard p4: major 000001, vd 000001, va 000010, vb 000011, t 10, g 100, P 000
  decodeSlot .v 0b00000100000100001000001110100000 none = some (.vadd 1 2 3 2 4 0) ∧
  -- KUNPQ v8, v9, Q4N, part 1, BF16, sc5: major 000010, vd 001000, va 001001, fmt 011, part 01, dt 10, sc 0101, P 000
  decodeSlot .k 0b00001000100000100101101100101000 none = some (.kunpq 8 9 1 2 5 0) ∧
  -- QPK v8, v9, F8A, part 1, F32, toward zero, saturating: major 000001, vd 001000, va 001001, fmt 000, part 01, dt 00, rnd 01, sat 01, P 000
  decodeSlot .q 0b00000100100000100100001000101000 none = some (.qpk 8 9 0 1 0 1 1 0) ∧
  -- FSUM v2, v3, F32, guard p0: major 001001, vd 000010, va 000011, vb 000000, t 00, g 000, P 000
  decodeSlot .f 0b00100100001000001100000000000000 none = some (.fsum 2 3 0 0 0) ∧
  -- TDEC core s4, amount s5, counter 33: major 001111, e 0000, sa 000100, sb 000101, counter 100001, 0, P 000
  decodeSlot .t 0b00111100000001000001011000010000 none = some (.tdec 4 5 33 0) ∧
  -- JR s7 with a link: kind 111, c 1000111, off22 zero
  decodeSlot .b 0b11110001110000000000000000000000 none = some (.jr 1 7)

/-! ## A step (log entry 1) -/

/-- A turn of an issue stage whose running context is at a boundary with nothing due and whose next bundle passes its checks (R96):
the bundle's operation runs by exec at its position, after the context's working field has been set up; its context cycle passes and the
PC moves on before it where it is one that follows its bundle (R110), and after it otherwise. A bundle that a check stops, or that does not
decode, is not run: its trap is entered (TrapEntry says how) from the state as it stands, with no effect of any of its operations; one that
waits leaves its context WAITING. A cause for the service context takes the turn before any of this (22 R397). A turn of any other row runs by exec. Beside the turn, every step sets the dirty bits of the units that it has
changed (R394) and watches which units are idle (R410): `stepped`. -/
def Obligations.StepRunsDecodedInstruction : Prop :=
  (∀ (s : State) (rest : List Turn) (n : Nat) (j : Job) (c : Fin 4) (ws : List Nat),
    let u := { s with agenda := rest }
    let k := 4 * n + c.val
    let x := ctxAt u k
    s.agenda = .issue n :: rest → jobOfCore u n = some j → j.status = .running → (coreAt u n).service = none → (coreAt u n).services = [] →
    (coreAt u n).hold = false → (coreAt u n).storeOk = true → runningCtx u n = some c →
    (∀ o, bestReady u n = some o → (ctxAt u (4 * n + o.val)).prio.val ≤ x.prio.val) →
    landsNow u k = false → x.waitc = 0 → jobStops u k = false → x.fence = none → candidate x = none → x.fetched = true →
    x.withdrawn = [] → fetchHeld u k = false → fetchPoison u k = none → fetchBundle u j x.pc = .ok ws →
    let trapping := fun f : FaultRec => step s = stepped s (exec (.trapEntry k) (onCtx u k fun y => { y with trap := some f }))
    (∀ e p, decodeBundle ws = .error (e, p) → ∃ f, trapping f ∧ f.cause = (match e with | .illop => .illop | .illbnd => .illbnd) ∧
      f.pos = p ∧ f.bundle = x.pc ∧ f.addr = 0 ∧ f.late = false) ∧
    ∀ b : Bundle, decodeBundle ws = .ok b →
      let l := opsOf b
      let taken := firstTaken x (testsOf l)
      let ex := executing taken l
      let written := ex.flatMap (opWrites x taken)
      let check := verdict u k taken x.pc b.len l ex
      let start := begun u k b.len ex
      let at' := fun (p : Nat) (t : State) => { t with cur := { t.cur with pos := p } }
      let done := fun (f : State → State) (a : Answer) => (match a with | .next t => .next { f t with cur := Issue.reset } | o => o : Answer)
      testsWait u k l = false →
      (check = .go →
        (b.slots = [] → step s = stepped s (done (retire · b.stop written) (exec (.nop (if b.stop then 1 else 0)) start))) ∧
        (∀ y, b.slots = [y] → (10 ≤ y.pos ∨ isPost y.instr = false) →
          step s = stepped s (done (retire · b.stop written) (exec y.instr (at' y.pos start)))) ∧
        (∀ y, b.slots = [y] → y.pos < 10 → isPost y.instr = true →
          step s = stepped s (done id (exec y.instr (at' y.pos (retire start b.stop written))))) ∧
        step s = stepped s (issueGo exec u k b taken)) ∧
      (∀ f, check = .trap f → trapping f) ∧
      (check = .wait → step s = stepped s (.next (waiting u k)))) ∧
  (∀ (s : State) (rest : List Turn) (n : Nat) (j : Job) (x : ServiceCause) (l : List ServiceCause),
    let u := { s with agenda := rest }
    s.agenda = .issue n :: rest → jobOfCore u n = some j → j.status = .running → (coreAt u n).service = none → (coreAt u n).storeOk = true →
    (coreAt u n).services = x :: l → step s = stepped s (exec (.serviceContextEntry n) u)) ∧
  ∀ (s : State) (i : Instr) (rest : List Turn), s.agenda = .row i :: rest → isSlotOp i = false →
    step s = stepped s (exec i { s with agenda := rest })

/-- No instruction stops the part: exec answers a next state for every instruction and every state, and a step stops only for an issue
turn of a core that no job is bound to. Where they issue, every special function, every reduction and FSCAN, the pack operations and QAMAX
complete with one result on its way, and every speculative load with a result on its way or a request. -/
def Obligations.NoInstructionStops : Prop :=
  (∀ i s, ∃ t, exec i s = .next t) ∧
  (∀ (d a : VReg) (e : CReg) (t : Fin 4) (g f : Fin 8) (r n u : Fin 4) (c : Fin 16) (p : Tag),
    let v : Item := ⟨.vector, d⟩
    SendsResult (.frcp d a t g p) p v 8 ∧ SendsResult (.frsq d a t g p) p v 8 ∧ SendsResult (.fsqrt d a t g p) p v 8 ∧
    SendsResult (.fexp2 d a t g p) p v 8 ∧ SendsResult (.flog2 d a t g p) p v 8 ∧ SendsResult (.fsin d a t g p) p v 8 ∧
    SendsResult (.fcos d a t g p) p v 8 ∧ SendsResult (.ftanh d a t g p) p v 8 ∧ SendsResult (.fsum d a t g p) p v 6 ∧
    SendsResult (.fmaxr d a t g p) p v 6 ∧ SendsResult (.fminr d a t g p) p v 6 ∧ SendsResult (.fscan d a t g p) p v 6 ∧
    SendsResult (.kunp d a f r t p) p v 2 ∧ SendsResult (.kunpq d a r t c p) p v 3 ∧ SendsResult (.qpk d a f r t n u p) p v 3 ∧
    SendsResult (.qpkq d a r t c p) p v 3 ∧ SendsResult (.qamax e a r t c p) p ⟨.scale, e⟩ 3) ∧
  (∀ (d a : SReg) (e : VReg) (o : BitVec 11) (m : BitVec 32) (p : Tag),
    let scalar := fun i : Instr => ∀ s, Issues i p s → ∃ t, exec i s = .next t ∧
      ((∃ v df, SendsScalar i s t d 4 v df) ∨ ∃ r, Requests i s t r ∧ r.op = i)
    let vector := fun i : Instr => ∀ s, Issues i p s → ∃ t, exec i s = .next t ∧
      ((∃ v df, Sends i s t ⟨.vector, e⟩ 4 v (BitVec.allOnes 2048) df 0) ∨ ∃ r, Requests i s t r ∧ r.op = i)
    scalar (.lds d a o p) ∧ scalar (.ldsLong d a p m) ∧ vector (.vlds e a o p) ∧ vector (.vldsLong e a p m)) ∧
  ∀ s, (∃ t, step s = .next t) ∨ ∃ n, step s = .fault (.unboundCore n) ∧ jobOfCore s n = none

/-- Every step keeps the canonical form of memory: one list of bytes for one memory, whatever has been written (log entry 4). -/
def Obligations.StepKeepsMemoryCanonical : Prop :=
  ∀ s t, CanonicalMemory s → step s = .next t → CanonicalMemory t

/-! ## After reset -/

/-- Memory has its canonical form after reset. -/
def Obligations.ResetMemoryCanonical : Prop := CanonicalMemory State.reset

/-- 03 R68, 01 R15, 06 Table issue-4, 07 Table scalar-5: right after reset no job is resident, no core is bound, no context holds a task,
no queue is enabled, the firmware is not yet verified, and every stack is owned by its home die. The zeros of the registers are the
model's choice (log entry 3), as are those of memory (log entry 4). -/
def Obligations.ResetLeaves : Prop :=
  let s := State.reset
  s.jobs = [] ∧ s.reqs = [] ∧ s.copies = [] ∧ s.images = [] ∧ s.log = [] ∧ s.clock = 0 ∧ s.tolerance = 0 ∧ s.poolTrained = none ∧
  answering s = false ∧ s.health = Health.reset ∧ s.generation = 0 ∧
  (∀ stack, ownerDie s stack = homeDie stack) ∧
  (∀ n, (coreAt s n).job = none ∧ (coreAt s n).tasks = Vector.replicate 64 Task.reset ∧ (coreAt s n).storeOk = false) ∧
  (∀ k, ctxAt s k = Ctx.reset ∧ (ctxAt s k).status = .idle ∧ (ctxAt s k).task = none ∧ (ctxAt s k).loops = [] ∧ (ctxAt s k).epend = 0 ∧
    (ctxAt s k).emask = 0 ∧ (ctxAt s k).h = false ∧ (ctxAt s k).timerAt = none ∧ ∀ r : SReg, sVal (ctxAt s k) r = 0) ∧
  (∀ q, (queueAt s q).enabled = false ∧ (queueAt s q).slot = false ∧ (queueAt s q).pinned = false) ∧
  (∀ l, (linkAt s l).trained = false) ∧
  ∀ a, readByte s.mem a = 0
end

