-- ==== Sys2Proof/Laws/Store.lean ====
section
/-! SUPPORT. The laws of sparse tables and of memory: read after write, and the canonical form that every memory
operation keeps. -/

namespace Sys2Proof.Machine

/-! ## Sparse tables -/

@[simp] theorem look_put_same {α : Type} (d a : α) (m : Store α) (k : Nat) : look d (put m k a) k = a := by
  induction m with
  | nil => simp [put, look]
  | cons e m ih =>
    obtain ⟨j, b⟩ := e
    by_cases h : k = j
    · simp [put, look, h]
    · by_cases h' : k < j
      · simp [put, look, h, h']
      · simp [put, look, h, h', ih]

theorem look_put_ne {α : Type} (d a : α) (m : Store α) {k q : Nat} (h : q ≠ k) : look d (put m k a) q = look d m q := by
  induction m with
  | nil => simp [put, look, h]
  | cons e m ih =>
    obtain ⟨j, b⟩ := e
    by_cases hk : k = j
    · subst hk; simp [put, look, h]
    · by_cases hl : k < j
      · simp [put, look, hk, hl, h]
      · by_cases hq : q = j
        · simp [put, look, hk, hl, hq]
        · simp [put, look, hk, hl, hq, ih]

/-! ## Memory: read after write -/

/-- Every address listed is at least `lo`, in the canonical form. -/
theorem wfMemory_cons {a : Nat} {b : Byte} {m : List Host.Cell} :
    wfMemory ((a, b) :: m) = true ↔ b ≠ 0 ∧ (∀ c ∈ m.head?, a < c.1) ∧ wfMemory m = true := by
  cases m with
  | nil => simp [wfMemory]
  | cons c m =>
    obtain ⟨a', b'⟩ := c
    simp [wfMemory, and_assoc]

/-- In the canonical form an address below every listed one is not listed. -/
theorem readByte_below {m : List Host.Cell} (hw : wfMemory m = true) {a : Nat} (h : ∀ c ∈ m.head?, a < c.1) :
    readByte m a = 0 := by
  induction m generalizing a with
  | nil => rfl
  | cons c m ih =>
    obtain ⟨j, b⟩ := c
    have hj : a < j := h (j, b) (by simp)
    obtain ⟨-, h2, h3⟩ := wfMemory_cons.1 hw
    rw [readByte, look, if_neg (by omega)]
    exact ih h3 fun c hc => Nat.lt_trans hj (h2 c hc)

@[simp] theorem readByte_writeByte_same {m : List Host.Cell} (hw : wfMemory m = true) (a : Nat) (v : Byte) :
    readByte (writeByte m a v) a = v := by
  induction m with
  | nil => by_cases h : v = 0#8 <;> simp [writeByte, readByte, look, h]
  | cons c m ih =>
    obtain ⟨j, b⟩ := c
    obtain ⟨-, h2, h3⟩ := wfMemory_cons.1 hw
    by_cases ha : a = j
    · subst ha
      by_cases hv : v = 0#8
      · simpa [writeByte, hv] using readByte_below h3 h2
      · simp [writeByte, readByte, look, hv]
    · by_cases hl : a < j
      · by_cases hv : v = 0#8
        · have := readByte_below hw (a := a) (by simpa using hl)
          simp only [writeByte, ha, hl, hv, if_true, if_false]
          exact this
        · simp [writeByte, readByte, look, ha, hl, hv]
      · simp only [writeByte, ha, hl, if_false]
        rw [readByte, look, if_neg ha]
        exact ih h3

theorem readByte_writeByte_ne (m : List Host.Cell) {a q : Nat} (v : Byte) (h : q ≠ a) :
    readByte (writeByte m a v) q = readByte m q := by
  induction m with
  | nil => by_cases hv : v = 0#8 <;> simp [writeByte, readByte, look, hv, h]
  | cons c m ih =>
    obtain ⟨j, b⟩ := c
    replace ih : look 0#8 (writeByte m a v) q = look 0#8 m q := ih
    simp only [readByte]
    by_cases ha : a = j
    · subst ha
      by_cases hv : v = 0#8 <;> simp [writeByte, look, hv, h]
    · by_cases hl : a < j
      · by_cases hv : v = 0#8 <;> simp [writeByte, look, ha, hl, hv, h]
      · by_cases hq : q = j
        · simp [writeByte, look, ha, hl, hq]
        · simp [writeByte, look, ha, hl, hq, ih]

/-! ## The canonical form is kept -/

/-- The first address listed after a write is the written one or one that was first. -/
theorem head_writeByte (m : List Host.Cell) (a : Nat) (v : Byte) (lo : Nat) (hm : ∀ c ∈ m.head?, lo < c.1) (ha : lo < a)
    (hw : wfMemory m = true) : ∀ c ∈ (writeByte m a v).head?, lo < c.1 := by
  cases m with
  | nil => by_cases hv : v = 0#8 <;> simp [writeByte, hv, ha]
  | cons c m =>
    obtain ⟨j, b⟩ := c
    have hj : lo < j := hm (j, b) (by simp)
    obtain ⟨-, h2, -⟩ := wfMemory_cons.1 hw
    by_cases h : a = j
    · by_cases hv : v = 0#8
      · simp only [writeByte, h, hv, if_true]
        exact fun c hc => Nat.lt_trans hj (h2 c hc)
      · simp [writeByte, h, hv, hj]
    · by_cases hl : a < j
      · by_cases hv : v = 0#8 <;> simp [writeByte, h, hl, hv, hj, ha]
      · simp [writeByte, h, hl, hj]

@[simp] theorem wfMemory_writeByte {m : List Host.Cell} (hw : wfMemory m = true) (a : Nat) (v : Byte) :
    wfMemory (writeByte m a v) = true := by
  induction m with
  | nil => by_cases hv : v = 0#8 <;> simp [writeByte, hv, wfMemory]
  | cons c m ih =>
    obtain ⟨j, b⟩ := c
    obtain ⟨h1, h2, h3⟩ := wfMemory_cons.1 hw
    by_cases ha : a = j
    · subst ha
      by_cases hv : v = 0#8
      · simpa [writeByte, hv] using h3
      · rw [writeByte, if_pos rfl, if_neg (show ¬v = 0 from hv)]
        exact wfMemory_cons.2 ⟨hv, h2, h3⟩
    · by_cases hl : a < j
      · by_cases hv : v = 0#8
        · simpa [writeByte, ha, hl, hv] using hw
        · rw [writeByte, if_neg ha, if_pos hl, if_neg (show ¬v = 0 from hv)]
          exact wfMemory_cons.2 ⟨hv, by simpa using hl, hw⟩
      · simp only [writeByte, ha, hl, if_false]
        exact wfMemory_cons.2 ⟨h1, head_writeByte m a v j h2 (by omega) h3, ih h3⟩

/-- An address listed after others is above them. -/
theorem lt_of_mem {a : Nat} {b : Byte} {m : List Host.Cell} (hw : wfMemory ((a, b) :: m) = true) : ∀ c ∈ m, a < c.1 := by
  induction m generalizing a b with
  | nil => simp
  | cons c m ih =>
    obtain ⟨j, d⟩ := c
    obtain ⟨-, h2, h3⟩ := wfMemory_cons.1 hw
    have hj : a < j := h2 (j, d) (by simp)
    intro c hc
    rcases List.mem_cons.1 hc with rfl | hc
    · exact hj
    · exact Nat.lt_trans hj (ih h3 c hc)

/-- Leaving out addresses keeps the canonical form. -/
theorem wfMemory_filter {m : List Host.Cell} (hw : wfMemory m = true) (f : Host.Cell → Bool) : wfMemory (m.filter f) = true := by
  induction m with
  | nil => rfl
  | cons c m ih =>
    obtain ⟨j, b⟩ := c
    obtain ⟨h1, -, h3⟩ := wfMemory_cons.1 hw
    by_cases hf : f (j, b) = true
    · rw [List.filter_cons_of_pos hf]
      refine wfMemory_cons.2 ⟨h1, fun c hc => ?_, ih h3⟩
      exact lt_of_mem hw c (List.mem_of_mem_filter (List.mem_of_mem_head? hc))
    · rw [List.filter_cons_of_neg hf]
      exact ih h3

@[simp] theorem wfMemory_clearRange {m : List Host.Cell} (hw : wfMemory m = true) (lo hi : Nat) :
    wfMemory (clearRange m lo hi) = true := wfMemory_filter hw _

@[simp] theorem wfMemory_writeLE {m : List Host.Cell} (hw : wfMemory m = true) (a n v : Nat) :
    wfMemory (writeLE m a n v) = true := by
  induction n generalizing m a v with
  | zero => exact hw
  | succ n ih => exact ih (wfMemory_writeByte hw a _) _ _

@[simp] theorem wfMemory_writeMasked {m : List Host.Cell} (hw : wfMemory m = true) (a : Nat) (l : List (Option Byte)) :
    wfMemory (writeMasked m a l) = true := by
  induction l generalizing m a with
  | nil => exact hw
  | cons b l ih =>
    cases b with
    | none => exact ih hw _
    | some b => exact ih (wfMemory_writeByte hw a b) _

/-! ## Ranges -/

theorem readByte_clearRange_in (m : List Host.Cell) {lo hi a : Nat} (h1 : lo ≤ a) (h2 : a < hi) :
    readByte (clearRange m lo hi) a = 0 := by
  induction m with
  | nil => rfl
  | cons c m ih =>
    obtain ⟨j, b⟩ := c
    simp only [readByte, clearRange] at ih ⊢
    by_cases hj : j < lo ∨ hi ≤ j
    · rw [List.filter_cons_of_pos (by simpa using hj), look, if_neg (by omega)]
      exact ih
    · rw [List.filter_cons_of_neg (by simpa using hj)]
      exact ih

theorem readByte_clearRange_out (m : List Host.Cell) {lo hi a : Nat} (h : a < lo ∨ hi ≤ a) :
    readByte (clearRange m lo hi) a = readByte m a := by
  induction m with
  | nil => rfl
  | cons c m ih =>
    obtain ⟨j, b⟩ := c
    simp only [readByte, clearRange] at ih ⊢
    by_cases hj : j < lo ∨ hi ≤ j
    · rw [List.filter_cons_of_pos (by simpa using hj)]
      by_cases ha : a = j
      · simp [look, ha]
      · rw [look, look, if_neg ha, if_neg ha]
        exact ih
    · rw [List.filter_cons_of_neg (by simpa using hj), look, if_neg (by omega)]
      exact ih

/-- Bytes outside the range that is written are as before. -/
theorem readByte_writeLE_out (m : List Host.Cell) {a n q : Nat} (v : Nat) (h : q < a ∨ a + n ≤ q) :
    readByte (writeLE m a n v) q = readByte m q := by
  induction n generalizing m a v with
  | zero => rfl
  | succ n ih =>
    exact (ih _ _ (by omega)).trans (readByte_writeByte_ne _ _ (by omega))

/-- A little-endian number read where it was written. -/
theorem readLE_writeLE {m : List Host.Cell} (hw : wfMemory m = true) (a n v : Nat) :
    readLE (writeLE m a n v) a n = v % 2 ^ (8 * n) := by
  induction n generalizing m a v with
  | zero => simp [readLE, Nat.mod_one]
  | succ n ih =>
    have h := wfMemory_writeByte hw a (BitVec.ofNat 8 v)
    rw [writeLE, readLE, ih h, readByte_writeLE_out _ _ (by omega), readByte_writeByte_same hw, BitVec.toNat_ofNat,
      show 8 * (n + 1) = 8 + 8 * n by omega, Nat.pow_add]
    exact (Nat.mod_mul (x := v) (a := 2 ^ 8) (b := 2 ^ (8 * n))).symm

/-- A number read after a write that does not meet it. -/
theorem readLE_writeLE_out (m : List Host.Cell) {a n q k : Nat} (v : Nat) (h : q + k ≤ a ∨ a + n ≤ q) :
    readLE (writeLE m a n v) q k = readLE m q k := by
  induction k generalizing q with
  | zero => rfl
  | succ k ih => rw [readLE, readLE, ih (by omega), readByte_writeLE_out _ _ (by omega)]

theorem readLE_lt (m : List Host.Cell) (a n : Nat) : readLE m a n < 2 ^ (8 * n) := by
  induction n generalizing a with
  | zero => simp [readLE]
  | succ n ih =>
    have h1 := (readByte m a).isLt
    have h2 := ih (a + 1)
    rw [readLE, show 8 * (n + 1) = 8 + 8 * n by omega, Nat.pow_add]
    omega

/-! ## Sets of numbers -/

@[simp] theorem mem_include1 (l : List Nat) (a x : Nat) : x ∈ include1 l a ↔ x = a ∨ x ∈ l := by
  induction l with
  | nil => simp [include1]
  | cons b l ih =>
    by_cases h : a = b
    · simp [include1, h]
    · by_cases h' : a < b
      · simp [include1, h, h']
      · simp [include1, h, h', ih]; tauto

@[simp] theorem mem_exclude (l : List Nat) (lo hi x : Nat) : x ∈ exclude l lo hi ↔ x ∈ l ∧ (x < lo ∨ hi ≤ x) := by
  simp [exclude]

end Sys2Proof.Machine
end

