-- ==== Sys2Proof/Laws/State.lean ====
section
/-! SUPPORT. What each update of the state leaves as it was, field by field, and what the accessors read after it. -/

namespace Sys2Proof.Machine


/-! ## setCtx -/

@[simp] theorem setCtx_clock (s : State) (k : Nat) (c : Ctx) : (setCtx s k c).clock = s.clock := rfl
@[simp] theorem setCtx_agenda (s : State) (k : Nat) (c : Ctx) : (setCtx s k c).agenda = s.agenda := rfl
@[simp] theorem setCtx_cur (s : State) (k : Nat) (c : Ctx) : (setCtx s k c).cur = s.cur := rfl
@[simp] theorem setCtx_nextId (s : State) (k : Nat) (c : Ctx) : (setCtx s k c).nextId = s.nextId := rfl
@[simp] theorem setCtx_free (s : State) (k : Nat) (c : Ctx) : (setCtx s k c).free = s.free := rfl
@[simp] theorem setCtx_mem (s : State) (k : Nat) (c : Ctx) : (setCtx s k c).mem = s.mem := rfl
@[simp] theorem setCtx_full (s : State) (k : Nat) (c : Ctx) : (setCtx s k c).full = s.full := rfl
@[simp] theorem setCtx_bad (s : State) (k : Nat) (c : Ctx) : (setCtx s k c).bad = s.bad := rfl
@[simp] theorem setCtx_cores (s : State) (k : Nat) (c : Ctx) : (setCtx s k c).cores = s.cores := rfl
@[simp] theorem setCtx_tiles (s : State) (k : Nat) (c : Ctx) : (setCtx s k c).tiles = s.tiles := rfl
@[simp] theorem setCtx_jobs (s : State) (k : Nat) (c : Ctx) : (setCtx s k c).jobs = s.jobs := rfl
@[simp] theorem setCtx_reqs (s : State) (k : Nat) (c : Ctx) : (setCtx s k c).reqs = s.reqs := rfl
@[simp] theorem setCtx_copies (s : State) (k : Nat) (c : Ctx) : (setCtx s k c).copies = s.copies := rfl
@[simp] theorem setCtx_hostCopies (s : State) (k : Nat) (c : Ctx) : (setCtx s k c).hostCopies = s.hostCopies := rfl
@[simp] theorem setCtx_handovers (s : State) (k : Nat) (c : Ctx) : (setCtx s k c).handovers = s.handovers := rfl
@[simp] theorem setCtx_portB (s : State) (k : Nat) (c : Ctx) : (setCtx s k c).portB = s.portB := rfl
@[simp] theorem setCtx_routes (s : State) (k : Nat) (c : Ctx) : (setCtx s k c).routes = s.routes := rfl
@[simp] theorem setCtx_lines (s : State) (k : Nat) (c : Ctx) : (setCtx s k c).lines = s.lines := rfl
@[simp] theorem setCtx_writeQueue (s : State) (k : Nat) (c : Ctx) : (setCtx s k c).writeQueue = s.writeQueue := rfl
@[simp] theorem setCtx_messages (s : State) (k : Nat) (c : Ctx) : (setCtx s k c).messages = s.messages := rfl
@[simp] theorem setCtx_launches (s : State) (k : Nat) (c : Ctx) : (setCtx s k c).launches = s.launches := rfl
@[simp] theorem setCtx_ghosts (s : State) (k : Nat) (c : Ctx) : (setCtx s k c).ghosts = s.ghosts := rfl
@[simp] theorem setCtx_prefetches (s : State) (k : Nat) (c : Ctx) : (setCtx s k c).prefetches = s.prefetches := rfl
@[simp] theorem setCtx_updates (s : State) (k : Nat) (c : Ctx) : (setCtx s k c).updates = s.updates := rfl
@[simp] theorem setCtx_queues (s : State) (k : Nat) (c : Ctx) : (setCtx s k c).queues = s.queues := rfl
@[simp] theorem setCtx_images (s : State) (k : Nat) (c : Ctx) : (setCtx s k c).images = s.images := rfl
@[simp] theorem setCtx_nextImage (s : State) (k : Nat) (c : Ctx) : (setCtx s k c).nextImage = s.nextImage := rfl
@[simp] theorem setCtx_nextJob (s : State) (k : Nat) (c : Ctx) : (setCtx s k c).nextJob = s.nextJob := rfl
@[simp] theorem setCtx_completions (s : State) (k : Nat) (c : Ctx) : (setCtx s k c).completions = s.completions := rfl
@[simp] theorem setCtx_hostMap (s : State) (k : Nat) (c : Ctx) : (setCtx s k c).hostMap = s.hostMap := rfl
@[simp] theorem setCtx_packets (s : State) (k : Nat) (c : Ctx) : (setCtx s k c).packets = s.packets := rfl
@[simp] theorem setCtx_reads (s : State) (k : Nat) (c : Ctx) : (setCtx s k c).reads = s.reads := rfl
@[simp] theorem setCtx_answers (s : State) (k : Nat) (c : Ctx) : (setCtx s k c).answers = s.answers := rfl
@[simp] theorem setCtx_writes (s : State) (k : Nat) (c : Ctx) : (setCtx s k c).writes = s.writes := rfl
@[simp] theorem setCtx_routeSeq (s : State) (k : Nat) (c : Ctx) : (setCtx s k c).routeSeq = s.routeSeq := rfl
@[simp] theorem setCtx_columns (s : State) (k : Nat) (c : Ctx) : (setCtx s k c).columns = s.columns := rfl
@[simp] theorem setCtx_links (s : State) (k : Nat) (c : Ctx) : (setCtx s k c).links = s.links := rfl
@[simp] theorem setCtx_endToEnd (s : State) (k : Nat) (c : Ctx) : (setCtx s k c).endToEnd = s.endToEnd := rfl
@[simp] theorem setCtx_early (s : State) (k : Nat) (c : Ctx) : (setCtx s k c).early = s.early := rfl
@[simp] theorem setCtx_bulk (s : State) (k : Nat) (c : Ctx) : (setCtx s k c).bulk = s.bulk := rfl
@[simp] theorem setCtx_coming (s : State) (k : Nat) (c : Ctx) : (setCtx s k c).coming = s.coming := rfl
@[simp] theorem setCtx_inbox (s : State) (k : Nat) (c : Ctx) : (setCtx s k c).inbox = s.inbox := rfl
@[simp] theorem setCtx_parked (s : State) (k : Nat) (c : Ctx) : (setCtx s k c).parked = s.parked := rfl
@[simp] theorem setCtx_poolTrained (s : State) (k : Nat) (c : Ctx) : (setCtx s k c).poolTrained = s.poolTrained := rfl
@[simp] theorem setCtx_tolerance (s : State) (k : Nat) (c : Ctx) : (setCtx s k c).tolerance = s.tolerance := rfl
@[simp] theorem setCtx_driverFeatures (s : State) (k : Nat) (c : Ctx) : (setCtx s k c).driverFeatures = s.driverFeatures := rfl
@[simp] theorem setCtx_featuresOk (s : State) (k : Nat) (c : Ctx) : (setCtx s k c).featuresOk = s.featuresOk := rfl
@[simp] theorem setCtx_transport (s : State) (k : Nat) (c : Ctx) : (setCtx s k c).transport = s.transport := rfl
@[simp] theorem setCtx_pinRefused (s : State) (k : Nat) (c : Ctx) : (setCtx s k c).pinRefused = s.pinRefused := rfl
@[simp] theorem setCtx_generation (s : State) (k : Nat) (c : Ctx) : (setCtx s k c).generation = s.generation := rfl
@[simp] theorem setCtx_health (s : State) (k : Nat) (c : Ctx) : (setCtx s k c).health = s.health := rfl
@[simp] theorem setCtx_layersOff (s : State) (k : Nat) (c : Ctx) : (setCtx s k c).layersOff = s.layersOff := rfl
@[simp] theorem setCtx_layersGated (s : State) (k : Nat) (c : Ctx) : (setCtx s k c).layersGated = s.layersGated := rfl
@[simp] theorem setCtx_stacksAsleep (s : State) (k : Nat) (c : Ctx) : (setCtx s k c).stacksAsleep = s.stacksAsleep := rfl
@[simp] theorem setCtx_diesOff (s : State) (k : Nat) (c : Ctx) : (setCtx s k c).diesOff = s.diesOff := rfl
@[simp] theorem setCtx_idle (s : State) (k : Nat) (c : Ctx) : (setCtx s k c).idle = s.idle := rfl
@[simp] theorem setCtx_log (s : State) (k : Nat) (c : Ctx) : (setCtx s k c).log = s.log := rfl

/-! ## onCtx -/

@[simp] theorem onCtx_clock (s : State) (k : Nat) (f : Ctx → Ctx) : (onCtx s k f).clock = s.clock := rfl
@[simp] theorem onCtx_agenda (s : State) (k : Nat) (f : Ctx → Ctx) : (onCtx s k f).agenda = s.agenda := rfl
@[simp] theorem onCtx_cur (s : State) (k : Nat) (f : Ctx → Ctx) : (onCtx s k f).cur = s.cur := rfl
@[simp] theorem onCtx_nextId (s : State) (k : Nat) (f : Ctx → Ctx) : (onCtx s k f).nextId = s.nextId := rfl
@[simp] theorem onCtx_free (s : State) (k : Nat) (f : Ctx → Ctx) : (onCtx s k f).free = s.free := rfl
@[simp] theorem onCtx_mem (s : State) (k : Nat) (f : Ctx → Ctx) : (onCtx s k f).mem = s.mem := rfl
@[simp] theorem onCtx_full (s : State) (k : Nat) (f : Ctx → Ctx) : (onCtx s k f).full = s.full := rfl
@[simp] theorem onCtx_bad (s : State) (k : Nat) (f : Ctx → Ctx) : (onCtx s k f).bad = s.bad := rfl
@[simp] theorem onCtx_cores (s : State) (k : Nat) (f : Ctx → Ctx) : (onCtx s k f).cores = s.cores := rfl
@[simp] theorem onCtx_tiles (s : State) (k : Nat) (f : Ctx → Ctx) : (onCtx s k f).tiles = s.tiles := rfl
@[simp] theorem onCtx_jobs (s : State) (k : Nat) (f : Ctx → Ctx) : (onCtx s k f).jobs = s.jobs := rfl
@[simp] theorem onCtx_reqs (s : State) (k : Nat) (f : Ctx → Ctx) : (onCtx s k f).reqs = s.reqs := rfl
@[simp] theorem onCtx_copies (s : State) (k : Nat) (f : Ctx → Ctx) : (onCtx s k f).copies = s.copies := rfl
@[simp] theorem onCtx_hostCopies (s : State) (k : Nat) (f : Ctx → Ctx) : (onCtx s k f).hostCopies = s.hostCopies := rfl
@[simp] theorem onCtx_handovers (s : State) (k : Nat) (f : Ctx → Ctx) : (onCtx s k f).handovers = s.handovers := rfl
@[simp] theorem onCtx_portB (s : State) (k : Nat) (f : Ctx → Ctx) : (onCtx s k f).portB = s.portB := rfl
@[simp] theorem onCtx_routes (s : State) (k : Nat) (f : Ctx → Ctx) : (onCtx s k f).routes = s.routes := rfl
@[simp] theorem onCtx_lines (s : State) (k : Nat) (f : Ctx → Ctx) : (onCtx s k f).lines = s.lines := rfl
@[simp] theorem onCtx_writeQueue (s : State) (k : Nat) (f : Ctx → Ctx) : (onCtx s k f).writeQueue = s.writeQueue := rfl
@[simp] theorem onCtx_messages (s : State) (k : Nat) (f : Ctx → Ctx) : (onCtx s k f).messages = s.messages := rfl
@[simp] theorem onCtx_launches (s : State) (k : Nat) (f : Ctx → Ctx) : (onCtx s k f).launches = s.launches := rfl
@[simp] theorem onCtx_ghosts (s : State) (k : Nat) (f : Ctx → Ctx) : (onCtx s k f).ghosts = s.ghosts := rfl
@[simp] theorem onCtx_prefetches (s : State) (k : Nat) (f : Ctx → Ctx) : (onCtx s k f).prefetches = s.prefetches := rfl
@[simp] theorem onCtx_updates (s : State) (k : Nat) (f : Ctx → Ctx) : (onCtx s k f).updates = s.updates := rfl
@[simp] theorem onCtx_queues (s : State) (k : Nat) (f : Ctx → Ctx) : (onCtx s k f).queues = s.queues := rfl
@[simp] theorem onCtx_images (s : State) (k : Nat) (f : Ctx → Ctx) : (onCtx s k f).images = s.images := rfl
@[simp] theorem onCtx_nextImage (s : State) (k : Nat) (f : Ctx → Ctx) : (onCtx s k f).nextImage = s.nextImage := rfl
@[simp] theorem onCtx_nextJob (s : State) (k : Nat) (f : Ctx → Ctx) : (onCtx s k f).nextJob = s.nextJob := rfl
@[simp] theorem onCtx_completions (s : State) (k : Nat) (f : Ctx → Ctx) : (onCtx s k f).completions = s.completions := rfl
@[simp] theorem onCtx_hostMap (s : State) (k : Nat) (f : Ctx → Ctx) : (onCtx s k f).hostMap = s.hostMap := rfl
@[simp] theorem onCtx_packets (s : State) (k : Nat) (f : Ctx → Ctx) : (onCtx s k f).packets = s.packets := rfl
@[simp] theorem onCtx_reads (s : State) (k : Nat) (f : Ctx → Ctx) : (onCtx s k f).reads = s.reads := rfl
@[simp] theorem onCtx_answers (s : State) (k : Nat) (f : Ctx → Ctx) : (onCtx s k f).answers = s.answers := rfl
@[simp] theorem onCtx_writes (s : State) (k : Nat) (f : Ctx → Ctx) : (onCtx s k f).writes = s.writes := rfl
@[simp] theorem onCtx_routeSeq (s : State) (k : Nat) (f : Ctx → Ctx) : (onCtx s k f).routeSeq = s.routeSeq := rfl
@[simp] theorem onCtx_columns (s : State) (k : Nat) (f : Ctx → Ctx) : (onCtx s k f).columns = s.columns := rfl
@[simp] theorem onCtx_links (s : State) (k : Nat) (f : Ctx → Ctx) : (onCtx s k f).links = s.links := rfl
@[simp] theorem onCtx_endToEnd (s : State) (k : Nat) (f : Ctx → Ctx) : (onCtx s k f).endToEnd = s.endToEnd := rfl
@[simp] theorem onCtx_early (s : State) (k : Nat) (f : Ctx → Ctx) : (onCtx s k f).early = s.early := rfl
@[simp] theorem onCtx_bulk (s : State) (k : Nat) (f : Ctx → Ctx) : (onCtx s k f).bulk = s.bulk := rfl
@[simp] theorem onCtx_coming (s : State) (k : Nat) (f : Ctx → Ctx) : (onCtx s k f).coming = s.coming := rfl
@[simp] theorem onCtx_inbox (s : State) (k : Nat) (f : Ctx → Ctx) : (onCtx s k f).inbox = s.inbox := rfl
@[simp] theorem onCtx_parked (s : State) (k : Nat) (f : Ctx → Ctx) : (onCtx s k f).parked = s.parked := rfl
@[simp] theorem onCtx_poolTrained (s : State) (k : Nat) (f : Ctx → Ctx) : (onCtx s k f).poolTrained = s.poolTrained := rfl
@[simp] theorem onCtx_tolerance (s : State) (k : Nat) (f : Ctx → Ctx) : (onCtx s k f).tolerance = s.tolerance := rfl
@[simp] theorem onCtx_driverFeatures (s : State) (k : Nat) (f : Ctx → Ctx) : (onCtx s k f).driverFeatures = s.driverFeatures := rfl
@[simp] theorem onCtx_featuresOk (s : State) (k : Nat) (f : Ctx → Ctx) : (onCtx s k f).featuresOk = s.featuresOk := rfl
@[simp] theorem onCtx_transport (s : State) (k : Nat) (f : Ctx → Ctx) : (onCtx s k f).transport = s.transport := rfl
@[simp] theorem onCtx_pinRefused (s : State) (k : Nat) (f : Ctx → Ctx) : (onCtx s k f).pinRefused = s.pinRefused := rfl
@[simp] theorem onCtx_generation (s : State) (k : Nat) (f : Ctx → Ctx) : (onCtx s k f).generation = s.generation := rfl
@[simp] theorem onCtx_health (s : State) (k : Nat) (f : Ctx → Ctx) : (onCtx s k f).health = s.health := rfl
@[simp] theorem onCtx_layersOff (s : State) (k : Nat) (f : Ctx → Ctx) : (onCtx s k f).layersOff = s.layersOff := rfl
@[simp] theorem onCtx_layersGated (s : State) (k : Nat) (f : Ctx → Ctx) : (onCtx s k f).layersGated = s.layersGated := rfl
@[simp] theorem onCtx_stacksAsleep (s : State) (k : Nat) (f : Ctx → Ctx) : (onCtx s k f).stacksAsleep = s.stacksAsleep := rfl
@[simp] theorem onCtx_diesOff (s : State) (k : Nat) (f : Ctx → Ctx) : (onCtx s k f).diesOff = s.diesOff := rfl
@[simp] theorem onCtx_idle (s : State) (k : Nat) (f : Ctx → Ctx) : (onCtx s k f).idle = s.idle := rfl
@[simp] theorem onCtx_log (s : State) (k : Nat) (f : Ctx → Ctx) : (onCtx s k f).log = s.log := rfl

/-! ## setCore -/

@[simp] theorem setCore_clock (s : State) (n : Nat) (c : Core) : (setCore s n c).clock = s.clock := rfl
@[simp] theorem setCore_agenda (s : State) (n : Nat) (c : Core) : (setCore s n c).agenda = s.agenda := rfl
@[simp] theorem setCore_cur (s : State) (n : Nat) (c : Core) : (setCore s n c).cur = s.cur := rfl
@[simp] theorem setCore_nextId (s : State) (n : Nat) (c : Core) : (setCore s n c).nextId = s.nextId := rfl
@[simp] theorem setCore_free (s : State) (n : Nat) (c : Core) : (setCore s n c).free = s.free := rfl
@[simp] theorem setCore_mem (s : State) (n : Nat) (c : Core) : (setCore s n c).mem = s.mem := rfl
@[simp] theorem setCore_full (s : State) (n : Nat) (c : Core) : (setCore s n c).full = s.full := rfl
@[simp] theorem setCore_bad (s : State) (n : Nat) (c : Core) : (setCore s n c).bad = s.bad := rfl
@[simp] theorem setCore_ctxs (s : State) (n : Nat) (c : Core) : (setCore s n c).ctxs = s.ctxs := rfl
@[simp] theorem setCore_tiles (s : State) (n : Nat) (c : Core) : (setCore s n c).tiles = s.tiles := rfl
@[simp] theorem setCore_jobs (s : State) (n : Nat) (c : Core) : (setCore s n c).jobs = s.jobs := rfl
@[simp] theorem setCore_reqs (s : State) (n : Nat) (c : Core) : (setCore s n c).reqs = s.reqs := rfl
@[simp] theorem setCore_copies (s : State) (n : Nat) (c : Core) : (setCore s n c).copies = s.copies := rfl
@[simp] theorem setCore_hostCopies (s : State) (n : Nat) (c : Core) : (setCore s n c).hostCopies = s.hostCopies := rfl
@[simp] theorem setCore_handovers (s : State) (n : Nat) (c : Core) : (setCore s n c).handovers = s.handovers := rfl
@[simp] theorem setCore_portB (s : State) (n : Nat) (c : Core) : (setCore s n c).portB = s.portB := rfl
@[simp] theorem setCore_routes (s : State) (n : Nat) (c : Core) : (setCore s n c).routes = s.routes := rfl
@[simp] theorem setCore_lines (s : State) (n : Nat) (c : Core) : (setCore s n c).lines = s.lines := rfl
@[simp] theorem setCore_writeQueue (s : State) (n : Nat) (c : Core) : (setCore s n c).writeQueue = s.writeQueue := rfl
@[simp] theorem setCore_messages (s : State) (n : Nat) (c : Core) : (setCore s n c).messages = s.messages := rfl
@[simp] theorem setCore_launches (s : State) (n : Nat) (c : Core) : (setCore s n c).launches = s.launches := rfl
@[simp] theorem setCore_ghosts (s : State) (n : Nat) (c : Core) : (setCore s n c).ghosts = s.ghosts := rfl
@[simp] theorem setCore_prefetches (s : State) (n : Nat) (c : Core) : (setCore s n c).prefetches = s.prefetches := rfl
@[simp] theorem setCore_updates (s : State) (n : Nat) (c : Core) : (setCore s n c).updates = s.updates := rfl
@[simp] theorem setCore_queues (s : State) (n : Nat) (c : Core) : (setCore s n c).queues = s.queues := rfl
@[simp] theorem setCore_images (s : State) (n : Nat) (c : Core) : (setCore s n c).images = s.images := rfl
@[simp] theorem setCore_nextImage (s : State) (n : Nat) (c : Core) : (setCore s n c).nextImage = s.nextImage := rfl
@[simp] theorem setCore_nextJob (s : State) (n : Nat) (c : Core) : (setCore s n c).nextJob = s.nextJob := rfl
@[simp] theorem setCore_completions (s : State) (n : Nat) (c : Core) : (setCore s n c).completions = s.completions := rfl
@[simp] theorem setCore_hostMap (s : State) (n : Nat) (c : Core) : (setCore s n c).hostMap = s.hostMap := rfl
@[simp] theorem setCore_packets (s : State) (n : Nat) (c : Core) : (setCore s n c).packets = s.packets := rfl
@[simp] theorem setCore_reads (s : State) (n : Nat) (c : Core) : (setCore s n c).reads = s.reads := rfl
@[simp] theorem setCore_answers (s : State) (n : Nat) (c : Core) : (setCore s n c).answers = s.answers := rfl
@[simp] theorem setCore_writes (s : State) (n : Nat) (c : Core) : (setCore s n c).writes = s.writes := rfl
@[simp] theorem setCore_routeSeq (s : State) (n : Nat) (c : Core) : (setCore s n c).routeSeq = s.routeSeq := rfl
@[simp] theorem setCore_columns (s : State) (n : Nat) (c : Core) : (setCore s n c).columns = s.columns := rfl
@[simp] theorem setCore_links (s : State) (n : Nat) (c : Core) : (setCore s n c).links = s.links := rfl
@[simp] theorem setCore_endToEnd (s : State) (n : Nat) (c : Core) : (setCore s n c).endToEnd = s.endToEnd := rfl
@[simp] theorem setCore_early (s : State) (n : Nat) (c : Core) : (setCore s n c).early = s.early := rfl
@[simp] theorem setCore_bulk (s : State) (n : Nat) (c : Core) : (setCore s n c).bulk = s.bulk := rfl
@[simp] theorem setCore_coming (s : State) (n : Nat) (c : Core) : (setCore s n c).coming = s.coming := rfl
@[simp] theorem setCore_inbox (s : State) (n : Nat) (c : Core) : (setCore s n c).inbox = s.inbox := rfl
@[simp] theorem setCore_parked (s : State) (n : Nat) (c : Core) : (setCore s n c).parked = s.parked := rfl
@[simp] theorem setCore_poolTrained (s : State) (n : Nat) (c : Core) : (setCore s n c).poolTrained = s.poolTrained := rfl
@[simp] theorem setCore_tolerance (s : State) (n : Nat) (c : Core) : (setCore s n c).tolerance = s.tolerance := rfl
@[simp] theorem setCore_driverFeatures (s : State) (n : Nat) (c : Core) : (setCore s n c).driverFeatures = s.driverFeatures := rfl
@[simp] theorem setCore_featuresOk (s : State) (n : Nat) (c : Core) : (setCore s n c).featuresOk = s.featuresOk := rfl
@[simp] theorem setCore_transport (s : State) (n : Nat) (c : Core) : (setCore s n c).transport = s.transport := rfl
@[simp] theorem setCore_pinRefused (s : State) (n : Nat) (c : Core) : (setCore s n c).pinRefused = s.pinRefused := rfl
@[simp] theorem setCore_generation (s : State) (n : Nat) (c : Core) : (setCore s n c).generation = s.generation := rfl
@[simp] theorem setCore_health (s : State) (n : Nat) (c : Core) : (setCore s n c).health = s.health := rfl
@[simp] theorem setCore_layersOff (s : State) (n : Nat) (c : Core) : (setCore s n c).layersOff = s.layersOff := rfl
@[simp] theorem setCore_layersGated (s : State) (n : Nat) (c : Core) : (setCore s n c).layersGated = s.layersGated := rfl
@[simp] theorem setCore_stacksAsleep (s : State) (n : Nat) (c : Core) : (setCore s n c).stacksAsleep = s.stacksAsleep := rfl
@[simp] theorem setCore_diesOff (s : State) (n : Nat) (c : Core) : (setCore s n c).diesOff = s.diesOff := rfl
@[simp] theorem setCore_idle (s : State) (n : Nat) (c : Core) : (setCore s n c).idle = s.idle := rfl
@[simp] theorem setCore_log (s : State) (n : Nat) (c : Core) : (setCore s n c).log = s.log := rfl

/-! ## onCore -/

@[simp] theorem onCore_clock (s : State) (n : Nat) (f : Core → Core) : (onCore s n f).clock = s.clock := rfl
@[simp] theorem onCore_agenda (s : State) (n : Nat) (f : Core → Core) : (onCore s n f).agenda = s.agenda := rfl
@[simp] theorem onCore_cur (s : State) (n : Nat) (f : Core → Core) : (onCore s n f).cur = s.cur := rfl
@[simp] theorem onCore_nextId (s : State) (n : Nat) (f : Core → Core) : (onCore s n f).nextId = s.nextId := rfl
@[simp] theorem onCore_free (s : State) (n : Nat) (f : Core → Core) : (onCore s n f).free = s.free := rfl
@[simp] theorem onCore_mem (s : State) (n : Nat) (f : Core → Core) : (onCore s n f).mem = s.mem := rfl
@[simp] theorem onCore_full (s : State) (n : Nat) (f : Core → Core) : (onCore s n f).full = s.full := rfl
@[simp] theorem onCore_bad (s : State) (n : Nat) (f : Core → Core) : (onCore s n f).bad = s.bad := rfl
@[simp] theorem onCore_ctxs (s : State) (n : Nat) (f : Core → Core) : (onCore s n f).ctxs = s.ctxs := rfl
@[simp] theorem onCore_tiles (s : State) (n : Nat) (f : Core → Core) : (onCore s n f).tiles = s.tiles := rfl
@[simp] theorem onCore_jobs (s : State) (n : Nat) (f : Core → Core) : (onCore s n f).jobs = s.jobs := rfl
@[simp] theorem onCore_reqs (s : State) (n : Nat) (f : Core → Core) : (onCore s n f).reqs = s.reqs := rfl
@[simp] theorem onCore_copies (s : State) (n : Nat) (f : Core → Core) : (onCore s n f).copies = s.copies := rfl
@[simp] theorem onCore_hostCopies (s : State) (n : Nat) (f : Core → Core) : (onCore s n f).hostCopies = s.hostCopies := rfl
@[simp] theorem onCore_handovers (s : State) (n : Nat) (f : Core → Core) : (onCore s n f).handovers = s.handovers := rfl
@[simp] theorem onCore_portB (s : State) (n : Nat) (f : Core → Core) : (onCore s n f).portB = s.portB := rfl
@[simp] theorem onCore_routes (s : State) (n : Nat) (f : Core → Core) : (onCore s n f).routes = s.routes := rfl
@[simp] theorem onCore_lines (s : State) (n : Nat) (f : Core → Core) : (onCore s n f).lines = s.lines := rfl
@[simp] theorem onCore_writeQueue (s : State) (n : Nat) (f : Core → Core) : (onCore s n f).writeQueue = s.writeQueue := rfl
@[simp] theorem onCore_messages (s : State) (n : Nat) (f : Core → Core) : (onCore s n f).messages = s.messages := rfl
@[simp] theorem onCore_launches (s : State) (n : Nat) (f : Core → Core) : (onCore s n f).launches = s.launches := rfl
@[simp] theorem onCore_ghosts (s : State) (n : Nat) (f : Core → Core) : (onCore s n f).ghosts = s.ghosts := rfl
@[simp] theorem onCore_prefetches (s : State) (n : Nat) (f : Core → Core) : (onCore s n f).prefetches = s.prefetches := rfl
@[simp] theorem onCore_updates (s : State) (n : Nat) (f : Core → Core) : (onCore s n f).updates = s.updates := rfl
@[simp] theorem onCore_queues (s : State) (n : Nat) (f : Core → Core) : (onCore s n f).queues = s.queues := rfl
@[simp] theorem onCore_images (s : State) (n : Nat) (f : Core → Core) : (onCore s n f).images = s.images := rfl
@[simp] theorem onCore_nextImage (s : State) (n : Nat) (f : Core → Core) : (onCore s n f).nextImage = s.nextImage := rfl
@[simp] theorem onCore_nextJob (s : State) (n : Nat) (f : Core → Core) : (onCore s n f).nextJob = s.nextJob := rfl
@[simp] theorem onCore_completions (s : State) (n : Nat) (f : Core → Core) : (onCore s n f).completions = s.completions := rfl
@[simp] theorem onCore_hostMap (s : State) (n : Nat) (f : Core → Core) : (onCore s n f).hostMap = s.hostMap := rfl
@[simp] theorem onCore_packets (s : State) (n : Nat) (f : Core → Core) : (onCore s n f).packets = s.packets := rfl
@[simp] theorem onCore_reads (s : State) (n : Nat) (f : Core → Core) : (onCore s n f).reads = s.reads := rfl
@[simp] theorem onCore_answers (s : State) (n : Nat) (f : Core → Core) : (onCore s n f).answers = s.answers := rfl
@[simp] theorem onCore_writes (s : State) (n : Nat) (f : Core → Core) : (onCore s n f).writes = s.writes := rfl
@[simp] theorem onCore_routeSeq (s : State) (n : Nat) (f : Core → Core) : (onCore s n f).routeSeq = s.routeSeq := rfl
@[simp] theorem onCore_columns (s : State) (n : Nat) (f : Core → Core) : (onCore s n f).columns = s.columns := rfl
@[simp] theorem onCore_links (s : State) (n : Nat) (f : Core → Core) : (onCore s n f).links = s.links := rfl
@[simp] theorem onCore_endToEnd (s : State) (n : Nat) (f : Core → Core) : (onCore s n f).endToEnd = s.endToEnd := rfl
@[simp] theorem onCore_early (s : State) (n : Nat) (f : Core → Core) : (onCore s n f).early = s.early := rfl
@[simp] theorem onCore_bulk (s : State) (n : Nat) (f : Core → Core) : (onCore s n f).bulk = s.bulk := rfl
@[simp] theorem onCore_coming (s : State) (n : Nat) (f : Core → Core) : (onCore s n f).coming = s.coming := rfl
@[simp] theorem onCore_inbox (s : State) (n : Nat) (f : Core → Core) : (onCore s n f).inbox = s.inbox := rfl
@[simp] theorem onCore_parked (s : State) (n : Nat) (f : Core → Core) : (onCore s n f).parked = s.parked := rfl
@[simp] theorem onCore_poolTrained (s : State) (n : Nat) (f : Core → Core) : (onCore s n f).poolTrained = s.poolTrained := rfl
@[simp] theorem onCore_tolerance (s : State) (n : Nat) (f : Core → Core) : (onCore s n f).tolerance = s.tolerance := rfl
@[simp] theorem onCore_driverFeatures (s : State) (n : Nat) (f : Core → Core) : (onCore s n f).driverFeatures = s.driverFeatures := rfl
@[simp] theorem onCore_featuresOk (s : State) (n : Nat) (f : Core → Core) : (onCore s n f).featuresOk = s.featuresOk := rfl
@[simp] theorem onCore_transport (s : State) (n : Nat) (f : Core → Core) : (onCore s n f).transport = s.transport := rfl
@[simp] theorem onCore_pinRefused (s : State) (n : Nat) (f : Core → Core) : (onCore s n f).pinRefused = s.pinRefused := rfl
@[simp] theorem onCore_generation (s : State) (n : Nat) (f : Core → Core) : (onCore s n f).generation = s.generation := rfl
@[simp] theorem onCore_health (s : State) (n : Nat) (f : Core → Core) : (onCore s n f).health = s.health := rfl
@[simp] theorem onCore_layersOff (s : State) (n : Nat) (f : Core → Core) : (onCore s n f).layersOff = s.layersOff := rfl
@[simp] theorem onCore_layersGated (s : State) (n : Nat) (f : Core → Core) : (onCore s n f).layersGated = s.layersGated := rfl
@[simp] theorem onCore_stacksAsleep (s : State) (n : Nat) (f : Core → Core) : (onCore s n f).stacksAsleep = s.stacksAsleep := rfl
@[simp] theorem onCore_diesOff (s : State) (n : Nat) (f : Core → Core) : (onCore s n f).diesOff = s.diesOff := rfl
@[simp] theorem onCore_idle (s : State) (n : Nat) (f : Core → Core) : (onCore s n f).idle = s.idle := rfl
@[simp] theorem onCore_log (s : State) (n : Nat) (f : Core → Core) : (onCore s n f).log = s.log := rfl

/-! ## setTile -/

@[simp] theorem setTile_clock (s : State) (n t : Nat) (a : Tile) : (setTile s n t a).clock = s.clock := rfl
@[simp] theorem setTile_agenda (s : State) (n t : Nat) (a : Tile) : (setTile s n t a).agenda = s.agenda := rfl
@[simp] theorem setTile_cur (s : State) (n t : Nat) (a : Tile) : (setTile s n t a).cur = s.cur := rfl
@[simp] theorem setTile_nextId (s : State) (n t : Nat) (a : Tile) : (setTile s n t a).nextId = s.nextId := rfl
@[simp] theorem setTile_free (s : State) (n t : Nat) (a : Tile) : (setTile s n t a).free = s.free := rfl
@[simp] theorem setTile_mem (s : State) (n t : Nat) (a : Tile) : (setTile s n t a).mem = s.mem := rfl
@[simp] theorem setTile_full (s : State) (n t : Nat) (a : Tile) : (setTile s n t a).full = s.full := rfl
@[simp] theorem setTile_bad (s : State) (n t : Nat) (a : Tile) : (setTile s n t a).bad = s.bad := rfl
@[simp] theorem setTile_ctxs (s : State) (n t : Nat) (a : Tile) : (setTile s n t a).ctxs = s.ctxs := rfl
@[simp] theorem setTile_cores (s : State) (n t : Nat) (a : Tile) : (setTile s n t a).cores = s.cores := rfl
@[simp] theorem setTile_jobs (s : State) (n t : Nat) (a : Tile) : (setTile s n t a).jobs = s.jobs := rfl
@[simp] theorem setTile_reqs (s : State) (n t : Nat) (a : Tile) : (setTile s n t a).reqs = s.reqs := rfl
@[simp] theorem setTile_copies (s : State) (n t : Nat) (a : Tile) : (setTile s n t a).copies = s.copies := rfl
@[simp] theorem setTile_hostCopies (s : State) (n t : Nat) (a : Tile) : (setTile s n t a).hostCopies = s.hostCopies := rfl
@[simp] theorem setTile_handovers (s : State) (n t : Nat) (a : Tile) : (setTile s n t a).handovers = s.handovers := rfl
@[simp] theorem setTile_portB (s : State) (n t : Nat) (a : Tile) : (setTile s n t a).portB = s.portB := rfl
@[simp] theorem setTile_routes (s : State) (n t : Nat) (a : Tile) : (setTile s n t a).routes = s.routes := rfl
@[simp] theorem setTile_lines (s : State) (n t : Nat) (a : Tile) : (setTile s n t a).lines = s.lines := rfl
@[simp] theorem setTile_writeQueue (s : State) (n t : Nat) (a : Tile) : (setTile s n t a).writeQueue = s.writeQueue := rfl
@[simp] theorem setTile_messages (s : State) (n t : Nat) (a : Tile) : (setTile s n t a).messages = s.messages := rfl
@[simp] theorem setTile_launches (s : State) (n t : Nat) (a : Tile) : (setTile s n t a).launches = s.launches := rfl
@[simp] theorem setTile_ghosts (s : State) (n t : Nat) (a : Tile) : (setTile s n t a).ghosts = s.ghosts := rfl
@[simp] theorem setTile_prefetches (s : State) (n t : Nat) (a : Tile) : (setTile s n t a).prefetches = s.prefetches := rfl
@[simp] theorem setTile_updates (s : State) (n t : Nat) (a : Tile) : (setTile s n t a).updates = s.updates := rfl
@[simp] theorem setTile_queues (s : State) (n t : Nat) (a : Tile) : (setTile s n t a).queues = s.queues := rfl
@[simp] theorem setTile_images (s : State) (n t : Nat) (a : Tile) : (setTile s n t a).images = s.images := rfl
@[simp] theorem setTile_nextImage (s : State) (n t : Nat) (a : Tile) : (setTile s n t a).nextImage = s.nextImage := rfl
@[simp] theorem setTile_nextJob (s : State) (n t : Nat) (a : Tile) : (setTile s n t a).nextJob = s.nextJob := rfl
@[simp] theorem setTile_completions (s : State) (n t : Nat) (a : Tile) : (setTile s n t a).completions = s.completions := rfl
@[simp] theorem setTile_hostMap (s : State) (n t : Nat) (a : Tile) : (setTile s n t a).hostMap = s.hostMap := rfl
@[simp] theorem setTile_packets (s : State) (n t : Nat) (a : Tile) : (setTile s n t a).packets = s.packets := rfl
@[simp] theorem setTile_reads (s : State) (n t : Nat) (a : Tile) : (setTile s n t a).reads = s.reads := rfl
@[simp] theorem setTile_answers (s : State) (n t : Nat) (a : Tile) : (setTile s n t a).answers = s.answers := rfl
@[simp] theorem setTile_writes (s : State) (n t : Nat) (a : Tile) : (setTile s n t a).writes = s.writes := rfl
@[simp] theorem setTile_routeSeq (s : State) (n t : Nat) (a : Tile) : (setTile s n t a).routeSeq = s.routeSeq := rfl
@[simp] theorem setTile_columns (s : State) (n t : Nat) (a : Tile) : (setTile s n t a).columns = s.columns := rfl
@[simp] theorem setTile_links (s : State) (n t : Nat) (a : Tile) : (setTile s n t a).links = s.links := rfl
@[simp] theorem setTile_endToEnd (s : State) (n t : Nat) (a : Tile) : (setTile s n t a).endToEnd = s.endToEnd := rfl
@[simp] theorem setTile_early (s : State) (n t : Nat) (a : Tile) : (setTile s n t a).early = s.early := rfl
@[simp] theorem setTile_bulk (s : State) (n t : Nat) (a : Tile) : (setTile s n t a).bulk = s.bulk := rfl
@[simp] theorem setTile_coming (s : State) (n t : Nat) (a : Tile) : (setTile s n t a).coming = s.coming := rfl
@[simp] theorem setTile_inbox (s : State) (n t : Nat) (a : Tile) : (setTile s n t a).inbox = s.inbox := rfl
@[simp] theorem setTile_parked (s : State) (n t : Nat) (a : Tile) : (setTile s n t a).parked = s.parked := rfl
@[simp] theorem setTile_poolTrained (s : State) (n t : Nat) (a : Tile) : (setTile s n t a).poolTrained = s.poolTrained := rfl
@[simp] theorem setTile_tolerance (s : State) (n t : Nat) (a : Tile) : (setTile s n t a).tolerance = s.tolerance := rfl
@[simp] theorem setTile_driverFeatures (s : State) (n t : Nat) (a : Tile) : (setTile s n t a).driverFeatures = s.driverFeatures := rfl
@[simp] theorem setTile_featuresOk (s : State) (n t : Nat) (a : Tile) : (setTile s n t a).featuresOk = s.featuresOk := rfl
@[simp] theorem setTile_transport (s : State) (n t : Nat) (a : Tile) : (setTile s n t a).transport = s.transport := rfl
@[simp] theorem setTile_pinRefused (s : State) (n t : Nat) (a : Tile) : (setTile s n t a).pinRefused = s.pinRefused := rfl
@[simp] theorem setTile_generation (s : State) (n t : Nat) (a : Tile) : (setTile s n t a).generation = s.generation := rfl
@[simp] theorem setTile_health (s : State) (n t : Nat) (a : Tile) : (setTile s n t a).health = s.health := rfl
@[simp] theorem setTile_layersOff (s : State) (n t : Nat) (a : Tile) : (setTile s n t a).layersOff = s.layersOff := rfl
@[simp] theorem setTile_layersGated (s : State) (n t : Nat) (a : Tile) : (setTile s n t a).layersGated = s.layersGated := rfl
@[simp] theorem setTile_stacksAsleep (s : State) (n t : Nat) (a : Tile) : (setTile s n t a).stacksAsleep = s.stacksAsleep := rfl
@[simp] theorem setTile_diesOff (s : State) (n t : Nat) (a : Tile) : (setTile s n t a).diesOff = s.diesOff := rfl
@[simp] theorem setTile_idle (s : State) (n t : Nat) (a : Tile) : (setTile s n t a).idle = s.idle := rfl
@[simp] theorem setTile_log (s : State) (n t : Nat) (a : Tile) : (setTile s n t a).log = s.log := rfl

/-! ## setJob -/

@[simp] theorem setJob_clock (s : State) (j : Job) : (setJob s j).clock = s.clock := rfl
@[simp] theorem setJob_agenda (s : State) (j : Job) : (setJob s j).agenda = s.agenda := rfl
@[simp] theorem setJob_cur (s : State) (j : Job) : (setJob s j).cur = s.cur := rfl
@[simp] theorem setJob_nextId (s : State) (j : Job) : (setJob s j).nextId = s.nextId := rfl
@[simp] theorem setJob_free (s : State) (j : Job) : (setJob s j).free = s.free := rfl
@[simp] theorem setJob_mem (s : State) (j : Job) : (setJob s j).mem = s.mem := rfl
@[simp] theorem setJob_full (s : State) (j : Job) : (setJob s j).full = s.full := rfl
@[simp] theorem setJob_bad (s : State) (j : Job) : (setJob s j).bad = s.bad := rfl
@[simp] theorem setJob_ctxs (s : State) (j : Job) : (setJob s j).ctxs = s.ctxs := rfl
@[simp] theorem setJob_cores (s : State) (j : Job) : (setJob s j).cores = s.cores := rfl
@[simp] theorem setJob_tiles (s : State) (j : Job) : (setJob s j).tiles = s.tiles := rfl
@[simp] theorem setJob_reqs (s : State) (j : Job) : (setJob s j).reqs = s.reqs := rfl
@[simp] theorem setJob_copies (s : State) (j : Job) : (setJob s j).copies = s.copies := rfl
@[simp] theorem setJob_hostCopies (s : State) (j : Job) : (setJob s j).hostCopies = s.hostCopies := rfl
@[simp] theorem setJob_handovers (s : State) (j : Job) : (setJob s j).handovers = s.handovers := rfl
@[simp] theorem setJob_portB (s : State) (j : Job) : (setJob s j).portB = s.portB := rfl
@[simp] theorem setJob_routes (s : State) (j : Job) : (setJob s j).routes = s.routes := rfl
@[simp] theorem setJob_lines (s : State) (j : Job) : (setJob s j).lines = s.lines := rfl
@[simp] theorem setJob_writeQueue (s : State) (j : Job) : (setJob s j).writeQueue = s.writeQueue := rfl
@[simp] theorem setJob_messages (s : State) (j : Job) : (setJob s j).messages = s.messages := rfl
@[simp] theorem setJob_launches (s : State) (j : Job) : (setJob s j).launches = s.launches := rfl
@[simp] theorem setJob_ghosts (s : State) (j : Job) : (setJob s j).ghosts = s.ghosts := rfl
@[simp] theorem setJob_prefetches (s : State) (j : Job) : (setJob s j).prefetches = s.prefetches := rfl
@[simp] theorem setJob_updates (s : State) (j : Job) : (setJob s j).updates = s.updates := rfl
@[simp] theorem setJob_queues (s : State) (j : Job) : (setJob s j).queues = s.queues := rfl
@[simp] theorem setJob_images (s : State) (j : Job) : (setJob s j).images = s.images := rfl
@[simp] theorem setJob_nextImage (s : State) (j : Job) : (setJob s j).nextImage = s.nextImage := rfl
@[simp] theorem setJob_nextJob (s : State) (j : Job) : (setJob s j).nextJob = s.nextJob := rfl
@[simp] theorem setJob_completions (s : State) (j : Job) : (setJob s j).completions = s.completions := rfl
@[simp] theorem setJob_hostMap (s : State) (j : Job) : (setJob s j).hostMap = s.hostMap := rfl
@[simp] theorem setJob_packets (s : State) (j : Job) : (setJob s j).packets = s.packets := rfl
@[simp] theorem setJob_reads (s : State) (j : Job) : (setJob s j).reads = s.reads := rfl
@[simp] theorem setJob_answers (s : State) (j : Job) : (setJob s j).answers = s.answers := rfl
@[simp] theorem setJob_writes (s : State) (j : Job) : (setJob s j).writes = s.writes := rfl
@[simp] theorem setJob_routeSeq (s : State) (j : Job) : (setJob s j).routeSeq = s.routeSeq := rfl
@[simp] theorem setJob_columns (s : State) (j : Job) : (setJob s j).columns = s.columns := rfl
@[simp] theorem setJob_links (s : State) (j : Job) : (setJob s j).links = s.links := rfl
@[simp] theorem setJob_endToEnd (s : State) (j : Job) : (setJob s j).endToEnd = s.endToEnd := rfl
@[simp] theorem setJob_early (s : State) (j : Job) : (setJob s j).early = s.early := rfl
@[simp] theorem setJob_bulk (s : State) (j : Job) : (setJob s j).bulk = s.bulk := rfl
@[simp] theorem setJob_coming (s : State) (j : Job) : (setJob s j).coming = s.coming := rfl
@[simp] theorem setJob_inbox (s : State) (j : Job) : (setJob s j).inbox = s.inbox := rfl
@[simp] theorem setJob_parked (s : State) (j : Job) : (setJob s j).parked = s.parked := rfl
@[simp] theorem setJob_poolTrained (s : State) (j : Job) : (setJob s j).poolTrained = s.poolTrained := rfl
@[simp] theorem setJob_tolerance (s : State) (j : Job) : (setJob s j).tolerance = s.tolerance := rfl
@[simp] theorem setJob_driverFeatures (s : State) (j : Job) : (setJob s j).driverFeatures = s.driverFeatures := rfl
@[simp] theorem setJob_featuresOk (s : State) (j : Job) : (setJob s j).featuresOk = s.featuresOk := rfl
@[simp] theorem setJob_transport (s : State) (j : Job) : (setJob s j).transport = s.transport := rfl
@[simp] theorem setJob_pinRefused (s : State) (j : Job) : (setJob s j).pinRefused = s.pinRefused := rfl
@[simp] theorem setJob_generation (s : State) (j : Job) : (setJob s j).generation = s.generation := rfl
@[simp] theorem setJob_health (s : State) (j : Job) : (setJob s j).health = s.health := rfl
@[simp] theorem setJob_layersOff (s : State) (j : Job) : (setJob s j).layersOff = s.layersOff := rfl
@[simp] theorem setJob_layersGated (s : State) (j : Job) : (setJob s j).layersGated = s.layersGated := rfl
@[simp] theorem setJob_stacksAsleep (s : State) (j : Job) : (setJob s j).stacksAsleep = s.stacksAsleep := rfl
@[simp] theorem setJob_diesOff (s : State) (j : Job) : (setJob s j).diesOff = s.diesOff := rfl
@[simp] theorem setJob_idle (s : State) (j : Job) : (setJob s j).idle = s.idle := rfl
@[simp] theorem setJob_log (s : State) (j : Job) : (setJob s j).log = s.log := rfl

/-! ## setReq -/

@[simp] theorem setReq_clock (s : State) (r : Req) : (setReq s r).clock = s.clock := rfl
@[simp] theorem setReq_agenda (s : State) (r : Req) : (setReq s r).agenda = s.agenda := rfl
@[simp] theorem setReq_cur (s : State) (r : Req) : (setReq s r).cur = s.cur := rfl
@[simp] theorem setReq_nextId (s : State) (r : Req) : (setReq s r).nextId = s.nextId := rfl
@[simp] theorem setReq_free (s : State) (r : Req) : (setReq s r).free = s.free := rfl
@[simp] theorem setReq_mem (s : State) (r : Req) : (setReq s r).mem = s.mem := rfl
@[simp] theorem setReq_full (s : State) (r : Req) : (setReq s r).full = s.full := rfl
@[simp] theorem setReq_bad (s : State) (r : Req) : (setReq s r).bad = s.bad := rfl
@[simp] theorem setReq_ctxs (s : State) (r : Req) : (setReq s r).ctxs = s.ctxs := rfl
@[simp] theorem setReq_cores (s : State) (r : Req) : (setReq s r).cores = s.cores := rfl
@[simp] theorem setReq_tiles (s : State) (r : Req) : (setReq s r).tiles = s.tiles := rfl
@[simp] theorem setReq_jobs (s : State) (r : Req) : (setReq s r).jobs = s.jobs := rfl
@[simp] theorem setReq_copies (s : State) (r : Req) : (setReq s r).copies = s.copies := rfl
@[simp] theorem setReq_hostCopies (s : State) (r : Req) : (setReq s r).hostCopies = s.hostCopies := rfl
@[simp] theorem setReq_handovers (s : State) (r : Req) : (setReq s r).handovers = s.handovers := rfl
@[simp] theorem setReq_portB (s : State) (r : Req) : (setReq s r).portB = s.portB := rfl
@[simp] theorem setReq_routes (s : State) (r : Req) : (setReq s r).routes = s.routes := rfl
@[simp] theorem setReq_lines (s : State) (r : Req) : (setReq s r).lines = s.lines := rfl
@[simp] theorem setReq_writeQueue (s : State) (r : Req) : (setReq s r).writeQueue = s.writeQueue := rfl
@[simp] theorem setReq_messages (s : State) (r : Req) : (setReq s r).messages = s.messages := rfl
@[simp] theorem setReq_launches (s : State) (r : Req) : (setReq s r).launches = s.launches := rfl
@[simp] theorem setReq_ghosts (s : State) (r : Req) : (setReq s r).ghosts = s.ghosts := rfl
@[simp] theorem setReq_prefetches (s : State) (r : Req) : (setReq s r).prefetches = s.prefetches := rfl
@[simp] theorem setReq_updates (s : State) (r : Req) : (setReq s r).updates = s.updates := rfl
@[simp] theorem setReq_queues (s : State) (r : Req) : (setReq s r).queues = s.queues := rfl
@[simp] theorem setReq_images (s : State) (r : Req) : (setReq s r).images = s.images := rfl
@[simp] theorem setReq_nextImage (s : State) (r : Req) : (setReq s r).nextImage = s.nextImage := rfl
@[simp] theorem setReq_nextJob (s : State) (r : Req) : (setReq s r).nextJob = s.nextJob := rfl
@[simp] theorem setReq_completions (s : State) (r : Req) : (setReq s r).completions = s.completions := rfl
@[simp] theorem setReq_hostMap (s : State) (r : Req) : (setReq s r).hostMap = s.hostMap := rfl
@[simp] theorem setReq_packets (s : State) (r : Req) : (setReq s r).packets = s.packets := rfl
@[simp] theorem setReq_reads (s : State) (r : Req) : (setReq s r).reads = s.reads := rfl
@[simp] theorem setReq_answers (s : State) (r : Req) : (setReq s r).answers = s.answers := rfl
@[simp] theorem setReq_writes (s : State) (r : Req) : (setReq s r).writes = s.writes := rfl
@[simp] theorem setReq_routeSeq (s : State) (r : Req) : (setReq s r).routeSeq = s.routeSeq := rfl
@[simp] theorem setReq_columns (s : State) (r : Req) : (setReq s r).columns = s.columns := rfl
@[simp] theorem setReq_links (s : State) (r : Req) : (setReq s r).links = s.links := rfl
@[simp] theorem setReq_endToEnd (s : State) (r : Req) : (setReq s r).endToEnd = s.endToEnd := rfl
@[simp] theorem setReq_early (s : State) (r : Req) : (setReq s r).early = s.early := rfl
@[simp] theorem setReq_bulk (s : State) (r : Req) : (setReq s r).bulk = s.bulk := rfl
@[simp] theorem setReq_coming (s : State) (r : Req) : (setReq s r).coming = s.coming := rfl
@[simp] theorem setReq_inbox (s : State) (r : Req) : (setReq s r).inbox = s.inbox := rfl
@[simp] theorem setReq_parked (s : State) (r : Req) : (setReq s r).parked = s.parked := rfl
@[simp] theorem setReq_poolTrained (s : State) (r : Req) : (setReq s r).poolTrained = s.poolTrained := rfl
@[simp] theorem setReq_tolerance (s : State) (r : Req) : (setReq s r).tolerance = s.tolerance := rfl
@[simp] theorem setReq_driverFeatures (s : State) (r : Req) : (setReq s r).driverFeatures = s.driverFeatures := rfl
@[simp] theorem setReq_featuresOk (s : State) (r : Req) : (setReq s r).featuresOk = s.featuresOk := rfl
@[simp] theorem setReq_transport (s : State) (r : Req) : (setReq s r).transport = s.transport := rfl
@[simp] theorem setReq_pinRefused (s : State) (r : Req) : (setReq s r).pinRefused = s.pinRefused := rfl
@[simp] theorem setReq_generation (s : State) (r : Req) : (setReq s r).generation = s.generation := rfl
@[simp] theorem setReq_health (s : State) (r : Req) : (setReq s r).health = s.health := rfl
@[simp] theorem setReq_layersOff (s : State) (r : Req) : (setReq s r).layersOff = s.layersOff := rfl
@[simp] theorem setReq_layersGated (s : State) (r : Req) : (setReq s r).layersGated = s.layersGated := rfl
@[simp] theorem setReq_stacksAsleep (s : State) (r : Req) : (setReq s r).stacksAsleep = s.stacksAsleep := rfl
@[simp] theorem setReq_diesOff (s : State) (r : Req) : (setReq s r).diesOff = s.diesOff := rfl
@[simp] theorem setReq_idle (s : State) (r : Req) : (setReq s r).idle = s.idle := rfl
@[simp] theorem setReq_log (s : State) (r : Req) : (setReq s r).log = s.log := rfl

/-! ## dropReq -/

@[simp] theorem dropReq_clock (s : State) (id : Nat) : (dropReq s id).clock = s.clock := rfl
@[simp] theorem dropReq_agenda (s : State) (id : Nat) : (dropReq s id).agenda = s.agenda := rfl
@[simp] theorem dropReq_cur (s : State) (id : Nat) : (dropReq s id).cur = s.cur := rfl
@[simp] theorem dropReq_nextId (s : State) (id : Nat) : (dropReq s id).nextId = s.nextId := rfl
@[simp] theorem dropReq_free (s : State) (id : Nat) : (dropReq s id).free = s.free := rfl
@[simp] theorem dropReq_mem (s : State) (id : Nat) : (dropReq s id).mem = s.mem := rfl
@[simp] theorem dropReq_full (s : State) (id : Nat) : (dropReq s id).full = s.full := rfl
@[simp] theorem dropReq_bad (s : State) (id : Nat) : (dropReq s id).bad = s.bad := rfl
@[simp] theorem dropReq_ctxs (s : State) (id : Nat) : (dropReq s id).ctxs = s.ctxs := rfl
@[simp] theorem dropReq_cores (s : State) (id : Nat) : (dropReq s id).cores = s.cores := rfl
@[simp] theorem dropReq_tiles (s : State) (id : Nat) : (dropReq s id).tiles = s.tiles := rfl
@[simp] theorem dropReq_jobs (s : State) (id : Nat) : (dropReq s id).jobs = s.jobs := rfl
@[simp] theorem dropReq_copies (s : State) (id : Nat) : (dropReq s id).copies = s.copies := rfl
@[simp] theorem dropReq_hostCopies (s : State) (id : Nat) : (dropReq s id).hostCopies = s.hostCopies := rfl
@[simp] theorem dropReq_handovers (s : State) (id : Nat) : (dropReq s id).handovers = s.handovers := rfl
@[simp] theorem dropReq_portB (s : State) (id : Nat) : (dropReq s id).portB = s.portB := rfl
@[simp] theorem dropReq_routes (s : State) (id : Nat) : (dropReq s id).routes = s.routes := rfl
@[simp] theorem dropReq_lines (s : State) (id : Nat) : (dropReq s id).lines = s.lines := rfl
@[simp] theorem dropReq_writeQueue (s : State) (id : Nat) : (dropReq s id).writeQueue = s.writeQueue := rfl
@[simp] theorem dropReq_messages (s : State) (id : Nat) : (dropReq s id).messages = s.messages := rfl
@[simp] theorem dropReq_launches (s : State) (id : Nat) : (dropReq s id).launches = s.launches := rfl
@[simp] theorem dropReq_ghosts (s : State) (id : Nat) : (dropReq s id).ghosts = s.ghosts := rfl
@[simp] theorem dropReq_prefetches (s : State) (id : Nat) : (dropReq s id).prefetches = s.prefetches := rfl
@[simp] theorem dropReq_updates (s : State) (id : Nat) : (dropReq s id).updates = s.updates := rfl
@[simp] theorem dropReq_queues (s : State) (id : Nat) : (dropReq s id).queues = s.queues := rfl
@[simp] theorem dropReq_images (s : State) (id : Nat) : (dropReq s id).images = s.images := rfl
@[simp] theorem dropReq_nextImage (s : State) (id : Nat) : (dropReq s id).nextImage = s.nextImage := rfl
@[simp] theorem dropReq_nextJob (s : State) (id : Nat) : (dropReq s id).nextJob = s.nextJob := rfl
@[simp] theorem dropReq_completions (s : State) (id : Nat) : (dropReq s id).completions = s.completions := rfl
@[simp] theorem dropReq_hostMap (s : State) (id : Nat) : (dropReq s id).hostMap = s.hostMap := rfl
@[simp] theorem dropReq_packets (s : State) (id : Nat) : (dropReq s id).packets = s.packets := rfl
@[simp] theorem dropReq_reads (s : State) (id : Nat) : (dropReq s id).reads = s.reads := rfl
@[simp] theorem dropReq_answers (s : State) (id : Nat) : (dropReq s id).answers = s.answers := rfl
@[simp] theorem dropReq_writes (s : State) (id : Nat) : (dropReq s id).writes = s.writes := rfl
@[simp] theorem dropReq_routeSeq (s : State) (id : Nat) : (dropReq s id).routeSeq = s.routeSeq := rfl
@[simp] theorem dropReq_columns (s : State) (id : Nat) : (dropReq s id).columns = s.columns := rfl
@[simp] theorem dropReq_links (s : State) (id : Nat) : (dropReq s id).links = s.links := rfl
@[simp] theorem dropReq_endToEnd (s : State) (id : Nat) : (dropReq s id).endToEnd = s.endToEnd := rfl
@[simp] theorem dropReq_early (s : State) (id : Nat) : (dropReq s id).early = s.early := rfl
@[simp] theorem dropReq_bulk (s : State) (id : Nat) : (dropReq s id).bulk = s.bulk := rfl
@[simp] theorem dropReq_coming (s : State) (id : Nat) : (dropReq s id).coming = s.coming := rfl
@[simp] theorem dropReq_inbox (s : State) (id : Nat) : (dropReq s id).inbox = s.inbox := rfl
@[simp] theorem dropReq_parked (s : State) (id : Nat) : (dropReq s id).parked = s.parked := rfl
@[simp] theorem dropReq_poolTrained (s : State) (id : Nat) : (dropReq s id).poolTrained = s.poolTrained := rfl
@[simp] theorem dropReq_tolerance (s : State) (id : Nat) : (dropReq s id).tolerance = s.tolerance := rfl
@[simp] theorem dropReq_driverFeatures (s : State) (id : Nat) : (dropReq s id).driverFeatures = s.driverFeatures := rfl
@[simp] theorem dropReq_featuresOk (s : State) (id : Nat) : (dropReq s id).featuresOk = s.featuresOk := rfl
@[simp] theorem dropReq_transport (s : State) (id : Nat) : (dropReq s id).transport = s.transport := rfl
@[simp] theorem dropReq_pinRefused (s : State) (id : Nat) : (dropReq s id).pinRefused = s.pinRefused := rfl
@[simp] theorem dropReq_generation (s : State) (id : Nat) : (dropReq s id).generation = s.generation := rfl
@[simp] theorem dropReq_health (s : State) (id : Nat) : (dropReq s id).health = s.health := rfl
@[simp] theorem dropReq_layersOff (s : State) (id : Nat) : (dropReq s id).layersOff = s.layersOff := rfl
@[simp] theorem dropReq_layersGated (s : State) (id : Nat) : (dropReq s id).layersGated = s.layersGated := rfl
@[simp] theorem dropReq_stacksAsleep (s : State) (id : Nat) : (dropReq s id).stacksAsleep = s.stacksAsleep := rfl
@[simp] theorem dropReq_diesOff (s : State) (id : Nat) : (dropReq s id).diesOff = s.diesOff := rfl
@[simp] theorem dropReq_idle (s : State) (id : Nat) : (dropReq s id).idle = s.idle := rfl
@[simp] theorem dropReq_log (s : State) (id : Nat) : (dropReq s id).log = s.log := rfl

/-! ## setCopy -/

@[simp] theorem setCopy_clock (s : State) (c : Copy) : (setCopy s c).clock = s.clock := rfl
@[simp] theorem setCopy_agenda (s : State) (c : Copy) : (setCopy s c).agenda = s.agenda := rfl
@[simp] theorem setCopy_cur (s : State) (c : Copy) : (setCopy s c).cur = s.cur := rfl
@[simp] theorem setCopy_nextId (s : State) (c : Copy) : (setCopy s c).nextId = s.nextId := rfl
@[simp] theorem setCopy_free (s : State) (c : Copy) : (setCopy s c).free = s.free := rfl
@[simp] theorem setCopy_mem (s : State) (c : Copy) : (setCopy s c).mem = s.mem := rfl
@[simp] theorem setCopy_full (s : State) (c : Copy) : (setCopy s c).full = s.full := rfl
@[simp] theorem setCopy_bad (s : State) (c : Copy) : (setCopy s c).bad = s.bad := rfl
@[simp] theorem setCopy_ctxs (s : State) (c : Copy) : (setCopy s c).ctxs = s.ctxs := rfl
@[simp] theorem setCopy_cores (s : State) (c : Copy) : (setCopy s c).cores = s.cores := rfl
@[simp] theorem setCopy_tiles (s : State) (c : Copy) : (setCopy s c).tiles = s.tiles := rfl
@[simp] theorem setCopy_jobs (s : State) (c : Copy) : (setCopy s c).jobs = s.jobs := rfl
@[simp] theorem setCopy_reqs (s : State) (c : Copy) : (setCopy s c).reqs = s.reqs := rfl
@[simp] theorem setCopy_hostCopies (s : State) (c : Copy) : (setCopy s c).hostCopies = s.hostCopies := rfl
@[simp] theorem setCopy_handovers (s : State) (c : Copy) : (setCopy s c).handovers = s.handovers := rfl
@[simp] theorem setCopy_portB (s : State) (c : Copy) : (setCopy s c).portB = s.portB := rfl
@[simp] theorem setCopy_routes (s : State) (c : Copy) : (setCopy s c).routes = s.routes := rfl
@[simp] theorem setCopy_lines (s : State) (c : Copy) : (setCopy s c).lines = s.lines := rfl
@[simp] theorem setCopy_writeQueue (s : State) (c : Copy) : (setCopy s c).writeQueue = s.writeQueue := rfl
@[simp] theorem setCopy_messages (s : State) (c : Copy) : (setCopy s c).messages = s.messages := rfl
@[simp] theorem setCopy_launches (s : State) (c : Copy) : (setCopy s c).launches = s.launches := rfl
@[simp] theorem setCopy_ghosts (s : State) (c : Copy) : (setCopy s c).ghosts = s.ghosts := rfl
@[simp] theorem setCopy_prefetches (s : State) (c : Copy) : (setCopy s c).prefetches = s.prefetches := rfl
@[simp] theorem setCopy_updates (s : State) (c : Copy) : (setCopy s c).updates = s.updates := rfl
@[simp] theorem setCopy_queues (s : State) (c : Copy) : (setCopy s c).queues = s.queues := rfl
@[simp] theorem setCopy_images (s : State) (c : Copy) : (setCopy s c).images = s.images := rfl
@[simp] theorem setCopy_nextImage (s : State) (c : Copy) : (setCopy s c).nextImage = s.nextImage := rfl
@[simp] theorem setCopy_nextJob (s : State) (c : Copy) : (setCopy s c).nextJob = s.nextJob := rfl
@[simp] theorem setCopy_completions (s : State) (c : Copy) : (setCopy s c).completions = s.completions := rfl
@[simp] theorem setCopy_hostMap (s : State) (c : Copy) : (setCopy s c).hostMap = s.hostMap := rfl
@[simp] theorem setCopy_packets (s : State) (c : Copy) : (setCopy s c).packets = s.packets := rfl
@[simp] theorem setCopy_reads (s : State) (c : Copy) : (setCopy s c).reads = s.reads := rfl
@[simp] theorem setCopy_answers (s : State) (c : Copy) : (setCopy s c).answers = s.answers := rfl
@[simp] theorem setCopy_writes (s : State) (c : Copy) : (setCopy s c).writes = s.writes := rfl
@[simp] theorem setCopy_routeSeq (s : State) (c : Copy) : (setCopy s c).routeSeq = s.routeSeq := rfl
@[simp] theorem setCopy_columns (s : State) (c : Copy) : (setCopy s c).columns = s.columns := rfl
@[simp] theorem setCopy_links (s : State) (c : Copy) : (setCopy s c).links = s.links := rfl
@[simp] theorem setCopy_endToEnd (s : State) (c : Copy) : (setCopy s c).endToEnd = s.endToEnd := rfl
@[simp] theorem setCopy_early (s : State) (c : Copy) : (setCopy s c).early = s.early := rfl
@[simp] theorem setCopy_bulk (s : State) (c : Copy) : (setCopy s c).bulk = s.bulk := rfl
@[simp] theorem setCopy_coming (s : State) (c : Copy) : (setCopy s c).coming = s.coming := rfl
@[simp] theorem setCopy_inbox (s : State) (c : Copy) : (setCopy s c).inbox = s.inbox := rfl
@[simp] theorem setCopy_parked (s : State) (c : Copy) : (setCopy s c).parked = s.parked := rfl
@[simp] theorem setCopy_poolTrained (s : State) (c : Copy) : (setCopy s c).poolTrained = s.poolTrained := rfl
@[simp] theorem setCopy_tolerance (s : State) (c : Copy) : (setCopy s c).tolerance = s.tolerance := rfl
@[simp] theorem setCopy_driverFeatures (s : State) (c : Copy) : (setCopy s c).driverFeatures = s.driverFeatures := rfl
@[simp] theorem setCopy_featuresOk (s : State) (c : Copy) : (setCopy s c).featuresOk = s.featuresOk := rfl
@[simp] theorem setCopy_transport (s : State) (c : Copy) : (setCopy s c).transport = s.transport := rfl
@[simp] theorem setCopy_pinRefused (s : State) (c : Copy) : (setCopy s c).pinRefused = s.pinRefused := rfl
@[simp] theorem setCopy_generation (s : State) (c : Copy) : (setCopy s c).generation = s.generation := rfl
@[simp] theorem setCopy_health (s : State) (c : Copy) : (setCopy s c).health = s.health := rfl
@[simp] theorem setCopy_layersOff (s : State) (c : Copy) : (setCopy s c).layersOff = s.layersOff := rfl
@[simp] theorem setCopy_layersGated (s : State) (c : Copy) : (setCopy s c).layersGated = s.layersGated := rfl
@[simp] theorem setCopy_stacksAsleep (s : State) (c : Copy) : (setCopy s c).stacksAsleep = s.stacksAsleep := rfl
@[simp] theorem setCopy_diesOff (s : State) (c : Copy) : (setCopy s c).diesOff = s.diesOff := rfl
@[simp] theorem setCopy_idle (s : State) (c : Copy) : (setCopy s c).idle = s.idle := rfl
@[simp] theorem setCopy_log (s : State) (c : Copy) : (setCopy s c).log = s.log := rfl

/-! ## dropCopy -/

@[simp] theorem dropCopy_clock (s : State) (id : Nat) : (dropCopy s id).clock = s.clock := rfl
@[simp] theorem dropCopy_agenda (s : State) (id : Nat) : (dropCopy s id).agenda = s.agenda := rfl
@[simp] theorem dropCopy_cur (s : State) (id : Nat) : (dropCopy s id).cur = s.cur := rfl
@[simp] theorem dropCopy_nextId (s : State) (id : Nat) : (dropCopy s id).nextId = s.nextId := rfl
@[simp] theorem dropCopy_free (s : State) (id : Nat) : (dropCopy s id).free = s.free := rfl
@[simp] theorem dropCopy_mem (s : State) (id : Nat) : (dropCopy s id).mem = s.mem := rfl
@[simp] theorem dropCopy_full (s : State) (id : Nat) : (dropCopy s id).full = s.full := rfl
@[simp] theorem dropCopy_bad (s : State) (id : Nat) : (dropCopy s id).bad = s.bad := rfl
@[simp] theorem dropCopy_ctxs (s : State) (id : Nat) : (dropCopy s id).ctxs = s.ctxs := rfl
@[simp] theorem dropCopy_cores (s : State) (id : Nat) : (dropCopy s id).cores = s.cores := rfl
@[simp] theorem dropCopy_tiles (s : State) (id : Nat) : (dropCopy s id).tiles = s.tiles := rfl
@[simp] theorem dropCopy_jobs (s : State) (id : Nat) : (dropCopy s id).jobs = s.jobs := rfl
@[simp] theorem dropCopy_reqs (s : State) (id : Nat) : (dropCopy s id).reqs = s.reqs := rfl
@[simp] theorem dropCopy_hostCopies (s : State) (id : Nat) : (dropCopy s id).hostCopies = s.hostCopies := rfl
@[simp] theorem dropCopy_handovers (s : State) (id : Nat) : (dropCopy s id).handovers = s.handovers := rfl
@[simp] theorem dropCopy_portB (s : State) (id : Nat) : (dropCopy s id).portB = s.portB := rfl
@[simp] theorem dropCopy_routes (s : State) (id : Nat) : (dropCopy s id).routes = s.routes := rfl
@[simp] theorem dropCopy_lines (s : State) (id : Nat) : (dropCopy s id).lines = s.lines := rfl
@[simp] theorem dropCopy_writeQueue (s : State) (id : Nat) : (dropCopy s id).writeQueue = s.writeQueue := rfl
@[simp] theorem dropCopy_messages (s : State) (id : Nat) : (dropCopy s id).messages = s.messages := rfl
@[simp] theorem dropCopy_launches (s : State) (id : Nat) : (dropCopy s id).launches = s.launches := rfl
@[simp] theorem dropCopy_ghosts (s : State) (id : Nat) : (dropCopy s id).ghosts = s.ghosts := rfl
@[simp] theorem dropCopy_prefetches (s : State) (id : Nat) : (dropCopy s id).prefetches = s.prefetches := rfl
@[simp] theorem dropCopy_updates (s : State) (id : Nat) : (dropCopy s id).updates = s.updates := rfl
@[simp] theorem dropCopy_queues (s : State) (id : Nat) : (dropCopy s id).queues = s.queues := rfl
@[simp] theorem dropCopy_images (s : State) (id : Nat) : (dropCopy s id).images = s.images := rfl
@[simp] theorem dropCopy_nextImage (s : State) (id : Nat) : (dropCopy s id).nextImage = s.nextImage := rfl
@[simp] theorem dropCopy_nextJob (s : State) (id : Nat) : (dropCopy s id).nextJob = s.nextJob := rfl
@[simp] theorem dropCopy_completions (s : State) (id : Nat) : (dropCopy s id).completions = s.completions := rfl
@[simp] theorem dropCopy_hostMap (s : State) (id : Nat) : (dropCopy s id).hostMap = s.hostMap := rfl
@[simp] theorem dropCopy_packets (s : State) (id : Nat) : (dropCopy s id).packets = s.packets := rfl
@[simp] theorem dropCopy_reads (s : State) (id : Nat) : (dropCopy s id).reads = s.reads := rfl
@[simp] theorem dropCopy_answers (s : State) (id : Nat) : (dropCopy s id).answers = s.answers := rfl
@[simp] theorem dropCopy_writes (s : State) (id : Nat) : (dropCopy s id).writes = s.writes := rfl
@[simp] theorem dropCopy_routeSeq (s : State) (id : Nat) : (dropCopy s id).routeSeq = s.routeSeq := rfl
@[simp] theorem dropCopy_columns (s : State) (id : Nat) : (dropCopy s id).columns = s.columns := rfl
@[simp] theorem dropCopy_links (s : State) (id : Nat) : (dropCopy s id).links = s.links := rfl
@[simp] theorem dropCopy_endToEnd (s : State) (id : Nat) : (dropCopy s id).endToEnd = s.endToEnd := rfl
@[simp] theorem dropCopy_early (s : State) (id : Nat) : (dropCopy s id).early = s.early := rfl
@[simp] theorem dropCopy_bulk (s : State) (id : Nat) : (dropCopy s id).bulk = s.bulk := rfl
@[simp] theorem dropCopy_coming (s : State) (id : Nat) : (dropCopy s id).coming = s.coming := rfl
@[simp] theorem dropCopy_inbox (s : State) (id : Nat) : (dropCopy s id).inbox = s.inbox := rfl
@[simp] theorem dropCopy_parked (s : State) (id : Nat) : (dropCopy s id).parked = s.parked := rfl
@[simp] theorem dropCopy_poolTrained (s : State) (id : Nat) : (dropCopy s id).poolTrained = s.poolTrained := rfl
@[simp] theorem dropCopy_tolerance (s : State) (id : Nat) : (dropCopy s id).tolerance = s.tolerance := rfl
@[simp] theorem dropCopy_driverFeatures (s : State) (id : Nat) : (dropCopy s id).driverFeatures = s.driverFeatures := rfl
@[simp] theorem dropCopy_featuresOk (s : State) (id : Nat) : (dropCopy s id).featuresOk = s.featuresOk := rfl
@[simp] theorem dropCopy_transport (s : State) (id : Nat) : (dropCopy s id).transport = s.transport := rfl
@[simp] theorem dropCopy_pinRefused (s : State) (id : Nat) : (dropCopy s id).pinRefused = s.pinRefused := rfl
@[simp] theorem dropCopy_generation (s : State) (id : Nat) : (dropCopy s id).generation = s.generation := rfl
@[simp] theorem dropCopy_health (s : State) (id : Nat) : (dropCopy s id).health = s.health := rfl
@[simp] theorem dropCopy_layersOff (s : State) (id : Nat) : (dropCopy s id).layersOff = s.layersOff := rfl
@[simp] theorem dropCopy_layersGated (s : State) (id : Nat) : (dropCopy s id).layersGated = s.layersGated := rfl
@[simp] theorem dropCopy_stacksAsleep (s : State) (id : Nat) : (dropCopy s id).stacksAsleep = s.stacksAsleep := rfl
@[simp] theorem dropCopy_diesOff (s : State) (id : Nat) : (dropCopy s id).diesOff = s.diesOff := rfl
@[simp] theorem dropCopy_idle (s : State) (id : Nat) : (dropCopy s id).idle = s.idle := rfl
@[simp] theorem dropCopy_log (s : State) (id : Nat) : (dropCopy s id).log = s.log := rfl

/-! ## setColumn -/

@[simp] theorem setColumn_clock (s : State) (die col : Nat) (c : Column) : (setColumn s die col c).clock = s.clock := rfl
@[simp] theorem setColumn_agenda (s : State) (die col : Nat) (c : Column) : (setColumn s die col c).agenda = s.agenda := rfl
@[simp] theorem setColumn_cur (s : State) (die col : Nat) (c : Column) : (setColumn s die col c).cur = s.cur := rfl
@[simp] theorem setColumn_nextId (s : State) (die col : Nat) (c : Column) : (setColumn s die col c).nextId = s.nextId := rfl
@[simp] theorem setColumn_free (s : State) (die col : Nat) (c : Column) : (setColumn s die col c).free = s.free := rfl
@[simp] theorem setColumn_mem (s : State) (die col : Nat) (c : Column) : (setColumn s die col c).mem = s.mem := rfl
@[simp] theorem setColumn_full (s : State) (die col : Nat) (c : Column) : (setColumn s die col c).full = s.full := rfl
@[simp] theorem setColumn_bad (s : State) (die col : Nat) (c : Column) : (setColumn s die col c).bad = s.bad := rfl
@[simp] theorem setColumn_ctxs (s : State) (die col : Nat) (c : Column) : (setColumn s die col c).ctxs = s.ctxs := rfl
@[simp] theorem setColumn_cores (s : State) (die col : Nat) (c : Column) : (setColumn s die col c).cores = s.cores := rfl
@[simp] theorem setColumn_tiles (s : State) (die col : Nat) (c : Column) : (setColumn s die col c).tiles = s.tiles := rfl
@[simp] theorem setColumn_jobs (s : State) (die col : Nat) (c : Column) : (setColumn s die col c).jobs = s.jobs := rfl
@[simp] theorem setColumn_reqs (s : State) (die col : Nat) (c : Column) : (setColumn s die col c).reqs = s.reqs := rfl
@[simp] theorem setColumn_copies (s : State) (die col : Nat) (c : Column) : (setColumn s die col c).copies = s.copies := rfl
@[simp] theorem setColumn_hostCopies (s : State) (die col : Nat) (c : Column) : (setColumn s die col c).hostCopies = s.hostCopies := rfl
@[simp] theorem setColumn_handovers (s : State) (die col : Nat) (c : Column) : (setColumn s die col c).handovers = s.handovers := rfl
@[simp] theorem setColumn_portB (s : State) (die col : Nat) (c : Column) : (setColumn s die col c).portB = s.portB := rfl
@[simp] theorem setColumn_routes (s : State) (die col : Nat) (c : Column) : (setColumn s die col c).routes = s.routes := rfl
@[simp] theorem setColumn_lines (s : State) (die col : Nat) (c : Column) : (setColumn s die col c).lines = s.lines := rfl
@[simp] theorem setColumn_writeQueue (s : State) (die col : Nat) (c : Column) : (setColumn s die col c).writeQueue = s.writeQueue := rfl
@[simp] theorem setColumn_messages (s : State) (die col : Nat) (c : Column) : (setColumn s die col c).messages = s.messages := rfl
@[simp] theorem setColumn_launches (s : State) (die col : Nat) (c : Column) : (setColumn s die col c).launches = s.launches := rfl
@[simp] theorem setColumn_ghosts (s : State) (die col : Nat) (c : Column) : (setColumn s die col c).ghosts = s.ghosts := rfl
@[simp] theorem setColumn_prefetches (s : State) (die col : Nat) (c : Column) : (setColumn s die col c).prefetches = s.prefetches := rfl
@[simp] theorem setColumn_updates (s : State) (die col : Nat) (c : Column) : (setColumn s die col c).updates = s.updates := rfl
@[simp] theorem setColumn_queues (s : State) (die col : Nat) (c : Column) : (setColumn s die col c).queues = s.queues := rfl
@[simp] theorem setColumn_images (s : State) (die col : Nat) (c : Column) : (setColumn s die col c).images = s.images := rfl
@[simp] theorem setColumn_nextImage (s : State) (die col : Nat) (c : Column) : (setColumn s die col c).nextImage = s.nextImage := rfl
@[simp] theorem setColumn_nextJob (s : State) (die col : Nat) (c : Column) : (setColumn s die col c).nextJob = s.nextJob := rfl
@[simp] theorem setColumn_completions (s : State) (die col : Nat) (c : Column) : (setColumn s die col c).completions = s.completions := rfl
@[simp] theorem setColumn_hostMap (s : State) (die col : Nat) (c : Column) : (setColumn s die col c).hostMap = s.hostMap := rfl
@[simp] theorem setColumn_packets (s : State) (die col : Nat) (c : Column) : (setColumn s die col c).packets = s.packets := rfl
@[simp] theorem setColumn_reads (s : State) (die col : Nat) (c : Column) : (setColumn s die col c).reads = s.reads := rfl
@[simp] theorem setColumn_answers (s : State) (die col : Nat) (c : Column) : (setColumn s die col c).answers = s.answers := rfl
@[simp] theorem setColumn_writes (s : State) (die col : Nat) (c : Column) : (setColumn s die col c).writes = s.writes := rfl
@[simp] theorem setColumn_routeSeq (s : State) (die col : Nat) (c : Column) : (setColumn s die col c).routeSeq = s.routeSeq := rfl
@[simp] theorem setColumn_links (s : State) (die col : Nat) (c : Column) : (setColumn s die col c).links = s.links := rfl
@[simp] theorem setColumn_endToEnd (s : State) (die col : Nat) (c : Column) : (setColumn s die col c).endToEnd = s.endToEnd := rfl
@[simp] theorem setColumn_early (s : State) (die col : Nat) (c : Column) : (setColumn s die col c).early = s.early := rfl
@[simp] theorem setColumn_bulk (s : State) (die col : Nat) (c : Column) : (setColumn s die col c).bulk = s.bulk := rfl
@[simp] theorem setColumn_coming (s : State) (die col : Nat) (c : Column) : (setColumn s die col c).coming = s.coming := rfl
@[simp] theorem setColumn_inbox (s : State) (die col : Nat) (c : Column) : (setColumn s die col c).inbox = s.inbox := rfl
@[simp] theorem setColumn_parked (s : State) (die col : Nat) (c : Column) : (setColumn s die col c).parked = s.parked := rfl
@[simp] theorem setColumn_poolTrained (s : State) (die col : Nat) (c : Column) : (setColumn s die col c).poolTrained = s.poolTrained := rfl
@[simp] theorem setColumn_tolerance (s : State) (die col : Nat) (c : Column) : (setColumn s die col c).tolerance = s.tolerance := rfl
@[simp] theorem setColumn_driverFeatures (s : State) (die col : Nat) (c : Column) : (setColumn s die col c).driverFeatures = s.driverFeatures := rfl
@[simp] theorem setColumn_featuresOk (s : State) (die col : Nat) (c : Column) : (setColumn s die col c).featuresOk = s.featuresOk := rfl
@[simp] theorem setColumn_transport (s : State) (die col : Nat) (c : Column) : (setColumn s die col c).transport = s.transport := rfl
@[simp] theorem setColumn_pinRefused (s : State) (die col : Nat) (c : Column) : (setColumn s die col c).pinRefused = s.pinRefused := rfl
@[simp] theorem setColumn_generation (s : State) (die col : Nat) (c : Column) : (setColumn s die col c).generation = s.generation := rfl
@[simp] theorem setColumn_health (s : State) (die col : Nat) (c : Column) : (setColumn s die col c).health = s.health := rfl
@[simp] theorem setColumn_layersOff (s : State) (die col : Nat) (c : Column) : (setColumn s die col c).layersOff = s.layersOff := rfl
@[simp] theorem setColumn_layersGated (s : State) (die col : Nat) (c : Column) : (setColumn s die col c).layersGated = s.layersGated := rfl
@[simp] theorem setColumn_stacksAsleep (s : State) (die col : Nat) (c : Column) : (setColumn s die col c).stacksAsleep = s.stacksAsleep := rfl
@[simp] theorem setColumn_diesOff (s : State) (die col : Nat) (c : Column) : (setColumn s die col c).diesOff = s.diesOff := rfl
@[simp] theorem setColumn_idle (s : State) (die col : Nat) (c : Column) : (setColumn s die col c).idle = s.idle := rfl
@[simp] theorem setColumn_log (s : State) (die col : Nat) (c : Column) : (setColumn s die col c).log = s.log := rfl

/-! ## setLink -/

@[simp] theorem setLink_clock (s : State) (l : Nat) (k : Link) : (setLink s l k).clock = s.clock := rfl
@[simp] theorem setLink_agenda (s : State) (l : Nat) (k : Link) : (setLink s l k).agenda = s.agenda := rfl
@[simp] theorem setLink_cur (s : State) (l : Nat) (k : Link) : (setLink s l k).cur = s.cur := rfl
@[simp] theorem setLink_nextId (s : State) (l : Nat) (k : Link) : (setLink s l k).nextId = s.nextId := rfl
@[simp] theorem setLink_free (s : State) (l : Nat) (k : Link) : (setLink s l k).free = s.free := rfl
@[simp] theorem setLink_mem (s : State) (l : Nat) (k : Link) : (setLink s l k).mem = s.mem := rfl
@[simp] theorem setLink_full (s : State) (l : Nat) (k : Link) : (setLink s l k).full = s.full := rfl
@[simp] theorem setLink_bad (s : State) (l : Nat) (k : Link) : (setLink s l k).bad = s.bad := rfl
@[simp] theorem setLink_ctxs (s : State) (l : Nat) (k : Link) : (setLink s l k).ctxs = s.ctxs := rfl
@[simp] theorem setLink_cores (s : State) (l : Nat) (k : Link) : (setLink s l k).cores = s.cores := rfl
@[simp] theorem setLink_tiles (s : State) (l : Nat) (k : Link) : (setLink s l k).tiles = s.tiles := rfl
@[simp] theorem setLink_jobs (s : State) (l : Nat) (k : Link) : (setLink s l k).jobs = s.jobs := rfl
@[simp] theorem setLink_reqs (s : State) (l : Nat) (k : Link) : (setLink s l k).reqs = s.reqs := rfl
@[simp] theorem setLink_copies (s : State) (l : Nat) (k : Link) : (setLink s l k).copies = s.copies := rfl
@[simp] theorem setLink_hostCopies (s : State) (l : Nat) (k : Link) : (setLink s l k).hostCopies = s.hostCopies := rfl
@[simp] theorem setLink_handovers (s : State) (l : Nat) (k : Link) : (setLink s l k).handovers = s.handovers := rfl
@[simp] theorem setLink_portB (s : State) (l : Nat) (k : Link) : (setLink s l k).portB = s.portB := rfl
@[simp] theorem setLink_routes (s : State) (l : Nat) (k : Link) : (setLink s l k).routes = s.routes := rfl
@[simp] theorem setLink_lines (s : State) (l : Nat) (k : Link) : (setLink s l k).lines = s.lines := rfl
@[simp] theorem setLink_writeQueue (s : State) (l : Nat) (k : Link) : (setLink s l k).writeQueue = s.writeQueue := rfl
@[simp] theorem setLink_messages (s : State) (l : Nat) (k : Link) : (setLink s l k).messages = s.messages := rfl
@[simp] theorem setLink_launches (s : State) (l : Nat) (k : Link) : (setLink s l k).launches = s.launches := rfl
@[simp] theorem setLink_ghosts (s : State) (l : Nat) (k : Link) : (setLink s l k).ghosts = s.ghosts := rfl
@[simp] theorem setLink_prefetches (s : State) (l : Nat) (k : Link) : (setLink s l k).prefetches = s.prefetches := rfl
@[simp] theorem setLink_updates (s : State) (l : Nat) (k : Link) : (setLink s l k).updates = s.updates := rfl
@[simp] theorem setLink_queues (s : State) (l : Nat) (k : Link) : (setLink s l k).queues = s.queues := rfl
@[simp] theorem setLink_images (s : State) (l : Nat) (k : Link) : (setLink s l k).images = s.images := rfl
@[simp] theorem setLink_nextImage (s : State) (l : Nat) (k : Link) : (setLink s l k).nextImage = s.nextImage := rfl
@[simp] theorem setLink_nextJob (s : State) (l : Nat) (k : Link) : (setLink s l k).nextJob = s.nextJob := rfl
@[simp] theorem setLink_completions (s : State) (l : Nat) (k : Link) : (setLink s l k).completions = s.completions := rfl
@[simp] theorem setLink_hostMap (s : State) (l : Nat) (k : Link) : (setLink s l k).hostMap = s.hostMap := rfl
@[simp] theorem setLink_packets (s : State) (l : Nat) (k : Link) : (setLink s l k).packets = s.packets := rfl
@[simp] theorem setLink_reads (s : State) (l : Nat) (k : Link) : (setLink s l k).reads = s.reads := rfl
@[simp] theorem setLink_answers (s : State) (l : Nat) (k : Link) : (setLink s l k).answers = s.answers := rfl
@[simp] theorem setLink_writes (s : State) (l : Nat) (k : Link) : (setLink s l k).writes = s.writes := rfl
@[simp] theorem setLink_routeSeq (s : State) (l : Nat) (k : Link) : (setLink s l k).routeSeq = s.routeSeq := rfl
@[simp] theorem setLink_columns (s : State) (l : Nat) (k : Link) : (setLink s l k).columns = s.columns := rfl
@[simp] theorem setLink_endToEnd (s : State) (l : Nat) (k : Link) : (setLink s l k).endToEnd = s.endToEnd := rfl
@[simp] theorem setLink_early (s : State) (l : Nat) (k : Link) : (setLink s l k).early = s.early := rfl
@[simp] theorem setLink_bulk (s : State) (l : Nat) (k : Link) : (setLink s l k).bulk = s.bulk := rfl
@[simp] theorem setLink_coming (s : State) (l : Nat) (k : Link) : (setLink s l k).coming = s.coming := rfl
@[simp] theorem setLink_inbox (s : State) (l : Nat) (k : Link) : (setLink s l k).inbox = s.inbox := rfl
@[simp] theorem setLink_parked (s : State) (l : Nat) (k : Link) : (setLink s l k).parked = s.parked := rfl
@[simp] theorem setLink_poolTrained (s : State) (l : Nat) (k : Link) : (setLink s l k).poolTrained = s.poolTrained := rfl
@[simp] theorem setLink_tolerance (s : State) (l : Nat) (k : Link) : (setLink s l k).tolerance = s.tolerance := rfl
@[simp] theorem setLink_driverFeatures (s : State) (l : Nat) (k : Link) : (setLink s l k).driverFeatures = s.driverFeatures := rfl
@[simp] theorem setLink_featuresOk (s : State) (l : Nat) (k : Link) : (setLink s l k).featuresOk = s.featuresOk := rfl
@[simp] theorem setLink_transport (s : State) (l : Nat) (k : Link) : (setLink s l k).transport = s.transport := rfl
@[simp] theorem setLink_pinRefused (s : State) (l : Nat) (k : Link) : (setLink s l k).pinRefused = s.pinRefused := rfl
@[simp] theorem setLink_generation (s : State) (l : Nat) (k : Link) : (setLink s l k).generation = s.generation := rfl
@[simp] theorem setLink_health (s : State) (l : Nat) (k : Link) : (setLink s l k).health = s.health := rfl
@[simp] theorem setLink_layersOff (s : State) (l : Nat) (k : Link) : (setLink s l k).layersOff = s.layersOff := rfl
@[simp] theorem setLink_layersGated (s : State) (l : Nat) (k : Link) : (setLink s l k).layersGated = s.layersGated := rfl
@[simp] theorem setLink_stacksAsleep (s : State) (l : Nat) (k : Link) : (setLink s l k).stacksAsleep = s.stacksAsleep := rfl
@[simp] theorem setLink_diesOff (s : State) (l : Nat) (k : Link) : (setLink s l k).diesOff = s.diesOff := rfl
@[simp] theorem setLink_idle (s : State) (l : Nat) (k : Link) : (setLink s l k).idle = s.idle := rfl
@[simp] theorem setLink_log (s : State) (l : Nat) (k : Link) : (setLink s l k).log = s.log := rfl

/-! ## fresh -/

@[simp] theorem fresh_clock (s : State) : (fresh s).clock = s.clock := rfl
@[simp] theorem fresh_agenda (s : State) : (fresh s).agenda = s.agenda := rfl
@[simp] theorem fresh_cur (s : State) : (fresh s).cur = s.cur := rfl
@[simp] theorem fresh_free (s : State) : (fresh s).free = s.free := rfl
@[simp] theorem fresh_mem (s : State) : (fresh s).mem = s.mem := rfl
@[simp] theorem fresh_full (s : State) : (fresh s).full = s.full := rfl
@[simp] theorem fresh_bad (s : State) : (fresh s).bad = s.bad := rfl
@[simp] theorem fresh_ctxs (s : State) : (fresh s).ctxs = s.ctxs := rfl
@[simp] theorem fresh_cores (s : State) : (fresh s).cores = s.cores := rfl
@[simp] theorem fresh_tiles (s : State) : (fresh s).tiles = s.tiles := rfl
@[simp] theorem fresh_jobs (s : State) : (fresh s).jobs = s.jobs := rfl
@[simp] theorem fresh_reqs (s : State) : (fresh s).reqs = s.reqs := rfl
@[simp] theorem fresh_copies (s : State) : (fresh s).copies = s.copies := rfl
@[simp] theorem fresh_hostCopies (s : State) : (fresh s).hostCopies = s.hostCopies := rfl
@[simp] theorem fresh_handovers (s : State) : (fresh s).handovers = s.handovers := rfl
@[simp] theorem fresh_portB (s : State) : (fresh s).portB = s.portB := rfl
@[simp] theorem fresh_routes (s : State) : (fresh s).routes = s.routes := rfl
@[simp] theorem fresh_lines (s : State) : (fresh s).lines = s.lines := rfl
@[simp] theorem fresh_writeQueue (s : State) : (fresh s).writeQueue = s.writeQueue := rfl
@[simp] theorem fresh_messages (s : State) : (fresh s).messages = s.messages := rfl
@[simp] theorem fresh_launches (s : State) : (fresh s).launches = s.launches := rfl
@[simp] theorem fresh_ghosts (s : State) : (fresh s).ghosts = s.ghosts := rfl
@[simp] theorem fresh_prefetches (s : State) : (fresh s).prefetches = s.prefetches := rfl
@[simp] theorem fresh_updates (s : State) : (fresh s).updates = s.updates := rfl
@[simp] theorem fresh_queues (s : State) : (fresh s).queues = s.queues := rfl
@[simp] theorem fresh_images (s : State) : (fresh s).images = s.images := rfl
@[simp] theorem fresh_nextImage (s : State) : (fresh s).nextImage = s.nextImage := rfl
@[simp] theorem fresh_nextJob (s : State) : (fresh s).nextJob = s.nextJob := rfl
@[simp] theorem fresh_completions (s : State) : (fresh s).completions = s.completions := rfl
@[simp] theorem fresh_hostMap (s : State) : (fresh s).hostMap = s.hostMap := rfl
@[simp] theorem fresh_packets (s : State) : (fresh s).packets = s.packets := rfl
@[simp] theorem fresh_reads (s : State) : (fresh s).reads = s.reads := rfl
@[simp] theorem fresh_answers (s : State) : (fresh s).answers = s.answers := rfl
@[simp] theorem fresh_writes (s : State) : (fresh s).writes = s.writes := rfl
@[simp] theorem fresh_routeSeq (s : State) : (fresh s).routeSeq = s.routeSeq := rfl
@[simp] theorem fresh_columns (s : State) : (fresh s).columns = s.columns := rfl
@[simp] theorem fresh_links (s : State) : (fresh s).links = s.links := rfl
@[simp] theorem fresh_endToEnd (s : State) : (fresh s).endToEnd = s.endToEnd := rfl
@[simp] theorem fresh_early (s : State) : (fresh s).early = s.early := rfl
@[simp] theorem fresh_bulk (s : State) : (fresh s).bulk = s.bulk := rfl
@[simp] theorem fresh_coming (s : State) : (fresh s).coming = s.coming := rfl
@[simp] theorem fresh_inbox (s : State) : (fresh s).inbox = s.inbox := rfl
@[simp] theorem fresh_parked (s : State) : (fresh s).parked = s.parked := rfl
@[simp] theorem fresh_poolTrained (s : State) : (fresh s).poolTrained = s.poolTrained := rfl
@[simp] theorem fresh_tolerance (s : State) : (fresh s).tolerance = s.tolerance := rfl
@[simp] theorem fresh_driverFeatures (s : State) : (fresh s).driverFeatures = s.driverFeatures := rfl
@[simp] theorem fresh_featuresOk (s : State) : (fresh s).featuresOk = s.featuresOk := rfl
@[simp] theorem fresh_transport (s : State) : (fresh s).transport = s.transport := rfl
@[simp] theorem fresh_pinRefused (s : State) : (fresh s).pinRefused = s.pinRefused := rfl
@[simp] theorem fresh_generation (s : State) : (fresh s).generation = s.generation := rfl
@[simp] theorem fresh_health (s : State) : (fresh s).health = s.health := rfl
@[simp] theorem fresh_layersOff (s : State) : (fresh s).layersOff = s.layersOff := rfl
@[simp] theorem fresh_layersGated (s : State) : (fresh s).layersGated = s.layersGated := rfl
@[simp] theorem fresh_stacksAsleep (s : State) : (fresh s).stacksAsleep = s.stacksAsleep := rfl
@[simp] theorem fresh_diesOff (s : State) : (fresh s).diesOff = s.diesOff := rfl
@[simp] theorem fresh_idle (s : State) : (fresh s).idle = s.idle := rfl
@[simp] theorem fresh_log (s : State) : (fresh s).log = s.log := rfl

/-! ## openUsed -/

@[simp] theorem openUsed_clock (s : State) : (openUsed s).clock = s.clock := rfl
@[simp] theorem openUsed_agenda (s : State) : (openUsed s).agenda = s.agenda := rfl
@[simp] theorem openUsed_cur (s : State) : (openUsed s).cur = s.cur := rfl
@[simp] theorem openUsed_nextId (s : State) : (openUsed s).nextId = s.nextId := rfl
@[simp] theorem openUsed_mem (s : State) : (openUsed s).mem = s.mem := rfl
@[simp] theorem openUsed_full (s : State) : (openUsed s).full = s.full := rfl
@[simp] theorem openUsed_bad (s : State) : (openUsed s).bad = s.bad := rfl
@[simp] theorem openUsed_ctxs (s : State) : (openUsed s).ctxs = s.ctxs := rfl
@[simp] theorem openUsed_cores (s : State) : (openUsed s).cores = s.cores := rfl
@[simp] theorem openUsed_tiles (s : State) : (openUsed s).tiles = s.tiles := rfl
@[simp] theorem openUsed_jobs (s : State) : (openUsed s).jobs = s.jobs := rfl
@[simp] theorem openUsed_reqs (s : State) : (openUsed s).reqs = s.reqs := rfl
@[simp] theorem openUsed_copies (s : State) : (openUsed s).copies = s.copies := rfl
@[simp] theorem openUsed_hostCopies (s : State) : (openUsed s).hostCopies = s.hostCopies := rfl
@[simp] theorem openUsed_handovers (s : State) : (openUsed s).handovers = s.handovers := rfl
@[simp] theorem openUsed_portB (s : State) : (openUsed s).portB = s.portB := rfl
@[simp] theorem openUsed_routes (s : State) : (openUsed s).routes = s.routes := rfl
@[simp] theorem openUsed_lines (s : State) : (openUsed s).lines = s.lines := rfl
@[simp] theorem openUsed_writeQueue (s : State) : (openUsed s).writeQueue = s.writeQueue := rfl
@[simp] theorem openUsed_messages (s : State) : (openUsed s).messages = s.messages := rfl
@[simp] theorem openUsed_launches (s : State) : (openUsed s).launches = s.launches := rfl
@[simp] theorem openUsed_ghosts (s : State) : (openUsed s).ghosts = s.ghosts := rfl
@[simp] theorem openUsed_prefetches (s : State) : (openUsed s).prefetches = s.prefetches := rfl
@[simp] theorem openUsed_updates (s : State) : (openUsed s).updates = s.updates := rfl
@[simp] theorem openUsed_queues (s : State) : (openUsed s).queues = s.queues := rfl
@[simp] theorem openUsed_images (s : State) : (openUsed s).images = s.images := rfl
@[simp] theorem openUsed_nextImage (s : State) : (openUsed s).nextImage = s.nextImage := rfl
@[simp] theorem openUsed_nextJob (s : State) : (openUsed s).nextJob = s.nextJob := rfl
@[simp] theorem openUsed_completions (s : State) : (openUsed s).completions = s.completions := rfl
@[simp] theorem openUsed_hostMap (s : State) : (openUsed s).hostMap = s.hostMap := rfl
@[simp] theorem openUsed_packets (s : State) : (openUsed s).packets = s.packets := rfl
@[simp] theorem openUsed_reads (s : State) : (openUsed s).reads = s.reads := rfl
@[simp] theorem openUsed_answers (s : State) : (openUsed s).answers = s.answers := rfl
@[simp] theorem openUsed_writes (s : State) : (openUsed s).writes = s.writes := rfl
@[simp] theorem openUsed_routeSeq (s : State) : (openUsed s).routeSeq = s.routeSeq := rfl
@[simp] theorem openUsed_columns (s : State) : (openUsed s).columns = s.columns := rfl
@[simp] theorem openUsed_links (s : State) : (openUsed s).links = s.links := rfl
@[simp] theorem openUsed_endToEnd (s : State) : (openUsed s).endToEnd = s.endToEnd := rfl
@[simp] theorem openUsed_early (s : State) : (openUsed s).early = s.early := rfl
@[simp] theorem openUsed_bulk (s : State) : (openUsed s).bulk = s.bulk := rfl
@[simp] theorem openUsed_coming (s : State) : (openUsed s).coming = s.coming := rfl
@[simp] theorem openUsed_inbox (s : State) : (openUsed s).inbox = s.inbox := rfl
@[simp] theorem openUsed_parked (s : State) : (openUsed s).parked = s.parked := rfl
@[simp] theorem openUsed_poolTrained (s : State) : (openUsed s).poolTrained = s.poolTrained := rfl
@[simp] theorem openUsed_tolerance (s : State) : (openUsed s).tolerance = s.tolerance := rfl
@[simp] theorem openUsed_driverFeatures (s : State) : (openUsed s).driverFeatures = s.driverFeatures := rfl
@[simp] theorem openUsed_featuresOk (s : State) : (openUsed s).featuresOk = s.featuresOk := rfl
@[simp] theorem openUsed_transport (s : State) : (openUsed s).transport = s.transport := rfl
@[simp] theorem openUsed_pinRefused (s : State) : (openUsed s).pinRefused = s.pinRefused := rfl
@[simp] theorem openUsed_generation (s : State) : (openUsed s).generation = s.generation := rfl
@[simp] theorem openUsed_health (s : State) : (openUsed s).health = s.health := rfl
@[simp] theorem openUsed_layersOff (s : State) : (openUsed s).layersOff = s.layersOff := rfl
@[simp] theorem openUsed_layersGated (s : State) : (openUsed s).layersGated = s.layersGated := rfl
@[simp] theorem openUsed_stacksAsleep (s : State) : (openUsed s).stacksAsleep = s.stacksAsleep := rfl
@[simp] theorem openUsed_diesOff (s : State) : (openUsed s).diesOff = s.diesOff := rfl
@[simp] theorem openUsed_idle (s : State) : (openUsed s).idle = s.idle := rfl
@[simp] theorem openUsed_log (s : State) : (openUsed s).log = s.log := rfl

/-! ## passClocks -/

@[simp] theorem passClocks_agenda (s : State) (n : Nat) : (passClocks s n).agenda = s.agenda := rfl
@[simp] theorem passClocks_cur (s : State) (n : Nat) : (passClocks s n).cur = s.cur := rfl
@[simp] theorem passClocks_nextId (s : State) (n : Nat) : (passClocks s n).nextId = s.nextId := rfl
@[simp] theorem passClocks_free (s : State) (n : Nat) : (passClocks s n).free = s.free := rfl
@[simp] theorem passClocks_mem (s : State) (n : Nat) : (passClocks s n).mem = s.mem := rfl
@[simp] theorem passClocks_full (s : State) (n : Nat) : (passClocks s n).full = s.full := rfl
@[simp] theorem passClocks_bad (s : State) (n : Nat) : (passClocks s n).bad = s.bad := rfl
@[simp] theorem passClocks_ctxs (s : State) (n : Nat) : (passClocks s n).ctxs = s.ctxs := rfl
@[simp] theorem passClocks_cores (s : State) (n : Nat) : (passClocks s n).cores = s.cores := rfl
@[simp] theorem passClocks_tiles (s : State) (n : Nat) : (passClocks s n).tiles = s.tiles := rfl
@[simp] theorem passClocks_jobs (s : State) (n : Nat) : (passClocks s n).jobs = s.jobs := rfl
@[simp] theorem passClocks_reqs (s : State) (n : Nat) : (passClocks s n).reqs = s.reqs := rfl
@[simp] theorem passClocks_copies (s : State) (n : Nat) : (passClocks s n).copies = s.copies := rfl
@[simp] theorem passClocks_hostCopies (s : State) (n : Nat) : (passClocks s n).hostCopies = s.hostCopies := rfl
@[simp] theorem passClocks_handovers (s : State) (n : Nat) : (passClocks s n).handovers = s.handovers := rfl
@[simp] theorem passClocks_portB (s : State) (n : Nat) : (passClocks s n).portB = s.portB := rfl
@[simp] theorem passClocks_routes (s : State) (n : Nat) : (passClocks s n).routes = s.routes := rfl
@[simp] theorem passClocks_lines (s : State) (n : Nat) : (passClocks s n).lines = s.lines := rfl
@[simp] theorem passClocks_writeQueue (s : State) (n : Nat) : (passClocks s n).writeQueue = s.writeQueue := rfl
@[simp] theorem passClocks_messages (s : State) (n : Nat) : (passClocks s n).messages = s.messages := rfl
@[simp] theorem passClocks_launches (s : State) (n : Nat) : (passClocks s n).launches = s.launches := rfl
@[simp] theorem passClocks_ghosts (s : State) (n : Nat) : (passClocks s n).ghosts = s.ghosts := rfl
@[simp] theorem passClocks_prefetches (s : State) (n : Nat) : (passClocks s n).prefetches = s.prefetches := rfl
@[simp] theorem passClocks_updates (s : State) (n : Nat) : (passClocks s n).updates = s.updates := rfl
@[simp] theorem passClocks_queues (s : State) (n : Nat) : (passClocks s n).queues = s.queues := rfl
@[simp] theorem passClocks_images (s : State) (n : Nat) : (passClocks s n).images = s.images := rfl
@[simp] theorem passClocks_nextImage (s : State) (n : Nat) : (passClocks s n).nextImage = s.nextImage := rfl
@[simp] theorem passClocks_nextJob (s : State) (n : Nat) : (passClocks s n).nextJob = s.nextJob := rfl
@[simp] theorem passClocks_completions (s : State) (n : Nat) : (passClocks s n).completions = s.completions := rfl
@[simp] theorem passClocks_hostMap (s : State) (n : Nat) : (passClocks s n).hostMap = s.hostMap := rfl
@[simp] theorem passClocks_packets (s : State) (n : Nat) : (passClocks s n).packets = s.packets := rfl
@[simp] theorem passClocks_reads (s : State) (n : Nat) : (passClocks s n).reads = s.reads := rfl
@[simp] theorem passClocks_answers (s : State) (n : Nat) : (passClocks s n).answers = s.answers := rfl
@[simp] theorem passClocks_writes (s : State) (n : Nat) : (passClocks s n).writes = s.writes := rfl
@[simp] theorem passClocks_routeSeq (s : State) (n : Nat) : (passClocks s n).routeSeq = s.routeSeq := rfl
@[simp] theorem passClocks_columns (s : State) (n : Nat) : (passClocks s n).columns = s.columns := rfl
@[simp] theorem passClocks_links (s : State) (n : Nat) : (passClocks s n).links = s.links := rfl
@[simp] theorem passClocks_endToEnd (s : State) (n : Nat) : (passClocks s n).endToEnd = s.endToEnd := rfl
@[simp] theorem passClocks_early (s : State) (n : Nat) : (passClocks s n).early = s.early := rfl
@[simp] theorem passClocks_bulk (s : State) (n : Nat) : (passClocks s n).bulk = s.bulk := rfl
@[simp] theorem passClocks_coming (s : State) (n : Nat) : (passClocks s n).coming = s.coming := rfl
@[simp] theorem passClocks_inbox (s : State) (n : Nat) : (passClocks s n).inbox = s.inbox := rfl
@[simp] theorem passClocks_parked (s : State) (n : Nat) : (passClocks s n).parked = s.parked := rfl
@[simp] theorem passClocks_poolTrained (s : State) (n : Nat) : (passClocks s n).poolTrained = s.poolTrained := rfl
@[simp] theorem passClocks_tolerance (s : State) (n : Nat) : (passClocks s n).tolerance = s.tolerance := rfl
@[simp] theorem passClocks_driverFeatures (s : State) (n : Nat) : (passClocks s n).driverFeatures = s.driverFeatures := rfl
@[simp] theorem passClocks_featuresOk (s : State) (n : Nat) : (passClocks s n).featuresOk = s.featuresOk := rfl
@[simp] theorem passClocks_transport (s : State) (n : Nat) : (passClocks s n).transport = s.transport := rfl
@[simp] theorem passClocks_pinRefused (s : State) (n : Nat) : (passClocks s n).pinRefused = s.pinRefused := rfl
@[simp] theorem passClocks_generation (s : State) (n : Nat) : (passClocks s n).generation = s.generation := rfl
@[simp] theorem passClocks_health (s : State) (n : Nat) : (passClocks s n).health = s.health := rfl
@[simp] theorem passClocks_layersOff (s : State) (n : Nat) : (passClocks s n).layersOff = s.layersOff := rfl
@[simp] theorem passClocks_layersGated (s : State) (n : Nat) : (passClocks s n).layersGated = s.layersGated := rfl
@[simp] theorem passClocks_stacksAsleep (s : State) (n : Nat) : (passClocks s n).stacksAsleep = s.stacksAsleep := rfl
@[simp] theorem passClocks_diesOff (s : State) (n : Nat) : (passClocks s n).diesOff = s.diesOff := rfl
@[simp] theorem passClocks_idle (s : State) (n : Nat) : (passClocks s n).idle = s.idle := rfl
@[simp] theorem passClocks_log (s : State) (n : Nat) : (passClocks s n).log = s.log := rfl

/-! ## logEntry -/

@[simp] theorem logEntry_clock (s : State) (kind core ctx job : Nat) (a b : Word) : (logEntry s kind core ctx job a b).clock = s.clock := rfl
@[simp] theorem logEntry_agenda (s : State) (kind core ctx job : Nat) (a b : Word) : (logEntry s kind core ctx job a b).agenda = s.agenda := rfl
@[simp] theorem logEntry_cur (s : State) (kind core ctx job : Nat) (a b : Word) : (logEntry s kind core ctx job a b).cur = s.cur := rfl
@[simp] theorem logEntry_nextId (s : State) (kind core ctx job : Nat) (a b : Word) : (logEntry s kind core ctx job a b).nextId = s.nextId := rfl
@[simp] theorem logEntry_free (s : State) (kind core ctx job : Nat) (a b : Word) : (logEntry s kind core ctx job a b).free = s.free := rfl
@[simp] theorem logEntry_mem (s : State) (kind core ctx job : Nat) (a b : Word) : (logEntry s kind core ctx job a b).mem = s.mem := rfl
@[simp] theorem logEntry_full (s : State) (kind core ctx job : Nat) (a b : Word) : (logEntry s kind core ctx job a b).full = s.full := rfl
@[simp] theorem logEntry_bad (s : State) (kind core ctx job : Nat) (a b : Word) : (logEntry s kind core ctx job a b).bad = s.bad := rfl
@[simp] theorem logEntry_ctxs (s : State) (kind core ctx job : Nat) (a b : Word) : (logEntry s kind core ctx job a b).ctxs = s.ctxs := rfl
@[simp] theorem logEntry_cores (s : State) (kind core ctx job : Nat) (a b : Word) : (logEntry s kind core ctx job a b).cores = s.cores := rfl
@[simp] theorem logEntry_tiles (s : State) (kind core ctx job : Nat) (a b : Word) : (logEntry s kind core ctx job a b).tiles = s.tiles := rfl
@[simp] theorem logEntry_jobs (s : State) (kind core ctx job : Nat) (a b : Word) : (logEntry s kind core ctx job a b).jobs = s.jobs := rfl
@[simp] theorem logEntry_reqs (s : State) (kind core ctx job : Nat) (a b : Word) : (logEntry s kind core ctx job a b).reqs = s.reqs := rfl
@[simp] theorem logEntry_copies (s : State) (kind core ctx job : Nat) (a b : Word) : (logEntry s kind core ctx job a b).copies = s.copies := rfl
@[simp] theorem logEntry_hostCopies (s : State) (kind core ctx job : Nat) (a b : Word) : (logEntry s kind core ctx job a b).hostCopies = s.hostCopies := rfl
@[simp] theorem logEntry_handovers (s : State) (kind core ctx job : Nat) (a b : Word) : (logEntry s kind core ctx job a b).handovers = s.handovers := rfl
@[simp] theorem logEntry_portB (s : State) (kind core ctx job : Nat) (a b : Word) : (logEntry s kind core ctx job a b).portB = s.portB := rfl
@[simp] theorem logEntry_routes (s : State) (kind core ctx job : Nat) (a b : Word) : (logEntry s kind core ctx job a b).routes = s.routes := rfl
@[simp] theorem logEntry_lines (s : State) (kind core ctx job : Nat) (a b : Word) : (logEntry s kind core ctx job a b).lines = s.lines := rfl
@[simp] theorem logEntry_writeQueue (s : State) (kind core ctx job : Nat) (a b : Word) : (logEntry s kind core ctx job a b).writeQueue = s.writeQueue := rfl
@[simp] theorem logEntry_messages (s : State) (kind core ctx job : Nat) (a b : Word) : (logEntry s kind core ctx job a b).messages = s.messages := rfl
@[simp] theorem logEntry_launches (s : State) (kind core ctx job : Nat) (a b : Word) : (logEntry s kind core ctx job a b).launches = s.launches := rfl
@[simp] theorem logEntry_ghosts (s : State) (kind core ctx job : Nat) (a b : Word) : (logEntry s kind core ctx job a b).ghosts = s.ghosts := rfl
@[simp] theorem logEntry_prefetches (s : State) (kind core ctx job : Nat) (a b : Word) : (logEntry s kind core ctx job a b).prefetches = s.prefetches := rfl
@[simp] theorem logEntry_updates (s : State) (kind core ctx job : Nat) (a b : Word) : (logEntry s kind core ctx job a b).updates = s.updates := rfl
@[simp] theorem logEntry_queues (s : State) (kind core ctx job : Nat) (a b : Word) : (logEntry s kind core ctx job a b).queues = s.queues := rfl
@[simp] theorem logEntry_images (s : State) (kind core ctx job : Nat) (a b : Word) : (logEntry s kind core ctx job a b).images = s.images := rfl
@[simp] theorem logEntry_nextImage (s : State) (kind core ctx job : Nat) (a b : Word) : (logEntry s kind core ctx job a b).nextImage = s.nextImage := rfl
@[simp] theorem logEntry_nextJob (s : State) (kind core ctx job : Nat) (a b : Word) : (logEntry s kind core ctx job a b).nextJob = s.nextJob := rfl
@[simp] theorem logEntry_completions (s : State) (kind core ctx job : Nat) (a b : Word) : (logEntry s kind core ctx job a b).completions = s.completions := rfl
@[simp] theorem logEntry_hostMap (s : State) (kind core ctx job : Nat) (a b : Word) : (logEntry s kind core ctx job a b).hostMap = s.hostMap := rfl
@[simp] theorem logEntry_packets (s : State) (kind core ctx job : Nat) (a b : Word) : (logEntry s kind core ctx job a b).packets = s.packets := rfl
@[simp] theorem logEntry_reads (s : State) (kind core ctx job : Nat) (a b : Word) : (logEntry s kind core ctx job a b).reads = s.reads := rfl
@[simp] theorem logEntry_answers (s : State) (kind core ctx job : Nat) (a b : Word) : (logEntry s kind core ctx job a b).answers = s.answers := rfl
@[simp] theorem logEntry_writes (s : State) (kind core ctx job : Nat) (a b : Word) : (logEntry s kind core ctx job a b).writes = s.writes := rfl
@[simp] theorem logEntry_routeSeq (s : State) (kind core ctx job : Nat) (a b : Word) : (logEntry s kind core ctx job a b).routeSeq = s.routeSeq := rfl
@[simp] theorem logEntry_columns (s : State) (kind core ctx job : Nat) (a b : Word) : (logEntry s kind core ctx job a b).columns = s.columns := rfl
@[simp] theorem logEntry_links (s : State) (kind core ctx job : Nat) (a b : Word) : (logEntry s kind core ctx job a b).links = s.links := rfl
@[simp] theorem logEntry_endToEnd (s : State) (kind core ctx job : Nat) (a b : Word) : (logEntry s kind core ctx job a b).endToEnd = s.endToEnd := rfl
@[simp] theorem logEntry_early (s : State) (kind core ctx job : Nat) (a b : Word) : (logEntry s kind core ctx job a b).early = s.early := rfl
@[simp] theorem logEntry_bulk (s : State) (kind core ctx job : Nat) (a b : Word) : (logEntry s kind core ctx job a b).bulk = s.bulk := rfl
@[simp] theorem logEntry_coming (s : State) (kind core ctx job : Nat) (a b : Word) : (logEntry s kind core ctx job a b).coming = s.coming := rfl
@[simp] theorem logEntry_inbox (s : State) (kind core ctx job : Nat) (a b : Word) : (logEntry s kind core ctx job a b).inbox = s.inbox := rfl
@[simp] theorem logEntry_parked (s : State) (kind core ctx job : Nat) (a b : Word) : (logEntry s kind core ctx job a b).parked = s.parked := rfl
@[simp] theorem logEntry_poolTrained (s : State) (kind core ctx job : Nat) (a b : Word) : (logEntry s kind core ctx job a b).poolTrained = s.poolTrained := rfl
@[simp] theorem logEntry_tolerance (s : State) (kind core ctx job : Nat) (a b : Word) : (logEntry s kind core ctx job a b).tolerance = s.tolerance := rfl
@[simp] theorem logEntry_driverFeatures (s : State) (kind core ctx job : Nat) (a b : Word) : (logEntry s kind core ctx job a b).driverFeatures = s.driverFeatures := rfl
@[simp] theorem logEntry_featuresOk (s : State) (kind core ctx job : Nat) (a b : Word) : (logEntry s kind core ctx job a b).featuresOk = s.featuresOk := rfl
@[simp] theorem logEntry_transport (s : State) (kind core ctx job : Nat) (a b : Word) : (logEntry s kind core ctx job a b).transport = s.transport := rfl
@[simp] theorem logEntry_pinRefused (s : State) (kind core ctx job : Nat) (a b : Word) : (logEntry s kind core ctx job a b).pinRefused = s.pinRefused := rfl
@[simp] theorem logEntry_generation (s : State) (kind core ctx job : Nat) (a b : Word) : (logEntry s kind core ctx job a b).generation = s.generation := rfl
@[simp] theorem logEntry_health (s : State) (kind core ctx job : Nat) (a b : Word) : (logEntry s kind core ctx job a b).health = s.health := rfl
@[simp] theorem logEntry_layersOff (s : State) (kind core ctx job : Nat) (a b : Word) : (logEntry s kind core ctx job a b).layersOff = s.layersOff := rfl
@[simp] theorem logEntry_layersGated (s : State) (kind core ctx job : Nat) (a b : Word) : (logEntry s kind core ctx job a b).layersGated = s.layersGated := rfl
@[simp] theorem logEntry_stacksAsleep (s : State) (kind core ctx job : Nat) (a b : Word) : (logEntry s kind core ctx job a b).stacksAsleep = s.stacksAsleep := rfl
@[simp] theorem logEntry_diesOff (s : State) (kind core ctx job : Nat) (a b : Word) : (logEntry s kind core ctx job a b).diesOff = s.diesOff := rfl
@[simp] theorem logEntry_idle (s : State) (kind core ctx job : Nat) (a b : Word) : (logEntry s kind core ctx job a b).idle = s.idle := rfl

/-! ## complete -/

@[simp] theorem complete_clock (s : State) (p : Pending) (status job : Nat) (l : List Byte) : (complete s p status job l).clock = s.clock := rfl
@[simp] theorem complete_agenda (s : State) (p : Pending) (status job : Nat) (l : List Byte) : (complete s p status job l).agenda = s.agenda := rfl
@[simp] theorem complete_cur (s : State) (p : Pending) (status job : Nat) (l : List Byte) : (complete s p status job l).cur = s.cur := rfl
@[simp] theorem complete_nextId (s : State) (p : Pending) (status job : Nat) (l : List Byte) : (complete s p status job l).nextId = s.nextId := rfl
@[simp] theorem complete_free (s : State) (p : Pending) (status job : Nat) (l : List Byte) : (complete s p status job l).free = s.free := rfl
@[simp] theorem complete_mem (s : State) (p : Pending) (status job : Nat) (l : List Byte) : (complete s p status job l).mem = s.mem := rfl
@[simp] theorem complete_full (s : State) (p : Pending) (status job : Nat) (l : List Byte) : (complete s p status job l).full = s.full := rfl
@[simp] theorem complete_bad (s : State) (p : Pending) (status job : Nat) (l : List Byte) : (complete s p status job l).bad = s.bad := rfl
@[simp] theorem complete_ctxs (s : State) (p : Pending) (status job : Nat) (l : List Byte) : (complete s p status job l).ctxs = s.ctxs := rfl
@[simp] theorem complete_cores (s : State) (p : Pending) (status job : Nat) (l : List Byte) : (complete s p status job l).cores = s.cores := rfl
@[simp] theorem complete_tiles (s : State) (p : Pending) (status job : Nat) (l : List Byte) : (complete s p status job l).tiles = s.tiles := rfl
@[simp] theorem complete_jobs (s : State) (p : Pending) (status job : Nat) (l : List Byte) : (complete s p status job l).jobs = s.jobs := rfl
@[simp] theorem complete_reqs (s : State) (p : Pending) (status job : Nat) (l : List Byte) : (complete s p status job l).reqs = s.reqs := rfl
@[simp] theorem complete_copies (s : State) (p : Pending) (status job : Nat) (l : List Byte) : (complete s p status job l).copies = s.copies := rfl
@[simp] theorem complete_hostCopies (s : State) (p : Pending) (status job : Nat) (l : List Byte) : (complete s p status job l).hostCopies = s.hostCopies := rfl
@[simp] theorem complete_handovers (s : State) (p : Pending) (status job : Nat) (l : List Byte) : (complete s p status job l).handovers = s.handovers := rfl
@[simp] theorem complete_portB (s : State) (p : Pending) (status job : Nat) (l : List Byte) : (complete s p status job l).portB = s.portB := rfl
@[simp] theorem complete_routes (s : State) (p : Pending) (status job : Nat) (l : List Byte) : (complete s p status job l).routes = s.routes := rfl
@[simp] theorem complete_lines (s : State) (p : Pending) (status job : Nat) (l : List Byte) : (complete s p status job l).lines = s.lines := rfl
@[simp] theorem complete_writeQueue (s : State) (p : Pending) (status job : Nat) (l : List Byte) : (complete s p status job l).writeQueue = s.writeQueue := rfl
@[simp] theorem complete_messages (s : State) (p : Pending) (status job : Nat) (l : List Byte) : (complete s p status job l).messages = s.messages := rfl
@[simp] theorem complete_launches (s : State) (p : Pending) (status job : Nat) (l : List Byte) : (complete s p status job l).launches = s.launches := rfl
@[simp] theorem complete_ghosts (s : State) (p : Pending) (status job : Nat) (l : List Byte) : (complete s p status job l).ghosts = s.ghosts := rfl
@[simp] theorem complete_prefetches (s : State) (p : Pending) (status job : Nat) (l : List Byte) : (complete s p status job l).prefetches = s.prefetches := rfl
@[simp] theorem complete_updates (s : State) (p : Pending) (status job : Nat) (l : List Byte) : (complete s p status job l).updates = s.updates := rfl
@[simp] theorem complete_queues (s : State) (p : Pending) (status job : Nat) (l : List Byte) : (complete s p status job l).queues = s.queues := rfl
@[simp] theorem complete_images (s : State) (p : Pending) (status job : Nat) (l : List Byte) : (complete s p status job l).images = s.images := rfl
@[simp] theorem complete_nextImage (s : State) (p : Pending) (status job : Nat) (l : List Byte) : (complete s p status job l).nextImage = s.nextImage := rfl
@[simp] theorem complete_nextJob (s : State) (p : Pending) (status job : Nat) (l : List Byte) : (complete s p status job l).nextJob = s.nextJob := rfl
@[simp] theorem complete_hostMap (s : State) (p : Pending) (status job : Nat) (l : List Byte) : (complete s p status job l).hostMap = s.hostMap := rfl
@[simp] theorem complete_packets (s : State) (p : Pending) (status job : Nat) (l : List Byte) : (complete s p status job l).packets = s.packets := rfl
@[simp] theorem complete_reads (s : State) (p : Pending) (status job : Nat) (l : List Byte) : (complete s p status job l).reads = s.reads := rfl
@[simp] theorem complete_answers (s : State) (p : Pending) (status job : Nat) (l : List Byte) : (complete s p status job l).answers = s.answers := rfl
@[simp] theorem complete_writes (s : State) (p : Pending) (status job : Nat) (l : List Byte) : (complete s p status job l).writes = s.writes := rfl
@[simp] theorem complete_routeSeq (s : State) (p : Pending) (status job : Nat) (l : List Byte) : (complete s p status job l).routeSeq = s.routeSeq := rfl
@[simp] theorem complete_columns (s : State) (p : Pending) (status job : Nat) (l : List Byte) : (complete s p status job l).columns = s.columns := rfl
@[simp] theorem complete_links (s : State) (p : Pending) (status job : Nat) (l : List Byte) : (complete s p status job l).links = s.links := rfl
@[simp] theorem complete_endToEnd (s : State) (p : Pending) (status job : Nat) (l : List Byte) : (complete s p status job l).endToEnd = s.endToEnd := rfl
@[simp] theorem complete_early (s : State) (p : Pending) (status job : Nat) (l : List Byte) : (complete s p status job l).early = s.early := rfl
@[simp] theorem complete_bulk (s : State) (p : Pending) (status job : Nat) (l : List Byte) : (complete s p status job l).bulk = s.bulk := rfl
@[simp] theorem complete_coming (s : State) (p : Pending) (status job : Nat) (l : List Byte) : (complete s p status job l).coming = s.coming := rfl
@[simp] theorem complete_inbox (s : State) (p : Pending) (status job : Nat) (l : List Byte) : (complete s p status job l).inbox = s.inbox := rfl
@[simp] theorem complete_parked (s : State) (p : Pending) (status job : Nat) (l : List Byte) : (complete s p status job l).parked = s.parked := rfl
@[simp] theorem complete_poolTrained (s : State) (p : Pending) (status job : Nat) (l : List Byte) : (complete s p status job l).poolTrained = s.poolTrained := rfl
@[simp] theorem complete_tolerance (s : State) (p : Pending) (status job : Nat) (l : List Byte) : (complete s p status job l).tolerance = s.tolerance := rfl
@[simp] theorem complete_driverFeatures (s : State) (p : Pending) (status job : Nat) (l : List Byte) : (complete s p status job l).driverFeatures = s.driverFeatures := rfl
@[simp] theorem complete_featuresOk (s : State) (p : Pending) (status job : Nat) (l : List Byte) : (complete s p status job l).featuresOk = s.featuresOk := rfl
@[simp] theorem complete_transport (s : State) (p : Pending) (status job : Nat) (l : List Byte) : (complete s p status job l).transport = s.transport := rfl
@[simp] theorem complete_pinRefused (s : State) (p : Pending) (status job : Nat) (l : List Byte) : (complete s p status job l).pinRefused = s.pinRefused := rfl
@[simp] theorem complete_generation (s : State) (p : Pending) (status job : Nat) (l : List Byte) : (complete s p status job l).generation = s.generation := rfl
@[simp] theorem complete_health (s : State) (p : Pending) (status job : Nat) (l : List Byte) : (complete s p status job l).health = s.health := rfl
@[simp] theorem complete_layersOff (s : State) (p : Pending) (status job : Nat) (l : List Byte) : (complete s p status job l).layersOff = s.layersOff := rfl
@[simp] theorem complete_layersGated (s : State) (p : Pending) (status job : Nat) (l : List Byte) : (complete s p status job l).layersGated = s.layersGated := rfl
@[simp] theorem complete_stacksAsleep (s : State) (p : Pending) (status job : Nat) (l : List Byte) : (complete s p status job l).stacksAsleep = s.stacksAsleep := rfl
@[simp] theorem complete_diesOff (s : State) (p : Pending) (status job : Nat) (l : List Byte) : (complete s p status job l).diesOff = s.diesOff := rfl
@[simp] theorem complete_idle (s : State) (p : Pending) (status job : Nat) (l : List Byte) : (complete s p status job l).idle = s.idle := rfl
@[simp] theorem complete_log (s : State) (p : Pending) (status job : Nat) (l : List Byte) : (complete s p status job l).log = s.log := rfl

/-! ## physWrite -/

@[simp] theorem physWrite_clock (s : State) (pa n v : Nat) : (physWrite s pa n v).clock = s.clock := rfl
@[simp] theorem physWrite_agenda (s : State) (pa n v : Nat) : (physWrite s pa n v).agenda = s.agenda := rfl
@[simp] theorem physWrite_cur (s : State) (pa n v : Nat) : (physWrite s pa n v).cur = s.cur := rfl
@[simp] theorem physWrite_nextId (s : State) (pa n v : Nat) : (physWrite s pa n v).nextId = s.nextId := rfl
@[simp] theorem physWrite_free (s : State) (pa n v : Nat) : (physWrite s pa n v).free = s.free := rfl
@[simp] theorem physWrite_full (s : State) (pa n v : Nat) : (physWrite s pa n v).full = s.full := rfl
@[simp] theorem physWrite_ctxs (s : State) (pa n v : Nat) : (physWrite s pa n v).ctxs = s.ctxs := rfl
@[simp] theorem physWrite_cores (s : State) (pa n v : Nat) : (physWrite s pa n v).cores = s.cores := rfl
@[simp] theorem physWrite_tiles (s : State) (pa n v : Nat) : (physWrite s pa n v).tiles = s.tiles := rfl
@[simp] theorem physWrite_jobs (s : State) (pa n v : Nat) : (physWrite s pa n v).jobs = s.jobs := rfl
@[simp] theorem physWrite_reqs (s : State) (pa n v : Nat) : (physWrite s pa n v).reqs = s.reqs := rfl
@[simp] theorem physWrite_copies (s : State) (pa n v : Nat) : (physWrite s pa n v).copies = s.copies := rfl
@[simp] theorem physWrite_hostCopies (s : State) (pa n v : Nat) : (physWrite s pa n v).hostCopies = s.hostCopies := rfl
@[simp] theorem physWrite_handovers (s : State) (pa n v : Nat) : (physWrite s pa n v).handovers = s.handovers := rfl
@[simp] theorem physWrite_portB (s : State) (pa n v : Nat) : (physWrite s pa n v).portB = s.portB := rfl
@[simp] theorem physWrite_routes (s : State) (pa n v : Nat) : (physWrite s pa n v).routes = s.routes := rfl
@[simp] theorem physWrite_lines (s : State) (pa n v : Nat) : (physWrite s pa n v).lines = s.lines := rfl
@[simp] theorem physWrite_writeQueue (s : State) (pa n v : Nat) : (physWrite s pa n v).writeQueue = s.writeQueue := rfl
@[simp] theorem physWrite_messages (s : State) (pa n v : Nat) : (physWrite s pa n v).messages = s.messages := rfl
@[simp] theorem physWrite_launches (s : State) (pa n v : Nat) : (physWrite s pa n v).launches = s.launches := rfl
@[simp] theorem physWrite_ghosts (s : State) (pa n v : Nat) : (physWrite s pa n v).ghosts = s.ghosts := rfl
@[simp] theorem physWrite_prefetches (s : State) (pa n v : Nat) : (physWrite s pa n v).prefetches = s.prefetches := rfl
@[simp] theorem physWrite_updates (s : State) (pa n v : Nat) : (physWrite s pa n v).updates = s.updates := rfl
@[simp] theorem physWrite_queues (s : State) (pa n v : Nat) : (physWrite s pa n v).queues = s.queues := rfl
@[simp] theorem physWrite_images (s : State) (pa n v : Nat) : (physWrite s pa n v).images = s.images := rfl
@[simp] theorem physWrite_nextImage (s : State) (pa n v : Nat) : (physWrite s pa n v).nextImage = s.nextImage := rfl
@[simp] theorem physWrite_nextJob (s : State) (pa n v : Nat) : (physWrite s pa n v).nextJob = s.nextJob := rfl
@[simp] theorem physWrite_completions (s : State) (pa n v : Nat) : (physWrite s pa n v).completions = s.completions := rfl
@[simp] theorem physWrite_hostMap (s : State) (pa n v : Nat) : (physWrite s pa n v).hostMap = s.hostMap := rfl
@[simp] theorem physWrite_packets (s : State) (pa n v : Nat) : (physWrite s pa n v).packets = s.packets := rfl
@[simp] theorem physWrite_reads (s : State) (pa n v : Nat) : (physWrite s pa n v).reads = s.reads := rfl
@[simp] theorem physWrite_answers (s : State) (pa n v : Nat) : (physWrite s pa n v).answers = s.answers := rfl
@[simp] theorem physWrite_writes (s : State) (pa n v : Nat) : (physWrite s pa n v).writes = s.writes := rfl
@[simp] theorem physWrite_routeSeq (s : State) (pa n v : Nat) : (physWrite s pa n v).routeSeq = s.routeSeq := rfl
@[simp] theorem physWrite_columns (s : State) (pa n v : Nat) : (physWrite s pa n v).columns = s.columns := rfl
@[simp] theorem physWrite_links (s : State) (pa n v : Nat) : (physWrite s pa n v).links = s.links := rfl
@[simp] theorem physWrite_endToEnd (s : State) (pa n v : Nat) : (physWrite s pa n v).endToEnd = s.endToEnd := rfl
@[simp] theorem physWrite_early (s : State) (pa n v : Nat) : (physWrite s pa n v).early = s.early := rfl
@[simp] theorem physWrite_bulk (s : State) (pa n v : Nat) : (physWrite s pa n v).bulk = s.bulk := rfl
@[simp] theorem physWrite_coming (s : State) (pa n v : Nat) : (physWrite s pa n v).coming = s.coming := rfl
@[simp] theorem physWrite_inbox (s : State) (pa n v : Nat) : (physWrite s pa n v).inbox = s.inbox := rfl
@[simp] theorem physWrite_parked (s : State) (pa n v : Nat) : (physWrite s pa n v).parked = s.parked := rfl
@[simp] theorem physWrite_poolTrained (s : State) (pa n v : Nat) : (physWrite s pa n v).poolTrained = s.poolTrained := rfl
@[simp] theorem physWrite_tolerance (s : State) (pa n v : Nat) : (physWrite s pa n v).tolerance = s.tolerance := rfl
@[simp] theorem physWrite_driverFeatures (s : State) (pa n v : Nat) : (physWrite s pa n v).driverFeatures = s.driverFeatures := rfl
@[simp] theorem physWrite_featuresOk (s : State) (pa n v : Nat) : (physWrite s pa n v).featuresOk = s.featuresOk := rfl
@[simp] theorem physWrite_transport (s : State) (pa n v : Nat) : (physWrite s pa n v).transport = s.transport := rfl
@[simp] theorem physWrite_pinRefused (s : State) (pa n v : Nat) : (physWrite s pa n v).pinRefused = s.pinRefused := rfl
@[simp] theorem physWrite_generation (s : State) (pa n v : Nat) : (physWrite s pa n v).generation = s.generation := rfl
@[simp] theorem physWrite_health (s : State) (pa n v : Nat) : (physWrite s pa n v).health = s.health := rfl
@[simp] theorem physWrite_layersOff (s : State) (pa n v : Nat) : (physWrite s pa n v).layersOff = s.layersOff := rfl
@[simp] theorem physWrite_layersGated (s : State) (pa n v : Nat) : (physWrite s pa n v).layersGated = s.layersGated := rfl
@[simp] theorem physWrite_stacksAsleep (s : State) (pa n v : Nat) : (physWrite s pa n v).stacksAsleep = s.stacksAsleep := rfl
@[simp] theorem physWrite_diesOff (s : State) (pa n v : Nat) : (physWrite s pa n v).diesOff = s.diesOff := rfl
@[simp] theorem physWrite_idle (s : State) (pa n v : Nat) : (physWrite s pa n v).idle = s.idle := rfl
@[simp] theorem physWrite_log (s : State) (pa n v : Nat) : (physWrite s pa n v).log = s.log := rfl

/-! ## markFull -/

@[simp] theorem markFull_clock (s : State) (pa n : Nat) : (markFull s pa n).clock = s.clock := by unfold markFull; split <;> rfl
@[simp] theorem markFull_agenda (s : State) (pa n : Nat) : (markFull s pa n).agenda = s.agenda := by unfold markFull; split <;> rfl
@[simp] theorem markFull_cur (s : State) (pa n : Nat) : (markFull s pa n).cur = s.cur := by unfold markFull; split <;> rfl
@[simp] theorem markFull_nextId (s : State) (pa n : Nat) : (markFull s pa n).nextId = s.nextId := by unfold markFull; split <;> rfl
@[simp] theorem markFull_free (s : State) (pa n : Nat) : (markFull s pa n).free = s.free := by unfold markFull; split <;> rfl
@[simp] theorem markFull_mem (s : State) (pa n : Nat) : (markFull s pa n).mem = s.mem := by unfold markFull; split <;> rfl
@[simp] theorem markFull_bad (s : State) (pa n : Nat) : (markFull s pa n).bad = s.bad := by unfold markFull; split <;> rfl
@[simp] theorem markFull_ctxs (s : State) (pa n : Nat) : (markFull s pa n).ctxs = s.ctxs := by unfold markFull; split <;> rfl
@[simp] theorem markFull_cores (s : State) (pa n : Nat) : (markFull s pa n).cores = s.cores := by unfold markFull; split <;> rfl
@[simp] theorem markFull_tiles (s : State) (pa n : Nat) : (markFull s pa n).tiles = s.tiles := by unfold markFull; split <;> rfl
@[simp] theorem markFull_jobs (s : State) (pa n : Nat) : (markFull s pa n).jobs = s.jobs := by unfold markFull; split <;> rfl
@[simp] theorem markFull_reqs (s : State) (pa n : Nat) : (markFull s pa n).reqs = s.reqs := by unfold markFull; split <;> rfl
@[simp] theorem markFull_copies (s : State) (pa n : Nat) : (markFull s pa n).copies = s.copies := by unfold markFull; split <;> rfl
@[simp] theorem markFull_hostCopies (s : State) (pa n : Nat) : (markFull s pa n).hostCopies = s.hostCopies := by unfold markFull; split <;> rfl
@[simp] theorem markFull_handovers (s : State) (pa n : Nat) : (markFull s pa n).handovers = s.handovers := by unfold markFull; split <;> rfl
@[simp] theorem markFull_portB (s : State) (pa n : Nat) : (markFull s pa n).portB = s.portB := by unfold markFull; split <;> rfl
@[simp] theorem markFull_routes (s : State) (pa n : Nat) : (markFull s pa n).routes = s.routes := by unfold markFull; split <;> rfl
@[simp] theorem markFull_lines (s : State) (pa n : Nat) : (markFull s pa n).lines = s.lines := by unfold markFull; split <;> rfl
@[simp] theorem markFull_writeQueue (s : State) (pa n : Nat) : (markFull s pa n).writeQueue = s.writeQueue := by unfold markFull; split <;> rfl
@[simp] theorem markFull_messages (s : State) (pa n : Nat) : (markFull s pa n).messages = s.messages := by unfold markFull; split <;> rfl
@[simp] theorem markFull_launches (s : State) (pa n : Nat) : (markFull s pa n).launches = s.launches := by unfold markFull; split <;> rfl
@[simp] theorem markFull_ghosts (s : State) (pa n : Nat) : (markFull s pa n).ghosts = s.ghosts := by unfold markFull; split <;> rfl
@[simp] theorem markFull_prefetches (s : State) (pa n : Nat) : (markFull s pa n).prefetches = s.prefetches := by unfold markFull; split <;> rfl
@[simp] theorem markFull_updates (s : State) (pa n : Nat) : (markFull s pa n).updates = s.updates := by unfold markFull; split <;> rfl
@[simp] theorem markFull_queues (s : State) (pa n : Nat) : (markFull s pa n).queues = s.queues := by unfold markFull; split <;> rfl
@[simp] theorem markFull_images (s : State) (pa n : Nat) : (markFull s pa n).images = s.images := by unfold markFull; split <;> rfl
@[simp] theorem markFull_nextImage (s : State) (pa n : Nat) : (markFull s pa n).nextImage = s.nextImage := by unfold markFull; split <;> rfl
@[simp] theorem markFull_nextJob (s : State) (pa n : Nat) : (markFull s pa n).nextJob = s.nextJob := by unfold markFull; split <;> rfl
@[simp] theorem markFull_completions (s : State) (pa n : Nat) : (markFull s pa n).completions = s.completions := by unfold markFull; split <;> rfl
@[simp] theorem markFull_hostMap (s : State) (pa n : Nat) : (markFull s pa n).hostMap = s.hostMap := by unfold markFull; split <;> rfl
@[simp] theorem markFull_packets (s : State) (pa n : Nat) : (markFull s pa n).packets = s.packets := by unfold markFull; split <;> rfl
@[simp] theorem markFull_reads (s : State) (pa n : Nat) : (markFull s pa n).reads = s.reads := by unfold markFull; split <;> rfl
@[simp] theorem markFull_answers (s : State) (pa n : Nat) : (markFull s pa n).answers = s.answers := by unfold markFull; split <;> rfl
@[simp] theorem markFull_writes (s : State) (pa n : Nat) : (markFull s pa n).writes = s.writes := by unfold markFull; split <;> rfl
@[simp] theorem markFull_routeSeq (s : State) (pa n : Nat) : (markFull s pa n).routeSeq = s.routeSeq := by unfold markFull; split <;> rfl
@[simp] theorem markFull_columns (s : State) (pa n : Nat) : (markFull s pa n).columns = s.columns := by unfold markFull; split <;> rfl
@[simp] theorem markFull_links (s : State) (pa n : Nat) : (markFull s pa n).links = s.links := by unfold markFull; split <;> rfl
@[simp] theorem markFull_endToEnd (s : State) (pa n : Nat) : (markFull s pa n).endToEnd = s.endToEnd := by unfold markFull; split <;> rfl
@[simp] theorem markFull_early (s : State) (pa n : Nat) : (markFull s pa n).early = s.early := by unfold markFull; split <;> rfl
@[simp] theorem markFull_bulk (s : State) (pa n : Nat) : (markFull s pa n).bulk = s.bulk := by unfold markFull; split <;> rfl
@[simp] theorem markFull_coming (s : State) (pa n : Nat) : (markFull s pa n).coming = s.coming := by unfold markFull; split <;> rfl
@[simp] theorem markFull_inbox (s : State) (pa n : Nat) : (markFull s pa n).inbox = s.inbox := by unfold markFull; split <;> rfl
@[simp] theorem markFull_parked (s : State) (pa n : Nat) : (markFull s pa n).parked = s.parked := by unfold markFull; split <;> rfl
@[simp] theorem markFull_poolTrained (s : State) (pa n : Nat) : (markFull s pa n).poolTrained = s.poolTrained := by unfold markFull; split <;> rfl
@[simp] theorem markFull_tolerance (s : State) (pa n : Nat) : (markFull s pa n).tolerance = s.tolerance := by unfold markFull; split <;> rfl
@[simp] theorem markFull_driverFeatures (s : State) (pa n : Nat) : (markFull s pa n).driverFeatures = s.driverFeatures := by unfold markFull; split <;> rfl
@[simp] theorem markFull_featuresOk (s : State) (pa n : Nat) : (markFull s pa n).featuresOk = s.featuresOk := by unfold markFull; split <;> rfl
@[simp] theorem markFull_transport (s : State) (pa n : Nat) : (markFull s pa n).transport = s.transport := by unfold markFull; split <;> rfl
@[simp] theorem markFull_pinRefused (s : State) (pa n : Nat) : (markFull s pa n).pinRefused = s.pinRefused := by unfold markFull; split <;> rfl
@[simp] theorem markFull_generation (s : State) (pa n : Nat) : (markFull s pa n).generation = s.generation := by unfold markFull; split <;> rfl
@[simp] theorem markFull_health (s : State) (pa n : Nat) : (markFull s pa n).health = s.health := by unfold markFull; split <;> rfl
@[simp] theorem markFull_layersOff (s : State) (pa n : Nat) : (markFull s pa n).layersOff = s.layersOff := by unfold markFull; split <;> rfl
@[simp] theorem markFull_layersGated (s : State) (pa n : Nat) : (markFull s pa n).layersGated = s.layersGated := by unfold markFull; split <;> rfl
@[simp] theorem markFull_stacksAsleep (s : State) (pa n : Nat) : (markFull s pa n).stacksAsleep = s.stacksAsleep := by unfold markFull; split <;> rfl
@[simp] theorem markFull_diesOff (s : State) (pa n : Nat) : (markFull s pa n).diesOff = s.diesOff := by unfold markFull; split <;> rfl
@[simp] theorem markFull_idle (s : State) (pa n : Nat) : (markFull s pa n).idle = s.idle := by unfold markFull; split <;> rfl
@[simp] theorem markFull_log (s : State) (pa n : Nat) : (markFull s pa n).log = s.log := by unfold markFull; split <;> rfl

/-! ## configChanged -/

@[simp] theorem configChanged_clock (s : State) (h : Health) : (configChanged s h).clock = s.clock := by unfold configChanged; split <;> rfl
@[simp] theorem configChanged_agenda (s : State) (h : Health) : (configChanged s h).agenda = s.agenda := by unfold configChanged; split <;> rfl
@[simp] theorem configChanged_cur (s : State) (h : Health) : (configChanged s h).cur = s.cur := by unfold configChanged; split <;> rfl
@[simp] theorem configChanged_nextId (s : State) (h : Health) : (configChanged s h).nextId = s.nextId := by unfold configChanged; split <;> rfl
@[simp] theorem configChanged_free (s : State) (h : Health) : (configChanged s h).free = s.free := by unfold configChanged; split <;> rfl
@[simp] theorem configChanged_mem (s : State) (h : Health) : (configChanged s h).mem = s.mem := by unfold configChanged; split <;> rfl
@[simp] theorem configChanged_full (s : State) (h : Health) : (configChanged s h).full = s.full := by unfold configChanged; split <;> rfl
@[simp] theorem configChanged_bad (s : State) (h : Health) : (configChanged s h).bad = s.bad := by unfold configChanged; split <;> rfl
@[simp] theorem configChanged_ctxs (s : State) (h : Health) : (configChanged s h).ctxs = s.ctxs := by unfold configChanged; split <;> rfl
@[simp] theorem configChanged_cores (s : State) (h : Health) : (configChanged s h).cores = s.cores := by unfold configChanged; split <;> rfl
@[simp] theorem configChanged_tiles (s : State) (h : Health) : (configChanged s h).tiles = s.tiles := by unfold configChanged; split <;> rfl
@[simp] theorem configChanged_jobs (s : State) (h : Health) : (configChanged s h).jobs = s.jobs := by unfold configChanged; split <;> rfl
@[simp] theorem configChanged_reqs (s : State) (h : Health) : (configChanged s h).reqs = s.reqs := by unfold configChanged; split <;> rfl
@[simp] theorem configChanged_copies (s : State) (h : Health) : (configChanged s h).copies = s.copies := by unfold configChanged; split <;> rfl
@[simp] theorem configChanged_hostCopies (s : State) (h : Health) : (configChanged s h).hostCopies = s.hostCopies := by unfold configChanged; split <;> rfl
@[simp] theorem configChanged_handovers (s : State) (h : Health) : (configChanged s h).handovers = s.handovers := by unfold configChanged; split <;> rfl
@[simp] theorem configChanged_portB (s : State) (h : Health) : (configChanged s h).portB = s.portB := by unfold configChanged; split <;> rfl
@[simp] theorem configChanged_routes (s : State) (h : Health) : (configChanged s h).routes = s.routes := by unfold configChanged; split <;> rfl
@[simp] theorem configChanged_lines (s : State) (h : Health) : (configChanged s h).lines = s.lines := by unfold configChanged; split <;> rfl
@[simp] theorem configChanged_writeQueue (s : State) (h : Health) : (configChanged s h).writeQueue = s.writeQueue := by unfold configChanged; split <;> rfl
@[simp] theorem configChanged_messages (s : State) (h : Health) : (configChanged s h).messages = s.messages := by unfold configChanged; split <;> rfl
@[simp] theorem configChanged_launches (s : State) (h : Health) : (configChanged s h).launches = s.launches := by unfold configChanged; split <;> rfl
@[simp] theorem configChanged_ghosts (s : State) (h : Health) : (configChanged s h).ghosts = s.ghosts := by unfold configChanged; split <;> rfl
@[simp] theorem configChanged_prefetches (s : State) (h : Health) : (configChanged s h).prefetches = s.prefetches := by unfold configChanged; split <;> rfl
@[simp] theorem configChanged_updates (s : State) (h : Health) : (configChanged s h).updates = s.updates := by unfold configChanged; split <;> rfl
@[simp] theorem configChanged_queues (s : State) (h : Health) : (configChanged s h).queues = s.queues := by unfold configChanged; split <;> rfl
@[simp] theorem configChanged_images (s : State) (h : Health) : (configChanged s h).images = s.images := by unfold configChanged; split <;> rfl
@[simp] theorem configChanged_nextImage (s : State) (h : Health) : (configChanged s h).nextImage = s.nextImage := by unfold configChanged; split <;> rfl
@[simp] theorem configChanged_nextJob (s : State) (h : Health) : (configChanged s h).nextJob = s.nextJob := by unfold configChanged; split <;> rfl
@[simp] theorem configChanged_completions (s : State) (h : Health) : (configChanged s h).completions = s.completions := by unfold configChanged; split <;> rfl
@[simp] theorem configChanged_hostMap (s : State) (h : Health) : (configChanged s h).hostMap = s.hostMap := by unfold configChanged; split <;> rfl
@[simp] theorem configChanged_packets (s : State) (h : Health) : (configChanged s h).packets = s.packets := by unfold configChanged; split <;> rfl
@[simp] theorem configChanged_reads (s : State) (h : Health) : (configChanged s h).reads = s.reads := by unfold configChanged; split <;> rfl
@[simp] theorem configChanged_answers (s : State) (h : Health) : (configChanged s h).answers = s.answers := by unfold configChanged; split <;> rfl
@[simp] theorem configChanged_writes (s : State) (h : Health) : (configChanged s h).writes = s.writes := by unfold configChanged; split <;> rfl
@[simp] theorem configChanged_routeSeq (s : State) (h : Health) : (configChanged s h).routeSeq = s.routeSeq := by unfold configChanged; split <;> rfl
@[simp] theorem configChanged_columns (s : State) (h : Health) : (configChanged s h).columns = s.columns := by unfold configChanged; split <;> rfl
@[simp] theorem configChanged_links (s : State) (h : Health) : (configChanged s h).links = s.links := by unfold configChanged; split <;> rfl
@[simp] theorem configChanged_endToEnd (s : State) (h : Health) : (configChanged s h).endToEnd = s.endToEnd := by unfold configChanged; split <;> rfl
@[simp] theorem configChanged_early (s : State) (h : Health) : (configChanged s h).early = s.early := by unfold configChanged; split <;> rfl
@[simp] theorem configChanged_bulk (s : State) (h : Health) : (configChanged s h).bulk = s.bulk := by unfold configChanged; split <;> rfl
@[simp] theorem configChanged_coming (s : State) (h : Health) : (configChanged s h).coming = s.coming := by unfold configChanged; split <;> rfl
@[simp] theorem configChanged_inbox (s : State) (h : Health) : (configChanged s h).inbox = s.inbox := by unfold configChanged; split <;> rfl
@[simp] theorem configChanged_parked (s : State) (h : Health) : (configChanged s h).parked = s.parked := by unfold configChanged; split <;> rfl
@[simp] theorem configChanged_poolTrained (s : State) (h : Health) : (configChanged s h).poolTrained = s.poolTrained := by unfold configChanged; split <;> rfl
@[simp] theorem configChanged_tolerance (s : State) (h : Health) : (configChanged s h).tolerance = s.tolerance := by unfold configChanged; split <;> rfl
@[simp] theorem configChanged_driverFeatures (s : State) (h : Health) : (configChanged s h).driverFeatures = s.driverFeatures := by unfold configChanged; split <;> rfl
@[simp] theorem configChanged_featuresOk (s : State) (h : Health) : (configChanged s h).featuresOk = s.featuresOk := by unfold configChanged; split <;> rfl
@[simp] theorem configChanged_transport (s : State) (h : Health) : (configChanged s h).transport = s.transport := by unfold configChanged; split <;> rfl
@[simp] theorem configChanged_pinRefused (s : State) (h : Health) : (configChanged s h).pinRefused = s.pinRefused := by unfold configChanged; split <;> rfl
@[simp] theorem configChanged_layersOff (s : State) (h : Health) : (configChanged s h).layersOff = s.layersOff := by unfold configChanged; split <;> rfl
@[simp] theorem configChanged_layersGated (s : State) (h : Health) : (configChanged s h).layersGated = s.layersGated := by unfold configChanged; split <;> rfl
@[simp] theorem configChanged_stacksAsleep (s : State) (h : Health) : (configChanged s h).stacksAsleep = s.stacksAsleep := by unfold configChanged; split <;> rfl
@[simp] theorem configChanged_diesOff (s : State) (h : Health) : (configChanged s h).diesOff = s.diesOff := by unfold configChanged; split <;> rfl
@[simp] theorem configChanged_idle (s : State) (h : Health) : (configChanged s h).idle = s.idle := by unfold configChanged; split <;> rfl
@[simp] theorem configChanged_log (s : State) (h : Health) : (configChanged s h).log = s.log := by unfold configChanged; split <;> rfl


/-! ## What the changed field holds -/

@[simp] theorem fresh_nextId (s : State) : (fresh s).nextId = s.nextId + 1 := rfl
@[simp] theorem openUsed_free (s : State) : (openUsed s).free = s.free + 1 := rfl
@[simp] theorem passClocks_clock (s : State) (n : Nat) : (passClocks s n).clock = s.clock + n := rfl
@[simp] theorem physWrite_mem (s : State) (pa n v : Nat) : (physWrite s pa n v).mem = writeLE s.mem pa n v := rfl
@[simp] theorem physWrite_bad (s : State) (pa n v : Nat) : (physWrite s pa n v).bad = healed s.bad pa n := rfl

/-! ## Accessors after an update -/

@[simp] theorem ctxAt_setCtx_same (s : State) (k : Nat) (c : Ctx) : ctxAt (setCtx s k c) k = c := look_put_same ..
theorem ctxAt_setCtx_ne (s : State) (c : Ctx) {k q : Nat} (h : q ≠ k) : ctxAt (setCtx s k c) q = ctxAt s q := look_put_ne _ _ _ h
@[simp] theorem ctxAt_onCtx_same (s : State) (k : Nat) (f : Ctx → Ctx) : ctxAt (onCtx s k f) k = f (ctxAt s k) := look_put_same ..
theorem ctxAt_onCtx_ne (s : State) (f : Ctx → Ctx) {k q : Nat} (h : q ≠ k) : ctxAt (onCtx s k f) q = ctxAt s q := look_put_ne _ _ _ h
@[simp] theorem coreAt_setCore_same (s : State) (n : Nat) (c : Core) : coreAt (setCore s n c) n = c := look_put_same ..
theorem coreAt_setCore_ne (s : State) (c : Core) {n m : Nat} (h : m ≠ n) : coreAt (setCore s n c) m = coreAt s m := look_put_ne _ _ _ h
@[simp] theorem coreAt_onCore_same (s : State) (n : Nat) (f : Core → Core) : coreAt (onCore s n f) n = f (coreAt s n) := look_put_same ..
theorem coreAt_onCore_ne (s : State) (f : Core → Core) {n m : Nat} (h : m ≠ n) : coreAt (onCore s n f) m = coreAt s m := look_put_ne _ _ _ h
@[simp] theorem tileAt_setTile_same (s : State) (n t : Nat) (a : Tile) : tileAt (setTile s n t a) n t = a := look_put_same ..
@[simp] theorem coreAt_setCtx (s : State) (k n : Nat) (c : Ctx) : coreAt (setCtx s k c) n = coreAt s n := rfl
@[simp] theorem coreAt_onCtx (s : State) (k n : Nat) (f : Ctx → Ctx) : coreAt (onCtx s k f) n = coreAt s n := rfl
@[simp] theorem ctxAt_setCore (s : State) (n k : Nat) (c : Core) : ctxAt (setCore s n c) k = ctxAt s k := rfl
@[simp] theorem ctxAt_onCore (s : State) (n k : Nat) (f : Core → Core) : ctxAt (onCore s n f) k = ctxAt s k := rfl
@[simp] theorem ctxAt_setReq (s : State) (r : Req) (k : Nat) : ctxAt (setReq s r) k = ctxAt s k := rfl
@[simp] theorem ctxAt_setJob (s : State) (j : Job) (k : Nat) : ctxAt (setJob s j) k = ctxAt s k := rfl
@[simp] theorem coreAt_setReq (s : State) (r : Req) (n : Nat) : coreAt (setReq s r) n = coreAt s n := rfl
@[simp] theorem coreAt_setJob (s : State) (j : Job) (n : Nat) : coreAt (setJob s j) n = coreAt s n := rfl

end Sys2Proof.Machine
end

