-- ==== Sys2Proof/Laws/Operate.lean ====
section
/-! SUPPORT. What the shared shape of a slot operation does: `operate` always answers a next state; where the operation
issues, that of its effect, with what `afterOp` adds. And what sending a result, a request or a store adds to the state, and what a
withdrawal takes from it. -/

namespace Sys2Proof.Machine

/-! ## operate -/

/-- A slot operation never stops. -/
theorem operate_next (i : Instr) (p : Tag) (s : State) (e : State → State) : ∃ t, operate i p s e = .next t := by
  unfold operate
  split
  · exact ⟨_, rfl⟩
  · split
    · exact ⟨_, rfl⟩
    · split <;> exact ⟨_, rfl⟩

/-- Where it issues, it answers its effect. -/
theorem operate_issues {i : Instr} {p : Tag} {s : State} (h : Issues i p s) (e : State → State) :
    operate i p s e = .next (afterOp i s (e s)) := by
  obtain ⟨h1, h2⟩ := h
  unfold operate
  rw [h1]
  rcases h2 with h2 | h2
  · simp [h2]
  · by_cases hc : s.cur.checked = true
    · simp [hc]
    · simp [hc, h2]

/-- An operation that its path tag does not execute changes nothing. -/
theorem operate_skipped {i : Instr} {p : Tag} {s : State} (h : executes s.cur.taken p = false) (e : State → State) :
    operate i p s e = .next s := by simp [operate, h]

/-! ## afterOp: a commit mark, and the head vectors taken -/

/-- `afterOp` changes the commit mark of the issuing context and the list of streams read, and nothing else. -/
theorem afterOp_eq (i : Instr) (s t : State) :
    ∃ pops, afterOp i s t =
      { (if commits s s.cur.key i then onCtx t s.cur.key fun c => { c with committed := true } else t) with
        cur := { t.cur with pops := t.cur.pops ++ pops } } := by
  unfold afterOp
  dsimp only
  generalize commits s s.cur.key i = b
  cases b <;> simp only [if_true, if_false, Bool.false_eq_true] <;> split
  · exact ⟨[], by simp⟩
  · exact ⟨_, rfl⟩
  · exact ⟨[], by simp [onCtx, setCtx]⟩
  · exact ⟨_, rfl⟩

theorem afterOp_ctx (i : Instr) (s t : State) :
    ctxAt (afterOp i s t) s.cur.key =
      { ctxAt t s.cur.key with committed := (ctxAt t s.cur.key).committed || commits s s.cur.key i } := by
  obtain ⟨pops, h⟩ := afterOp_eq i s t
  rw [h]
  cases hc : commits s s.cur.key i
  · simp [ctxAt]
  · simp [ctxAt, onCtx, setCtx]

theorem afterOp_other (i : Instr) (s t : State) {q : Nat} (hq : q ≠ s.cur.key) : ctxAt (afterOp i s t) q = ctxAt t q := by
  obtain ⟨pops, h⟩ := afterOp_eq i s t
  rw [h]
  cases hc : commits s s.cur.key i
  · rfl
  · exact look_put_ne _ _ _ hq

/-- What `afterOp` leaves of the state it is given. -/
theorem afterOp_rest (i : Instr) (s t : State) :
    (afterOp i s t).mem = t.mem ∧ (afterOp i s t).full = t.full ∧ (afterOp i s t).bad = t.bad ∧
    (afterOp i s t).reqs = t.reqs ∧ (afterOp i s t).jobs = t.jobs ∧ (afterOp i s t).copies = t.copies ∧
    (afterOp i s t).handovers = t.handovers ∧ (afterOp i s t).cores = t.cores ∧ (afterOp i s t).tiles = t.tiles := by
  obtain ⟨pops, h⟩ := afterOp_eq i s t
  rw [h]
  cases commits s s.cur.key i <;> exact ⟨rfl, rfl, rfl, rfl, rfl, rfl, rfl, rfl, rfl⟩

theorem afterOp_work (i : Instr) (s : State) {u t : State} (h : WorkKept u t) : WorkKept u (afterOp i s t) := by
  obtain ⟨pops, e⟩ := afterOp_eq i s t
  rw [e]
  cases commits s s.cur.key i <;> exact h

theorem afterOp_part (i : Instr) (s : State) {u t : State} (h : PartKept u t) : PartKept u (afterOp i s t) := by
  obtain ⟨pops, e⟩ := afterOp_eq i s t
  rw [e]
  cases commits s s.cur.key i <;> exact h

theorem afterOp_cores (i : Instr) (s : State) {u t : State} (h : CoresKept u t) : CoresKept u (afterOp i s t) := by
  obtain ⟨pops, e⟩ := afterOp_eq i s t
  rw [e]
  cases commits s s.cur.key i <;> exact h

theorem afterOp_memory (i : Instr) (s : State) {u t : State} (h : MemoryKept u t) : MemoryKept u (afterOp i s t) := by
  obtain ⟨pops, e⟩ := afterOp_eq i s t
  rw [e]
  cases commits s s.cur.key i <;> exact h

theorem afterOp_others (i : Instr) (s : State) {t : State} (h : OthersKept s t s.cur.key) :
    OthersKept s (afterOp i s t) s.cur.key := fun q hq => (afterOp_other i s t hq).trans (h q hq)

theorem afterOp_onlyContext (i : Instr) (s : State) {t : State} (h : OnlyContext s t s.cur.key) :
    OnlyContext s (afterOp i s t) s.cur.key :=
  ⟨afterOp_others i s h.1, afterOp_memory i s h.2.1, afterOp_cores i s h.2.2.1, afterOp_work i s h.2.2.2.1, afterOp_part i s h.2.2.2.2⟩

theorem onlyContext_refl (s : State) (k : Nat) : OnlyContext s s k :=
  ⟨fun _ _ => rfl, ⟨fun _ => rfl, rfl, rfl⟩, ⟨fun _ => rfl, fun _ _ => rfl⟩, ⟨rfl, rfl, rfl, rfl, rfl, rfl, rfl, rfl, rfl⟩,
   ⟨rfl, rfl, rfl, rfl, rfl, rfl, rfl, rfl, rfl, rfl, rfl⟩⟩

/-! ## Results -/

/-- A result sent changes its context's flights alone. -/
theorem result_onlyContext (s : State) (dest : Item) (lat : Nat) (v m : VWord) (df : Bool) (fl : BitVec 6) :
    OnlyContext s (result s dest lat v m df fl) s.cur.key :=
  ⟨fun _ hq => look_put_ne _ _ _ hq, ⟨fun _ => rfl, rfl, rfl⟩, ⟨fun _ => rfl, fun _ _ => rfl⟩,
   ⟨rfl, rfl, rfl, rfl, rfl, rfl, rfl, rfl, rfl⟩, ⟨rfl, rfl, rfl, rfl, rfl, rfl, rfl, rfl, rfl, rfl, rfl⟩⟩

theorem result_ctx (s : State) (dest : Item) (lat : Nat) (v m : VWord) (df : Bool) (fl : BitVec 6) :
    ctxAt (result s dest lat v m df fl) s.cur.key = { ctxAt s s.cur.key with
      flights := (ctxAt s s.cur.key).flights ++ [⟨dest, v, m, df, fl, (ctxAt s s.cur.key).ccyc + 1 + lat, s.nextId⟩] } :=
  look_put_same ..

/-- Where an operation's effect is to send a result, its next state is as `Sends` says. -/
theorem sends_result (i : Instr) (s : State) (dest : Item) (lat : Nat) (v m : VWord) (df : Bool) (fl : BitVec 6) :
    Sends i s (afterOp i s (result s dest lat v m df fl)) dest lat v m df fl := by
  refine ⟨?_, afterOp_onlyContext i s (result_onlyContext ..)⟩
  rw [afterOp_ctx, result_ctx]

theorem sendsScalar_resultS (i : Instr) (s : State) (d lat : Nat) (v : Word) (df : Bool) (hc : commits s s.cur.key i = false) :
    SendsScalar i s (afterOp i s (resultS s d lat v df)) d lat v df := by
  unfold SendsScalar resultS
  split
  · exact ⟨by rw [afterOp_ctx, hc, Bool.or_false], afterOp_onlyContext i s (onlyContext_refl s _)⟩
  · exact sends_result ..

theorem sendsPred_resultP (i : Instr) (s : State) (d lat : Nat) (v : BitVec 128) (hc : commits s s.cur.key i = false) :
    SendsPred i s (afterOp i s (resultP s d lat v)) d lat v := by
  unfold SendsPred resultP
  split
  · exact ⟨by rw [afterOp_ctx, hc, Bool.or_false], afterOp_onlyContext i s (onlyContext_refl s _)⟩
  · exact sends_result ..

/-- An operation whose effect is a scalar result gives it. -/
theorem gives_scalar {i : Instr} {p : Tag} {d lat : Nat} {v : State → Word} {df : State → Bool}
    (he : ∀ s, exec i s = operate i p s fun s => resultS s d lat (v s) (df s)) (hc : ∀ s, commits s s.cur.key i = false) :
    GivesScalar i p d lat v df := fun s h =>
  ⟨_, (he s).trans (operate_issues h _), sendsScalar_resultS i s d lat _ _ (hc s)⟩

theorem gives_pred {i : Instr} {p : Tag} {d lat : Nat} {v : State → BitVec 128}
    (he : ∀ s, exec i s = operate i p s fun s => resultP s d lat (v s)) (hc : ∀ s, commits s s.cur.key i = false) :
    GivesPred i p d lat v := fun s h =>
  ⟨_, (he s).trans (operate_issues h _), sendsPred_resultP i s d lat _ (hc s)⟩

/-! ## Lanes -/

/-- Lane `j` of packed lanes. -/
theorem packLanes_div (w : Nat) (l : List Nat) (j : Nat) : packLanes w l / 2 ^ (w * j) % 2 ^ w = l[j]?.getD 0 % 2 ^ w := by
  induction l generalizing j with
  | nil => simp [packLanes]
  | cons x l ih =>
    cases j with
    | zero => simp [packLanes, Nat.add_mul_mod_self_left]
    | succ j =>
      have hx : x % 2 ^ w < 2 ^ w := Nat.mod_lt _ (Nat.two_pow_pos w)
      rw [packLanes, show w * (j + 1) = w + w * j by ring, Nat.pow_add, ← Nat.div_div_eq_div_mul,
        Nat.add_mul_div_left _ _ (Nat.two_pow_pos w), Nat.div_eq_of_lt hx, Nat.zero_add]
      simpa using ih j

theorem packLanes_lt (w : Nat) (l : List Nat) : packLanes w l < 2 ^ (w * l.length) := by
  induction l with
  | nil => simp [packLanes]
  | cons x l ih =>
    have hx : x % 2 ^ w < 2 ^ w := Nat.mod_lt _ (Nat.two_pow_pos w)
    rw [packLanes, List.length_cons, show w * (l.length + 1) = w * l.length + w by ring, Nat.pow_add]
    calc x % 2 ^ w + 2 ^ w * packLanes w l < 2 ^ w + 2 ^ w * packLanes w l := by omega
      _ = 2 ^ w * (packLanes w l + 1) := by ring
      _ ≤ 2 ^ w * 2 ^ (w * l.length) := Nat.mul_le_mul_left _ ih
      _ = 2 ^ (w * l.length) * 2 ^ w := by ring

/-- A lane of a vector made of lanes. -/
theorem laneOf_packLanes {w : Nat} (hw : 0 < w) {l : List Nat} (hl : w * l.length ≤ 2048) (j : Nat) :
    laneOf w (BitVec.ofNat 2048 (packLanes w l)) j = l[j]?.getD 0 % 2 ^ w := by
  have h1 : packLanes w l < 2 ^ 2048 := Nat.lt_of_lt_of_le (packLanes_lt w l) (Nat.pow_le_pow_right (by omega) hl)
  unfold laneOf bits
  rw [BitVec.toNat_ofNat, Nat.mod_eq_of_lt h1, show w * j + (w - 1) + 1 - w * j = w by omega, packLanes_div]

theorem laneWidth_cases (t : Fin 4) : laneWidth t = 32 ∨ laneWidth t = 16 := by unfold laneWidth; split <;> simp

/-- An operation whose effect is a lane-wise result gives it lane by lane. -/
theorem gives_lanes {i : Instr} {p : Tag} {d : VReg} {lat w : Nat} {sel : State → Nat → Bool} {f : State → Nat → Nat × BitVec 6}
    (he : ∀ s, exec i s = operate i p s fun s => laneResult i d w (sel s) (f s) s) (hl : ∀ s, exposedLat s s.cur.key i = lat)
    (hw : w = 32 ∨ w = 16) : GivesLanes i p d lat w sel f := fun s h => by
  refine ⟨_, BitVec.ofNat 2048 (packLanes w
    (((List.range (2048 / w)).map fun j => if sel s j then f s j else (0, 0)).map (·.1))),
    (he s).trans (operate_issues h _), ?_, ?_⟩
  · unfold laneResult resultV
    simp only [hl]
    have : (List.map (fun x => x.2) (List.map (fun j => if sel s j = true then f s j else ((0 : Nat), (0 : BitVec 6))) (List.range (2048 / w))))
        = (List.range (2048 / w)).map fun j => if sel s j then (f s j).2 else 0 := by
      rw [List.map_map]
      refine List.map_congr_left fun j _ => ?_
      by_cases hj : sel s j = true <;> simp [hj]
    rw [← this]
    exact sends_result ..
  · intro j hj hs
    have hn : w * (2048 / w) ≤ 2048 := Nat.mul_div_le _ _
    rw [laneOf_packLanes (by omega) (by simpa using hn)]
    simp [hj, hs]

/-! ## The routes marked, and the requests withdrawn -/

/-- Marking pages changes the cached routes alone. -/
theorem markRoute_eq (s : State) (r : Req) : ∃ routes, markRoute s r = { s with routes := routes } := by
  unfold markRoute
  generalize r.ways.filter (fun w => r.marks.contains w.1) = l
  induction l generalizing s with
  | nil => exact ⟨s.routes, rfl⟩
  | cons w l ih =>
    obtain ⟨x, h⟩ := ih (markPage s (r.ctx / 4) ((coreAt s (r.ctx / 4)).job.getD 0) w.1 w.2)
    exact ⟨x, by rw [List.foldl_cons, h]; rfl⟩

/-- Withdrawing the operations of a context takes those requests, and keeps the loads among them that have left their core until their
responses arrive; nothing else changes. -/
theorem withdraw_eq (s : State) (k : Nat) : withdraw s k =
    { s with ghosts := s.ghosts ++ (withdrawnOf s k).filter Req.answers
             reqs := s.reqs.filter fun r => !(r.ctx == k && (pendKind r).isSome) } := rfl

/-! ## Stores of the own slice -/

/-- Where no synchronising access of the bundle meets it, a store of the own slice is its write. -/
theorem ownStore_write {i : Instr} {x : Word} {n v : Nat} {write : State → State} {s : State} (h : meetsLate s x.toNat n = false) :
    ownStore i x n v write s = write s := by simp [ownStore, h]

/-- Where one does, the store is one request more, and nothing else. -/
theorem ownStore_request {i : Instr} {x : Word} {n v : Nat} {write : State → State} {s : State} (h : meetsLate s x.toNat n = true) :
    ownStore i x n v write s = { s with
      reqs := s.reqs ++ [{ newReq s i x with vec1 := BitVec.ofNat 2048 v, status := .sent }], nextId := s.nextId + 1 } := by
  simp [ownStore, h, addReq]

/-- A write changes the requests alone: it is over in the own slice, and answered elsewhere. -/
theorem wrote_eq (s : State) (r : Req) : ∃ reqs, wrote s r = { s with reqs := reqs } := by
  unfold wrote
  split
  · exact ⟨_, rfl⟩
  · exact ⟨_, rfl⟩

/-! ## Prefetches -/

/-- A prefetch whose way pauses waits, and nothing else changes. -/
theorem sendPrefetch_waits {s : State} {x : Prefetch} {pa : Nat} (h : prefetchPlace s x = some pa) (w : touchPaused s x.core pa = true) :
    sendPrefetch s x = { s with prefetches := s.prefetches ++ [x] } := by simp [sendPrefetch, h, w]

/-- One whose way is free reaches its die. -/
theorem sendPrefetch_reaches {s : State} {x : Prefetch} {pa : Nat} (h : prefetchPlace s x = some pa) (w : touchPaused s x.core pa = false) :
    sendPrefetch s x = prefetchLine s x := by simp [sendPrefetch, h, w]

/-! ## The candidate at a boundary -/

/-- Where no result is due, none lands. -/
theorem landDue_none {clock : Nat} {c : Ctx} (h : ∀ f ∈ c.flights, c.ccyc + 1 < f.land) : landDue clock c = c := by
  have none' : c.flights.filter (dueFlight c) = [] := by
    rw [List.filter_eq_nil_iff]; intro f hf; have := h f hf; simp [dueFlight]; omega
  have all : (c.flights.filter fun f => !dueFlight c f) = c.flights := by
    rw [List.filter_eq_self]; intro f hf; have := h f hf; simp [dueFlight]; omega
  simp [landDue, none', all, inOrder]

/-- At a boundary where no result is due the candidate is that of the context as it stands. -/
theorem boundaryCandidate_eq {s : State} {k : Nat} (h : atBoundary s k = true) (n : ∀ f ∈ (ctxAt s k).flights, (ctxAt s k).ccyc + 1 < f.land) :
    boundaryCandidate s k = candidate (ctxAt s k) := by
  simp [boundaryCandidate, h, landDue_none n]

end Sys2Proof.Machine
end

