-- ==== Sys2Proof/Laws/PerInstr.lean ====
section
/-! SUPPORT. The family of statements about every instruction as syntax: the slot word of a well-formed operation decodes, in its
class, to that operation; one lemma for each constructor. -/

namespace Sys2Proof.Laws.Encoding

set_option linter.unusedSimpArgs false

/-- The word of a well-formed operation, with the word it is given where it is a long form, decodes to it. -/
def Statement (i : Instr) : Prop :=
  i.wellFormed = true → ∀ c w m, slotWord i = some (c, w, m) → decodeSlot c w m = some i

theorem of_slot {i : Instr} {c : Cls} {w : Nat} {m : Option (BitVec 32)} (hs : slotWord i = some (c, w, m))
    (k : i.wellFormed = true → decodeSlot c w m = some i) : Statement i := by
  intro hw c' w' m' h
  rw [hs] at h
  cases h
  exact k hw

theorem short_slot {c : Cls} {w : Nat} {i : Instr} (hw : i.wellFormed = true) (h : decodeShort c w = some i) :
    decodeSlot c w none = some i := by simp [decodeSlot, h, hw]

theorem long_slot {c : Cls} {w : Nat} {m : BitVec 32} {i : Instr} (hw : i.wellFormed = true) (h : decodeLong c w m = some i) :
    decodeSlot c w (some m) = some i := by simp [decodeSlot, h, hw]

theorem fin_eq {n : Nat} [NeZero n] {v : Nat} {a : Fin n} (h : v % n = a.val) : Fin.ofNat n v = a := Fin.ext h

theorem bits_eq {n v : Nat} {a : BitVec n} (h : v % 2 ^ n = a.toNat) : BitVec.ofNat n v = a := BitVec.eq_of_toNat_eq (by simpa using h)

theorem mod_low {y a : Nat} (h : y % 2048 = a) : y % 32 = a % 32 := by omega

theorem mod_high {y a : Nat} (h : y % 32 = a) (b : Nat) (hb : b % 32 ≠ a) : ¬y % 2048 = b := by omega

theorem layout0 (m v0 : Nat) (x0 : Fin 64) (x1 : Fin 64) (x2 : Fin 64) (x3 : Fin 8) (g0 : v0 < 32) {x : Nat} (h : m * 67108864 + v0 * 8 + x0.val * 1048576 + x1.val * 16384 + x2.val * 256 + x3.val = x) :
    x / 67108864 = m ∧
    x / 8 % 32 = v0 ∧
    Fin.ofNat 64 (x / 1048576) = x0 ∧
    Fin.ofNat 64 (x / 16384) = x1 ∧
    Fin.ofNat 64 (x / 256) = x2 ∧
    Fin.ofNat 8 x = x3 :=
  ⟨by omega, by omega, fin_eq (by omega), fin_eq (by omega), fin_eq (by omega), fin_eq (by omega)⟩

theorem layout1 (m v0 : Nat) (x0 : Fin 64) (x1 : Fin 64) (x2 : Fin 8) (g0 : v0 < 2048) {x : Nat} (h : m * 67108864 + v0 * 8 + x0.val * 1048576 + x1.val * 16384 + x2.val = x) :
    x / 67108864 = m ∧
    x / 8 % 2048 = v0 ∧
    Fin.ofNat 64 (x / 1048576) = x0 ∧
    Fin.ofNat 64 (x / 16384) = x1 ∧
    Fin.ofNat 8 x = x2 :=
  ⟨by omega, by omega, fin_eq (by omega), fin_eq (by omega), fin_eq (by omega)⟩

theorem layout2 (m : Nat) (x0 : Fin 64) (x1 : Fin 64) (x2 : BitVec 11) (x3 : Fin 8) {x : Nat} (h : m * 67108864 + x0.val * 1048576 + x1.val * 16384 + x2.toNat * 8 + x3.val = x) :
    x / 67108864 = m ∧
    Fin.ofNat 64 (x / 1048576) = x0 ∧
    Fin.ofNat 64 (x / 16384) = x1 ∧
    BitVec.ofNat 11 (x / 8) = x2 ∧
    Fin.ofNat 8 x = x3 :=
  ⟨by omega, fin_eq (by omega), fin_eq (by omega), bits_eq (by omega), fin_eq (by omega)⟩

theorem layout3 (m v0 : Nat) (x0 : Fin 64) (x1 : Fin 64) (x2 : Fin 64) (x3 : Fin 8) (g0 : v0 < 32) {x : Nat} (h : m * 67108864 + v0 * 512 + x0.val * 1048576 + x1.val * 16384 + x2.val * 8 + x3.val = x) :
    x / 67108864 = m ∧
    x / 512 % 32 = v0 ∧
    Fin.ofNat 64 (x / 1048576) = x0 ∧
    Fin.ofNat 64 (x / 16384) = x1 ∧
    Fin.ofNat 64 (x / 8) = x2 ∧
    Fin.ofNat 8 x = x3 :=
  ⟨by omega, by omega, fin_eq (by omega), fin_eq (by omega), fin_eq (by omega), fin_eq (by omega)⟩

theorem layout4 (m v0 : Nat) (x0 : Fin 64) (x1 : BitVec 11) (x2 : Fin 8) (g0 : v0 < 64) {x : Nat} (h : m * 67108864 + v0 * 16384 + x0.val * 1048576 + x1.toNat * 8 + x2.val = x) :
    x / 67108864 = m ∧
    x / 16384 % 64 = v0 ∧
    Fin.ofNat 64 (x / 1048576) = x0 ∧
    BitVec.ofNat 11 (x / 8) = x1 ∧
    Fin.ofNat 8 x = x2 :=
  ⟨by omega, by omega, fin_eq (by omega), bits_eq (by omega), fin_eq (by omega)⟩

theorem layout5 (m v0 : Nat) (x0 : Fin 128) (x1 : Fin 64) (x2 : Fin 64) (x3 : Fin 8) (x4 : Fin 8) (g0 : v0 < 2) {x : Nat} (h : m * 67108864 + v0 * 8 + x0.val * 524288 + x1.val * 8192 + x2.val * 128 + x3.val * 16 + x4.val = x) :
    x / 67108864 = m ∧
    x / 8 % 2 = v0 ∧
    Fin.ofNat 128 (x / 524288) = x0 ∧
    Fin.ofNat 64 (x / 8192) = x1 ∧
    Fin.ofNat 64 (x / 128) = x2 ∧
    Fin.ofNat 8 (x / 16) = x3 ∧
    Fin.ofNat 8 x = x4 :=
  ⟨by omega, by omega, fin_eq (by omega), fin_eq (by omega), fin_eq (by omega), fin_eq (by omega), fin_eq (by omega)⟩

theorem layout6 (m : Nat) (x0 : Fin 128) (x1 : Fin 64) (x2 : Fin 8) (x3 : BitVec 7) (x4 : Fin 8) {x : Nat} (h : m * 67108864 + x0.val * 524288 + x1.val * 8192 + x2.val * 1024 + x3.toNat * 8 + x4.val = x) :
    x / 67108864 = m ∧
    Fin.ofNat 128 (x / 524288) = x0 ∧
    Fin.ofNat 64 (x / 8192) = x1 ∧
    Fin.ofNat 8 (x / 1024) = x2 ∧
    BitVec.ofNat 7 (x / 8) = x3 ∧
    Fin.ofNat 8 x = x4 :=
  ⟨by omega, fin_eq (by omega), fin_eq (by omega), fin_eq (by omega), bits_eq (by omega), fin_eq (by omega)⟩

theorem layout7 (m v0 : Nat) (x0 : Fin 128) (x1 : Fin 128) (x2 : Fin 128) (x3 : Fin 8) (g0 : v0 < 4) {x : Nat} (h : m * 67108864 + v0 * 8 + x0.val * 524288 + x1.val * 4096 + x2.val * 32 + x3.val = x) :
    x / 67108864 = m ∧
    x / 8 % 4 = v0 ∧
    Fin.ofNat 128 (x / 524288) = x0 ∧
    Fin.ofNat 128 (x / 4096) = x1 ∧
    Fin.ofNat 128 (x / 32) = x2 ∧
    Fin.ofNat 8 x = x3 :=
  ⟨by omega, by omega, fin_eq (by omega), fin_eq (by omega), fin_eq (by omega), fin_eq (by omega)⟩

theorem layout8 (m v0 : Nat) (x0 : Fin 128) (x1 : Fin 128) (x2 : Fin 8) (g0 : v0 < 512) {x : Nat} (h : m * 67108864 + v0 * 8 + x0.val * 524288 + x1.val * 4096 + x2.val = x) :
    x / 67108864 = m ∧
    x / 8 % 512 = v0 ∧
    Fin.ofNat 128 (x / 524288) = x0 ∧
    Fin.ofNat 128 (x / 4096) = x1 ∧
    Fin.ofNat 8 x = x2 :=
  ⟨by omega, by omega, fin_eq (by omega), fin_eq (by omega), fin_eq (by omega)⟩

theorem layout9 (m v0 : Nat) (x0 : Fin 128) (x1 : Fin 8) (g0 : v0 < 65536) {x : Nat} (h : m * 67108864 + v0 * 8 + x0.val * 524288 + x1.val = x) :
    x / 67108864 = m ∧
    x / 8 % 65536 = v0 ∧
    Fin.ofNat 128 (x / 524288) = x0 ∧
    Fin.ofNat 8 x = x1 :=
  ⟨by omega, by omega, fin_eq (by omega), fin_eq (by omega)⟩

theorem layout10 (m v0 : Nat) (x0 : Fin 128) (x1 : Fin 64) (x2 : Fin 64) (x3 : Fin 8) (g0 : v0 < 16) {x : Nat} (h : m * 67108864 + v0 * 8 + x0.val * 524288 + x1.val * 8192 + x2.val * 128 + x3.val = x) :
    x / 67108864 = m ∧
    x / 8 % 16 = v0 ∧
    Fin.ofNat 128 (x / 524288) = x0 ∧
    Fin.ofNat 64 (x / 8192) = x1 ∧
    Fin.ofNat 64 (x / 128) = x2 ∧
    Fin.ofNat 8 x = x3 :=
  ⟨by omega, by omega, fin_eq (by omega), fin_eq (by omega), fin_eq (by omega), fin_eq (by omega)⟩

theorem layout11 (m : Nat) (x0 : Fin 64) (x1 : Fin 64) (x2 : Fin 64) (x3 : Fin 32) (x4 : Fin 8) {x : Nat} (h : m * 67108864 + x0.val * 1048576 + x1.val * 16384 + x2.val * 256 + x3.val * 8 + x4.val = x) :
    x / 67108864 = m ∧
    Fin.ofNat 64 (x / 1048576) = x0 ∧
    Fin.ofNat 64 (x / 16384) = x1 ∧
    Fin.ofNat 64 (x / 256) = x2 ∧
    Fin.ofNat 32 (x / 8) = x3 ∧
    Fin.ofNat 8 x = x4 :=
  ⟨by omega, fin_eq (by omega), fin_eq (by omega), fin_eq (by omega), fin_eq (by omega), fin_eq (by omega)⟩

theorem layout12 (m v0 : Nat) (x0 : Fin 64) (x1 : Fin 2048) (x2 : Fin 8) (g0 : v0 < 64) {x : Nat} (h : m * 67108864 + v0 * 16384 + x0.val * 1048576 + x1.val * 8 + x2.val = x) :
    x / 67108864 = m ∧
    x / 16384 % 64 = v0 ∧
    Fin.ofNat 64 (x / 1048576) = x0 ∧
    Fin.ofNat 2048 (x / 8) = x1 ∧
    Fin.ofNat 8 x = x2 :=
  ⟨by omega, by omega, fin_eq (by omega), fin_eq (by omega), fin_eq (by omega)⟩

theorem layout13 (m v0 : Nat) (x0 : Fin 64) (x1 : Fin 2048) (x2 : Fin 8) (g0 : v0 < 64) {x : Nat} (h : m * 67108864 + v0 * 1048576 + x0.val * 16384 + x1.val * 8 + x2.val = x) :
    x / 67108864 = m ∧
    x / 1048576 % 64 = v0 ∧
    Fin.ofNat 64 (x / 16384) = x0 ∧
    Fin.ofNat 2048 (x / 8) = x1 ∧
    Fin.ofNat 8 x = x2 :=
  ⟨by omega, by omega, fin_eq (by omega), fin_eq (by omega), fin_eq (by omega)⟩

theorem layout14 (m : Nat) (x0 : Fin 4096) (x1 : Fin 2048) (x2 : Fin 8) {x : Nat} (h : m * 67108864 + x0.val * 16384 + x1.val * 8 + x2.val = x) :
    x / 67108864 = m ∧
    Fin.ofNat 4096 (x / 16384) = x0 ∧
    Fin.ofNat 2048 (x / 8) = x1 ∧
    Fin.ofNat 8 x = x2 :=
  ⟨by omega, fin_eq (by omega), fin_eq (by omega), fin_eq (by omega)⟩

theorem layout15 (m v0 : Nat) (x0 : Fin 8) (g0 : v0 < 8388608) {x : Nat} (h : m * 67108864 + v0 * 8 + x0.val = x) :
    x / 67108864 = m ∧
    x / 8 % 8388608 = v0 ∧
    Fin.ofNat 8 x = x0 :=
  ⟨by omega, by omega, fin_eq (by omega)⟩

theorem layout16 (m v0 v1 : Nat) (x0 : BitVec 12) (x1 : Fin 8) (g0 : v0 < 64) (g1 : v1 < 32) {x : Nat} (h : m * 67108864 + v0 * 1048576 + v1 * 8 + x0.toNat * 256 + x1.val = x) :
    x / 67108864 = m ∧
    x / 1048576 % 64 = v0 ∧
    x / 8 % 32 = v1 ∧
    BitVec.ofNat 12 (x / 256) = x0 ∧
    Fin.ofNat 8 x = x1 :=
  ⟨by omega, by omega, by omega, bits_eq (by omega), fin_eq (by omega)⟩

theorem layout17 (m v0 : Nat) (x0 : Fin 64) (x1 : Fin 8) (g0 : v0 < 131072) {x : Nat} (h : m * 67108864 + v0 * 8 + x0.val * 1048576 + x1.val = x) :
    x / 67108864 = m ∧
    x / 8 % 131072 = v0 ∧
    Fin.ofNat 64 (x / 1048576) = x0 ∧
    Fin.ofNat 8 x = x1 :=
  ⟨by omega, by omega, fin_eq (by omega), fin_eq (by omega)⟩

theorem layout18 (m : Nat) (x0 : Fin 128) (x1 : BitVec 22) {x : Nat} (h : m * 536870912 + x0.val * 4194304 + x1.toNat = x) :
    x / 536870912 = m ∧
    Fin.ofNat 128 (x / 4194304) = x0 ∧
    BitVec.ofNat 22 x = x1 :=
  ⟨by omega, fin_eq (by omega), bits_eq (by omega)⟩

theorem layout19 (m v0 : Nat) (x0 : BitVec 22) (g0 : v0 < 128) {x : Nat} (h : m * 536870912 + v0 * 4194304 + x0.toNat = x) :
    x / 536870912 = m ∧
    x / 4194304 % 128 = v0 ∧
    BitVec.ofNat 22 x = x0 :=
  ⟨by omega, by omega, bits_eq (by omega)⟩

theorem layout20 (m v0 : Nat) (x0 : Fin 2) (x1 : Fin 64) (g0 : v0 < 4194304) {x : Nat} (h : m * 536870912 + v0 * 1 + x0.val * 268435456 + x1.val * 4194304 = x) :
    x / 536870912 = m ∧
    x % 4194304 = v0 ∧
    Fin.ofNat 2 (x / 268435456) = x0 ∧
    Fin.ofNat 64 (x / 4194304) = x1 :=
  ⟨by omega, by omega, fin_eq (by omega), fin_eq (by omega)⟩

theorem layout21 (m : Nat) (x0 : Fin 64) (x1 : Fin 32) (x2 : Fin 64) (x3 : Fin 64) (x4 : Fin 8) {x : Nat} (h : m * 67108864 + x0.val * 1048576 + x1.val * 32768 + x2.val * 512 + x3.val * 8 + x4.val = x) :
    x / 67108864 = m ∧
    Fin.ofNat 64 (x / 1048576) = x0 ∧
    Fin.ofNat 32 (x / 32768) = x1 ∧
    Fin.ofNat 64 (x / 512) = x2 ∧
    Fin.ofNat 64 (x / 8) = x3 ∧
    Fin.ofNat 8 x = x4 :=
  ⟨by omega, fin_eq (by omega), fin_eq (by omega), fin_eq (by omega), fin_eq (by omega), fin_eq (by omega)⟩

theorem layout22 (m : Nat) (x0 : Fin 64) (x1 : Fin 64) (x2 : Fin 64) (x3 : Fin 8) (x4 : Fin 4) (x5 : Fin 8) {x : Nat} (h : m * 67108864 + x0.val * 1048576 + x1.val * 16384 + x2.val * 256 + x3.val * 32 + x4.val * 8 + x5.val = x) :
    x / 67108864 = m ∧
    Fin.ofNat 64 (x / 1048576) = x0 ∧
    Fin.ofNat 64 (x / 16384) = x1 ∧
    Fin.ofNat 64 (x / 256) = x2 ∧
    Fin.ofNat 8 (x / 32) = x3 ∧
    Fin.ofNat 4 (x / 8) = x4 ∧
    Fin.ofNat 8 x = x5 :=
  ⟨by omega, fin_eq (by omega), fin_eq (by omega), fin_eq (by omega), fin_eq (by omega), fin_eq (by omega), fin_eq (by omega)⟩

theorem layout23 (m v0 : Nat) (x0 : Fin 64) (x1 : Fin 64) (x2 : Fin 8) (x3 : Fin 4) (x4 : Fin 8) (g0 : v0 < 64) {x : Nat} (h : m * 67108864 + v0 * 256 + x0.val * 1048576 + x1.val * 16384 + x2.val * 32 + x3.val * 8 + x4.val = x) :
    x / 67108864 = m ∧
    x / 256 % 64 = v0 ∧
    Fin.ofNat 64 (x / 1048576) = x0 ∧
    Fin.ofNat 64 (x / 16384) = x1 ∧
    Fin.ofNat 8 (x / 32) = x2 ∧
    Fin.ofNat 4 (x / 8) = x3 ∧
    Fin.ofNat 8 x = x4 :=
  ⟨by omega, by omega, fin_eq (by omega), fin_eq (by omega), fin_eq (by omega), fin_eq (by omega), fin_eq (by omega)⟩

theorem layout24 (m v0 : Nat) (x0 : Fin 64) (x1 : Fin 64) (x2 : Fin 64) (x3 : Fin 2) (x4 : Fin 8) (g0 : v0 < 16) {x : Nat} (h : m * 67108864 + v0 * 16 + x0.val * 1048576 + x1.val * 16384 + x2.val * 256 + x3.val * 8 + x4.val = x) :
    x / 67108864 = m ∧
    x / 16 % 16 = v0 ∧
    Fin.ofNat 64 (x / 1048576) = x0 ∧
    Fin.ofNat 64 (x / 16384) = x1 ∧
    Fin.ofNat 64 (x / 256) = x2 ∧
    Fin.ofNat 2 (x / 8) = x3 ∧
    Fin.ofNat 8 x = x4 :=
  ⟨by omega, by omega, fin_eq (by omega), fin_eq (by omega), fin_eq (by omega), fin_eq (by omega), fin_eq (by omega)⟩

theorem layout25 (m v0 v1 : Nat) (x0 : Fin 64) (x1 : Fin 8) (g0 : v0 < 64) (g1 : v1 < 2048) {x : Nat} (h : m * 67108864 + v0 * 1048576 + v1 * 8 + x0.val * 16384 + x1.val = x) :
    x / 67108864 = m ∧
    x / 1048576 % 64 = v0 ∧
    x / 8 % 2048 = v1 ∧
    Fin.ofNat 64 (x / 16384) = x0 ∧
    Fin.ofNat 8 x = x1 :=
  ⟨by omega, by omega, by omega, fin_eq (by omega), fin_eq (by omega)⟩

theorem layout26 (m v0 : Nat) (x0 : Fin 64) (x1 : BitVec 11) (x2 : Fin 8) (g0 : v0 < 64) {x : Nat} (h : m * 67108864 + v0 * 1048576 + x0.val * 16384 + x1.toNat * 8 + x2.val = x) :
    x / 67108864 = m ∧
    x / 1048576 % 64 = v0 ∧
    Fin.ofNat 64 (x / 16384) = x0 ∧
    BitVec.ofNat 11 (x / 8) = x1 ∧
    Fin.ofNat 8 x = x2 :=
  ⟨by omega, by omega, fin_eq (by omega), bits_eq (by omega), fin_eq (by omega)⟩

theorem layout27 (m : Nat) (x0 : Fin 64) (x1 : Fin 64) (x2 : Fin 64) (x3 : Fin 4) (x4 : Fin 8) (x5 : Fin 8) {x : Nat} (h : m * 67108864 + x0.val * 1048576 + x1.val * 16384 + x2.val * 256 + x3.val * 64 + x4.val * 8 + x5.val = x) :
    x / 67108864 = m ∧
    Fin.ofNat 64 (x / 1048576) = x0 ∧
    Fin.ofNat 64 (x / 16384) = x1 ∧
    Fin.ofNat 64 (x / 256) = x2 ∧
    Fin.ofNat 4 (x / 64) = x3 ∧
    Fin.ofNat 8 (x / 8) = x4 ∧
    Fin.ofNat 8 x = x5 :=
  ⟨by omega, fin_eq (by omega), fin_eq (by omega), fin_eq (by omega), fin_eq (by omega), fin_eq (by omega), fin_eq (by omega)⟩

theorem layout28 (m v0 : Nat) (x0 : Fin 64) (x1 : Fin 64) (x2 : Fin 4) (x3 : Fin 8) (x4 : Fin 8) (g0 : v0 < 64) {x : Nat} (h : m * 67108864 + v0 * 256 + x0.val * 1048576 + x1.val * 16384 + x2.val * 64 + x3.val * 8 + x4.val = x) :
    x / 67108864 = m ∧
    x / 256 % 64 = v0 ∧
    Fin.ofNat 64 (x / 1048576) = x0 ∧
    Fin.ofNat 64 (x / 16384) = x1 ∧
    Fin.ofNat 4 (x / 64) = x2 ∧
    Fin.ofNat 8 (x / 8) = x3 ∧
    Fin.ofNat 8 x = x4 :=
  ⟨by omega, by omega, fin_eq (by omega), fin_eq (by omega), fin_eq (by omega), fin_eq (by omega), fin_eq (by omega)⟩

theorem layout29 (m : Nat) (x0 : Fin 128) (x1 : Fin 64) (x2 : Fin 64) (x3 : Fin 4) (x4 : Fin 4) (x5 : Fin 8) {x : Nat} (h : m * 67108864 + x0.val * 524288 + x1.val * 8192 + x2.val * 128 + x3.val * 32 + x4.val * 8 + x5.val = x) :
    x / 67108864 = m ∧
    Fin.ofNat 128 (x / 524288) = x0 ∧
    Fin.ofNat 64 (x / 8192) = x1 ∧
    Fin.ofNat 64 (x / 128) = x2 ∧
    Fin.ofNat 4 (x / 32) = x3 ∧
    Fin.ofNat 4 (x / 8) = x4 ∧
    Fin.ofNat 8 x = x5 :=
  ⟨by omega, fin_eq (by omega), fin_eq (by omega), fin_eq (by omega), fin_eq (by omega), fin_eq (by omega), fin_eq (by omega)⟩

theorem layout30 (m v0 : Nat) (x0 : Fin 64) (x1 : Fin 64) (x2 : Fin 4) (x3 : Fin 8) (x4 : Fin 8) (g0 : v0 < 64) {x : Nat} (h : m * 67108864 + v0 * 16384 + x0.val * 1048576 + x1.val * 256 + x2.val * 64 + x3.val * 8 + x4.val = x) :
    x / 67108864 = m ∧
    x / 16384 % 64 = v0 ∧
    Fin.ofNat 64 (x / 1048576) = x0 ∧
    Fin.ofNat 64 (x / 256) = x1 ∧
    Fin.ofNat 4 (x / 64) = x2 ∧
    Fin.ofNat 8 (x / 8) = x3 ∧
    Fin.ofNat 8 x = x4 :=
  ⟨by omega, by omega, fin_eq (by omega), fin_eq (by omega), fin_eq (by omega), fin_eq (by omega), fin_eq (by omega)⟩

theorem layout31 (m v0 : Nat) (x0 : Fin 64) (x1 : Fin 64) (x2 : Fin 64) (x3 : Fin 4) (x4 : Fin 8) (g0 : v0 < 8) {x : Nat} (h : m * 67108864 + v0 * 8 + x0.val * 1048576 + x1.val * 16384 + x2.val * 256 + x3.val * 64 + x4.val = x) :
    x / 67108864 = m ∧
    x / 8 % 8 = v0 ∧
    Fin.ofNat 64 (x / 1048576) = x0 ∧
    Fin.ofNat 64 (x / 16384) = x1 ∧
    Fin.ofNat 64 (x / 256) = x2 ∧
    Fin.ofNat 4 (x / 64) = x3 ∧
    Fin.ofNat 8 x = x4 :=
  ⟨by omega, by omega, fin_eq (by omega), fin_eq (by omega), fin_eq (by omega), fin_eq (by omega), fin_eq (by omega)⟩

theorem layout32 (m v0 : Nat) (x0 : Fin 64) (x1 : Fin 4) (x2 : Fin 8) (x3 : Fin 8) (g0 : v0 < 4096) {x : Nat} (h : m * 67108864 + v0 * 256 + x0.val * 1048576 + x1.val * 64 + x2.val * 8 + x3.val = x) :
    x / 67108864 = m ∧
    x / 256 % 4096 = v0 ∧
    Fin.ofNat 64 (x / 1048576) = x0 ∧
    Fin.ofNat 4 (x / 64) = x1 ∧
    Fin.ofNat 8 (x / 8) = x2 ∧
    Fin.ofNat 8 x = x3 :=
  ⟨by omega, by omega, fin_eq (by omega), fin_eq (by omega), fin_eq (by omega), fin_eq (by omega)⟩

theorem layout33 (m v0 : Nat) (x0 : Fin 64) (x1 : Fin 64) (x2 : Fin 4) (x3 : Fin 4) (x4 : Fin 8) (x5 : Fin 8) (g0 : v0 < 16) {x : Nat} (h : m * 67108864 + v0 * 1024 + x0.val * 1048576 + x1.val * 16384 + x2.val * 256 + x3.val * 64 + x4.val * 8 + x5.val = x) :
    x / 67108864 = m ∧
    x / 1024 % 16 = v0 ∧
    Fin.ofNat 64 (x / 1048576) = x0 ∧
    Fin.ofNat 64 (x / 16384) = x1 ∧
    Fin.ofNat 4 (x / 256) = x2 ∧
    Fin.ofNat 4 (x / 64) = x3 ∧
    Fin.ofNat 8 (x / 8) = x4 ∧
    Fin.ofNat 8 x = x5 :=
  ⟨by omega, by omega, fin_eq (by omega), fin_eq (by omega), fin_eq (by omega), fin_eq (by omega), fin_eq (by omega), fin_eq (by omega)⟩

theorem layout34 (m v0 : Nat) (x0 : Fin 64) (x1 : Fin 64) (x2 : Fin 8) (x3 : Fin 4) (x4 : Fin 4) (x5 : Fin 8) (g0 : v0 < 16) {x : Nat} (h : m * 67108864 + v0 * 8 + x0.val * 1048576 + x1.val * 16384 + x2.val * 2048 + x3.val * 512 + x4.val * 128 + x5.val = x) :
    x / 67108864 = m ∧
    x / 8 % 16 = v0 ∧
    Fin.ofNat 64 (x / 1048576) = x0 ∧
    Fin.ofNat 64 (x / 16384) = x1 ∧
    Fin.ofNat 8 (x / 2048) = x2 ∧
    Fin.ofNat 4 (x / 512) = x3 ∧
    Fin.ofNat 4 (x / 128) = x4 ∧
    Fin.ofNat 8 x = x5 :=
  ⟨by omega, by omega, fin_eq (by omega), fin_eq (by omega), fin_eq (by omega), fin_eq (by omega), fin_eq (by omega), fin_eq (by omega)⟩

theorem layout35 (m v0 : Nat) (x0 : Fin 64) (x1 : Fin 64) (x2 : Fin 4) (x3 : Fin 4) (x4 : Fin 16) (x5 : Fin 8) (g0 : v0 < 8) {x : Nat} (h : m * 67108864 + v0 * 2048 + x0.val * 1048576 + x1.val * 16384 + x2.val * 512 + x3.val * 128 + x4.val * 8 + x5.val = x) :
    x / 67108864 = m ∧
    x / 2048 % 8 = v0 ∧
    Fin.ofNat 64 (x / 1048576) = x0 ∧
    Fin.ofNat 64 (x / 16384) = x1 ∧
    Fin.ofNat 4 (x / 512) = x2 ∧
    Fin.ofNat 4 (x / 128) = x3 ∧
    Fin.ofNat 16 (x / 8) = x4 ∧
    Fin.ofNat 8 x = x5 :=
  ⟨by omega, by omega, fin_eq (by omega), fin_eq (by omega), fin_eq (by omega), fin_eq (by omega), fin_eq (by omega), fin_eq (by omega)⟩

theorem layout36 (m : Nat) (x0 : Fin 64) (x1 : Fin 64) (x2 : Fin 8) (x3 : Fin 4) (x4 : Fin 4) (x5 : Fin 4) (x6 : Fin 4) (x7 : Fin 8) {x : Nat} (h : m * 67108864 + x0.val * 1048576 + x1.val * 16384 + x2.val * 2048 + x3.val * 512 + x4.val * 128 + x5.val * 32 + x6.val * 8 + x7.val = x) :
    x / 67108864 = m ∧
    Fin.ofNat 64 (x / 1048576) = x0 ∧
    Fin.ofNat 64 (x / 16384) = x1 ∧
    Fin.ofNat 8 (x / 2048) = x2 ∧
    Fin.ofNat 4 (x / 512) = x3 ∧
    Fin.ofNat 4 (x / 128) = x4 ∧
    Fin.ofNat 4 (x / 32) = x5 ∧
    Fin.ofNat 4 (x / 8) = x6 ∧
    Fin.ofNat 8 x = x7 :=
  ⟨by omega, fin_eq (by omega), fin_eq (by omega), fin_eq (by omega), fin_eq (by omega), fin_eq (by omega), fin_eq (by omega), fin_eq (by omega), fin_eq (by omega)⟩

theorem layout37 (m v0 : Nat) (x0 : Fin 16) (x1 : Fin 64) (x2 : Fin 8) (x3 : Fin 8) (g0 : v0 < 1024) {x : Nat} (h : m * 67108864 + v0 * 64 + x0.val * 4194304 + x1.val * 65536 + x2.val * 8 + x3.val = x) :
    x / 67108864 = m ∧
    x / 64 % 1024 = v0 ∧
    Fin.ofNat 16 (x / 4194304) = x0 ∧
    Fin.ofNat 64 (x / 65536) = x1 ∧
    Fin.ofNat 8 (x / 8) = x2 ∧
    Fin.ofNat 8 x = x3 :=
  ⟨by omega, by omega, fin_eq (by omega), fin_eq (by omega), fin_eq (by omega), fin_eq (by omega)⟩

theorem layout38 (m v0 v1 : Nat) (x0 : Fin 16) (x1 : Fin 64) (x2 : Fin 8) (x3 : Fin 8) (g0 : v0 < 64) (g1 : v1 < 16) {x : Nat} (h : m * 67108864 + v0 * 65536 + v1 * 64 + x0.val * 4194304 + x1.val * 1024 + x2.val * 8 + x3.val = x) :
    x / 67108864 = m ∧
    x / 65536 % 64 = v0 ∧
    x / 64 % 16 = v1 ∧
    Fin.ofNat 16 (x / 4194304) = x0 ∧
    Fin.ofNat 64 (x / 1024) = x1 ∧
    Fin.ofNat 8 (x / 8) = x2 ∧
    Fin.ofNat 8 x = x3 :=
  ⟨by omega, by omega, by omega, fin_eq (by omega), fin_eq (by omega), fin_eq (by omega), fin_eq (by omega)⟩

theorem layout39 (m v0 : Nat) (x0 : Fin 16) (x1 : Fin 64) (x2 : Fin 64) (x3 : Fin 64) (x4 : Fin 8) (g0 : v0 < 2) {x : Nat} (h : m * 67108864 + v0 * 8 + x0.val * 4194304 + x1.val * 65536 + x2.val * 1024 + x3.val * 16 + x4.val = x) :
    x / 67108864 = m ∧
    x / 8 % 2 = v0 ∧
    Fin.ofNat 16 (x / 4194304) = x0 ∧
    Fin.ofNat 64 (x / 65536) = x1 ∧
    Fin.ofNat 64 (x / 1024) = x2 ∧
    Fin.ofNat 64 (x / 16) = x3 ∧
    Fin.ofNat 8 x = x4 :=
  ⟨by omega, by omega, fin_eq (by omega), fin_eq (by omega), fin_eq (by omega), fin_eq (by omega), fin_eq (by omega)⟩

theorem layout40 (m v0 : Nat) (x0 : Fin 8) (x1 : Fin 8) (g0 : v0 < 1048576) {x : Nat} (h : m * 67108864 + v0 * 64 + x0.val * 8 + x1.val = x) :
    x / 67108864 = m ∧
    x / 64 % 1048576 = v0 ∧
    Fin.ofNat 8 (x / 8) = x0 ∧
    Fin.ofNat 8 x = x1 :=
  ⟨by omega, by omega, fin_eq (by omega), fin_eq (by omega)⟩

theorem layout41 (m : Nat) (x0 : Fin 16) (x1 : Fin 64) (x2 : Fin 64) (x3 : Fin 16) (x4 : Fin 8) (x5 : Fin 8) {x : Nat} (h : m * 67108864 + x0.val * 4194304 + x1.val * 65536 + x2.val * 1024 + x3.val * 64 + x4.val * 8 + x5.val = x) :
    x / 67108864 = m ∧
    Fin.ofNat 16 (x / 4194304) = x0 ∧
    Fin.ofNat 64 (x / 65536) = x1 ∧
    Fin.ofNat 64 (x / 1024) = x2 ∧
    Fin.ofNat 16 (x / 64) = x3 ∧
    Fin.ofNat 8 (x / 8) = x4 ∧
    Fin.ofNat 8 x = x5 :=
  ⟨by omega, fin_eq (by omega), fin_eq (by omega), fin_eq (by omega), fin_eq (by omega), fin_eq (by omega), fin_eq (by omega)⟩

theorem layout42 (m v0 : Nat) (x0 : Fin 16) (x1 : Fin 64) (x2 : Fin 64) (x3 : Fin 16) (x4 : Fin 4) (x5 : Fin 8) (g0 : v0 < 2) {x : Nat} (h : m * 67108864 + v0 * 32 + x0.val * 4194304 + x1.val * 65536 + x2.val * 1024 + x3.val * 64 + x4.val * 8 + x5.val = x) :
    x / 67108864 = m ∧
    x / 32 % 2 = v0 ∧
    Fin.ofNat 16 (x / 4194304) = x0 ∧
    Fin.ofNat 64 (x / 65536) = x1 ∧
    Fin.ofNat 64 (x / 1024) = x2 ∧
    Fin.ofNat 16 (x / 64) = x3 ∧
    Fin.ofNat 4 (x / 8) = x4 ∧
    Fin.ofNat 8 x = x5 :=
  ⟨by omega, by omega, fin_eq (by omega), fin_eq (by omega), fin_eq (by omega), fin_eq (by omega), fin_eq (by omega), fin_eq (by omega)⟩

theorem layout43 (m v0 v1 : Nat) (x0 : Fin 16) (x1 : Fin 8) (g0 : v0 < 65536) (g1 : v1 < 8) {x : Nat} (h : m * 67108864 + v0 * 1024 + v1 * 8 + x0.val * 64 + x1.val = x) :
    x / 67108864 = m ∧
    x / 1024 % 65536 = v0 ∧
    x / 8 % 8 = v1 ∧
    Fin.ofNat 16 (x / 64) = x0 ∧
    Fin.ofNat 8 x = x1 :=
  ⟨by omega, by omega, by omega, fin_eq (by omega), fin_eq (by omega)⟩

theorem layout44 (m v0 v1 : Nat) (x0 : Fin 16) (x1 : Fin 64) (x2 : Fin 16) (x3 : Fin 8) (g0 : v0 < 64) (g1 : v1 < 8) {x : Nat} (h : m * 67108864 + v0 * 1024 + v1 * 8 + x0.val * 4194304 + x1.val * 65536 + x2.val * 64 + x3.val = x) :
    x / 67108864 = m ∧
    x / 1024 % 64 = v0 ∧
    x / 8 % 8 = v1 ∧
    Fin.ofNat 16 (x / 4194304) = x0 ∧
    Fin.ofNat 64 (x / 65536) = x1 ∧
    Fin.ofNat 16 (x / 64) = x2 ∧
    Fin.ofNat 8 x = x3 :=
  ⟨by omega, by omega, by omega, fin_eq (by omega), fin_eq (by omega), fin_eq (by omega), fin_eq (by omega)⟩

theorem layout45 (m v0 : Nat) (x0 : Fin 16) (x1 : Fin 64) (x2 : Fin 64) (x3 : Fin 16) (x4 : Fin 8) (g0 : v0 < 8) {x : Nat} (h : m * 67108864 + v0 * 8 + x0.val * 4194304 + x1.val * 65536 + x2.val * 1024 + x3.val * 64 + x4.val = x) :
    x / 67108864 = m ∧
    x / 8 % 8 = v0 ∧
    Fin.ofNat 16 (x / 4194304) = x0 ∧
    Fin.ofNat 64 (x / 65536) = x1 ∧
    Fin.ofNat 64 (x / 1024) = x2 ∧
    Fin.ofNat 16 (x / 64) = x3 ∧
    Fin.ofNat 8 x = x4 :=
  ⟨by omega, by omega, fin_eq (by omega), fin_eq (by omega), fin_eq (by omega), fin_eq (by omega), fin_eq (by omega)⟩

theorem layout46 (m v0 : Nat) (x0 : Fin 4) (x1 : Fin 8) (g0 : v0 < 2097152) {x : Nat} (h : m * 67108864 + v0 * 32 + x0.val * 8 + x1.val = x) :
    x / 67108864 = m ∧
    x / 32 % 2097152 = v0 ∧
    Fin.ofNat 4 (x / 8) = x0 ∧
    Fin.ofNat 8 x = x1 :=
  ⟨by omega, by omega, fin_eq (by omega), fin_eq (by omega)⟩

theorem layout47 (m v0 : Nat) (x0 : Fin 16) (x1 : Fin 64) (x2 : Fin 64) (x3 : Fin 4) (x4 : Fin 8) (g0 : v0 < 32) {x : Nat} (h : m * 67108864 + v0 * 32 + x0.val * 4194304 + x1.val * 65536 + x2.val * 1024 + x3.val * 8 + x4.val = x) :
    x / 67108864 = m ∧
    x / 32 % 32 = v0 ∧
    Fin.ofNat 16 (x / 4194304) = x0 ∧
    Fin.ofNat 64 (x / 65536) = x1 ∧
    Fin.ofNat 64 (x / 1024) = x2 ∧
    Fin.ofNat 4 (x / 8) = x3 ∧
    Fin.ofNat 8 x = x4 :=
  ⟨by omega, by omega, fin_eq (by omega), fin_eq (by omega), fin_eq (by omega), fin_eq (by omega), fin_eq (by omega)⟩

theorem layout48 (m v0 v1 v2 : Nat) (x0 : Fin 64) (x1 : Fin 64) (x2 : Fin 8) (g0 : v0 < 16) (g1 : v1 < 64) (g2 : v2 < 2) {x : Nat} (h : m * 67108864 + v0 * 4194304 + v1 * 1024 + v2 * 8 + x0.val * 65536 + x1.val * 16 + x2.val = x) :
    x / 67108864 = m ∧
    x / 4194304 % 16 = v0 ∧
    x / 1024 % 64 = v1 ∧
    x / 8 % 2 = v2 ∧
    Fin.ofNat 64 (x / 65536) = x0 ∧
    Fin.ofNat 64 (x / 16) = x1 ∧
    Fin.ofNat 8 x = x2 :=
  ⟨by omega, by omega, by omega, by omega, fin_eq (by omega), fin_eq (by omega), fin_eq (by omega)⟩

theorem layout49 (m v0 v1 : Nat) (x0 : Fin 64) (x1 : Fin 64) (x2 : Fin 64) (x3 : Fin 8) (g0 : v0 < 16) (g1 : v1 < 2) {x : Nat} (h : m * 67108864 + v0 * 4194304 + v1 * 8 + x0.val * 65536 + x1.val * 1024 + x2.val * 16 + x3.val = x) :
    x / 67108864 = m ∧
    x / 4194304 % 16 = v0 ∧
    x / 8 % 2 = v1 ∧
    Fin.ofNat 64 (x / 65536) = x0 ∧
    Fin.ofNat 64 (x / 1024) = x1 ∧
    Fin.ofNat 64 (x / 16) = x2 ∧
    Fin.ofNat 8 x = x3 :=
  ⟨by omega, by omega, by omega, fin_eq (by omega), fin_eq (by omega), fin_eq (by omega), fin_eq (by omega)⟩

theorem layout50 (m v0 v1 : Nat) (x0 : Fin 64) (x1 : Fin 8) (g0 : v0 < 65536) (g1 : v1 < 2) {x : Nat} (h : m * 67108864 + v0 * 1024 + v1 * 8 + x0.val * 16 + x1.val = x) :
    x / 67108864 = m ∧
    x / 1024 % 65536 = v0 ∧
    x / 8 % 2 = v1 ∧
    Fin.ofNat 64 (x / 16) = x0 ∧
    Fin.ofNat 8 x = x1 :=
  ⟨by omega, by omega, by omega, fin_eq (by omega), fin_eq (by omega)⟩

theorem layout51 (m v0 : Nat) (x0 : Fin 16) (x1 : Fin 64) (x2 : Fin 8) (g0 : v0 < 8192) {x : Nat} (h : m * 67108864 + v0 * 8 + x0.val * 4194304 + x1.val * 65536 + x2.val = x) :
    x / 67108864 = m ∧
    x / 8 % 8192 = v0 ∧
    Fin.ofNat 16 (x / 4194304) = x0 ∧
    Fin.ofNat 64 (x / 65536) = x1 ∧
    Fin.ofNat 8 x = x2 :=
  ⟨by omega, by omega, fin_eq (by omega), fin_eq (by omega), fin_eq (by omega)⟩

theorem layout52 (m v0 v1 : Nat) (x0 : Fin 64) (x1 : Fin 64) (x2 : Fin 8) (g0 : v0 < 16) (g1 : v1 < 128) {x : Nat} (h : m * 67108864 + v0 * 4194304 + v1 * 8 + x0.val * 65536 + x1.val * 1024 + x2.val = x) :
    x / 67108864 = m ∧
    x / 4194304 % 16 = v0 ∧
    x / 8 % 128 = v1 ∧
    Fin.ofNat 64 (x / 65536) = x0 ∧
    Fin.ofNat 64 (x / 1024) = x1 ∧
    Fin.ofNat 8 x = x2 :=
  ⟨by omega, by omega, by omega, fin_eq (by omega), fin_eq (by omega), fin_eq (by omega)⟩

theorem layout53 (m v0 v1 : Nat) (x0 : Fin 64) (x1 : Fin 8) (g0 : v0 < 16) (g1 : v1 < 8192) {x : Nat} (h : m * 67108864 + v0 * 4194304 + v1 * 8 + x0.val * 65536 + x1.val = x) :
    x / 67108864 = m ∧
    x / 4194304 % 16 = v0 ∧
    x / 8 % 8192 = v1 ∧
    Fin.ofNat 64 (x / 65536) = x0 ∧
    Fin.ofNat 8 x = x1 :=
  ⟨by omega, by omega, by omega, fin_eq (by omega), fin_eq (by omega)⟩

theorem layout54 (m v0 : Nat) (x0 : Fin 16) (x1 : Fin 64) (x2 : Fin 64) (x3 : Fin 8) (g0 : v0 < 128) {x : Nat} (h : m * 67108864 + v0 * 8 + x0.val * 4194304 + x1.val * 65536 + x2.val * 1024 + x3.val = x) :
    x / 67108864 = m ∧
    x / 8 % 128 = v0 ∧
    Fin.ofNat 16 (x / 4194304) = x0 ∧
    Fin.ofNat 64 (x / 65536) = x1 ∧
    Fin.ofNat 64 (x / 1024) = x2 ∧
    Fin.ofNat 8 x = x3 :=
  ⟨by omega, by omega, fin_eq (by omega), fin_eq (by omega), fin_eq (by omega), fin_eq (by omega)⟩

theorem layout55 (m v0 : Nat) (x0 : Fin 128) (x1 : Fin 64) (x2 : Fin 8) (x3 : Fin 8) (g0 : v0 < 128) {x : Nat} (h : m * 67108864 + v0 * 8 + x0.val * 524288 + x1.val * 8192 + x2.val * 1024 + x3.val = x) :
    x / 67108864 = m ∧
    x / 8 % 128 = v0 ∧
    Fin.ofNat 128 (x / 524288) = x0 ∧
    Fin.ofNat 64 (x / 8192) = x1 ∧
    Fin.ofNat 8 (x / 1024) = x2 ∧
    Fin.ofNat 8 x = x3 :=
  ⟨by omega, by omega, fin_eq (by omega), fin_eq (by omega), fin_eq (by omega), fin_eq (by omega)⟩

theorem layout56 (m v0 : Nat) (x0 : Fin 4096) (x1 : Fin 8) (g0 : v0 < 2048) {x : Nat} (h : m * 67108864 + v0 * 8 + x0.val * 16384 + x1.val = x) :
    x / 67108864 = m ∧
    x / 8 % 2048 = v0 ∧
    Fin.ofNat 4096 (x / 16384) = x0 ∧
    Fin.ofNat 8 x = x1 :=
  ⟨by omega, by omega, fin_eq (by omega), fin_eq (by omega)⟩

theorem layout57 (m v0 v1 v2 : Nat) (x0 : Fin 64) (x1 : Fin 16) (x2 : Fin 8) (g0 : v0 < 16) (g1 : v1 < 64) (g2 : v2 < 8) {x : Nat} (h : m * 67108864 + v0 * 4194304 + v1 * 1024 + v2 * 8 + x0.val * 65536 + x1.val * 64 + x2.val = x) :
    x / 67108864 = m ∧
    x / 4194304 % 16 = v0 ∧
    x / 1024 % 64 = v1 ∧
    x / 8 % 8 = v2 ∧
    Fin.ofNat 64 (x / 65536) = x0 ∧
    Fin.ofNat 16 (x / 64) = x1 ∧
    Fin.ofNat 8 x = x2 :=
  ⟨by omega, by omega, by omega, by omega, fin_eq (by omega), fin_eq (by omega), fin_eq (by omega)⟩

theorem nop : ∀ x0, Statement (.nop x0) := fun x0 _ _ _ _ h => by cases h

theorem add x0 x1 x2 x3 : Statement (.add x0 x1 x2 x3) := of_slot rfl fun hw => by
  generalize hx : 67108864 + x0.val * 1048576 + x1.val * 16384 + x2.val * 256 + x3.val = x
  obtain ⟨h0, p0, e0, e1, e2, e3⟩ := layout0 1 0 x0 x1 x2 x3 (by decide) (by omega : _ = x)
  clear hx
  refine short_slot hw ?_
  show decodeX x = _
  unfold decodeX
  simp only [h0, p0, e0, e1, e2, e3, Nat.reduceEqDiff, reduceCtorEq, OfNat.ofNat_ne_zero, OfNat.ofNat_ne_one, OfNat.zero_ne_ofNat, OfNat.one_ne_ofNat, one_ne_zero, zero_ne_one, Nat.reduceMod, and_self, and_false, and_true, if_true, if_false]

theorem sub x0 x1 x2 x3 : Statement (.sub x0 x1 x2 x3) := of_slot rfl fun hw => by
  generalize hx : 67108872 + x0.val * 1048576 + x1.val * 16384 + x2.val * 256 + x3.val = x
  obtain ⟨h0, p0, e0, e1, e2, e3⟩ := layout0 1 1 x0 x1 x2 x3 (by decide) (by omega : _ = x)
  clear hx
  refine short_slot hw ?_
  show decodeX x = _
  unfold decodeX
  simp only [h0, p0, e0, e1, e2, e3, Nat.reduceEqDiff, reduceCtorEq, OfNat.ofNat_ne_zero, OfNat.ofNat_ne_one, OfNat.zero_ne_ofNat, OfNat.one_ne_ofNat, one_ne_zero, zero_ne_one, Nat.reduceMod, and_self, and_false, and_true, if_true, if_false]

theorem and x0 x1 x2 x3 : Statement (.and x0 x1 x2 x3) := of_slot rfl fun hw => by
  generalize hx : 67108880 + x0.val * 1048576 + x1.val * 16384 + x2.val * 256 + x3.val = x
  obtain ⟨h0, p0, e0, e1, e2, e3⟩ := layout0 1 2 x0 x1 x2 x3 (by decide) (by omega : _ = x)
  clear hx
  refine short_slot hw ?_
  show decodeX x = _
  unfold decodeX
  simp only [h0, p0, e0, e1, e2, e3, Nat.reduceEqDiff, reduceCtorEq, OfNat.ofNat_ne_zero, OfNat.ofNat_ne_one, OfNat.zero_ne_ofNat, OfNat.one_ne_ofNat, one_ne_zero, zero_ne_one, Nat.reduceMod, and_self, and_false, and_true, if_true, if_false]

theorem or x0 x1 x2 x3 : Statement (.or x0 x1 x2 x3) := of_slot rfl fun hw => by
  generalize hx : 67108888 + x0.val * 1048576 + x1.val * 16384 + x2.val * 256 + x3.val = x
  obtain ⟨h0, p0, e0, e1, e2, e3⟩ := layout0 1 3 x0 x1 x2 x3 (by decide) (by omega : _ = x)
  clear hx
  refine short_slot hw ?_
  show decodeX x = _
  unfold decodeX
  simp only [h0, p0, e0, e1, e2, e3, Nat.reduceEqDiff, reduceCtorEq, OfNat.ofNat_ne_zero, OfNat.ofNat_ne_one, OfNat.zero_ne_ofNat, OfNat.one_ne_ofNat, one_ne_zero, zero_ne_one, Nat.reduceMod, and_self, and_false, and_true, if_true, if_false]

theorem xor x0 x1 x2 x3 : Statement (.xor x0 x1 x2 x3) := of_slot rfl fun hw => by
  generalize hx : 67108896 + x0.val * 1048576 + x1.val * 16384 + x2.val * 256 + x3.val = x
  obtain ⟨h0, p0, e0, e1, e2, e3⟩ := layout0 1 4 x0 x1 x2 x3 (by decide) (by omega : _ = x)
  clear hx
  refine short_slot hw ?_
  show decodeX x = _
  unfold decodeX
  simp only [h0, p0, e0, e1, e2, e3, Nat.reduceEqDiff, reduceCtorEq, OfNat.ofNat_ne_zero, OfNat.ofNat_ne_one, OfNat.zero_ne_ofNat, OfNat.one_ne_ofNat, one_ne_zero, zero_ne_one, Nat.reduceMod, and_self, and_false, and_true, if_true, if_false]

theorem andn x0 x1 x2 x3 : Statement (.andn x0 x1 x2 x3) := of_slot rfl fun hw => by
  generalize hx : 67108904 + x0.val * 1048576 + x1.val * 16384 + x2.val * 256 + x3.val = x
  obtain ⟨h0, p0, e0, e1, e2, e3⟩ := layout0 1 5 x0 x1 x2 x3 (by decide) (by omega : _ = x)
  clear hx
  refine short_slot hw ?_
  show decodeX x = _
  unfold decodeX
  simp only [h0, p0, e0, e1, e2, e3, Nat.reduceEqDiff, reduceCtorEq, OfNat.ofNat_ne_zero, OfNat.ofNat_ne_one, OfNat.zero_ne_ofNat, OfNat.one_ne_ofNat, one_ne_zero, zero_ne_one, Nat.reduceMod, and_self, and_false, and_true, if_true, if_false]

theorem shl x0 x1 x2 x3 : Statement (.shl x0 x1 x2 x3) := of_slot rfl fun hw => by
  generalize hx : 67108912 + x0.val * 1048576 + x1.val * 16384 + x2.val * 256 + x3.val = x
  obtain ⟨h0, p0, e0, e1, e2, e3⟩ := layout0 1 6 x0 x1 x2 x3 (by decide) (by omega : _ = x)
  clear hx
  refine short_slot hw ?_
  show decodeX x = _
  unfold decodeX
  simp only [h0, p0, e0, e1, e2, e3, Nat.reduceEqDiff, reduceCtorEq, OfNat.ofNat_ne_zero, OfNat.ofNat_ne_one, OfNat.zero_ne_ofNat, OfNat.one_ne_ofNat, one_ne_zero, zero_ne_one, Nat.reduceMod, and_self, and_false, and_true, if_true, if_false]

theorem shr x0 x1 x2 x3 : Statement (.shr x0 x1 x2 x3) := of_slot rfl fun hw => by
  generalize hx : 67108920 + x0.val * 1048576 + x1.val * 16384 + x2.val * 256 + x3.val = x
  obtain ⟨h0, p0, e0, e1, e2, e3⟩ := layout0 1 7 x0 x1 x2 x3 (by decide) (by omega : _ = x)
  clear hx
  refine short_slot hw ?_
  show decodeX x = _
  unfold decodeX
  simp only [h0, p0, e0, e1, e2, e3, Nat.reduceEqDiff, reduceCtorEq, OfNat.ofNat_ne_zero, OfNat.ofNat_ne_one, OfNat.zero_ne_ofNat, OfNat.one_ne_ofNat, one_ne_zero, zero_ne_one, Nat.reduceMod, and_self, and_false, and_true, if_true, if_false]

theorem sra x0 x1 x2 x3 : Statement (.sra x0 x1 x2 x3) := of_slot rfl fun hw => by
  generalize hx : 67108928 + x0.val * 1048576 + x1.val * 16384 + x2.val * 256 + x3.val = x
  obtain ⟨h0, p0, e0, e1, e2, e3⟩ := layout0 1 8 x0 x1 x2 x3 (by decide) (by omega : _ = x)
  clear hx
  refine short_slot hw ?_
  show decodeX x = _
  unfold decodeX
  simp only [h0, p0, e0, e1, e2, e3, Nat.reduceEqDiff, reduceCtorEq, OfNat.ofNat_ne_zero, OfNat.ofNat_ne_one, OfNat.zero_ne_ofNat, OfNat.one_ne_ofNat, one_ne_zero, zero_ne_one, Nat.reduceMod, and_self, and_false, and_true, if_true, if_false]

theorem rol x0 x1 x2 x3 : Statement (.rol x0 x1 x2 x3) := of_slot rfl fun hw => by
  generalize hx : 67108936 + x0.val * 1048576 + x1.val * 16384 + x2.val * 256 + x3.val = x
  obtain ⟨h0, p0, e0, e1, e2, e3⟩ := layout0 1 9 x0 x1 x2 x3 (by decide) (by omega : _ = x)
  clear hx
  refine short_slot hw ?_
  show decodeX x = _
  unfold decodeX
  simp only [h0, p0, e0, e1, e2, e3, Nat.reduceEqDiff, reduceCtorEq, OfNat.ofNat_ne_zero, OfNat.ofNat_ne_one, OfNat.zero_ne_ofNat, OfNat.one_ne_ofNat, one_ne_zero, zero_ne_one, Nat.reduceMod, and_self, and_false, and_true, if_true, if_false]

theorem min x0 x1 x2 x3 : Statement (.min x0 x1 x2 x3) := of_slot rfl fun hw => by
  generalize hx : 67108944 + x0.val * 1048576 + x1.val * 16384 + x2.val * 256 + x3.val = x
  obtain ⟨h0, p0, e0, e1, e2, e3⟩ := layout0 1 10 x0 x1 x2 x3 (by decide) (by omega : _ = x)
  clear hx
  refine short_slot hw ?_
  show decodeX x = _
  unfold decodeX
  simp only [h0, p0, e0, e1, e2, e3, Nat.reduceEqDiff, reduceCtorEq, OfNat.ofNat_ne_zero, OfNat.ofNat_ne_one, OfNat.zero_ne_ofNat, OfNat.one_ne_ofNat, one_ne_zero, zero_ne_one, Nat.reduceMod, and_self, and_false, and_true, if_true, if_false]

theorem max x0 x1 x2 x3 : Statement (.max x0 x1 x2 x3) := of_slot rfl fun hw => by
  generalize hx : 67108952 + x0.val * 1048576 + x1.val * 16384 + x2.val * 256 + x3.val = x
  obtain ⟨h0, p0, e0, e1, e2, e3⟩ := layout0 1 11 x0 x1 x2 x3 (by decide) (by omega : _ = x)
  clear hx
  refine short_slot hw ?_
  show decodeX x = _
  unfold decodeX
  simp only [h0, p0, e0, e1, e2, e3, Nat.reduceEqDiff, reduceCtorEq, OfNat.ofNat_ne_zero, OfNat.ofNat_ne_one, OfNat.zero_ne_ofNat, OfNat.one_ne_ofNat, one_ne_zero, zero_ne_one, Nat.reduceMod, and_self, and_false, and_true, if_true, if_false]

theorem minn x0 x1 x2 x3 : Statement (.minn x0 x1 x2 x3) := of_slot rfl fun hw => by
  generalize hx : 67108960 + x0.val * 1048576 + x1.val * 16384 + x2.val * 256 + x3.val = x
  obtain ⟨h0, p0, e0, e1, e2, e3⟩ := layout0 1 12 x0 x1 x2 x3 (by decide) (by omega : _ = x)
  clear hx
  refine short_slot hw ?_
  show decodeX x = _
  unfold decodeX
  simp only [h0, p0, e0, e1, e2, e3, Nat.reduceEqDiff, reduceCtorEq, OfNat.ofNat_ne_zero, OfNat.ofNat_ne_one, OfNat.zero_ne_ofNat, OfNat.one_ne_ofNat, one_ne_zero, zero_ne_one, Nat.reduceMod, and_self, and_false, and_true, if_true, if_false]

theorem maxn x0 x1 x2 x3 : Statement (.maxn x0 x1 x2 x3) := of_slot rfl fun hw => by
  generalize hx : 67108968 + x0.val * 1048576 + x1.val * 16384 + x2.val * 256 + x3.val = x
  obtain ⟨h0, p0, e0, e1, e2, e3⟩ := layout0 1 13 x0 x1 x2 x3 (by decide) (by omega : _ = x)
  clear hx
  refine short_slot hw ?_
  show decodeX x = _
  unfold decodeX
  simp only [h0, p0, e0, e1, e2, e3, Nat.reduceEqDiff, reduceCtorEq, OfNat.ofNat_ne_zero, OfNat.ofNat_ne_one, OfNat.zero_ne_ofNat, OfNat.one_ne_ofNat, one_ne_zero, zero_ne_one, Nat.reduceMod, and_self, and_false, and_true, if_true, if_false]

theorem addw x0 x1 x2 x3 : Statement (.addw x0 x1 x2 x3) := of_slot rfl fun hw => by
  generalize hx : 67108976 + x0.val * 1048576 + x1.val * 16384 + x2.val * 256 + x3.val = x
  obtain ⟨h0, p0, e0, e1, e2, e3⟩ := layout0 1 14 x0 x1 x2 x3 (by decide) (by omega : _ = x)
  clear hx
  refine short_slot hw ?_
  show decodeX x = _
  unfold decodeX
  simp only [h0, p0, e0, e1, e2, e3, Nat.reduceEqDiff, reduceCtorEq, OfNat.ofNat_ne_zero, OfNat.ofNat_ne_one, OfNat.zero_ne_ofNat, OfNat.one_ne_ofNat, one_ne_zero, zero_ne_one, Nat.reduceMod, and_self, and_false, and_true, if_true, if_false]

theorem subw x0 x1 x2 x3 : Statement (.subw x0 x1 x2 x3) := of_slot rfl fun hw => by
  generalize hx : 67108984 + x0.val * 1048576 + x1.val * 16384 + x2.val * 256 + x3.val = x
  obtain ⟨h0, p0, e0, e1, e2, e3⟩ := layout0 1 15 x0 x1 x2 x3 (by decide) (by omega : _ = x)
  clear hx
  refine short_slot hw ?_
  show decodeX x = _
  unfold decodeX
  simp only [h0, p0, e0, e1, e2, e3, Nat.reduceEqDiff, reduceCtorEq, OfNat.ofNat_ne_zero, OfNat.ofNat_ne_one, OfNat.zero_ne_ofNat, OfNat.one_ne_ofNat, one_ne_zero, zero_ne_one, Nat.reduceMod, and_self, and_false, and_true, if_true, if_false]

theorem clz x0 x1 x2 : Statement (.clz x0 x1 x2) := of_slot rfl fun hw => by
  generalize hx : 67108992 + x0.val * 1048576 + x1.val * 16384 + x2.val = x
  obtain ⟨h0, p0, e0, e1, e2⟩ := layout1 1 16 x0 x1 x2 (by decide) (by omega : _ = x)
  clear hx
  have q := mod_low p0
  refine short_slot hw ?_
  show decodeX x = _
  unfold decodeX
  simp only [h0, q, p0, e0, e1, e2, Nat.reduceEqDiff, reduceCtorEq, OfNat.ofNat_ne_zero, OfNat.ofNat_ne_one, OfNat.zero_ne_ofNat, OfNat.one_ne_ofNat, one_ne_zero, zero_ne_one, Nat.reduceMod, and_self, and_false, and_true, if_true, if_false]

theorem ctz x0 x1 x2 : Statement (.ctz x0 x1 x2) := of_slot rfl fun hw => by
  generalize hx : 67109000 + x0.val * 1048576 + x1.val * 16384 + x2.val = x
  obtain ⟨h0, p0, e0, e1, e2⟩ := layout1 1 17 x0 x1 x2 (by decide) (by omega : _ = x)
  clear hx
  have q := mod_low p0
  refine short_slot hw ?_
  show decodeX x = _
  unfold decodeX
  simp only [h0, q, p0, e0, e1, e2, Nat.reduceEqDiff, reduceCtorEq, OfNat.ofNat_ne_zero, OfNat.ofNat_ne_one, OfNat.zero_ne_ofNat, OfNat.one_ne_ofNat, one_ne_zero, zero_ne_one, Nat.reduceMod, and_self, and_false, and_true, if_true, if_false]

theorem popc x0 x1 x2 : Statement (.popc x0 x1 x2) := of_slot rfl fun hw => by
  generalize hx : 67109008 + x0.val * 1048576 + x1.val * 16384 + x2.val = x
  obtain ⟨h0, p0, e0, e1, e2⟩ := layout1 1 18 x0 x1 x2 (by decide) (by omega : _ = x)
  clear hx
  have q := mod_low p0
  refine short_slot hw ?_
  show decodeX x = _
  unfold decodeX
  simp only [h0, q, p0, e0, e1, e2, Nat.reduceEqDiff, reduceCtorEq, OfNat.ofNat_ne_zero, OfNat.ofNat_ne_one, OfNat.zero_ne_ofNat, OfNat.one_ne_ofNat, one_ne_zero, zero_ne_one, Nat.reduceMod, and_self, and_false, and_true, if_true, if_false]

theorem bswap x0 x1 x2 : Statement (.bswap x0 x1 x2) := of_slot rfl fun hw => by
  generalize hx : 67109016 + x0.val * 1048576 + x1.val * 16384 + x2.val = x
  obtain ⟨h0, p0, e0, e1, e2⟩ := layout1 1 19 x0 x1 x2 (by decide) (by omega : _ = x)
  clear hx
  have q := mod_low p0
  refine short_slot hw ?_
  show decodeX x = _
  unfold decodeX
  simp only [h0, q, p0, e0, e1, e2, Nat.reduceEqDiff, reduceCtorEq, OfNat.ofNat_ne_zero, OfNat.ofNat_ne_one, OfNat.zero_ne_ofNat, OfNat.one_ne_ofNat, one_ne_zero, zero_ne_one, Nat.reduceMod, and_self, and_false, and_true, if_true, if_false]

theorem mul x0 x1 x2 x3 : Statement (.mul x0 x1 x2 x3) := of_slot rfl fun hw => by
  generalize hx : 67109024 + x0.val * 1048576 + x1.val * 16384 + x2.val * 256 + x3.val = x
  obtain ⟨h0, p0, e0, e1, e2, e3⟩ := layout0 1 20 x0 x1 x2 x3 (by decide) (by omega : _ = x)
  clear hx
  have n16 := mod_high p0 16 (by decide)
  have n17 := mod_high p0 17 (by decide)
  have n18 := mod_high p0 18 (by decide)
  have n19 := mod_high p0 19 (by decide)
  refine short_slot hw ?_
  show decodeX x = _
  unfold decodeX
  simp only [h0, n16, n17, n18, n19, p0, e0, e1, e2, e3, Nat.reduceEqDiff, reduceCtorEq, OfNat.ofNat_ne_zero, OfNat.ofNat_ne_one, OfNat.zero_ne_ofNat, OfNat.one_ne_ofNat, one_ne_zero, zero_ne_one, Nat.reduceMod, and_self, and_false, and_true, if_true, if_false]

theorem mulh x0 x1 x2 x3 : Statement (.mulh x0 x1 x2 x3) := of_slot rfl fun hw => by
  generalize hx : 67109032 + x0.val * 1048576 + x1.val * 16384 + x2.val * 256 + x3.val = x
  obtain ⟨h0, p0, e0, e1, e2, e3⟩ := layout0 1 21 x0 x1 x2 x3 (by decide) (by omega : _ = x)
  clear hx
  have n16 := mod_high p0 16 (by decide)
  have n17 := mod_high p0 17 (by decide)
  have n18 := mod_high p0 18 (by decide)
  have n19 := mod_high p0 19 (by decide)
  refine short_slot hw ?_
  show decodeX x = _
  unfold decodeX
  simp only [h0, n16, n17, n18, n19, p0, e0, e1, e2, e3, Nat.reduceEqDiff, reduceCtorEq, OfNat.ofNat_ne_zero, OfNat.ofNat_ne_one, OfNat.zero_ne_ofNat, OfNat.one_ne_ofNat, one_ne_zero, zero_ne_one, Nat.reduceMod, and_self, and_false, and_true, if_true, if_false]

theorem mulhn x0 x1 x2 x3 : Statement (.mulhn x0 x1 x2 x3) := of_slot rfl fun hw => by
  generalize hx : 67109040 + x0.val * 1048576 + x1.val * 16384 + x2.val * 256 + x3.val = x
  obtain ⟨h0, p0, e0, e1, e2, e3⟩ := layout0 1 22 x0 x1 x2 x3 (by decide) (by omega : _ = x)
  clear hx
  have n16 := mod_high p0 16 (by decide)
  have n17 := mod_high p0 17 (by decide)
  have n18 := mod_high p0 18 (by decide)
  have n19 := mod_high p0 19 (by decide)
  refine short_slot hw ?_
  show decodeX x = _
  unfold decodeX
  simp only [h0, n16, n17, n18, n19, p0, e0, e1, e2, e3, Nat.reduceEqDiff, reduceCtorEq, OfNat.ofNat_ne_zero, OfNat.ofNat_ne_one, OfNat.zero_ne_ofNat, OfNat.one_ne_ofNat, one_ne_zero, zero_ne_one, Nat.reduceMod, and_self, and_false, and_true, if_true, if_false]

theorem addi x0 x1 x2 x3 : Statement (.addi x0 x1 x2 x3) := of_slot rfl fun hw => by
  generalize hx : 134217728 + x0.val * 1048576 + x1.val * 16384 + x2.toNat * 8 + x3.val = x
  obtain ⟨h0, e0, e1, e2, e3⟩ := layout2 2 x0 x1 x2 x3 (by omega : _ = x)
  clear hx
  refine short_slot hw ?_
  show decodeX x = _
  unfold decodeX
  simp only [h0, e0, e1, e2, e3, Nat.reduceEqDiff, reduceCtorEq, OfNat.ofNat_ne_zero, OfNat.ofNat_ne_one, OfNat.zero_ne_ofNat, OfNat.one_ne_ofNat, one_ne_zero, zero_ne_one, Nat.reduceMod, and_self, and_false, and_true, if_true, if_false]

theorem andi x0 x1 x2 x3 : Statement (.andi x0 x1 x2 x3) := of_slot rfl fun hw => by
  generalize hx : 201326592 + x0.val * 1048576 + x1.val * 16384 + x2.toNat * 8 + x3.val = x
  obtain ⟨h0, e0, e1, e2, e3⟩ := layout2 3 x0 x1 x2 x3 (by omega : _ = x)
  clear hx
  refine short_slot hw ?_
  show decodeX x = _
  unfold decodeX
  simp only [h0, e0, e1, e2, e3, Nat.reduceEqDiff, reduceCtorEq, OfNat.ofNat_ne_zero, OfNat.ofNat_ne_one, OfNat.zero_ne_ofNat, OfNat.one_ne_ofNat, one_ne_zero, zero_ne_one, Nat.reduceMod, and_self, and_false, and_true, if_true, if_false]

theorem ori x0 x1 x2 x3 : Statement (.ori x0 x1 x2 x3) := of_slot rfl fun hw => by
  generalize hx : 268435456 + x0.val * 1048576 + x1.val * 16384 + x2.toNat * 8 + x3.val = x
  obtain ⟨h0, e0, e1, e2, e3⟩ := layout2 4 x0 x1 x2 x3 (by omega : _ = x)
  clear hx
  refine short_slot hw ?_
  show decodeX x = _
  unfold decodeX
  simp only [h0, e0, e1, e2, e3, Nat.reduceEqDiff, reduceCtorEq, OfNat.ofNat_ne_zero, OfNat.ofNat_ne_one, OfNat.zero_ne_ofNat, OfNat.one_ne_ofNat, one_ne_zero, zero_ne_one, Nat.reduceMod, and_self, and_false, and_true, if_true, if_false]

theorem xori x0 x1 x2 x3 : Statement (.xori x0 x1 x2 x3) := of_slot rfl fun hw => by
  generalize hx : 335544320 + x0.val * 1048576 + x1.val * 16384 + x2.toNat * 8 + x3.val = x
  obtain ⟨h0, e0, e1, e2, e3⟩ := layout2 5 x0 x1 x2 x3 (by omega : _ = x)
  clear hx
  refine short_slot hw ?_
  show decodeX x = _
  unfold decodeX
  simp only [h0, e0, e1, e2, e3, Nat.reduceEqDiff, reduceCtorEq, OfNat.ofNat_ne_zero, OfNat.ofNat_ne_one, OfNat.zero_ne_ofNat, OfNat.one_ne_ofNat, one_ne_zero, zero_ne_one, Nat.reduceMod, and_self, and_false, and_true, if_true, if_false]

theorem shli x0 x1 x2 x3 : Statement (.shli x0 x1 x2 x3) := of_slot rfl fun hw => by
  generalize hx : 402653184 + x0.val * 1048576 + x1.val * 16384 + x2.val * 8 + x3.val = x
  obtain ⟨h0, p0, e0, e1, e2, e3⟩ := layout3 6 0 x0 x1 x2 x3 (by decide) (by omega : _ = x)
  clear hx
  refine short_slot hw ?_
  show decodeX x = _
  unfold decodeX
  simp only [h0, p0, e0, e1, e2, e3, Nat.reduceEqDiff, reduceCtorEq, OfNat.ofNat_ne_zero, OfNat.ofNat_ne_one, OfNat.zero_ne_ofNat, OfNat.one_ne_ofNat, one_ne_zero, zero_ne_one, Nat.reduceMod, and_self, and_false, and_true, if_true, if_false]

theorem shri x0 x1 x2 x3 : Statement (.shri x0 x1 x2 x3) := of_slot rfl fun hw => by
  generalize hx : 402657280 + x0.val * 1048576 + x1.val * 16384 + x2.val * 8 + x3.val = x
  obtain ⟨h0, p0, e0, e1, e2, e3⟩ := layout3 6 8 x0 x1 x2 x3 (by decide) (by omega : _ = x)
  clear hx
  refine short_slot hw ?_
  show decodeX x = _
  unfold decodeX
  simp only [h0, p0, e0, e1, e2, e3, Nat.reduceEqDiff, reduceCtorEq, OfNat.ofNat_ne_zero, OfNat.ofNat_ne_one, OfNat.zero_ne_ofNat, OfNat.one_ne_ofNat, one_ne_zero, zero_ne_one, Nat.reduceMod, and_self, and_false, and_true, if_true, if_false]

theorem srai x0 x1 x2 x3 : Statement (.srai x0 x1 x2 x3) := of_slot rfl fun hw => by
  generalize hx : 402661376 + x0.val * 1048576 + x1.val * 16384 + x2.val * 8 + x3.val = x
  obtain ⟨h0, p0, e0, e1, e2, e3⟩ := layout3 6 16 x0 x1 x2 x3 (by decide) (by omega : _ = x)
  clear hx
  refine short_slot hw ?_
  show decodeX x = _
  unfold decodeX
  simp only [h0, p0, e0, e1, e2, e3, Nat.reduceEqDiff, reduceCtorEq, OfNat.ofNat_ne_zero, OfNat.ofNat_ne_one, OfNat.zero_ne_ofNat, OfNat.one_ne_ofNat, one_ne_zero, zero_ne_one, Nat.reduceMod, and_self, and_false, and_true, if_true, if_false]

theorem roli x0 x1 x2 x3 : Statement (.roli x0 x1 x2 x3) := of_slot rfl fun hw => by
  generalize hx : 402665472 + x0.val * 1048576 + x1.val * 16384 + x2.val * 8 + x3.val = x
  obtain ⟨h0, p0, e0, e1, e2, e3⟩ := layout3 6 24 x0 x1 x2 x3 (by decide) (by omega : _ = x)
  clear hx
  refine short_slot hw ?_
  show decodeX x = _
  unfold decodeX
  simp only [h0, p0, e0, e1, e2, e3, Nat.reduceEqDiff, reduceCtorEq, OfNat.ofNat_ne_zero, OfNat.ofNat_ne_one, OfNat.zero_ne_ofNat, OfNat.one_ne_ofNat, one_ne_zero, zero_ne_one, Nat.reduceMod, and_self, and_false, and_true, if_true, if_false]

theorem ldi x0 x1 x2 : Statement (.ldi x0 x1 x2) := of_slot rfl fun hw => by
  generalize hx : 469762048 + x0.val * 1048576 + x1.toNat * 8 + x2.val = x
  obtain ⟨h0, p0, e0, e1, e2⟩ := layout4 7 0 x0 x1 x2 (by decide) (by omega : _ = x)
  clear hx
  refine short_slot hw ?_
  show decodeX x = _
  unfold decodeX
  simp only [h0, p0, e0, e1, e2, Nat.reduceEqDiff, reduceCtorEq, OfNat.ofNat_ne_zero, OfNat.ofNat_ne_one, OfNat.zero_ne_ofNat, OfNat.one_ne_ofNat, one_ne_zero, zero_ne_one, Nat.reduceMod, and_self, and_false, and_true, if_true, if_false]

theorem cmp x0 x1 x2 x3 x4 : Statement (.cmp x0 x1 x2 x3 x4) := of_slot rfl fun hw => by
  generalize hx : 603979776 + x0.val * 524288 + x1.val * 8192 + x2.val * 128 + x3.val * 16 + x4.val = x
  obtain ⟨h0, p0, e0, e1, e2, e3, e4⟩ := layout5 9 0 x0 x1 x2 x3 x4 (by decide) (by omega : _ = x)
  clear hx
  refine short_slot hw ?_
  show decodeX x = _
  unfold decodeX
  simp only [h0, p0, e0, e1, e2, e3, e4, Nat.reduceEqDiff, reduceCtorEq, OfNat.ofNat_ne_zero, OfNat.ofNat_ne_one, OfNat.zero_ne_ofNat, OfNat.one_ne_ofNat, one_ne_zero, zero_ne_one, Nat.reduceMod, and_self, and_false, and_true, if_true, if_false]

theorem cmpAnd x0 x1 x2 x3 x4 : Statement (.cmpAnd x0 x1 x2 x3 x4) := of_slot rfl fun hw => by
  generalize hx : 603979784 + x0.val * 524288 + x1.val * 8192 + x2.val * 128 + x3.val * 16 + x4.val = x
  obtain ⟨h0, p0, e0, e1, e2, e3, e4⟩ := layout5 9 1 x0 x1 x2 x3 x4 (by decide) (by omega : _ = x)
  clear hx
  refine short_slot hw ?_
  show decodeX x = _
  unfold decodeX
  simp only [h0, p0, e0, e1, e2, e3, e4, Nat.reduceEqDiff, reduceCtorEq, OfNat.ofNat_ne_zero, OfNat.ofNat_ne_one, OfNat.zero_ne_ofNat, OfNat.one_ne_ofNat, one_ne_zero, zero_ne_one, Nat.reduceMod, and_self, and_false, and_true, if_true, if_false]

theorem cmpi x0 x1 x2 x3 x4 : Statement (.cmpi x0 x1 x2 x3 x4) := of_slot rfl fun hw => by
  generalize hx : 671088640 + x0.val * 524288 + x1.val * 8192 + x2.val * 1024 + x3.toNat * 8 + x4.val = x
  obtain ⟨h0, e0, e1, e2, e3, e4⟩ := layout6 10 x0 x1 x2 x3 x4 (by omega : _ = x)
  clear hx
  refine short_slot hw ?_
  show decodeX x = _
  unfold decodeX
  simp only [h0, e0, e1, e2, e3, e4, Nat.reduceEqDiff, reduceCtorEq, OfNat.ofNat_ne_zero, OfNat.ofNat_ne_one, OfNat.zero_ne_ofNat, OfNat.one_ne_ofNat, one_ne_zero, zero_ne_one, Nat.reduceMod, and_self, and_false, and_true, if_true, if_false]

theorem pand x0 x1 x2 x3 : Statement (.pand x0 x1 x2 x3) := of_slot rfl fun hw => by
  generalize hx : 738197504 + x0.val * 524288 + x1.val * 4096 + x2.val * 32 + x3.val = x
  obtain ⟨h0, p0, e0, e1, e2, e3⟩ := layout7 11 0 x0 x1 x2 x3 (by decide) (by omega : _ = x)
  clear hx
  refine short_slot hw ?_
  show decodeX x = _
  unfold decodeX
  simp only [h0, p0, e0, e1, e2, e3, Nat.reduceEqDiff, reduceCtorEq, OfNat.ofNat_ne_zero, OfNat.ofNat_ne_one, OfNat.zero_ne_ofNat, OfNat.one_ne_ofNat, one_ne_zero, zero_ne_one, Nat.reduceMod, and_self, and_false, and_true, if_true, if_false]

theorem por x0 x1 x2 x3 : Statement (.por x0 x1 x2 x3) := of_slot rfl fun hw => by
  generalize hx : 738197512 + x0.val * 524288 + x1.val * 4096 + x2.val * 32 + x3.val = x
  obtain ⟨h0, p0, e0, e1, e2, e3⟩ := layout7 11 1 x0 x1 x2 x3 (by decide) (by omega : _ = x)
  clear hx
  refine short_slot hw ?_
  show decodeX x = _
  unfold decodeX
  simp only [h0, p0, e0, e1, e2, e3, Nat.reduceEqDiff, reduceCtorEq, OfNat.ofNat_ne_zero, OfNat.ofNat_ne_one, OfNat.zero_ne_ofNat, OfNat.one_ne_ofNat, one_ne_zero, zero_ne_one, Nat.reduceMod, and_self, and_false, and_true, if_true, if_false]

theorem pxor x0 x1 x2 x3 : Statement (.pxor x0 x1 x2 x3) := of_slot rfl fun hw => by
  generalize hx : 738197520 + x0.val * 524288 + x1.val * 4096 + x2.val * 32 + x3.val = x
  obtain ⟨h0, p0, e0, e1, e2, e3⟩ := layout7 11 2 x0 x1 x2 x3 (by decide) (by omega : _ = x)
  clear hx
  refine short_slot hw ?_
  show decodeX x = _
  unfold decodeX
  simp only [h0, p0, e0, e1, e2, e3, Nat.reduceEqDiff, reduceCtorEq, OfNat.ofNat_ne_zero, OfNat.ofNat_ne_one, OfNat.zero_ne_ofNat, OfNat.one_ne_ofNat, one_ne_zero, zero_ne_one, Nat.reduceMod, and_self, and_false, and_true, if_true, if_false]

theorem pandn x0 x1 x2 x3 : Statement (.pandn x0 x1 x2 x3) := of_slot rfl fun hw => by
  generalize hx : 738197528 + x0.val * 524288 + x1.val * 4096 + x2.val * 32 + x3.val = x
  obtain ⟨h0, p0, e0, e1, e2, e3⟩ := layout7 11 3 x0 x1 x2 x3 (by decide) (by omega : _ = x)
  clear hx
  refine short_slot hw ?_
  show decodeX x = _
  unfold decodeX
  simp only [h0, p0, e0, e1, e2, e3, Nat.reduceEqDiff, reduceCtorEq, OfNat.ofNat_ne_zero, OfNat.ofNat_ne_one, OfNat.zero_ne_ofNat, OfNat.one_ne_ofNat, one_ne_zero, zero_ne_one, Nat.reduceMod, and_self, and_false, and_true, if_true, if_false]

theorem pnot x0 x1 x2 : Statement (.pnot x0 x1 x2) := of_slot rfl fun hw => by
  generalize hx : 805306368 + x0.val * 524288 + x1.val * 4096 + x2.val = x
  obtain ⟨h0, p0, e0, e1, e2⟩ := layout8 12 0 x0 x1 x2 (by decide) (by omega : _ = x)
  clear hx
  refine short_slot hw ?_
  show decodeX x = _
  unfold decodeX
  simp only [h0, p0, e0, e1, e2, Nat.reduceEqDiff, reduceCtorEq, OfNat.ofNat_ne_zero, OfNat.ofNat_ne_one, OfNat.zero_ne_ofNat, OfNat.one_ne_ofNat, one_ne_zero, zero_ne_one, Nat.reduceMod, and_self, and_false, and_true, if_true, if_false]

theorem pset x0 x1 : Statement (.pset x0 x1) := of_slot rfl fun hw => by
  generalize hx : 805306376 + x0.val * 524288 + x1.val = x
  obtain ⟨h0, p0, e0, e1⟩ := layout9 12 1 x0 x1 (by decide) (by omega : _ = x)
  clear hx
  have n0 : ¬(x / 8 % 512 = 0) := by omega
  refine short_slot hw ?_
  show decodeX x = _
  unfold decodeX
  simp only [h0, n0, p0, e0, e1, Nat.reduceEqDiff, reduceCtorEq, OfNat.ofNat_ne_zero, OfNat.ofNat_ne_one, OfNat.zero_ne_ofNat, OfNat.one_ne_ofNat, one_ne_zero, zero_ne_one, Nat.reduceMod, and_self, and_false, and_true, if_true, if_false]

theorem pclr x0 x1 : Statement (.pclr x0 x1) := of_slot rfl fun hw => by
  generalize hx : 805306384 + x0.val * 524288 + x1.val = x
  obtain ⟨h0, p0, e0, e1⟩ := layout9 12 2 x0 x1 (by decide) (by omega : _ = x)
  clear hx
  have n0 : ¬(x / 8 % 512 = 0) := by omega
  refine short_slot hw ?_
  show decodeX x = _
  unfold decodeX
  simp only [h0, n0, p0, e0, e1, Nat.reduceEqDiff, reduceCtorEq, OfNat.ofNat_ne_zero, OfNat.ofNat_ne_one, OfNat.zero_ne_ofNat, OfNat.one_ne_ofNat, one_ne_zero, zero_ne_one, Nat.reduceMod, and_self, and_false, and_true, if_true, if_false]

theorem pfirst x0 x1 x2 : Statement (.pfirst x0 x1 x2) := of_slot rfl fun hw => by
  generalize hx : 805306392 + x0.val * 524288 + x1.val * 4096 + x2.val = x
  obtain ⟨h0, p0, e0, e1, e2⟩ := layout8 12 3 x0 x1 x2 (by decide) (by omega : _ = x)
  clear hx
  have n1 : ¬(x / 8 % 65536 = 1) := by omega
  have n2 : ¬(x / 8 % 65536 = 2) := by omega
  refine short_slot hw ?_
  show decodeX x = _
  unfold decodeX
  simp only [h0, n1, n2, p0, e0, e1, e2, Nat.reduceEqDiff, reduceCtorEq, OfNat.ofNat_ne_zero, OfNat.ofNat_ne_one, OfNat.zero_ne_ofNat, OfNat.one_ne_ofNat, one_ne_zero, zero_ne_one, Nat.reduceMod, and_self, and_false, and_true, if_true, if_false]

theorem pfroms x0 x1 x2 x3 : Statement (.pfroms x0 x1 x2 x3) := of_slot rfl fun hw => by
  generalize hx : 872415232 + x0.val * 524288 + x1.val * 8192 + x2.val * 128 + x3.val = x
  obtain ⟨h0, p0, e0, e1, e2, e3⟩ := layout10 13 0 x0 x1 x2 x3 (by decide) (by omega : _ = x)
  clear hx
  refine short_slot hw ?_
  show decodeX x = _
  unfold decodeX
  simp only [h0, p0, e0, e1, e2, e3, Nat.reduceEqDiff, reduceCtorEq, OfNat.ofNat_ne_zero, OfNat.ofNat_ne_one, OfNat.zero_ne_ofNat, OfNat.one_ne_ofNat, one_ne_zero, zero_ne_one, Nat.reduceMod, and_self, and_false, and_true, if_true, if_false]

theorem pcount x0 x1 x2 : Statement (.pcount x0 x1 x2) := of_slot rfl fun hw => by
  generalize hx : 939524096 + x0.val * 524288 + x1.val * 4096 + x2.val = x
  obtain ⟨h0, p0, e0, e1, e2⟩ := layout8 14 0 x0 x1 x2 (by decide) (by omega : _ = x)
  clear hx
  refine short_slot hw ?_
  show decodeX x = _
  unfold decodeX
  simp only [h0, p0, e0, e1, e2, Nat.reduceEqDiff, reduceCtorEq, OfNat.ofNat_ne_zero, OfNat.ofNat_ne_one, OfNat.zero_ne_ofNat, OfNat.one_ne_ofNat, one_ne_zero, zero_ne_one, Nat.reduceMod, and_self, and_false, and_true, if_true, if_false]

theorem sels x0 x1 x2 x3 x4 : Statement (.sels x0 x1 x2 x3 x4) := of_slot rfl fun hw => by
  generalize hx : 1006632960 + x0.val * 1048576 + x1.val * 16384 + x2.val * 256 + x3.val * 8 + x4.val = x
  obtain ⟨h0, e0, e1, e2, e3, e4⟩ := layout11 15 x0 x1 x2 x3 x4 (by omega : _ = x)
  clear hx
  refine short_slot hw ?_
  show decodeX x = _
  unfold decodeX
  simp only [h0, e0, e1, e2, e3, e4, Nat.reduceEqDiff, reduceCtorEq, OfNat.ofNat_ne_zero, OfNat.ofNat_ne_one, OfNat.zero_ne_ofNat, OfNat.one_ne_ofNat, one_ne_zero, zero_ne_one, Nat.reduceMod, and_self, and_false, and_true, if_true, if_false]

theorem mfs x0 x1 x2 : Statement (.mfs x0 x1 x2) := of_slot rfl fun hw => by
  generalize hx : 1073741824 + x0.val * 1048576 + x1.val * 8 + x2.val = x
  obtain ⟨h0, p0, e0, e1, e2⟩ := layout12 16 0 x0 x1 x2 (by decide) (by omega : _ = x)
  clear hx
  refine short_slot hw ?_
  show decodeX x = _
  unfold decodeX
  simp only [h0, p0, e0, e1, e2, Nat.reduceEqDiff, reduceCtorEq, OfNat.ofNat_ne_zero, OfNat.ofNat_ne_one, OfNat.zero_ne_ofNat, OfNat.one_ne_ofNat, one_ne_zero, zero_ne_one, Nat.reduceMod, and_self, and_false, and_true, if_true, if_false]

theorem mts x0 x1 x2 : Statement (.mts x0 x1 x2) := of_slot rfl fun hw => by
  generalize hx : 1140850688 + x0.val * 16384 + x1.val * 8 + x2.val = x
  obtain ⟨h0, p0, e0, e1, e2⟩ := layout13 17 0 x0 x1 x2 (by decide) (by omega : _ = x)
  clear hx
  refine short_slot hw ?_
  show decodeX x = _
  unfold decodeX
  simp only [h0, p0, e0, e1, e2, Nat.reduceEqDiff, reduceCtorEq, OfNat.ofNat_ne_zero, OfNat.ofNat_ne_one, OfNat.zero_ne_ofNat, OfNat.one_ne_ofNat, one_ne_zero, zero_ne_one, Nat.reduceMod, and_self, and_false, and_true, if_true, if_false]

theorem loop x0 x1 x2 : Statement (.loop x0 x1 x2) := of_slot rfl fun hw => by
  generalize hx : 1207959552 + x0.val * 16384 + x1.val * 8 + x2.val = x
  obtain ⟨h0, p0, e0, e1, e2⟩ := layout13 18 0 x0 x1 x2 (by decide) (by omega : _ = x)
  clear hx
  refine short_slot hw ?_
  show decodeX x = _
  unfold decodeX
  simp only [h0, p0, e0, e1, e2, Nat.reduceEqDiff, reduceCtorEq, OfNat.ofNat_ne_zero, OfNat.ofNat_ne_one, OfNat.zero_ne_ofNat, OfNat.one_ne_ofNat, one_ne_zero, zero_ne_one, Nat.reduceMod, and_self, and_false, and_true, if_true, if_false]

theorem loopi x0 x1 x2 : Statement (.loopi x0 x1 x2) := of_slot rfl fun hw => by
  generalize hx : 1275068416 + x0.val * 16384 + x1.val * 8 + x2.val = x
  obtain ⟨h0, e0, e1, e2⟩ := layout14 19 x0 x1 x2 (by omega : _ = x)
  clear hx
  refine short_slot hw ?_
  show decodeX x = _
  unfold decodeX
  simp only [h0, e0, e1, e2, Nat.reduceEqDiff, reduceCtorEq, OfNat.ofNat_ne_zero, OfNat.ofNat_ne_one, OfNat.zero_ne_ofNat, OfNat.one_ne_ofNat, one_ne_zero, zero_ne_one, Nat.reduceMod, and_self, and_false, and_true, if_true, if_false]

theorem brklp x0 : Statement (.brklp x0) := of_slot rfl fun hw => by
  generalize hx : 1342177280 + x0.val = x
  obtain ⟨h0, p0, e0⟩ := layout15 20 0 x0 (by decide) (by omega : _ = x)
  clear hx
  refine short_slot hw ?_
  show decodeX x = _
  unfold decodeX
  simp only [h0, p0, e0, Nat.reduceEqDiff, reduceCtorEq, OfNat.ofNat_ne_zero, OfNat.ofNat_ne_one, OfNat.zero_ne_ofNat, OfNat.one_ne_ofNat, one_ne_zero, zero_ne_one, Nat.reduceMod, and_self, and_false, and_true, if_true, if_false]

theorem waitc x0 x1 x2 : Statement (.waitc x0 x1 x2) := of_slot rfl fun hw => by
  generalize hx : 1409286144 + x0.val * 16384 + x1.val * 8 + x2.val = x
  obtain ⟨h0, p0, e0, e1, e2⟩ := layout13 21 0 x0 x1 x2 (by decide) (by omega : _ = x)
  clear hx
  refine short_slot hw ?_
  show decodeX x = _
  unfold decodeX
  simp only [h0, p0, e0, e1, e2, Nat.reduceEqDiff, reduceCtorEq, OfNat.ofNat_ne_zero, OfNat.ofNat_ne_one, OfNat.zero_ne_ofNat, OfNat.one_ne_ofNat, one_ne_zero, zero_ne_one, Nat.reduceMod, and_self, and_false, and_true, if_true, if_false]

theorem trap x0 x1 : Statement (.trap x0 x1) := of_slot rfl fun hw => by
  generalize hx : 1476395008 + x0.toNat * 256 + x1.val = x
  obtain ⟨h0, p0, p1, e0, e1⟩ := layout16 22 0 0 x0 x1 (by decide) (by decide) (by omega : _ = x)
  clear hx
  have n0 : ¬(x / 8 % 8388608 = 1) := by omega
  have n1 : ¬(x / 8 % 8388608 = 2) := by omega
  have n2 : ¬(x / 8 % 8388608 = 3) := by omega
  have n3 : ¬(x / 8 % 8388608 = 4) := by omega
  have n4 : ¬(x / 8 % 8388608 = 6) := by omega
  have n5 : ¬(x / 8 % 8388608 = 38) := by omega
  have n6 : ¬(x / 8 % 8388608 = 70) := by omega
  have n7 : ¬(x / 8 % 8388608 = 102) := by omega
  have n8 : ¬(x / 8 % 131072 = 5) := by omega
  refine short_slot hw ?_
  show decodeX x = _
  unfold decodeX
  simp only [h0, n0, n1, n2, n3, n4, n5, n6, n7, n8, p0, p1, e0, e1, Nat.reduceEqDiff, reduceCtorEq, OfNat.ofNat_ne_zero, OfNat.ofNat_ne_one, OfNat.zero_ne_ofNat, OfNat.one_ne_ofNat, one_ne_zero, zero_ne_one, Nat.reduceMod, and_self, and_false, and_true, if_true, if_false]

theorem rft x0 : Statement (.rft x0) := of_slot rfl fun hw => by
  generalize hx : 1476395016 + x0.val = x
  obtain ⟨h0, p0, e0⟩ := layout15 22 1 x0 (by decide) (by omega : _ = x)
  clear hx
  refine short_slot hw ?_
  show decodeX x = _
  unfold decodeX
  simp only [h0, p0, e0, Nat.reduceEqDiff, reduceCtorEq, OfNat.ofNat_ne_zero, OfNat.ofNat_ne_one, OfNat.zero_ne_ofNat, OfNat.one_ne_ofNat, one_ne_zero, zero_ne_one, Nat.reduceMod, and_self, and_false, and_true, if_true, if_false]

theorem yield x0 : Statement (.yield x0) := of_slot rfl fun hw => by
  generalize hx : 1476395024 + x0.val = x
  obtain ⟨h0, p0, e0⟩ := layout15 22 2 x0 (by decide) (by omega : _ = x)
  clear hx
  refine short_slot hw ?_
  show decodeX x = _
  unfold decodeX
  simp only [h0, p0, e0, Nat.reduceEqDiff, reduceCtorEq, OfNat.ofNat_ne_zero, OfNat.ofNat_ne_one, OfNat.zero_ne_ofNat, OfNat.one_ne_ofNat, one_ne_zero, zero_ne_one, Nat.reduceMod, and_self, and_false, and_true, if_true, if_false]

theorem tend x0 : Statement (.tend x0) := of_slot rfl fun hw => by
  generalize hx : 1476395032 + x0.val = x
  obtain ⟨h0, p0, e0⟩ := layout15 22 3 x0 (by decide) (by omega : _ = x)
  clear hx
  refine short_slot hw ?_
  show decodeX x = _
  unfold decodeX
  simp only [h0, p0, e0, Nat.reduceEqDiff, reduceCtorEq, OfNat.ofNat_ne_zero, OfNat.ofNat_ne_one, OfNat.zero_ne_ofNat, OfNat.one_ne_ofNat, one_ne_zero, zero_ne_one, Nat.reduceMod, and_self, and_false, and_true, if_true, if_false]

theorem fencel x0 : Statement (.fencel x0) := of_slot rfl fun hw => by
  generalize hx : 1476395040 + x0.val = x
  obtain ⟨h0, p0, e0⟩ := layout15 22 4 x0 (by decide) (by omega : _ = x)
  clear hx
  refine short_slot hw ?_
  show decodeX x = _
  unfold decodeX
  simp only [h0, p0, e0, Nat.reduceEqDiff, reduceCtorEq, OfNat.ofNat_ne_zero, OfNat.ofNat_ne_one, OfNat.zero_ne_ofNat, OfNat.one_ne_ofNat, one_ne_zero, zero_ne_one, Nat.reduceMod, and_self, and_false, and_true, if_true, if_false]

theorem fenceh x0 x1 : Statement (.fenceh x0 x1) := of_slot rfl fun hw => by
  generalize hx : 1476395048 + x0.val * 1048576 + x1.val = x
  obtain ⟨h0, p0, e0, e1⟩ := layout17 22 5 x0 x1 (by decide) (by omega : _ = x)
  clear hx
  have n0 : ¬(x / 8 % 8388608 = 1) := by omega
  have n1 : ¬(x / 8 % 8388608 = 2) := by omega
  have n2 : ¬(x / 8 % 8388608 = 3) := by omega
  have n3 : ¬(x / 8 % 8388608 = 4) := by omega
  have n4 : ¬(x / 8 % 8388608 = 6) := by omega
  have n5 : ¬(x / 8 % 8388608 = 38) := by omega
  have n6 : ¬(x / 8 % 8388608 = 70) := by omega
  have n7 : ¬(x / 8 % 8388608 = 102) := by omega
  refine short_slot hw ?_
  show decodeX x = _
  unfold decodeX
  simp only [h0, n0, n1, n2, n3, n4, n5, n6, n7, p0, e0, e1, Nat.reduceEqDiff, reduceCtorEq, OfNat.ofNat_ne_zero, OfNat.ofNat_ne_one, OfNat.zero_ne_ofNat, OfNat.one_ne_ofNat, one_ne_zero, zero_ne_one, Nat.reduceMod, and_self, and_false, and_true, if_true, if_false]

theorem svc x0 x1 : Statement (.svc x0 x1) := of_slot rfl fun hw => by
  generalize hx : 1476395056 + x0.toNat * 256 + x1.val = x
  obtain ⟨h0, p0, p1, e0, e1⟩ := layout16 22 0 6 x0 x1 (by decide) (by decide) (by omega : _ = x)
  have hc : 3 < x0.toNat := by simp [Instr.wellFormed] at hw; exact hw.1
  have n0 : ¬(x / 8 % 8388608 = 1) := by omega
  have n1 : ¬(x / 8 % 8388608 = 2) := by omega
  have n2 : ¬(x / 8 % 8388608 = 3) := by omega
  have n3 : ¬(x / 8 % 8388608 = 4) := by omega
  have n4 : ¬(x / 8 % 8388608 = 6) := by omega
  have n5 : ¬(x / 8 % 8388608 = 38) := by omega
  have n6 : ¬(x / 8 % 8388608 = 70) := by omega
  have n7 : ¬(x / 8 % 8388608 = 102) := by omega
  have n8 : ¬(x / 8 % 131072 = 5) := by omega
  have n9 : ¬(x / 1048576 % 64 = 0 ∧ x / 8 % 32 = 0) := by omega
  refine short_slot hw ?_
  show decodeX x = _
  unfold decodeX
  simp only [h0, n0, n1, n2, n3, n4, n5, n6, n7, n8, n9, p0, p1, e0, e1, Nat.reduceEqDiff, reduceCtorEq, OfNat.ofNat_ne_zero, OfNat.ofNat_ne_one, OfNat.zero_ne_ofNat, OfNat.one_ne_ofNat, one_ne_zero, zero_ne_one, Nat.reduceMod, and_self, and_false, and_true, if_true, if_false]

theorem svcNop x0 : Statement (.svcNop x0) := of_slot rfl fun hw => by
  generalize hx : 1476395056 + x0.val = x
  obtain ⟨h0, p0, e0⟩ := layout15 22 6 x0 (by decide) (by omega : _ = x)
  clear hx
  refine short_slot hw ?_
  show decodeX x = _
  unfold decodeX
  simp only [h0, p0, e0, Nat.reduceEqDiff, reduceCtorEq, OfNat.ofNat_ne_zero, OfNat.ofNat_ne_one, OfNat.zero_ne_ofNat, OfNat.one_ne_ofNat, one_ne_zero, zero_ne_one, Nat.reduceMod, and_self, and_false, and_true, if_true, if_false]

theorem svcLog x0 : Statement (.svcLog x0) := of_slot rfl fun hw => by
  generalize hx : 1476395312 + x0.val = x
  obtain ⟨h0, p0, e0⟩ := layout15 22 38 x0 (by decide) (by omega : _ = x)
  clear hx
  refine short_slot hw ?_
  show decodeX x = _
  unfold decodeX
  simp only [h0, p0, e0, Nat.reduceEqDiff, reduceCtorEq, OfNat.ofNat_ne_zero, OfNat.ofNat_ne_one, OfNat.zero_ne_ofNat, OfNat.one_ne_ofNat, one_ne_zero, zero_ne_one, Nat.reduceMod, and_self, and_false, and_true, if_true, if_false]

theorem svcProbe x0 : Statement (.svcProbe x0) := of_slot rfl fun hw => by
  generalize hx : 1476395568 + x0.val = x
  obtain ⟨h0, p0, e0⟩ := layout15 22 70 x0 (by decide) (by omega : _ = x)
  clear hx
  refine short_slot hw ?_
  show decodeX x = _
  unfold decodeX
  simp only [h0, p0, e0, Nat.reduceEqDiff, reduceCtorEq, OfNat.ofNat_ne_zero, OfNat.ofNat_ne_one, OfNat.zero_ne_ofNat, OfNat.one_ne_ofNat, one_ne_zero, zero_ne_one, Nat.reduceMod, and_self, and_false, and_true, if_true, if_false]

theorem svcTouch x0 : Statement (.svcTouch x0) := of_slot rfl fun hw => by
  generalize hx : 1476395824 + x0.val = x
  obtain ⟨h0, p0, e0⟩ := layout15 22 102 x0 (by decide) (by omega : _ = x)
  clear hx
  refine short_slot hw ?_
  show decodeX x = _
  unfold decodeX
  simp only [h0, p0, e0, Nat.reduceEqDiff, reduceCtorEq, OfNat.ofNat_ne_zero, OfNat.ofNat_ne_one, OfNat.zero_ne_ofNat, OfNat.one_ne_ofNat, one_ne_zero, zero_ne_one, Nat.reduceMod, and_self, and_false, and_true, if_true, if_false]

theorem bt x0 x1 : Statement (.bt x0 x1) := of_slot rfl fun hw => by
  generalize hx : 0 + x0.val * 4194304 + x1.toNat = x
  obtain ⟨h0, e0, e1⟩ := layout18 0 x0 x1 (by omega : _ = x)
  clear hx
  refine short_slot hw ?_
  show decodeB x = _
  unfold decodeB
  simp only [h0, e0, e1, Nat.reduceEqDiff, reduceCtorEq, OfNat.ofNat_ne_zero, OfNat.ofNat_ne_one, OfNat.zero_ne_ofNat, OfNat.one_ne_ofNat, one_ne_zero, zero_ne_one, Nat.reduceMod, and_self, and_false, and_true, if_true, if_false]

theorem bf x0 x1 : Statement (.bf x0 x1) := of_slot rfl fun hw => by
  generalize hx : 536870912 + x0.val * 4194304 + x1.toNat = x
  obtain ⟨h0, e0, e1⟩ := layout18 1 x0 x1 (by omega : _ = x)
  clear hx
  refine short_slot hw ?_
  show decodeB x = _
  unfold decodeB
  simp only [h0, e0, e1, Nat.reduceEqDiff, reduceCtorEq, OfNat.ofNat_ne_zero, OfNat.ofNat_ne_one, OfNat.zero_ne_ofNat, OfNat.one_ne_ofNat, one_ne_zero, zero_ne_one, Nat.reduceMod, and_self, and_false, and_true, if_true, if_false]

theorem bany x0 x1 : Statement (.bany x0 x1) := of_slot rfl fun hw => by
  generalize hx : 1073741824 + x0.val * 4194304 + x1.toNat = x
  obtain ⟨h0, e0, e1⟩ := layout18 2 x0 x1 (by omega : _ = x)
  clear hx
  refine short_slot hw ?_
  show decodeB x = _
  unfold decodeB
  simp only [h0, e0, e1, Nat.reduceEqDiff, reduceCtorEq, OfNat.ofNat_ne_zero, OfNat.ofNat_ne_one, OfNat.zero_ne_ofNat, OfNat.one_ne_ofNat, one_ne_zero, zero_ne_one, Nat.reduceMod, and_self, and_false, and_true, if_true, if_false]

theorem ball x0 x1 : Statement (.ball x0 x1) := of_slot rfl fun hw => by
  generalize hx : 1610612736 + x0.val * 4194304 + x1.toNat = x
  obtain ⟨h0, e0, e1⟩ := layout18 3 x0 x1 (by omega : _ = x)
  clear hx
  refine short_slot hw ?_
  show decodeB x = _
  unfold decodeB
  simp only [h0, e0, e1, Nat.reduceEqDiff, reduceCtorEq, OfNat.ofNat_ne_zero, OfNat.ofNat_ne_one, OfNat.zero_ne_ofNat, OfNat.one_ne_ofNat, one_ne_zero, zero_ne_one, Nat.reduceMod, and_self, and_false, and_true, if_true, if_false]

theorem j x0 : Statement (.j x0) := of_slot rfl fun hw => by
  generalize hx : 2147483648 + x0.toNat = x
  obtain ⟨h0, p0, e0⟩ := layout19 4 0 x0 (by decide) (by omega : _ = x)
  clear hx
  refine short_slot hw ?_
  show decodeB x = _
  unfold decodeB
  simp only [h0, p0, e0, Nat.reduceEqDiff, reduceCtorEq, OfNat.ofNat_ne_zero, OfNat.ofNat_ne_one, OfNat.zero_ne_ofNat, OfNat.one_ne_ofNat, one_ne_zero, zero_ne_one, Nat.reduceMod, and_self, and_false, and_true, if_true, if_false]

theorem call x0 : Statement (.call x0) := of_slot rfl fun hw => by
  generalize hx : 2684354560 + x0.toNat = x
  obtain ⟨h0, p0, e0⟩ := layout19 5 0 x0 (by decide) (by omega : _ = x)
  clear hx
  refine short_slot hw ?_
  show decodeB x = _
  unfold decodeB
  simp only [h0, p0, e0, Nat.reduceEqDiff, reduceCtorEq, OfNat.ofNat_ne_zero, OfNat.ofNat_ne_one, OfNat.zero_ne_ofNat, OfNat.one_ne_ofNat, one_ne_zero, zero_ne_one, Nat.reduceMod, and_self, and_false, and_true, if_true, if_false]

theorem chk x0 x1 : Statement (.chk x0 x1) := of_slot rfl fun hw => by
  generalize hx : 3221225472 + x0.val * 4194304 + x1.toNat = x
  obtain ⟨h0, e0, e1⟩ := layout18 6 x0 x1 (by omega : _ = x)
  clear hx
  refine short_slot hw ?_
  show decodeB x = _
  unfold decodeB
  simp only [h0, e0, e1, Nat.reduceEqDiff, reduceCtorEq, OfNat.ofNat_ne_zero, OfNat.ofNat_ne_one, OfNat.zero_ne_ofNat, OfNat.one_ne_ofNat, one_ne_zero, zero_ne_one, Nat.reduceMod, and_self, and_false, and_true, if_true, if_false]

theorem jr x0 x1 : Statement (.jr x0 x1) := of_slot rfl fun hw => by
  generalize hx : 3758096384 + x0.val * 268435456 + x1.val * 4194304 = x
  obtain ⟨h0, p0, e0, e1⟩ := layout20 7 0 x0 x1 (by decide) (by omega : _ = x)
  clear hx
  refine short_slot hw ?_
  show decodeB x = _
  unfold decodeB
  simp only [h0, p0, e0, e1, Nat.reduceEqDiff, reduceCtorEq, OfNat.ofNat_ne_zero, OfNat.ofNat_ne_one, OfNat.zero_ne_ofNat, OfNat.one_ne_ofNat, one_ne_zero, zero_ne_one, Nat.reduceMod, and_self, and_false, and_true, if_true, if_false]

theorem ldb x0 x1 x2 x3 : Statement (.ldb x0 x1 x2 x3) := of_slot rfl fun hw => by
  generalize hx : 67108864 + x0.val * 1048576 + x1.val * 16384 + x2.toNat * 8 + x3.val = x
  obtain ⟨h0, e0, e1, e2, e3⟩ := layout2 1 x0 x1 x2 x3 (by omega : _ = x)
  clear hx
  refine short_slot hw ?_
  show decodeM x = _
  unfold decodeM
  simp only [h0, e0, e1, e2, e3, Nat.reduceEqDiff, reduceCtorEq, OfNat.ofNat_ne_zero, OfNat.ofNat_ne_one, OfNat.zero_ne_ofNat, OfNat.one_ne_ofNat, one_ne_zero, zero_ne_one, Nat.reduceMod, and_self, and_false, and_true, if_true, if_false]

theorem ldbn x0 x1 x2 x3 : Statement (.ldbn x0 x1 x2 x3) := of_slot rfl fun hw => by
  generalize hx : 134217728 + x0.val * 1048576 + x1.val * 16384 + x2.toNat * 8 + x3.val = x
  obtain ⟨h0, e0, e1, e2, e3⟩ := layout2 2 x0 x1 x2 x3 (by omega : _ = x)
  clear hx
  refine short_slot hw ?_
  show decodeM x = _
  unfold decodeM
  simp only [h0, e0, e1, e2, e3, Nat.reduceEqDiff, reduceCtorEq, OfNat.ofNat_ne_zero, OfNat.ofNat_ne_one, OfNat.zero_ne_ofNat, OfNat.one_ne_ofNat, one_ne_zero, zero_ne_one, Nat.reduceMod, and_self, and_false, and_true, if_true, if_false]

theorem ldh x0 x1 x2 x3 : Statement (.ldh x0 x1 x2 x3) := of_slot rfl fun hw => by
  generalize hx : 201326592 + x0.val * 1048576 + x1.val * 16384 + x2.toNat * 8 + x3.val = x
  obtain ⟨h0, e0, e1, e2, e3⟩ := layout2 3 x0 x1 x2 x3 (by omega : _ = x)
  clear hx
  refine short_slot hw ?_
  show decodeM x = _
  unfold decodeM
  simp only [h0, e0, e1, e2, e3, Nat.reduceEqDiff, reduceCtorEq, OfNat.ofNat_ne_zero, OfNat.ofNat_ne_one, OfNat.zero_ne_ofNat, OfNat.one_ne_ofNat, one_ne_zero, zero_ne_one, Nat.reduceMod, and_self, and_false, and_true, if_true, if_false]

theorem ldhn x0 x1 x2 x3 : Statement (.ldhn x0 x1 x2 x3) := of_slot rfl fun hw => by
  generalize hx : 268435456 + x0.val * 1048576 + x1.val * 16384 + x2.toNat * 8 + x3.val = x
  obtain ⟨h0, e0, e1, e2, e3⟩ := layout2 4 x0 x1 x2 x3 (by omega : _ = x)
  clear hx
  refine short_slot hw ?_
  show decodeM x = _
  unfold decodeM
  simp only [h0, e0, e1, e2, e3, Nat.reduceEqDiff, reduceCtorEq, OfNat.ofNat_ne_zero, OfNat.ofNat_ne_one, OfNat.zero_ne_ofNat, OfNat.one_ne_ofNat, one_ne_zero, zero_ne_one, Nat.reduceMod, and_self, and_false, and_true, if_true, if_false]

theorem ldw x0 x1 x2 x3 : Statement (.ldw x0 x1 x2 x3) := of_slot rfl fun hw => by
  generalize hx : 335544320 + x0.val * 1048576 + x1.val * 16384 + x2.toNat * 8 + x3.val = x
  obtain ⟨h0, e0, e1, e2, e3⟩ := layout2 5 x0 x1 x2 x3 (by omega : _ = x)
  clear hx
  refine short_slot hw ?_
  show decodeM x = _
  unfold decodeM
  simp only [h0, e0, e1, e2, e3, Nat.reduceEqDiff, reduceCtorEq, OfNat.ofNat_ne_zero, OfNat.ofNat_ne_one, OfNat.zero_ne_ofNat, OfNat.one_ne_ofNat, one_ne_zero, zero_ne_one, Nat.reduceMod, and_self, and_false, and_true, if_true, if_false]

theorem ldwn x0 x1 x2 x3 : Statement (.ldwn x0 x1 x2 x3) := of_slot rfl fun hw => by
  generalize hx : 402653184 + x0.val * 1048576 + x1.val * 16384 + x2.toNat * 8 + x3.val = x
  obtain ⟨h0, e0, e1, e2, e3⟩ := layout2 6 x0 x1 x2 x3 (by omega : _ = x)
  clear hx
  refine short_slot hw ?_
  show decodeM x = _
  unfold decodeM
  simp only [h0, e0, e1, e2, e3, Nat.reduceEqDiff, reduceCtorEq, OfNat.ofNat_ne_zero, OfNat.ofNat_ne_one, OfNat.zero_ne_ofNat, OfNat.one_ne_ofNat, one_ne_zero, zero_ne_one, Nat.reduceMod, and_self, and_false, and_true, if_true, if_false]

theorem ldd x0 x1 x2 x3 : Statement (.ldd x0 x1 x2 x3) := of_slot rfl fun hw => by
  generalize hx : 469762048 + x0.val * 1048576 + x1.val * 16384 + x2.toNat * 8 + x3.val = x
  obtain ⟨h0, e0, e1, e2, e3⟩ := layout2 7 x0 x1 x2 x3 (by omega : _ = x)
  clear hx
  refine short_slot hw ?_
  show decodeM x = _
  unfold decodeM
  simp only [h0, e0, e1, e2, e3, Nat.reduceEqDiff, reduceCtorEq, OfNat.ofNat_ne_zero, OfNat.ofNat_ne_one, OfNat.zero_ne_ofNat, OfNat.one_ne_ofNat, one_ne_zero, zero_ne_one, Nat.reduceMod, and_self, and_false, and_true, if_true, if_false]

theorem stb x0 x1 x2 x3 : Statement (.stb x0 x1 x2 x3) := of_slot rfl fun hw => by
  generalize hx : 536870912 + x0.val * 1048576 + x1.val * 16384 + x2.toNat * 8 + x3.val = x
  obtain ⟨h0, e0, e1, e2, e3⟩ := layout2 8 x0 x1 x2 x3 (by omega : _ = x)
  clear hx
  refine short_slot hw ?_
  show decodeM x = _
  unfold decodeM
  simp only [h0, e0, e1, e2, e3, Nat.reduceEqDiff, reduceCtorEq, OfNat.ofNat_ne_zero, OfNat.ofNat_ne_one, OfNat.zero_ne_ofNat, OfNat.one_ne_ofNat, one_ne_zero, zero_ne_one, Nat.reduceMod, and_self, and_false, and_true, if_true, if_false]

theorem sth x0 x1 x2 x3 : Statement (.sth x0 x1 x2 x3) := of_slot rfl fun hw => by
  generalize hx : 603979776 + x0.val * 1048576 + x1.val * 16384 + x2.toNat * 8 + x3.val = x
  obtain ⟨h0, e0, e1, e2, e3⟩ := layout2 9 x0 x1 x2 x3 (by omega : _ = x)
  clear hx
  refine short_slot hw ?_
  show decodeM x = _
  unfold decodeM
  simp only [h0, e0, e1, e2, e3, Nat.reduceEqDiff, reduceCtorEq, OfNat.ofNat_ne_zero, OfNat.ofNat_ne_one, OfNat.zero_ne_ofNat, OfNat.one_ne_ofNat, one_ne_zero, zero_ne_one, Nat.reduceMod, and_self, and_false, and_true, if_true, if_false]

theorem stw x0 x1 x2 x3 : Statement (.stw x0 x1 x2 x3) := of_slot rfl fun hw => by
  generalize hx : 671088640 + x0.val * 1048576 + x1.val * 16384 + x2.toNat * 8 + x3.val = x
  obtain ⟨h0, e0, e1, e2, e3⟩ := layout2 10 x0 x1 x2 x3 (by omega : _ = x)
  clear hx
  refine short_slot hw ?_
  show decodeM x = _
  unfold decodeM
  simp only [h0, e0, e1, e2, e3, Nat.reduceEqDiff, reduceCtorEq, OfNat.ofNat_ne_zero, OfNat.ofNat_ne_one, OfNat.zero_ne_ofNat, OfNat.one_ne_ofNat, one_ne_zero, zero_ne_one, Nat.reduceMod, and_self, and_false, and_true, if_true, if_false]

theorem std x0 x1 x2 x3 : Statement (.std x0 x1 x2 x3) := of_slot rfl fun hw => by
  generalize hx : 738197504 + x0.val * 1048576 + x1.val * 16384 + x2.toNat * 8 + x3.val = x
  obtain ⟨h0, e0, e1, e2, e3⟩ := layout2 11 x0 x1 x2 x3 (by omega : _ = x)
  clear hx
  refine short_slot hw ?_
  show decodeM x = _
  unfold decodeM
  simp only [h0, e0, e1, e2, e3, Nat.reduceEqDiff, reduceCtorEq, OfNat.ofNat_ne_zero, OfNat.ofNat_ne_one, OfNat.zero_ne_ofNat, OfNat.one_ne_ofNat, one_ne_zero, zero_ne_one, Nat.reduceMod, and_self, and_false, and_true, if_true, if_false]

theorem lds x0 x1 x2 x3 : Statement (.lds x0 x1 x2 x3) := of_slot rfl fun hw => by
  generalize hx : 805306368 + x0.val * 1048576 + x1.val * 16384 + x2.toNat * 8 + x3.val = x
  obtain ⟨h0, e0, e1, e2, e3⟩ := layout2 12 x0 x1 x2 x3 (by omega : _ = x)
  clear hx
  refine short_slot hw ?_
  show decodeM x = _
  unfold decodeM
  simp only [h0, e0, e1, e2, e3, Nat.reduceEqDiff, reduceCtorEq, OfNat.ofNat_ne_zero, OfNat.ofNat_ne_one, OfNat.zero_ne_ofNat, OfNat.one_ne_ofNat, one_ne_zero, zero_ne_one, Nat.reduceMod, and_self, and_false, and_true, if_true, if_false]

theorem vld x0 x1 x2 x3 : Statement (.vld x0 x1 x2 x3) := of_slot rfl fun hw => by
  generalize hx : 872415232 + x0.val * 1048576 + x1.val * 16384 + x2.toNat * 8 + x3.val = x
  obtain ⟨h0, e0, e1, e2, e3⟩ := layout2 13 x0 x1 x2 x3 (by omega : _ = x)
  clear hx
  refine short_slot hw ?_
  show decodeM x = _
  unfold decodeM
  simp only [h0, e0, e1, e2, e3, Nat.reduceEqDiff, reduceCtorEq, OfNat.ofNat_ne_zero, OfNat.ofNat_ne_one, OfNat.zero_ne_ofNat, OfNat.one_ne_ofNat, one_ne_zero, zero_ne_one, Nat.reduceMod, and_self, and_false, and_true, if_true, if_false]

theorem vst x0 x1 x2 x3 : Statement (.vst x0 x1 x2 x3) := of_slot rfl fun hw => by
  generalize hx : 939524096 + x0.val * 1048576 + x1.val * 16384 + x2.toNat * 8 + x3.val = x
  obtain ⟨h0, e0, e1, e2, e3⟩ := layout2 14 x0 x1 x2 x3 (by omega : _ = x)
  clear hx
  refine short_slot hw ?_
  show decodeM x = _
  unfold decodeM
  simp only [h0, e0, e1, e2, e3, Nat.reduceEqDiff, reduceCtorEq, OfNat.ofNat_ne_zero, OfNat.ofNat_ne_one, OfNat.zero_ne_ofNat, OfNat.one_ne_ofNat, one_ne_zero, zero_ne_one, Nat.reduceMod, and_self, and_false, and_true, if_true, if_false]

theorem vlds x0 x1 x2 x3 : Statement (.vlds x0 x1 x2 x3) := of_slot rfl fun hw => by
  generalize hx : 1006632960 + x0.val * 1048576 + x1.val * 16384 + x2.toNat * 8 + x3.val = x
  obtain ⟨h0, e0, e1, e2, e3⟩ := layout2 15 x0 x1 x2 x3 (by omega : _ = x)
  clear hx
  refine short_slot hw ?_
  show decodeM x = _
  unfold decodeM
  simp only [h0, e0, e1, e2, e3, Nat.reduceEqDiff, reduceCtorEq, OfNat.ofNat_ne_zero, OfNat.ofNat_ne_one, OfNat.zero_ne_ofNat, OfNat.one_ne_ofNat, one_ne_zero, zero_ne_one, Nat.reduceMod, and_self, and_false, and_true, if_true, if_false]

theorem vldb x0 x1 x2 x3 x4 : Statement (.vldb x0 x1 x2 x3 x4) := of_slot rfl fun hw => by
  generalize hx : 1073741824 + x0.val * 1048576 + x1.val * 32768 + x2.val * 512 + x3.val * 8 + x4.val = x
  obtain ⟨h0, e0, e1, e2, e3, e4⟩ := layout21 16 x0 x1 x2 x3 x4 (by omega : _ = x)
  clear hx
  refine short_slot hw ?_
  show decodeM x = _
  unfold decodeM
  simp only [h0, e0, e1, e2, e3, e4, Nat.reduceEqDiff, reduceCtorEq, OfNat.ofNat_ne_zero, OfNat.ofNat_ne_one, OfNat.zero_ne_ofNat, OfNat.one_ne_ofNat, one_ne_zero, zero_ne_one, Nat.reduceMod, and_self, and_false, and_true, if_true, if_false]

theorem vstb x0 x1 x2 x3 x4 : Statement (.vstb x0 x1 x2 x3 x4) := of_slot rfl fun hw => by
  generalize hx : 1140850688 + x0.val * 1048576 + x1.val * 32768 + x2.val * 512 + x3.val * 8 + x4.val = x
  obtain ⟨h0, e0, e1, e2, e3, e4⟩ := layout21 17 x0 x1 x2 x3 x4 (by omega : _ = x)
  clear hx
  refine short_slot hw ?_
  show decodeM x = _
  unfold decodeM
  simp only [h0, e0, e1, e2, e3, e4, Nat.reduceEqDiff, reduceCtorEq, OfNat.ofNat_ne_zero, OfNat.ofNat_ne_one, OfNat.zero_ne_ofNat, OfNat.one_ne_ofNat, one_ne_zero, zero_ne_one, Nat.reduceMod, and_self, and_false, and_true, if_true, if_false]

theorem vgath x0 x1 x2 x3 x4 x5 : Statement (.vgath x0 x1 x2 x3 x4 x5) := of_slot rfl fun hw => by
  generalize hx : 1207959552 + x0.val * 1048576 + x1.val * 16384 + x2.val * 256 + x3.val * 32 + x4.val * 8 + x5.val = x
  obtain ⟨h0, e0, e1, e2, e3, e4, e5⟩ := layout22 18 x0 x1 x2 x3 x4 x5 (by omega : _ = x)
  clear hx
  refine short_slot hw ?_
  show decodeM x = _
  unfold decodeM
  simp only [h0, e0, e1, e2, e3, e4, e5, Nat.reduceEqDiff, reduceCtorEq, OfNat.ofNat_ne_zero, OfNat.ofNat_ne_one, OfNat.zero_ne_ofNat, OfNat.one_ne_ofNat, one_ne_zero, zero_ne_one, Nat.reduceMod, and_self, and_false, and_true, if_true, if_false]

theorem vscat x0 x1 x2 x3 x4 x5 : Statement (.vscat x0 x1 x2 x3 x4 x5) := of_slot rfl fun hw => by
  generalize hx : 1275068416 + x0.val * 1048576 + x1.val * 16384 + x2.val * 256 + x3.val * 32 + x4.val * 8 + x5.val = x
  obtain ⟨h0, e0, e1, e2, e3, e4, e5⟩ := layout22 19 x0 x1 x2 x3 x4 x5 (by omega : _ = x)
  clear hx
  refine short_slot hw ?_
  show decodeM x = _
  unfold decodeM
  simp only [h0, e0, e1, e2, e3, e4, e5, Nat.reduceEqDiff, reduceCtorEq, OfNat.ofNat_ne_zero, OfNat.ofNat_ne_one, OfNat.zero_ne_ofNat, OfNat.one_ne_ofNat, one_ne_zero, zero_ne_one, Nat.reduceMod, and_self, and_false, and_true, if_true, if_false]

theorem ldfe x0 x1 x2 x3 : Statement (.ldfe x0 x1 x2 x3) := of_slot rfl fun hw => by
  generalize hx : 1342177280 + x0.val * 1048576 + x1.val * 16384 + x2.toNat * 8 + x3.val = x
  obtain ⟨h0, e0, e1, e2, e3⟩ := layout2 20 x0 x1 x2 x3 (by omega : _ = x)
  clear hx
  refine short_slot hw ?_
  show decodeM x = _
  unfold decodeM
  simp only [h0, e0, e1, e2, e3, Nat.reduceEqDiff, reduceCtorEq, OfNat.ofNat_ne_zero, OfNat.ofNat_ne_one, OfNat.zero_ne_ofNat, OfNat.one_ne_ofNat, one_ne_zero, zero_ne_one, Nat.reduceMod, and_self, and_false, and_true, if_true, if_false]

theorem ldfec x0 x1 x2 x3 : Statement (.ldfec x0 x1 x2 x3) := of_slot rfl fun hw => by
  generalize hx : 1409286144 + x0.val * 1048576 + x1.val * 16384 + x2.toNat * 8 + x3.val = x
  obtain ⟨h0, e0, e1, e2, e3⟩ := layout2 21 x0 x1 x2 x3 (by omega : _ = x)
  clear hx
  refine short_slot hw ?_
  show decodeM x = _
  unfold decodeM
  simp only [h0, e0, e1, e2, e3, Nat.reduceEqDiff, reduceCtorEq, OfNat.ofNat_ne_zero, OfNat.ofNat_ne_one, OfNat.zero_ne_ofNat, OfNat.one_ne_ofNat, one_ne_zero, zero_ne_one, Nat.reduceMod, and_self, and_false, and_true, if_true, if_false]

theorem vldfe x0 x1 x2 x3 : Statement (.vldfe x0 x1 x2 x3) := of_slot rfl fun hw => by
  generalize hx : 1476395008 + x0.val * 1048576 + x1.val * 16384 + x2.toNat * 8 + x3.val = x
  obtain ⟨h0, e0, e1, e2, e3⟩ := layout2 22 x0 x1 x2 x3 (by omega : _ = x)
  clear hx
  refine short_slot hw ?_
  show decodeM x = _
  unfold decodeM
  simp only [h0, e0, e1, e2, e3, Nat.reduceEqDiff, reduceCtorEq, OfNat.ofNat_ne_zero, OfNat.ofNat_ne_one, OfNat.zero_ne_ofNat, OfNat.one_ne_ofNat, one_ne_zero, zero_ne_one, Nat.reduceMod, and_self, and_false, and_true, if_true, if_false]

theorem vldfec x0 x1 x2 x3 : Statement (.vldfec x0 x1 x2 x3) := of_slot rfl fun hw => by
  generalize hx : 1543503872 + x0.val * 1048576 + x1.val * 16384 + x2.toNat * 8 + x3.val = x
  obtain ⟨h0, e0, e1, e2, e3⟩ := layout2 23 x0 x1 x2 x3 (by omega : _ = x)
  clear hx
  refine short_slot hw ?_
  show decodeM x = _
  unfold decodeM
  simp only [h0, e0, e1, e2, e3, Nat.reduceEqDiff, reduceCtorEq, OfNat.ofNat_ne_zero, OfNat.ofNat_ne_one, OfNat.zero_ne_ofNat, OfNat.one_ne_ofNat, one_ne_zero, zero_ne_one, Nat.reduceMod, and_self, and_false, and_true, if_true, if_false]

theorem stf x0 x1 x2 x3 : Statement (.stf x0 x1 x2 x3) := of_slot rfl fun hw => by
  generalize hx : 1610612736 + x0.val * 1048576 + x1.val * 16384 + x2.toNat * 8 + x3.val = x
  obtain ⟨h0, e0, e1, e2, e3⟩ := layout2 24 x0 x1 x2 x3 (by omega : _ = x)
  clear hx
  refine short_slot hw ?_
  show decodeM x = _
  unfold decodeM
  simp only [h0, e0, e1, e2, e3, Nat.reduceEqDiff, reduceCtorEq, OfNat.ofNat_ne_zero, OfNat.ofNat_ne_one, OfNat.zero_ne_ofNat, OfNat.one_ne_ofNat, one_ne_zero, zero_ne_one, Nat.reduceMod, and_self, and_false, and_true, if_true, if_false]

theorem vstf x0 x1 x2 x3 : Statement (.vstf x0 x1 x2 x3) := of_slot rfl fun hw => by
  generalize hx : 1677721600 + x0.val * 1048576 + x1.val * 16384 + x2.toNat * 8 + x3.val = x
  obtain ⟨h0, e0, e1, e2, e3⟩ := layout2 25 x0 x1 x2 x3 (by omega : _ = x)
  clear hx
  refine short_slot hw ?_
  show decodeM x = _
  unfold decodeM
  simp only [h0, e0, e1, e2, e3, Nat.reduceEqDiff, reduceCtorEq, OfNat.ofNat_ne_zero, OfNat.ofNat_ne_one, OfNat.zero_ne_ofNat, OfNat.one_ne_ofNat, one_ne_zero, zero_ne_one, Nat.reduceMod, and_self, and_false, and_true, if_true, if_false]

theorem ldacq x0 x1 x2 x3 x4 : Statement (.ldacq x0 x1 x2 x3 x4) := of_slot rfl fun hw => by
  generalize hx : 1744830464 + x0.val * 1048576 + x1.val * 16384 + x2.val * 32 + x3.val * 8 + x4.val = x
  obtain ⟨h0, p0, e0, e1, e2, e3, e4⟩ := layout23 26 0 x0 x1 x2 x3 x4 (by decide) (by omega : _ = x)
  clear hx
  refine short_slot hw ?_
  show decodeM x = _
  unfold decodeM
  simp only [h0, p0, e0, e1, e2, e3, e4, Nat.reduceEqDiff, reduceCtorEq, OfNat.ofNat_ne_zero, OfNat.ofNat_ne_one, OfNat.zero_ne_ofNat, OfNat.one_ne_ofNat, one_ne_zero, zero_ne_one, Nat.reduceMod, and_self, and_false, and_true, if_true, if_false]

theorem strel x0 x1 x2 x3 x4 : Statement (.strel x0 x1 x2 x3 x4) := of_slot rfl fun hw => by
  generalize hx : 1811939328 + x0.val * 1048576 + x1.val * 16384 + x2.val * 32 + x3.val * 8 + x4.val = x
  obtain ⟨h0, p0, e0, e1, e2, e3, e4⟩ := layout23 27 0 x0 x1 x2 x3 x4 (by decide) (by omega : _ = x)
  clear hx
  refine short_slot hw ?_
  show decodeM x = _
  unfold decodeM
  simp only [h0, p0, e0, e1, e2, e3, e4, Nat.reduceEqDiff, reduceCtorEq, OfNat.ofNat_ne_zero, OfNat.ofNat_ne_one, OfNat.zero_ne_ofNat, OfNat.one_ne_ofNat, one_ne_zero, zero_ne_one, Nat.reduceMod, and_self, and_false, and_true, if_true, if_false]

theorem atomAdd x0 x1 x2 x3 x4 : Statement (.atomAdd x0 x1 x2 x3 x4) := of_slot rfl fun hw => by
  generalize hx : 1879048192 + x0.val * 1048576 + x1.val * 16384 + x2.val * 256 + x3.val * 8 + x4.val = x
  obtain ⟨h0, p0, e0, e1, e2, e3, e4⟩ := layout24 28 0 x0 x1 x2 x3 x4 (by decide) (by omega : _ = x)
  clear hx
  refine short_slot hw ?_
  show decodeM x = _
  unfold decodeM
  simp only [h0, p0, e0, e1, e2, e3, e4, Nat.reduceEqDiff, reduceCtorEq, OfNat.ofNat_ne_zero, OfNat.ofNat_ne_one, OfNat.zero_ne_ofNat, OfNat.one_ne_ofNat, one_ne_zero, zero_ne_one, Nat.reduceMod, and_self, and_false, and_true, if_true, if_false]

theorem atomMin x0 x1 x2 x3 x4 : Statement (.atomMin x0 x1 x2 x3 x4) := of_slot rfl fun hw => by
  generalize hx : 1879048208 + x0.val * 1048576 + x1.val * 16384 + x2.val * 256 + x3.val * 8 + x4.val = x
  obtain ⟨h0, p0, e0, e1, e2, e3, e4⟩ := layout24 28 1 x0 x1 x2 x3 x4 (by decide) (by omega : _ = x)
  clear hx
  refine short_slot hw ?_
  show decodeM x = _
  unfold decodeM
  simp only [h0, p0, e0, e1, e2, e3, e4, Nat.reduceEqDiff, reduceCtorEq, OfNat.ofNat_ne_zero, OfNat.ofNat_ne_one, OfNat.zero_ne_ofNat, OfNat.one_ne_ofNat, one_ne_zero, zero_ne_one, Nat.reduceMod, and_self, and_false, and_true, if_true, if_false]

theorem atomMax x0 x1 x2 x3 x4 : Statement (.atomMax x0 x1 x2 x3 x4) := of_slot rfl fun hw => by
  generalize hx : 1879048224 + x0.val * 1048576 + x1.val * 16384 + x2.val * 256 + x3.val * 8 + x4.val = x
  obtain ⟨h0, p0, e0, e1, e2, e3, e4⟩ := layout24 28 2 x0 x1 x2 x3 x4 (by decide) (by omega : _ = x)
  clear hx
  refine short_slot hw ?_
  show decodeM x = _
  unfold decodeM
  simp only [h0, p0, e0, e1, e2, e3, e4, Nat.reduceEqDiff, reduceCtorEq, OfNat.ofNat_ne_zero, OfNat.ofNat_ne_one, OfNat.zero_ne_ofNat, OfNat.one_ne_ofNat, one_ne_zero, zero_ne_one, Nat.reduceMod, and_self, and_false, and_true, if_true, if_false]

theorem atomMinn x0 x1 x2 x3 x4 : Statement (.atomMinn x0 x1 x2 x3 x4) := of_slot rfl fun hw => by
  generalize hx : 1879048240 + x0.val * 1048576 + x1.val * 16384 + x2.val * 256 + x3.val * 8 + x4.val = x
  obtain ⟨h0, p0, e0, e1, e2, e3, e4⟩ := layout24 28 3 x0 x1 x2 x3 x4 (by decide) (by omega : _ = x)
  clear hx
  refine short_slot hw ?_
  show decodeM x = _
  unfold decodeM
  simp only [h0, p0, e0, e1, e2, e3, e4, Nat.reduceEqDiff, reduceCtorEq, OfNat.ofNat_ne_zero, OfNat.ofNat_ne_one, OfNat.zero_ne_ofNat, OfNat.one_ne_ofNat, one_ne_zero, zero_ne_one, Nat.reduceMod, and_self, and_false, and_true, if_true, if_false]

theorem atomMaxn x0 x1 x2 x3 x4 : Statement (.atomMaxn x0 x1 x2 x3 x4) := of_slot rfl fun hw => by
  generalize hx : 1879048256 + x0.val * 1048576 + x1.val * 16384 + x2.val * 256 + x3.val * 8 + x4.val = x
  obtain ⟨h0, p0, e0, e1, e2, e3, e4⟩ := layout24 28 4 x0 x1 x2 x3 x4 (by decide) (by omega : _ = x)
  clear hx
  refine short_slot hw ?_
  show decodeM x = _
  unfold decodeM
  simp only [h0, p0, e0, e1, e2, e3, e4, Nat.reduceEqDiff, reduceCtorEq, OfNat.ofNat_ne_zero, OfNat.ofNat_ne_one, OfNat.zero_ne_ofNat, OfNat.one_ne_ofNat, one_ne_zero, zero_ne_one, Nat.reduceMod, and_self, and_false, and_true, if_true, if_false]

theorem atomAnd x0 x1 x2 x3 x4 : Statement (.atomAnd x0 x1 x2 x3 x4) := of_slot rfl fun hw => by
  generalize hx : 1879048272 + x0.val * 1048576 + x1.val * 16384 + x2.val * 256 + x3.val * 8 + x4.val = x
  obtain ⟨h0, p0, e0, e1, e2, e3, e4⟩ := layout24 28 5 x0 x1 x2 x3 x4 (by decide) (by omega : _ = x)
  clear hx
  refine short_slot hw ?_
  show decodeM x = _
  unfold decodeM
  simp only [h0, p0, e0, e1, e2, e3, e4, Nat.reduceEqDiff, reduceCtorEq, OfNat.ofNat_ne_zero, OfNat.ofNat_ne_one, OfNat.zero_ne_ofNat, OfNat.one_ne_ofNat, one_ne_zero, zero_ne_one, Nat.reduceMod, and_self, and_false, and_true, if_true, if_false]

theorem atomOr x0 x1 x2 x3 x4 : Statement (.atomOr x0 x1 x2 x3 x4) := of_slot rfl fun hw => by
  generalize hx : 1879048288 + x0.val * 1048576 + x1.val * 16384 + x2.val * 256 + x3.val * 8 + x4.val = x
  obtain ⟨h0, p0, e0, e1, e2, e3, e4⟩ := layout24 28 6 x0 x1 x2 x3 x4 (by decide) (by omega : _ = x)
  clear hx
  refine short_slot hw ?_
  show decodeM x = _
  unfold decodeM
  simp only [h0, p0, e0, e1, e2, e3, e4, Nat.reduceEqDiff, reduceCtorEq, OfNat.ofNat_ne_zero, OfNat.ofNat_ne_one, OfNat.zero_ne_ofNat, OfNat.one_ne_ofNat, one_ne_zero, zero_ne_one, Nat.reduceMod, and_self, and_false, and_true, if_true, if_false]

theorem atomXor x0 x1 x2 x3 x4 : Statement (.atomXor x0 x1 x2 x3 x4) := of_slot rfl fun hw => by
  generalize hx : 1879048304 + x0.val * 1048576 + x1.val * 16384 + x2.val * 256 + x3.val * 8 + x4.val = x
  obtain ⟨h0, p0, e0, e1, e2, e3, e4⟩ := layout24 28 7 x0 x1 x2 x3 x4 (by decide) (by omega : _ = x)
  clear hx
  refine short_slot hw ?_
  show decodeM x = _
  unfold decodeM
  simp only [h0, p0, e0, e1, e2, e3, e4, Nat.reduceEqDiff, reduceCtorEq, OfNat.ofNat_ne_zero, OfNat.ofNat_ne_one, OfNat.zero_ne_ofNat, OfNat.one_ne_ofNat, one_ne_zero, zero_ne_one, Nat.reduceMod, and_self, and_false, and_true, if_true, if_false]

theorem atomSwap x0 x1 x2 x3 x4 : Statement (.atomSwap x0 x1 x2 x3 x4) := of_slot rfl fun hw => by
  generalize hx : 1879048320 + x0.val * 1048576 + x1.val * 16384 + x2.val * 256 + x3.val * 8 + x4.val = x
  obtain ⟨h0, p0, e0, e1, e2, e3, e4⟩ := layout24 28 8 x0 x1 x2 x3 x4 (by decide) (by omega : _ = x)
  clear hx
  refine short_slot hw ?_
  show decodeM x = _
  unfold decodeM
  simp only [h0, p0, e0, e1, e2, e3, e4, Nat.reduceEqDiff, reduceCtorEq, OfNat.ofNat_ne_zero, OfNat.ofNat_ne_one, OfNat.zero_ne_ofNat, OfNat.one_ne_ofNat, one_ne_zero, zero_ne_one, Nat.reduceMod, and_self, and_false, and_true, if_true, if_false]

theorem cas x0 x1 x2 x3 x4 : Statement (.cas x0 x1 x2 x3 x4) := of_slot rfl fun hw => by
  generalize hx : 1946157056 + x0.val * 1048576 + x1.val * 16384 + x2.val * 256 + x3.val * 8 + x4.val = x
  obtain ⟨h0, p0, e0, e1, e2, e3, e4⟩ := layout24 29 0 x0 x1 x2 x3 x4 (by decide) (by omega : _ = x)
  clear hx
  refine short_slot hw ?_
  show decodeM x = _
  unfold decodeM
  simp only [h0, p0, e0, e1, e2, e3, e4, Nat.reduceEqDiff, reduceCtorEq, OfNat.ofNat_ne_zero, OfNat.ofNat_ne_one, OfNat.zero_ne_ofNat, OfNat.one_ne_ofNat, one_ne_zero, zero_ne_one, Nat.reduceMod, and_self, and_false, and_true, if_true, if_false]

theorem vatomAdd x0 x1 x2 x3 x4 : Statement (.vatomAdd x0 x1 x2 x3 x4) := of_slot rfl fun hw => by
  generalize hx : 2013265920 + x0.val * 1048576 + x1.val * 16384 + x2.val * 256 + x3.val * 8 + x4.val = x
  obtain ⟨h0, p0, e0, e1, e2, e3, e4⟩ := layout24 30 0 x0 x1 x2 x3 x4 (by decide) (by omega : _ = x)
  clear hx
  refine short_slot hw ?_
  show decodeM x = _
  unfold decodeM
  simp only [h0, p0, e0, e1, e2, e3, e4, Nat.reduceEqDiff, reduceCtorEq, OfNat.ofNat_ne_zero, OfNat.ofNat_ne_one, OfNat.zero_ne_ofNat, OfNat.one_ne_ofNat, one_ne_zero, zero_ne_one, Nat.reduceMod, and_self, and_false, and_true, if_true, if_false]

theorem vatomAnd x0 x1 x2 x3 x4 : Statement (.vatomAnd x0 x1 x2 x3 x4) := of_slot rfl fun hw => by
  generalize hx : 2013265936 + x0.val * 1048576 + x1.val * 16384 + x2.val * 256 + x3.val * 8 + x4.val = x
  obtain ⟨h0, p0, e0, e1, e2, e3, e4⟩ := layout24 30 1 x0 x1 x2 x3 x4 (by decide) (by omega : _ = x)
  clear hx
  refine short_slot hw ?_
  show decodeM x = _
  unfold decodeM
  simp only [h0, p0, e0, e1, e2, e3, e4, Nat.reduceEqDiff, reduceCtorEq, OfNat.ofNat_ne_zero, OfNat.ofNat_ne_one, OfNat.zero_ne_ofNat, OfNat.one_ne_ofNat, one_ne_zero, zero_ne_one, Nat.reduceMod, and_self, and_false, and_true, if_true, if_false]

theorem vatomOr x0 x1 x2 x3 x4 : Statement (.vatomOr x0 x1 x2 x3 x4) := of_slot rfl fun hw => by
  generalize hx : 2013265952 + x0.val * 1048576 + x1.val * 16384 + x2.val * 256 + x3.val * 8 + x4.val = x
  obtain ⟨h0, p0, e0, e1, e2, e3, e4⟩ := layout24 30 2 x0 x1 x2 x3 x4 (by decide) (by omega : _ = x)
  clear hx
  refine short_slot hw ?_
  show decodeM x = _
  unfold decodeM
  simp only [h0, p0, e0, e1, e2, e3, e4, Nat.reduceEqDiff, reduceCtorEq, OfNat.ofNat_ne_zero, OfNat.ofNat_ne_one, OfNat.zero_ne_ofNat, OfNat.one_ne_ofNat, one_ne_zero, zero_ne_one, Nat.reduceMod, and_self, and_false, and_true, if_true, if_false]

theorem vatomMax x0 x1 x2 x3 x4 : Statement (.vatomMax x0 x1 x2 x3 x4) := of_slot rfl fun hw => by
  generalize hx : 2013265968 + x0.val * 1048576 + x1.val * 16384 + x2.val * 256 + x3.val * 8 + x4.val = x
  obtain ⟨h0, p0, e0, e1, e2, e3, e4⟩ := layout24 30 3 x0 x1 x2 x3 x4 (by decide) (by omega : _ = x)
  clear hx
  refine short_slot hw ?_
  show decodeM x = _
  unfold decodeM
  simp only [h0, p0, e0, e1, e2, e3, e4, Nat.reduceEqDiff, reduceCtorEq, OfNat.ofNat_ne_zero, OfNat.ofNat_ne_one, OfNat.zero_ne_ofNat, OfNat.one_ne_ofNat, one_ne_zero, zero_ne_one, Nat.reduceMod, and_self, and_false, and_true, if_true, if_false]

theorem rkopen x0 x1 x2 : Statement (.rkopen x0 x1 x2) := of_slot rfl fun hw => by
  generalize hx : 2080374784 + x0.val * 1048576 + x1.val * 16384 + x2.val = x
  obtain ⟨h0, p0, e0, e1, e2⟩ := layout1 31 0 x0 x1 x2 (by decide) (by omega : _ = x)
  clear hx
  refine short_slot hw ?_
  show decodeM x = _
  unfold decodeM
  simp only [h0, p0, e0, e1, e2, Nat.reduceEqDiff, reduceCtorEq, OfNat.ofNat_ne_zero, OfNat.ofNat_ne_one, OfNat.zero_ne_ofNat, OfNat.one_ne_ofNat, one_ne_zero, zero_ne_one, Nat.reduceMod, and_self, and_false, and_true, if_true, if_false]

theorem rkpub x0 x1 : Statement (.rkpub x0 x1) := of_slot rfl fun hw => by
  generalize hx : 2147483648 + x0.val * 16384 + x1.val = x
  obtain ⟨h0, p0, p1, e0, e1⟩ := layout25 32 0 0 x0 x1 (by decide) (by decide) (by omega : _ = x)
  clear hx
  refine short_slot hw ?_
  show decodeM x = _
  unfold decodeM
  simp only [h0, p0, p1, e0, e1, Nat.reduceEqDiff, reduceCtorEq, OfNat.ofNat_ne_zero, OfNat.ofNat_ne_one, OfNat.zero_ne_ofNat, OfNat.one_ne_ofNat, one_ne_zero, zero_ne_one, Nat.reduceMod, and_self, and_false, and_true, if_true, if_false]

theorem rktake x0 x1 x2 : Statement (.rktake x0 x1 x2) := of_slot rfl fun hw => by
  generalize hx : 2214592512 + x0.val * 1048576 + x1.val * 16384 + x2.val = x
  obtain ⟨h0, p0, e0, e1, e2⟩ := layout1 33 0 x0 x1 x2 (by decide) (by omega : _ = x)
  clear hx
  refine short_slot hw ?_
  show decodeM x = _
  unfold decodeM
  simp only [h0, p0, e0, e1, e2, Nat.reduceEqDiff, reduceCtorEq, OfNat.ofNat_ne_zero, OfNat.ofNat_ne_one, OfNat.zero_ne_ofNat, OfNat.one_ne_ofNat, one_ne_zero, zero_ne_one, Nat.reduceMod, and_self, and_false, and_true, if_true, if_false]

theorem rkdrop x0 x1 : Statement (.rkdrop x0 x1) := of_slot rfl fun hw => by
  generalize hx : 2281701376 + x0.val * 16384 + x1.val = x
  obtain ⟨h0, p0, p1, e0, e1⟩ := layout25 34 0 0 x0 x1 (by decide) (by decide) (by omega : _ = x)
  clear hx
  refine short_slot hw ?_
  show decodeM x = _
  unfold decodeM
  simp only [h0, p0, p1, e0, e1, Nat.reduceEqDiff, reduceCtorEq, OfNat.ofNat_ne_zero, OfNat.ofNat_ne_one, OfNat.zero_ne_ofNat, OfNat.one_ne_ofNat, one_ne_zero, zero_ne_one, Nat.reduceMod, and_self, and_false, and_true, if_true, if_false]

theorem binit x0 x1 x2 x3 : Statement (.binit x0 x1 x2 x3) := of_slot rfl fun hw => by
  generalize hx : 2348810240 + x0.val * 1048576 + x1.val * 16384 + x2.val * 256 + x3.val = x
  obtain ⟨h0, p0, e0, e1, e2, e3⟩ := layout0 35 0 x0 x1 x2 x3 (by decide) (by omega : _ = x)
  clear hx
  refine short_slot hw ?_
  show decodeM x = _
  unfold decodeM
  simp only [h0, p0, e0, e1, e2, e3, Nat.reduceEqDiff, reduceCtorEq, OfNat.ofNat_ne_zero, OfNat.ofNat_ne_one, OfNat.zero_ne_ofNat, OfNat.one_ne_ofNat, one_ne_zero, zero_ne_one, Nat.reduceMod, and_self, and_false, and_true, if_true, if_false]

theorem barv x0 x1 : Statement (.barv x0 x1) := of_slot rfl fun hw => by
  generalize hx : 2415919104 + x0.val * 16384 + x1.val = x
  obtain ⟨h0, p0, p1, e0, e1⟩ := layout25 36 0 0 x0 x1 (by decide) (by decide) (by omega : _ = x)
  clear hx
  refine short_slot hw ?_
  show decodeM x = _
  unfold decodeM
  simp only [h0, p0, p1, e0, e1, Nat.reduceEqDiff, reduceCtorEq, OfNat.ofNat_ne_zero, OfNat.ofNat_ne_one, OfNat.zero_ne_ofNat, OfNat.one_ne_ofNat, one_ne_zero, zero_ne_one, Nat.reduceMod, and_self, and_false, and_true, if_true, if_false]

theorem bwait x0 x1 x2 : Statement (.bwait x0 x1 x2) := of_slot rfl fun hw => by
  generalize hx : 2483027968 + x0.val * 1048576 + x1.val * 16384 + x2.val = x
  obtain ⟨h0, p0, e0, e1, e2⟩ := layout1 37 0 x0 x1 x2 (by decide) (by omega : _ = x)
  clear hx
  refine short_slot hw ?_
  show decodeM x = _
  unfold decodeM
  simp only [h0, p0, e0, e1, e2, Nat.reduceEqDiff, reduceCtorEq, OfNat.ofNat_ne_zero, OfNat.ofNat_ne_one, OfNat.zero_ne_ofNat, OfNat.one_ne_ofNat, one_ne_zero, zero_ne_one, Nat.reduceMod, and_self, and_false, and_true, if_true, if_false]

theorem pref x0 x1 x2 : Statement (.pref x0 x1 x2) := of_slot rfl fun hw => by
  generalize hx : 2550136832 + x0.val * 16384 + x1.toNat * 8 + x2.val = x
  obtain ⟨h0, p0, e0, e1, e2⟩ := layout26 38 0 x0 x1 x2 (by decide) (by omega : _ = x)
  clear hx
  refine short_slot hw ?_
  show decodeM x = _
  unfold decodeM
  simp only [h0, p0, e0, e1, e2, Nat.reduceEqDiff, reduceCtorEq, OfNat.ofNat_ne_zero, OfNat.ofNat_ne_one, OfNat.zero_ne_ofNat, OfNat.one_ne_ofNat, one_ne_zero, zero_ne_one, Nat.reduceMod, and_self, and_false, and_true, if_true, if_false]

theorem vadd x0 x1 x2 x3 x4 x5 : Statement (.vadd x0 x1 x2 x3 x4 x5) := of_slot rfl fun hw => by
  generalize hx : 67108864 + x0.val * 1048576 + x1.val * 16384 + x2.val * 256 + x3.val * 64 + x4.val * 8 + x5.val = x
  obtain ⟨h0, e0, e1, e2, e3, e4, e5⟩ := layout27 1 x0 x1 x2 x3 x4 x5 (by omega : _ = x)
  clear hx
  refine short_slot hw ?_
  show decodeV x = _
  unfold decodeV
  simp only [h0, e0, e1, e2, e3, e4, e5, Nat.reduceEqDiff, reduceCtorEq, OfNat.ofNat_ne_zero, OfNat.ofNat_ne_one, OfNat.zero_ne_ofNat, OfNat.one_ne_ofNat, one_ne_zero, zero_ne_one, Nat.reduceMod, and_self, and_false, and_true, if_true, if_false]

theorem vsub x0 x1 x2 x3 x4 x5 : Statement (.vsub x0 x1 x2 x3 x4 x5) := of_slot rfl fun hw => by
  generalize hx : 134217728 + x0.val * 1048576 + x1.val * 16384 + x2.val * 256 + x3.val * 64 + x4.val * 8 + x5.val = x
  obtain ⟨h0, e0, e1, e2, e3, e4, e5⟩ := layout27 2 x0 x1 x2 x3 x4 x5 (by omega : _ = x)
  clear hx
  refine short_slot hw ?_
  show decodeV x = _
  unfold decodeV
  simp only [h0, e0, e1, e2, e3, e4, e5, Nat.reduceEqDiff, reduceCtorEq, OfNat.ofNat_ne_zero, OfNat.ofNat_ne_one, OfNat.zero_ne_ofNat, OfNat.one_ne_ofNat, one_ne_zero, zero_ne_one, Nat.reduceMod, and_self, and_false, and_true, if_true, if_false]

theorem vmul x0 x1 x2 x3 x4 x5 : Statement (.vmul x0 x1 x2 x3 x4 x5) := of_slot rfl fun hw => by
  generalize hx : 201326592 + x0.val * 1048576 + x1.val * 16384 + x2.val * 256 + x3.val * 64 + x4.val * 8 + x5.val = x
  obtain ⟨h0, e0, e1, e2, e3, e4, e5⟩ := layout27 3 x0 x1 x2 x3 x4 x5 (by omega : _ = x)
  clear hx
  refine short_slot hw ?_
  show decodeV x = _
  unfold decodeV
  simp only [h0, e0, e1, e2, e3, e4, e5, Nat.reduceEqDiff, reduceCtorEq, OfNat.ofNat_ne_zero, OfNat.ofNat_ne_one, OfNat.zero_ne_ofNat, OfNat.one_ne_ofNat, one_ne_zero, zero_ne_one, Nat.reduceMod, and_self, and_false, and_true, if_true, if_false]

theorem vfma x0 x1 x2 x3 x4 x5 : Statement (.vfma x0 x1 x2 x3 x4 x5) := of_slot rfl fun hw => by
  generalize hx : 268435456 + x0.val * 1048576 + x1.val * 16384 + x2.val * 256 + x3.val * 64 + x4.val * 8 + x5.val = x
  obtain ⟨h0, e0, e1, e2, e3, e4, e5⟩ := layout27 4 x0 x1 x2 x3 x4 x5 (by omega : _ = x)
  clear hx
  refine short_slot hw ?_
  show decodeV x = _
  unfold decodeV
  simp only [h0, e0, e1, e2, e3, e4, e5, Nat.reduceEqDiff, reduceCtorEq, OfNat.ofNat_ne_zero, OfNat.ofNat_ne_one, OfNat.zero_ne_ofNat, OfNat.one_ne_ofNat, one_ne_zero, zero_ne_one, Nat.reduceMod, and_self, and_false, and_true, if_true, if_false]

theorem vfms x0 x1 x2 x3 x4 x5 : Statement (.vfms x0 x1 x2 x3 x4 x5) := of_slot rfl fun hw => by
  generalize hx : 335544320 + x0.val * 1048576 + x1.val * 16384 + x2.val * 256 + x3.val * 64 + x4.val * 8 + x5.val = x
  obtain ⟨h0, e0, e1, e2, e3, e4, e5⟩ := layout27 5 x0 x1 x2 x3 x4 x5 (by omega : _ = x)
  clear hx
  refine short_slot hw ?_
  show decodeV x = _
  unfold decodeV
  simp only [h0, e0, e1, e2, e3, e4, e5, Nat.reduceEqDiff, reduceCtorEq, OfNat.ofNat_ne_zero, OfNat.ofNat_ne_one, OfNat.zero_ne_ofNat, OfNat.one_ne_ofNat, one_ne_zero, zero_ne_one, Nat.reduceMod, and_self, and_false, and_true, if_true, if_false]

theorem vfnma x0 x1 x2 x3 x4 x5 : Statement (.vfnma x0 x1 x2 x3 x4 x5) := of_slot rfl fun hw => by
  generalize hx : 402653184 + x0.val * 1048576 + x1.val * 16384 + x2.val * 256 + x3.val * 64 + x4.val * 8 + x5.val = x
  obtain ⟨h0, e0, e1, e2, e3, e4, e5⟩ := layout27 6 x0 x1 x2 x3 x4 x5 (by omega : _ = x)
  clear hx
  refine short_slot hw ?_
  show decodeV x = _
  unfold decodeV
  simp only [h0, e0, e1, e2, e3, e4, e5, Nat.reduceEqDiff, reduceCtorEq, OfNat.ofNat_ne_zero, OfNat.ofNat_ne_one, OfNat.zero_ne_ofNat, OfNat.one_ne_ofNat, one_ne_zero, zero_ne_one, Nat.reduceMod, and_self, and_false, and_true, if_true, if_false]

theorem vmin x0 x1 x2 x3 x4 x5 : Statement (.vmin x0 x1 x2 x3 x4 x5) := of_slot rfl fun hw => by
  generalize hx : 469762048 + x0.val * 1048576 + x1.val * 16384 + x2.val * 256 + x3.val * 64 + x4.val * 8 + x5.val = x
  obtain ⟨h0, e0, e1, e2, e3, e4, e5⟩ := layout27 7 x0 x1 x2 x3 x4 x5 (by omega : _ = x)
  clear hx
  refine short_slot hw ?_
  show decodeV x = _
  unfold decodeV
  simp only [h0, e0, e1, e2, e3, e4, e5, Nat.reduceEqDiff, reduceCtorEq, OfNat.ofNat_ne_zero, OfNat.ofNat_ne_one, OfNat.zero_ne_ofNat, OfNat.one_ne_ofNat, one_ne_zero, zero_ne_one, Nat.reduceMod, and_self, and_false, and_true, if_true, if_false]

theorem vmax x0 x1 x2 x3 x4 x5 : Statement (.vmax x0 x1 x2 x3 x4 x5) := of_slot rfl fun hw => by
  generalize hx : 536870912 + x0.val * 1048576 + x1.val * 16384 + x2.val * 256 + x3.val * 64 + x4.val * 8 + x5.val = x
  obtain ⟨h0, e0, e1, e2, e3, e4, e5⟩ := layout27 8 x0 x1 x2 x3 x4 x5 (by omega : _ = x)
  clear hx
  refine short_slot hw ?_
  show decodeV x = _
  unfold decodeV
  simp only [h0, e0, e1, e2, e3, e4, e5, Nat.reduceEqDiff, reduceCtorEq, OfNat.ofNat_ne_zero, OfNat.ofNat_ne_one, OfNat.zero_ne_ofNat, OfNat.one_ne_ofNat, one_ne_zero, zero_ne_one, Nat.reduceMod, and_self, and_false, and_true, if_true, if_false]

theorem vabs x0 x1 x2 x3 x4 : Statement (.vabs x0 x1 x2 x3 x4) := of_slot rfl fun hw => by
  generalize hx : 603979776 + x0.val * 1048576 + x1.val * 16384 + x2.val * 64 + x3.val * 8 + x4.val = x
  obtain ⟨h0, p0, e0, e1, e2, e3, e4⟩ := layout28 9 0 x0 x1 x2 x3 x4 (by decide) (by omega : _ = x)
  clear hx
  refine short_slot hw ?_
  show decodeV x = _
  unfold decodeV
  simp only [h0, p0, e0, e1, e2, e3, e4, Nat.reduceEqDiff, reduceCtorEq, OfNat.ofNat_ne_zero, OfNat.ofNat_ne_one, OfNat.zero_ne_ofNat, OfNat.one_ne_ofNat, one_ne_zero, zero_ne_one, Nat.reduceMod, and_self, and_false, and_true, if_true, if_false]

theorem vneg x0 x1 x2 x3 x4 : Statement (.vneg x0 x1 x2 x3 x4) := of_slot rfl fun hw => by
  generalize hx : 671088640 + x0.val * 1048576 + x1.val * 16384 + x2.val * 64 + x3.val * 8 + x4.val = x
  obtain ⟨h0, p0, e0, e1, e2, e3, e4⟩ := layout28 10 0 x0 x1 x2 x3 x4 (by decide) (by omega : _ = x)
  clear hx
  refine short_slot hw ?_
  show decodeV x = _
  unfold decodeV
  simp only [h0, p0, e0, e1, e2, e3, e4, Nat.reduceEqDiff, reduceCtorEq, OfNat.ofNat_ne_zero, OfNat.ofNat_ne_one, OfNat.zero_ne_ofNat, OfNat.one_ne_ofNat, one_ne_zero, zero_ne_one, Nat.reduceMod, and_self, and_false, and_true, if_true, if_false]

theorem vcmp x0 x1 x2 x3 x4 x5 : Statement (.vcmp x0 x1 x2 x3 x4 x5) := of_slot rfl fun hw => by
  generalize hx : 738197504 + x0.val * 524288 + x1.val * 8192 + x2.val * 128 + x3.val * 32 + x4.val * 8 + x5.val = x
  obtain ⟨h0, e0, e1, e2, e3, e4, e5⟩ := layout29 11 x0 x1 x2 x3 x4 x5 (by omega : _ = x)
  clear hx
  refine short_slot hw ?_
  show decodeV x = _
  unfold decodeV
  simp only [h0, e0, e1, e2, e3, e4, e5, Nat.reduceEqDiff, reduceCtorEq, OfNat.ofNat_ne_zero, OfNat.ofNat_ne_one, OfNat.zero_ne_ofNat, OfNat.one_ne_ofNat, one_ne_zero, zero_ne_one, Nat.reduceMod, and_self, and_false, and_true, if_true, if_false]

theorem vand x0 x1 x2 x3 x4 x5 : Statement (.vand x0 x1 x2 x3 x4 x5) := of_slot rfl fun hw => by
  generalize hx : 805306368 + x0.val * 1048576 + x1.val * 16384 + x2.val * 256 + x3.val * 64 + x4.val * 8 + x5.val = x
  obtain ⟨h0, e0, e1, e2, e3, e4, e5⟩ := layout27 12 x0 x1 x2 x3 x4 x5 (by omega : _ = x)
  clear hx
  refine short_slot hw ?_
  show decodeV x = _
  unfold decodeV
  simp only [h0, e0, e1, e2, e3, e4, e5, Nat.reduceEqDiff, reduceCtorEq, OfNat.ofNat_ne_zero, OfNat.ofNat_ne_one, OfNat.zero_ne_ofNat, OfNat.one_ne_ofNat, one_ne_zero, zero_ne_one, Nat.reduceMod, and_self, and_false, and_true, if_true, if_false]

theorem vor x0 x1 x2 x3 x4 x5 : Statement (.vor x0 x1 x2 x3 x4 x5) := of_slot rfl fun hw => by
  generalize hx : 872415232 + x0.val * 1048576 + x1.val * 16384 + x2.val * 256 + x3.val * 64 + x4.val * 8 + x5.val = x
  obtain ⟨h0, e0, e1, e2, e3, e4, e5⟩ := layout27 13 x0 x1 x2 x3 x4 x5 (by omega : _ = x)
  clear hx
  refine short_slot hw ?_
  show decodeV x = _
  unfold decodeV
  simp only [h0, e0, e1, e2, e3, e4, e5, Nat.reduceEqDiff, reduceCtorEq, OfNat.ofNat_ne_zero, OfNat.ofNat_ne_one, OfNat.zero_ne_ofNat, OfNat.one_ne_ofNat, one_ne_zero, zero_ne_one, Nat.reduceMod, and_self, and_false, and_true, if_true, if_false]

theorem vxor x0 x1 x2 x3 x4 x5 : Statement (.vxor x0 x1 x2 x3 x4 x5) := of_slot rfl fun hw => by
  generalize hx : 939524096 + x0.val * 1048576 + x1.val * 16384 + x2.val * 256 + x3.val * 64 + x4.val * 8 + x5.val = x
  obtain ⟨h0, e0, e1, e2, e3, e4, e5⟩ := layout27 14 x0 x1 x2 x3 x4 x5 (by omega : _ = x)
  clear hx
  refine short_slot hw ?_
  show decodeV x = _
  unfold decodeV
  simp only [h0, e0, e1, e2, e3, e4, e5, Nat.reduceEqDiff, reduceCtorEq, OfNat.ofNat_ne_zero, OfNat.ofNat_ne_one, OfNat.zero_ne_ofNat, OfNat.one_ne_ofNat, one_ne_zero, zero_ne_one, Nat.reduceMod, and_self, and_false, and_true, if_true, if_false]

theorem vshl x0 x1 x2 x3 x4 x5 : Statement (.vshl x0 x1 x2 x3 x4 x5) := of_slot rfl fun hw => by
  generalize hx : 1006632960 + x0.val * 1048576 + x1.val * 16384 + x2.val * 256 + x3.val * 64 + x4.val * 8 + x5.val = x
  obtain ⟨h0, e0, e1, e2, e3, e4, e5⟩ := layout27 15 x0 x1 x2 x3 x4 x5 (by omega : _ = x)
  clear hx
  refine short_slot hw ?_
  show decodeV x = _
  unfold decodeV
  simp only [h0, e0, e1, e2, e3, e4, e5, Nat.reduceEqDiff, reduceCtorEq, OfNat.ofNat_ne_zero, OfNat.ofNat_ne_one, OfNat.zero_ne_ofNat, OfNat.one_ne_ofNat, one_ne_zero, zero_ne_one, Nat.reduceMod, and_self, and_false, and_true, if_true, if_false]

theorem vshr x0 x1 x2 x3 x4 x5 : Statement (.vshr x0 x1 x2 x3 x4 x5) := of_slot rfl fun hw => by
  generalize hx : 1073741824 + x0.val * 1048576 + x1.val * 16384 + x2.val * 256 + x3.val * 64 + x4.val * 8 + x5.val = x
  obtain ⟨h0, e0, e1, e2, e3, e4, e5⟩ := layout27 16 x0 x1 x2 x3 x4 x5 (by omega : _ = x)
  clear hx
  refine short_slot hw ?_
  show decodeV x = _
  unfold decodeV
  simp only [h0, e0, e1, e2, e3, e4, e5, Nat.reduceEqDiff, reduceCtorEq, OfNat.ofNat_ne_zero, OfNat.ofNat_ne_one, OfNat.zero_ne_ofNat, OfNat.one_ne_ofNat, one_ne_zero, zero_ne_one, Nat.reduceMod, and_self, and_false, and_true, if_true, if_false]

theorem vsra x0 x1 x2 x3 x4 x5 : Statement (.vsra x0 x1 x2 x3 x4 x5) := of_slot rfl fun hw => by
  generalize hx : 1140850688 + x0.val * 1048576 + x1.val * 16384 + x2.val * 256 + x3.val * 64 + x4.val * 8 + x5.val = x
  obtain ⟨h0, e0, e1, e2, e3, e4, e5⟩ := layout27 17 x0 x1 x2 x3 x4 x5 (by omega : _ = x)
  clear hx
  refine short_slot hw ?_
  show decodeV x = _
  unfold decodeV
  simp only [h0, e0, e1, e2, e3, e4, e5, Nat.reduceEqDiff, reduceCtorEq, OfNat.ofNat_ne_zero, OfNat.ofNat_ne_one, OfNat.zero_ne_ofNat, OfNat.one_ne_ofNat, one_ne_zero, zero_ne_one, Nat.reduceMod, and_self, and_false, and_true, if_true, if_false]

theorem vsel x0 x1 x2 x3 x4 x5 : Statement (.vsel x0 x1 x2 x3 x4 x5) := of_slot rfl fun hw => by
  generalize hx : 1207959552 + x0.val * 1048576 + x1.val * 16384 + x2.val * 256 + x3.val * 64 + x4.val * 8 + x5.val = x
  obtain ⟨h0, e0, e1, e2, e3, e4, e5⟩ := layout27 18 x0 x1 x2 x3 x4 x5 (by omega : _ = x)
  clear hx
  refine short_slot hw ?_
  show decodeV x = _
  unfold decodeV
  simp only [h0, e0, e1, e2, e3, e4, e5, Nat.reduceEqDiff, reduceCtorEq, OfNat.ofNat_ne_zero, OfNat.ofNat_ne_one, OfNat.zero_ne_ofNat, OfNat.one_ne_ofNat, one_ne_zero, zero_ne_one, Nat.reduceMod, and_self, and_false, and_true, if_true, if_false]

theorem vadds x0 x1 x2 x3 x4 x5 : Statement (.vadds x0 x1 x2 x3 x4 x5) := of_slot rfl fun hw => by
  generalize hx : 1275068416 + x0.val * 1048576 + x1.val * 16384 + x2.val * 256 + x3.val * 64 + x4.val * 8 + x5.val = x
  obtain ⟨h0, e0, e1, e2, e3, e4, e5⟩ := layout27 19 x0 x1 x2 x3 x4 x5 (by omega : _ = x)
  clear hx
  refine short_slot hw ?_
  show decodeV x = _
  unfold decodeV
  simp only [h0, e0, e1, e2, e3, e4, e5, Nat.reduceEqDiff, reduceCtorEq, OfNat.ofNat_ne_zero, OfNat.ofNat_ne_one, OfNat.zero_ne_ofNat, OfNat.one_ne_ofNat, one_ne_zero, zero_ne_one, Nat.reduceMod, and_self, and_false, and_true, if_true, if_false]

theorem vmuls x0 x1 x2 x3 x4 x5 : Statement (.vmuls x0 x1 x2 x3 x4 x5) := of_slot rfl fun hw => by
  generalize hx : 1342177280 + x0.val * 1048576 + x1.val * 16384 + x2.val * 256 + x3.val * 64 + x4.val * 8 + x5.val = x
  obtain ⟨h0, e0, e1, e2, e3, e4, e5⟩ := layout27 20 x0 x1 x2 x3 x4 x5 (by omega : _ = x)
  clear hx
  refine short_slot hw ?_
  show decodeV x = _
  unfold decodeV
  simp only [h0, e0, e1, e2, e3, e4, e5, Nat.reduceEqDiff, reduceCtorEq, OfNat.ofNat_ne_zero, OfNat.ofNat_ne_one, OfNat.zero_ne_ofNat, OfNat.one_ne_ofNat, one_ne_zero, zero_ne_one, Nat.reduceMod, and_self, and_false, and_true, if_true, if_false]

theorem vfmas x0 x1 x2 x3 x4 x5 : Statement (.vfmas x0 x1 x2 x3 x4 x5) := of_slot rfl fun hw => by
  generalize hx : 1409286144 + x0.val * 1048576 + x1.val * 16384 + x2.val * 256 + x3.val * 64 + x4.val * 8 + x5.val = x
  obtain ⟨h0, e0, e1, e2, e3, e4, e5⟩ := layout27 21 x0 x1 x2 x3 x4 x5 (by omega : _ = x)
  clear hx
  refine short_slot hw ?_
  show decodeV x = _
  unfold decodeV
  simp only [h0, e0, e1, e2, e3, e4, e5, Nat.reduceEqDiff, reduceCtorEq, OfNat.ofNat_ne_zero, OfNat.ofNat_ne_one, OfNat.zero_ne_ofNat, OfNat.one_ne_ofNat, one_ne_zero, zero_ne_one, Nat.reduceMod, and_self, and_false, and_true, if_true, if_false]

theorem vbcast x0 x1 x2 x3 x4 : Statement (.vbcast x0 x1 x2 x3 x4) := of_slot rfl fun hw => by
  generalize hx : 1476395008 + x0.val * 1048576 + x1.val * 256 + x2.val * 64 + x3.val * 8 + x4.val = x
  obtain ⟨h0, p0, e0, e1, e2, e3, e4⟩ := layout30 22 0 x0 x1 x2 x3 x4 (by decide) (by omega : _ = x)
  clear hx
  refine short_slot hw ?_
  show decodeV x = _
  unfold decodeV
  simp only [h0, p0, e0, e1, e2, e3, e4, Nat.reduceEqDiff, reduceCtorEq, OfNat.ofNat_ne_zero, OfNat.ofNat_ne_one, OfNat.zero_ne_ofNat, OfNat.one_ne_ofNat, one_ne_zero, zero_ne_one, Nat.reduceMod, and_self, and_false, and_true, if_true, if_false]

theorem vext x0 x1 x2 x3 x4 : Statement (.vext x0 x1 x2 x3 x4) := of_slot rfl fun hw => by
  generalize hx : 1543503872 + x0.val * 1048576 + x1.val * 16384 + x2.val * 256 + x3.val * 64 + x4.val = x
  obtain ⟨h0, p0, e0, e1, e2, e3, e4⟩ := layout31 23 0 x0 x1 x2 x3 x4 (by decide) (by omega : _ = x)
  clear hx
  refine short_slot hw ?_
  show decodeV x = _
  unfold decodeV
  simp only [h0, p0, e0, e1, e2, e3, e4, Nat.reduceEqDiff, reduceCtorEq, OfNat.ofNat_ne_zero, OfNat.ofNat_ne_one, OfNat.zero_ne_ofNat, OfNat.one_ne_ofNat, one_ne_zero, zero_ne_one, Nat.reduceMod, and_self, and_false, and_true, if_true, if_false]

theorem vins x0 x1 x2 x3 x4 : Statement (.vins x0 x1 x2 x3 x4) := of_slot rfl fun hw => by
  generalize hx : 1610612736 + x0.val * 1048576 + x1.val * 16384 + x2.val * 256 + x3.val * 64 + x4.val = x
  obtain ⟨h0, p0, e0, e1, e2, e3, e4⟩ := layout31 24 0 x0 x1 x2 x3 x4 (by decide) (by omega : _ = x)
  clear hx
  refine short_slot hw ?_
  show decodeV x = _
  unfold decodeV
  simp only [h0, p0, e0, e1, e2, e3, e4, Nat.reduceEqDiff, reduceCtorEq, OfNat.ofNat_ne_zero, OfNat.ofNat_ne_one, OfNat.zero_ne_ofNat, OfNat.one_ne_ofNat, one_ne_zero, zero_ne_one, Nat.reduceMod, and_self, and_false, and_true, if_true, if_false]

theorem vperm x0 x1 x2 x3 x4 x5 : Statement (.vperm x0 x1 x2 x3 x4 x5) := of_slot rfl fun hw => by
  generalize hx : 1677721600 + x0.val * 1048576 + x1.val * 16384 + x2.val * 256 + x3.val * 64 + x4.val * 8 + x5.val = x
  obtain ⟨h0, e0, e1, e2, e3, e4, e5⟩ := layout27 25 x0 x1 x2 x3 x4 x5 (by omega : _ = x)
  clear hx
  refine short_slot hw ?_
  show decodeV x = _
  unfold decodeV
  simp only [h0, e0, e1, e2, e3, e4, e5, Nat.reduceEqDiff, reduceCtorEq, OfNat.ofNat_ne_zero, OfNat.ofNat_ne_one, OfNat.zero_ne_ofNat, OfNat.one_ne_ofNat, one_ne_zero, zero_ne_one, Nat.reduceMod, and_self, and_false, and_true, if_true, if_false]

theorem vslide x0 x1 x2 x3 x4 x5 : Statement (.vslide x0 x1 x2 x3 x4 x5) := of_slot rfl fun hw => by
  generalize hx : 1744830464 + x0.val * 1048576 + x1.val * 16384 + x2.val * 256 + x3.val * 64 + x4.val * 8 + x5.val = x
  obtain ⟨h0, e0, e1, e2, e3, e4, e5⟩ := layout27 26 x0 x1 x2 x3 x4 x5 (by omega : _ = x)
  clear hx
  refine short_slot hw ?_
  show decodeV x = _
  unfold decodeV
  simp only [h0, e0, e1, e2, e3, e4, e5, Nat.reduceEqDiff, reduceCtorEq, OfNat.ofNat_ne_zero, OfNat.ofNat_ne_one, OfNat.zero_ne_ofNat, OfNat.one_ne_ofNat, one_ne_zero, zero_ne_one, Nat.reduceMod, and_self, and_false, and_true, if_true, if_false]

theorem viota x0 x1 x2 x3 : Statement (.viota x0 x1 x2 x3) := of_slot rfl fun hw => by
  generalize hx : 1811939328 + x0.val * 1048576 + x1.val * 64 + x2.val * 8 + x3.val = x
  obtain ⟨h0, p0, e0, e1, e2, e3⟩ := layout32 27 0 x0 x1 x2 x3 (by decide) (by omega : _ = x)
  clear hx
  refine short_slot hw ?_
  show decodeV x = _
  unfold decodeV
  simp only [h0, p0, e0, e1, e2, e3, Nat.reduceEqDiff, reduceCtorEq, OfNat.ofNat_ne_zero, OfNat.ofNat_ne_one, OfNat.zero_ne_ofNat, OfNat.one_ne_ofNat, one_ne_zero, zero_ne_one, Nat.reduceMod, and_self, and_false, and_true, if_true, if_false]

theorem vcvt x0 x1 x2 x3 x4 x5 : Statement (.vcvt x0 x1 x2 x3 x4 x5) := of_slot rfl fun hw => by
  generalize hx : 1879048192 + x0.val * 1048576 + x1.val * 16384 + x2.val * 256 + x3.val * 64 + x4.val * 8 + x5.val = x
  obtain ⟨h0, p0, e0, e1, e2, e3, e4, e5⟩ := layout33 28 0 x0 x1 x2 x3 x4 x5 (by decide) (by omega : _ = x)
  clear hx
  refine short_slot hw ?_
  show decodeV x = _
  unfold decodeV
  simp only [h0, p0, e0, e1, e2, e3, e4, e5, Nat.reduceEqDiff, reduceCtorEq, OfNat.ofNat_ne_zero, OfNat.ofNat_ne_one, OfNat.zero_ne_ofNat, OfNat.one_ne_ofNat, one_ne_zero, zero_ne_one, Nat.reduceMod, and_self, and_false, and_true, if_true, if_false]

theorem kunp x0 x1 x2 x3 x4 x5 : Statement (.kunp x0 x1 x2 x3 x4 x5) := of_slot rfl fun hw => by
  generalize hx : 67108864 + x0.val * 1048576 + x1.val * 16384 + x2.val * 2048 + x3.val * 512 + x4.val * 128 + x5.val = x
  obtain ⟨h0, p0, e0, e1, e2, e3, e4, e5⟩ := layout34 1 0 x0 x1 x2 x3 x4 x5 (by decide) (by omega : _ = x)
  clear hx
  refine short_slot hw ?_
  show decodeK x = _
  unfold decodeK
  simp only [h0, p0, e0, e1, e2, e3, e4, e5, Nat.reduceEqDiff, reduceCtorEq, OfNat.ofNat_ne_zero, OfNat.ofNat_ne_one, OfNat.zero_ne_ofNat, OfNat.one_ne_ofNat, one_ne_zero, zero_ne_one, Nat.reduceMod, and_self, and_false, and_true, if_true, if_false]

theorem kunpq x0 x1 x2 x3 x4 x5 : Statement (.kunpq x0 x1 x2 x3 x4 x5) := of_slot rfl fun hw => by
  generalize hx : 134223872 + x0.val * 1048576 + x1.val * 16384 + x2.val * 512 + x3.val * 128 + x4.val * 8 + x5.val = x
  obtain ⟨h0, p0, e0, e1, e2, e3, e4, e5⟩ := layout35 2 3 x0 x1 x2 x3 x4 x5 (by decide) (by omega : _ = x)
  clear hx
  refine short_slot hw ?_
  show decodeK x = _
  unfold decodeK
  simp only [h0, p0, e0, e1, e2, e3, e4, e5, Nat.reduceEqDiff, reduceCtorEq, OfNat.ofNat_ne_zero, OfNat.ofNat_ne_one, OfNat.zero_ne_ofNat, OfNat.one_ne_ofNat, one_ne_zero, zero_ne_one, Nat.reduceMod, and_self, and_false, and_true, if_true, if_false]

theorem klds x0 x1 x2 x3 : Statement (.klds x0 x1 x2 x3) := of_slot rfl fun hw => by
  generalize hx : 201326592 + x0.val * 1048576 + x1.val * 16384 + x2.toNat * 8 + x3.val = x
  obtain ⟨h0, e0, e1, e2, e3⟩ := layout2 3 x0 x1 x2 x3 (by omega : _ = x)
  clear hx
  refine short_slot hw ?_
  show decodeK x = _
  unfold decodeK
  simp only [h0, e0, e1, e2, e3, Nat.reduceEqDiff, reduceCtorEq, OfNat.ofNat_ne_zero, OfNat.ofNat_ne_one, OfNat.zero_ne_ofNat, OfNat.one_ne_ofNat, one_ne_zero, zero_ne_one, Nat.reduceMod, and_self, and_false, and_true, if_true, if_false]

theorem kldss x0 x1 x2 x3 : Statement (.kldss x0 x1 x2 x3) := of_slot rfl fun hw => by
  generalize hx : 268435456 + x0.val * 1048576 + x1.val * 16384 + x2.toNat * 8 + x3.val = x
  obtain ⟨h0, e0, e1, e2, e3⟩ := layout2 4 x0 x1 x2 x3 (by omega : _ = x)
  clear hx
  refine short_slot hw ?_
  show decodeK x = _
  unfold decodeK
  simp only [h0, e0, e1, e2, e3, Nat.reduceEqDiff, reduceCtorEq, OfNat.ofNat_ne_zero, OfNat.ofNat_ne_one, OfNat.zero_ne_ofNat, OfNat.one_ne_ofNat, one_ne_zero, zero_ne_one, Nat.reduceMod, and_self, and_false, and_true, if_true, if_false]

theorem qpk x0 x1 x2 x3 x4 x5 x6 x7 : Statement (.qpk x0 x1 x2 x3 x4 x5 x6 x7) := of_slot rfl fun hw => by
  generalize hx : 67108864 + x0.val * 1048576 + x1.val * 16384 + x2.val * 2048 + x3.val * 512 + x4.val * 128 + x5.val * 32 + x6.val * 8 + x7.val = x
  obtain ⟨h0, e0, e1, e2, e3, e4, e5, e6, e7⟩ := layout36 1 x0 x1 x2 x3 x4 x5 x6 x7 (by omega : _ = x)
  clear hx
  refine short_slot hw ?_
  show decodeQ x = _
  unfold decodeQ
  simp only [h0, e0, e1, e2, e3, e4, e5, e6, e7, Nat.reduceEqDiff, reduceCtorEq, OfNat.ofNat_ne_zero, OfNat.ofNat_ne_one, OfNat.zero_ne_ofNat, OfNat.one_ne_ofNat, one_ne_zero, zero_ne_one, Nat.reduceMod, and_self, and_false, and_true, if_true, if_false]

theorem qpkq x0 x1 x2 x3 x4 x5 : Statement (.qpkq x0 x1 x2 x3 x4 x5) := of_slot rfl fun hw => by
  generalize hx : 134223872 + x0.val * 1048576 + x1.val * 16384 + x2.val * 512 + x3.val * 128 + x4.val * 8 + x5.val = x
  obtain ⟨h0, p0, e0, e1, e2, e3, e4, e5⟩ := layout35 2 3 x0 x1 x2 x3 x4 x5 (by decide) (by omega : _ = x)
  clear hx
  refine short_slot hw ?_
  show decodeQ x = _
  unfold decodeQ
  simp only [h0, p0, e0, e1, e2, e3, e4, e5, Nat.reduceEqDiff, reduceCtorEq, OfNat.ofNat_ne_zero, OfNat.ofNat_ne_one, OfNat.zero_ne_ofNat, OfNat.one_ne_ofNat, one_ne_zero, zero_ne_one, Nat.reduceMod, and_self, and_false, and_true, if_true, if_false]

theorem qamax x0 x1 x2 x3 x4 x5 : Statement (.qamax x0 x1 x2 x3 x4 x5) := of_slot rfl fun hw => by
  generalize hx : 201332736 + x0.val * 1048576 + x1.val * 16384 + x2.val * 512 + x3.val * 128 + x4.val * 8 + x5.val = x
  obtain ⟨h0, p0, e0, e1, e2, e3, e4, e5⟩ := layout35 3 3 x0 x1 x2 x3 x4 x5 (by decide) (by omega : _ = x)
  clear hx
  refine short_slot hw ?_
  show decodeQ x = _
  unfold decodeQ
  simp only [h0, p0, e0, e1, e2, e3, e4, e5, Nat.reduceEqDiff, reduceCtorEq, OfNat.ofNat_ne_zero, OfNat.ofNat_ne_one, OfNat.zero_ne_ofNat, OfNat.one_ne_ofNat, one_ne_zero, zero_ne_one, Nat.reduceMod, and_self, and_false, and_true, if_true, if_false]

theorem qsts x0 x1 x2 x3 : Statement (.qsts x0 x1 x2 x3) := of_slot rfl fun hw => by
  generalize hx : 268435456 + x0.val * 1048576 + x1.val * 16384 + x2.toNat * 8 + x3.val = x
  obtain ⟨h0, e0, e1, e2, e3⟩ := layout2 4 x0 x1 x2 x3 (by omega : _ = x)
  clear hx
  refine short_slot hw ?_
  show decodeQ x = _
  unfold decodeQ
  simp only [h0, e0, e1, e2, e3, Nat.reduceEqDiff, reduceCtorEq, OfNat.ofNat_ne_zero, OfNat.ofNat_ne_one, OfNat.zero_ne_ofNat, OfNat.one_ne_ofNat, one_ne_zero, zero_ne_one, Nat.reduceMod, and_self, and_false, and_true, if_true, if_false]

theorem frcp x0 x1 x2 x3 x4 : Statement (.frcp x0 x1 x2 x3 x4) := of_slot rfl fun hw => by
  generalize hx : 67108864 + x0.val * 1048576 + x1.val * 16384 + x2.val * 64 + x3.val * 8 + x4.val = x
  obtain ⟨h0, p0, e0, e1, e2, e3, e4⟩ := layout28 1 0 x0 x1 x2 x3 x4 (by decide) (by omega : _ = x)
  clear hx
  refine short_slot hw ?_
  show decodeF x = _
  unfold decodeF
  simp only [h0, p0, e0, e1, e2, e3, e4, Nat.reduceEqDiff, reduceCtorEq, OfNat.ofNat_ne_zero, OfNat.ofNat_ne_one, OfNat.zero_ne_ofNat, OfNat.one_ne_ofNat, one_ne_zero, zero_ne_one, Nat.reduceMod, and_self, and_false, and_true, if_true, if_false]

theorem frsq x0 x1 x2 x3 x4 : Statement (.frsq x0 x1 x2 x3 x4) := of_slot rfl fun hw => by
  generalize hx : 134217728 + x0.val * 1048576 + x1.val * 16384 + x2.val * 64 + x3.val * 8 + x4.val = x
  obtain ⟨h0, p0, e0, e1, e2, e3, e4⟩ := layout28 2 0 x0 x1 x2 x3 x4 (by decide) (by omega : _ = x)
  clear hx
  refine short_slot hw ?_
  show decodeF x = _
  unfold decodeF
  simp only [h0, p0, e0, e1, e2, e3, e4, Nat.reduceEqDiff, reduceCtorEq, OfNat.ofNat_ne_zero, OfNat.ofNat_ne_one, OfNat.zero_ne_ofNat, OfNat.one_ne_ofNat, one_ne_zero, zero_ne_one, Nat.reduceMod, and_self, and_false, and_true, if_true, if_false]

theorem fsqrt x0 x1 x2 x3 x4 : Statement (.fsqrt x0 x1 x2 x3 x4) := of_slot rfl fun hw => by
  generalize hx : 201326592 + x0.val * 1048576 + x1.val * 16384 + x2.val * 64 + x3.val * 8 + x4.val = x
  obtain ⟨h0, p0, e0, e1, e2, e3, e4⟩ := layout28 3 0 x0 x1 x2 x3 x4 (by decide) (by omega : _ = x)
  clear hx
  refine short_slot hw ?_
  show decodeF x = _
  unfold decodeF
  simp only [h0, p0, e0, e1, e2, e3, e4, Nat.reduceEqDiff, reduceCtorEq, OfNat.ofNat_ne_zero, OfNat.ofNat_ne_one, OfNat.zero_ne_ofNat, OfNat.one_ne_ofNat, one_ne_zero, zero_ne_one, Nat.reduceMod, and_self, and_false, and_true, if_true, if_false]

theorem fexp2 x0 x1 x2 x3 x4 : Statement (.fexp2 x0 x1 x2 x3 x4) := of_slot rfl fun hw => by
  generalize hx : 268435456 + x0.val * 1048576 + x1.val * 16384 + x2.val * 64 + x3.val * 8 + x4.val = x
  obtain ⟨h0, p0, e0, e1, e2, e3, e4⟩ := layout28 4 0 x0 x1 x2 x3 x4 (by decide) (by omega : _ = x)
  clear hx
  refine short_slot hw ?_
  show decodeF x = _
  unfold decodeF
  simp only [h0, p0, e0, e1, e2, e3, e4, Nat.reduceEqDiff, reduceCtorEq, OfNat.ofNat_ne_zero, OfNat.ofNat_ne_one, OfNat.zero_ne_ofNat, OfNat.one_ne_ofNat, one_ne_zero, zero_ne_one, Nat.reduceMod, and_self, and_false, and_true, if_true, if_false]

theorem flog2 x0 x1 x2 x3 x4 : Statement (.flog2 x0 x1 x2 x3 x4) := of_slot rfl fun hw => by
  generalize hx : 335544320 + x0.val * 1048576 + x1.val * 16384 + x2.val * 64 + x3.val * 8 + x4.val = x
  obtain ⟨h0, p0, e0, e1, e2, e3, e4⟩ := layout28 5 0 x0 x1 x2 x3 x4 (by decide) (by omega : _ = x)
  clear hx
  refine short_slot hw ?_
  show decodeF x = _
  unfold decodeF
  simp only [h0, p0, e0, e1, e2, e3, e4, Nat.reduceEqDiff, reduceCtorEq, OfNat.ofNat_ne_zero, OfNat.ofNat_ne_one, OfNat.zero_ne_ofNat, OfNat.one_ne_ofNat, one_ne_zero, zero_ne_one, Nat.reduceMod, and_self, and_false, and_true, if_true, if_false]

theorem fsin x0 x1 x2 x3 x4 : Statement (.fsin x0 x1 x2 x3 x4) := of_slot rfl fun hw => by
  generalize hx : 402653184 + x0.val * 1048576 + x1.val * 16384 + x2.val * 64 + x3.val * 8 + x4.val = x
  obtain ⟨h0, p0, e0, e1, e2, e3, e4⟩ := layout28 6 0 x0 x1 x2 x3 x4 (by decide) (by omega : _ = x)
  clear hx
  refine short_slot hw ?_
  show decodeF x = _
  unfold decodeF
  simp only [h0, p0, e0, e1, e2, e3, e4, Nat.reduceEqDiff, reduceCtorEq, OfNat.ofNat_ne_zero, OfNat.ofNat_ne_one, OfNat.zero_ne_ofNat, OfNat.one_ne_ofNat, one_ne_zero, zero_ne_one, Nat.reduceMod, and_self, and_false, and_true, if_true, if_false]

theorem fcos x0 x1 x2 x3 x4 : Statement (.fcos x0 x1 x2 x3 x4) := of_slot rfl fun hw => by
  generalize hx : 469762048 + x0.val * 1048576 + x1.val * 16384 + x2.val * 64 + x3.val * 8 + x4.val = x
  obtain ⟨h0, p0, e0, e1, e2, e3, e4⟩ := layout28 7 0 x0 x1 x2 x3 x4 (by decide) (by omega : _ = x)
  clear hx
  refine short_slot hw ?_
  show decodeF x = _
  unfold decodeF
  simp only [h0, p0, e0, e1, e2, e3, e4, Nat.reduceEqDiff, reduceCtorEq, OfNat.ofNat_ne_zero, OfNat.ofNat_ne_one, OfNat.zero_ne_ofNat, OfNat.one_ne_ofNat, one_ne_zero, zero_ne_one, Nat.reduceMod, and_self, and_false, and_true, if_true, if_false]

theorem ftanh x0 x1 x2 x3 x4 : Statement (.ftanh x0 x1 x2 x3 x4) := of_slot rfl fun hw => by
  generalize hx : 536870912 + x0.val * 1048576 + x1.val * 16384 + x2.val * 64 + x3.val * 8 + x4.val = x
  obtain ⟨h0, p0, e0, e1, e2, e3, e4⟩ := layout28 8 0 x0 x1 x2 x3 x4 (by decide) (by omega : _ = x)
  clear hx
  refine short_slot hw ?_
  show decodeF x = _
  unfold decodeF
  simp only [h0, p0, e0, e1, e2, e3, e4, Nat.reduceEqDiff, reduceCtorEq, OfNat.ofNat_ne_zero, OfNat.ofNat_ne_one, OfNat.zero_ne_ofNat, OfNat.one_ne_ofNat, one_ne_zero, zero_ne_one, Nat.reduceMod, and_self, and_false, and_true, if_true, if_false]

theorem fsum x0 x1 x2 x3 x4 : Statement (.fsum x0 x1 x2 x3 x4) := of_slot rfl fun hw => by
  generalize hx : 603979776 + x0.val * 1048576 + x1.val * 16384 + x2.val * 64 + x3.val * 8 + x4.val = x
  obtain ⟨h0, p0, e0, e1, e2, e3, e4⟩ := layout28 9 0 x0 x1 x2 x3 x4 (by decide) (by omega : _ = x)
  clear hx
  refine short_slot hw ?_
  show decodeF x = _
  unfold decodeF
  simp only [h0, p0, e0, e1, e2, e3, e4, Nat.reduceEqDiff, reduceCtorEq, OfNat.ofNat_ne_zero, OfNat.ofNat_ne_one, OfNat.zero_ne_ofNat, OfNat.one_ne_ofNat, one_ne_zero, zero_ne_one, Nat.reduceMod, and_self, and_false, and_true, if_true, if_false]

theorem fmaxr x0 x1 x2 x3 x4 : Statement (.fmaxr x0 x1 x2 x3 x4) := of_slot rfl fun hw => by
  generalize hx : 671088640 + x0.val * 1048576 + x1.val * 16384 + x2.val * 64 + x3.val * 8 + x4.val = x
  obtain ⟨h0, p0, e0, e1, e2, e3, e4⟩ := layout28 10 0 x0 x1 x2 x3 x4 (by decide) (by omega : _ = x)
  clear hx
  refine short_slot hw ?_
  show decodeF x = _
  unfold decodeF
  simp only [h0, p0, e0, e1, e2, e3, e4, Nat.reduceEqDiff, reduceCtorEq, OfNat.ofNat_ne_zero, OfNat.ofNat_ne_one, OfNat.zero_ne_ofNat, OfNat.one_ne_ofNat, one_ne_zero, zero_ne_one, Nat.reduceMod, and_self, and_false, and_true, if_true, if_false]

theorem fminr x0 x1 x2 x3 x4 : Statement (.fminr x0 x1 x2 x3 x4) := of_slot rfl fun hw => by
  generalize hx : 738197504 + x0.val * 1048576 + x1.val * 16384 + x2.val * 64 + x3.val * 8 + x4.val = x
  obtain ⟨h0, p0, e0, e1, e2, e3, e4⟩ := layout28 11 0 x0 x1 x2 x3 x4 (by decide) (by omega : _ = x)
  clear hx
  refine short_slot hw ?_
  show decodeF x = _
  unfold decodeF
  simp only [h0, p0, e0, e1, e2, e3, e4, Nat.reduceEqDiff, reduceCtorEq, OfNat.ofNat_ne_zero, OfNat.ofNat_ne_one, OfNat.zero_ne_ofNat, OfNat.one_ne_ofNat, one_ne_zero, zero_ne_one, Nat.reduceMod, and_self, and_false, and_true, if_true, if_false]

theorem fscan x0 x1 x2 x3 x4 : Statement (.fscan x0 x1 x2 x3 x4) := of_slot rfl fun hw => by
  generalize hx : 805306368 + x0.val * 1048576 + x1.val * 16384 + x2.val * 64 + x3.val * 8 + x4.val = x
  obtain ⟨h0, p0, e0, e1, e2, e3, e4⟩ := layout28 12 0 x0 x1 x2 x3 x4 (by decide) (by omega : _ = x)
  clear hx
  refine short_slot hw ?_
  show decodeF x = _
  unfold decodeF
  simp only [h0, p0, e0, e1, e2, e3, e4, Nat.reduceEqDiff, reduceCtorEq, OfNat.ofNat_ne_zero, OfNat.ofNat_ne_one, OfNat.zero_ne_ofNat, OfNat.one_ne_ofNat, one_ne_zero, zero_ne_one, Nat.reduceMod, and_self, and_false, and_true, if_true, if_false]

theorem ewr x0 x1 x2 x3 : Statement (.ewr x0 x1 x2 x3) := of_slot rfl fun hw => by
  generalize hx : 67108864 + x0.val * 4194304 + x1.val * 65536 + x2.val * 8 + x3.val = x
  obtain ⟨h0, p0, e0, e1, e2, e3⟩ := layout37 1 0 x0 x1 x2 x3 (by decide) (by omega : _ = x)
  clear hx
  refine short_slot hw ?_
  show decodeT x = _
  unfold decodeT
  simp only [h0, p0, e0, e1, e2, e3, Nat.reduceEqDiff, reduceCtorEq, OfNat.ofNat_ne_zero, OfNat.ofNat_ne_one, OfNat.zero_ne_ofNat, OfNat.one_ne_ofNat, one_ne_zero, zero_ne_one, Nat.reduceMod, and_self, and_false, and_true, if_true, if_false]

theorem erd x0 x1 x2 x3 : Statement (.erd x0 x1 x2 x3) := of_slot rfl fun hw => by
  generalize hx : 134217728 + x0.val * 4194304 + x1.val * 1024 + x2.val * 8 + x3.val = x
  obtain ⟨h0, p0, p1, e0, e1, e2, e3⟩ := layout38 2 0 0 x0 x1 x2 x3 (by decide) (by decide) (by omega : _ = x)
  clear hx
  refine short_slot hw ?_
  show decodeT x = _
  unfold decodeT
  simp only [h0, p0, p1, e0, e1, e2, e3, Nat.reduceEqDiff, reduceCtorEq, OfNat.ofNat_ne_zero, OfNat.ofNat_ne_one, OfNat.zero_ne_ofNat, OfNat.one_ne_ofNat, one_ne_zero, zero_ne_one, Nat.reduceMod, and_self, and_false, and_true, if_true, if_false]

theorem copy x0 x1 x2 x3 x4 : Statement (.copy x0 x1 x2 x3 x4) := of_slot rfl fun hw => by
  generalize hx : 201326592 + x0.val * 4194304 + x1.val * 65536 + x2.val * 1024 + x3.val * 16 + x4.val = x
  obtain ⟨h0, p0, e0, e1, e2, e3, e4⟩ := layout39 3 0 x0 x1 x2 x3 x4 (by decide) (by omega : _ = x)
  clear hx
  refine short_slot hw ?_
  show decodeT x = _
  unfold decodeT
  simp only [h0, p0, e0, e1, e2, e3, e4, Nat.reduceEqDiff, reduceCtorEq, OfNat.ofNat_ne_zero, OfNat.ofNat_ne_one, OfNat.zero_ne_ofNat, OfNat.one_ne_ofNat, one_ne_zero, zero_ne_one, Nat.reduceMod, and_self, and_false, and_true, if_true, if_false]

theorem copyRack x0 x1 x2 x3 x4 : Statement (.copyRack x0 x1 x2 x3 x4) := of_slot rfl fun hw => by
  generalize hx : 201326600 + x0.val * 4194304 + x1.val * 65536 + x2.val * 1024 + x3.val * 16 + x4.val = x
  obtain ⟨h0, p0, e0, e1, e2, e3, e4⟩ := layout39 3 1 x0 x1 x2 x3 x4 (by decide) (by omega : _ = x)
  clear hx
  refine short_slot hw ?_
  show decodeT x = _
  unfold decodeT
  simp only [h0, p0, e0, e1, e2, e3, e4, Nat.reduceEqDiff, reduceCtorEq, OfNat.ofNat_ne_zero, OfNat.ofNat_ne_one, OfNat.zero_ne_ofNat, OfNat.one_ne_ofNat, one_ne_zero, zero_ne_one, Nat.reduceMod, and_self, and_false, and_true, if_true, if_false]

theorem bindIn x0 x1 x2 x3 : Statement (.bindIn x0 x1 x2 x3) := of_slot rfl fun hw => by
  generalize hx : 268435456 + x0.val * 4194304 + x1.val * 65536 + x2.val * 8 + x3.val = x
  obtain ⟨h0, p0, e0, e1, e2, e3⟩ := layout37 4 0 x0 x1 x2 x3 (by decide) (by omega : _ = x)
  clear hx
  refine short_slot hw ?_
  show decodeT x = _
  unfold decodeT
  simp only [h0, p0, e0, e1, e2, e3, Nat.reduceEqDiff, reduceCtorEq, OfNat.ofNat_ne_zero, OfNat.ofNat_ne_one, OfNat.zero_ne_ofNat, OfNat.one_ne_ofNat, one_ne_zero, zero_ne_one, Nat.reduceMod, and_self, and_false, and_true, if_true, if_false]

theorem bindOut x0 x1 x2 x3 : Statement (.bindOut x0 x1 x2 x3) := of_slot rfl fun hw => by
  generalize hx : 268435520 + x0.val * 4194304 + x1.val * 65536 + x2.val * 8 + x3.val = x
  obtain ⟨h0, p0, e0, e1, e2, e3⟩ := layout37 4 1 x0 x1 x2 x3 (by decide) (by omega : _ = x)
  clear hx
  refine short_slot hw ?_
  show decodeT x = _
  unfold decodeT
  simp only [h0, p0, e0, e1, e2, e3, Nat.reduceEqDiff, reduceCtorEq, OfNat.ofNat_ne_zero, OfNat.ofNat_ne_one, OfNat.zero_ne_ofNat, OfNat.one_ne_ofNat, one_ne_zero, zero_ne_one, Nat.reduceMod, and_self, and_false, and_true, if_true, if_false]

theorem unbind x0 x1 : Statement (.unbind x0 x1) := of_slot rfl fun hw => by
  generalize hx : 335544320 + x0.val * 8 + x1.val = x
  obtain ⟨h0, p0, e0, e1⟩ := layout40 5 0 x0 x1 (by decide) (by omega : _ = x)
  clear hx
  refine short_slot hw ?_
  show decodeT x = _
  unfold decodeT
  simp only [h0, p0, e0, e1, Nat.reduceEqDiff, reduceCtorEq, OfNat.ofNat_ne_zero, OfNat.ofNat_ne_one, OfNat.zero_ne_ofNat, OfNat.one_ne_ofNat, one_ne_zero, zero_ne_one, Nat.reduceMod, and_self, and_false, and_true, if_true, if_false]

theorem mma x0 x1 x2 x3 x4 x5 : Statement (.mma x0 x1 x2 x3 x4 x5) := of_slot rfl fun hw => by
  generalize hx : 402653184 + x0.val * 4194304 + x1.val * 65536 + x2.val * 1024 + x3.val * 64 + x4.val * 8 + x5.val = x
  obtain ⟨h0, e0, e1, e2, e3, e4, e5⟩ := layout41 6 x0 x1 x2 x3 x4 x5 (by omega : _ = x)
  clear hx
  refine short_slot hw ?_
  show decodeT x = _
  unfold decodeT
  simp only [h0, e0, e1, e2, e3, e4, e5, Nat.reduceEqDiff, reduceCtorEq, OfNat.ofNat_ne_zero, OfNat.ofNat_ne_one, OfNat.zero_ne_ofNat, OfNat.one_ne_ofNat, one_ne_zero, zero_ne_one, Nat.reduceMod, and_self, and_false, and_true, if_true, if_false]

theorem mmas x0 x1 x2 x3 x4 x5 : Statement (.mmas x0 x1 x2 x3 x4 x5) := of_slot rfl fun hw => by
  generalize hx : 469762048 + x0.val * 4194304 + x1.val * 65536 + x2.val * 1024 + x3.val * 64 + x4.val * 8 + x5.val = x
  obtain ⟨h0, p0, e0, e1, e2, e3, e4, e5⟩ := layout42 7 0 x0 x1 x2 x3 x4 x5 (by decide) (by omega : _ = x)
  clear hx
  refine short_slot hw ?_
  show decodeT x = _
  unfold decodeT
  simp only [h0, p0, e0, e1, e2, e3, e4, e5, Nat.reduceEqDiff, reduceCtorEq, OfNat.ofNat_ne_zero, OfNat.ofNat_ne_one, OfNat.zero_ne_ofNat, OfNat.one_ne_ofNat, one_ne_zero, zero_ne_one, Nat.reduceMod, and_self, and_false, and_true, if_true, if_false]

theorem mzero x0 x1 : Statement (.mzero x0 x1) := of_slot rfl fun hw => by
  generalize hx : 536870912 + x0.val * 64 + x1.val = x
  obtain ⟨h0, p0, p1, e0, e1⟩ := layout43 8 0 0 x0 x1 (by decide) (by decide) (by omega : _ = x)
  clear hx
  refine short_slot hw ?_
  show decodeT x = _
  unfold decodeT
  simp only [h0, p0, p1, e0, e1, Nat.reduceEqDiff, reduceCtorEq, OfNat.ofNat_ne_zero, OfNat.ofNat_ne_one, OfNat.zero_ne_ofNat, OfNat.one_ne_ofNat, one_ne_zero, zero_ne_one, Nat.reduceMod, and_self, and_false, and_true, if_true, if_false]

theorem mld x0 x1 x2 x3 : Statement (.mld x0 x1 x2 x3) := of_slot rfl fun hw => by
  generalize hx : 603979776 + x0.val * 4194304 + x1.val * 65536 + x2.val * 64 + x3.val = x
  obtain ⟨h0, p0, p1, e0, e1, e2, e3⟩ := layout44 9 0 0 x0 x1 x2 x3 (by decide) (by decide) (by omega : _ = x)
  clear hx
  refine short_slot hw ?_
  show decodeT x = _
  unfold decodeT
  simp only [h0, p0, p1, e0, e1, e2, e3, Nat.reduceEqDiff, reduceCtorEq, OfNat.ofNat_ne_zero, OfNat.ofNat_ne_one, OfNat.zero_ne_ofNat, OfNat.one_ne_ofNat, one_ne_zero, zero_ne_one, Nat.reduceMod, and_self, and_false, and_true, if_true, if_false]

theorem mst x0 x1 x2 x3 x4 : Statement (.mst x0 x1 x2 x3 x4) := of_slot rfl fun hw => by
  generalize hx : 671088640 + x0.val * 4194304 + x1.val * 65536 + x2.val * 1024 + x3.val * 64 + x4.val = x
  obtain ⟨h0, p0, e0, e1, e2, e3, e4⟩ := layout45 10 0 x0 x1 x2 x3 x4 (by decide) (by omega : _ = x)
  clear hx
  refine short_slot hw ?_
  show decodeT x = _
  unfold decodeT
  simp only [h0, p0, e0, e1, e2, e3, e4, Nat.reduceEqDiff, reduceCtorEq, OfNat.ofNat_ne_zero, OfNat.ofNat_ne_one, OfNat.zero_ne_ofNat, OfNat.one_ne_ofNat, one_ne_zero, zero_ne_one, Nat.reduceMod, and_self, and_false, and_true, if_true, if_false]

theorem mstRack x0 x1 x2 x3 x4 : Statement (.mstRack x0 x1 x2 x3 x4) := of_slot rfl fun hw => by
  generalize hx : 671088672 + x0.val * 4194304 + x1.val * 65536 + x2.val * 1024 + x3.val * 64 + x4.val = x
  obtain ⟨h0, p0, e0, e1, e2, e3, e4⟩ := layout45 10 4 x0 x1 x2 x3 x4 (by decide) (by omega : _ = x)
  clear hx
  refine short_slot hw ?_
  show decodeT x = _
  unfold decodeT
  simp only [h0, p0, e0, e1, e2, e3, e4, Nat.reduceEqDiff, reduceCtorEq, OfNat.ofNat_ne_zero, OfNat.ofNat_ne_one, OfNat.zero_ne_ofNat, OfNat.one_ne_ofNat, one_ne_zero, zero_ne_one, Nat.reduceMod, and_self, and_false, and_true, if_true, if_false]

theorem mpri x0 x1 : Statement (.mpri x0 x1) := of_slot rfl fun hw => by
  generalize hx : 805306368 + x0.val * 8 + x1.val = x
  obtain ⟨h0, p0, e0, e1⟩ := layout46 12 0 x0 x1 (by decide) (by omega : _ = x)
  clear hx
  refine short_slot hw ?_
  show decodeT x = _
  unfold decodeT
  simp only [h0, p0, e0, e1, Nat.reduceEqDiff, reduceCtorEq, OfNat.ofNat_ne_zero, OfNat.ofNat_ne_one, OfNat.zero_ne_ofNat, OfNat.one_ne_ofNat, one_ne_zero, zero_ne_one, Nat.reduceMod, and_self, and_false, and_true, if_true, if_false]

theorem spawn x0 x1 x2 x3 x4 : Statement (.spawn x0 x1 x2 x3 x4) := of_slot rfl fun hw => by
  generalize hx : 872415232 + x0.val * 4194304 + x1.val * 65536 + x2.val * 1024 + x3.val * 8 + x4.val = x
  obtain ⟨h0, p0, e0, e1, e2, e3, e4⟩ := layout47 13 0 x0 x1 x2 x3 x4 (by decide) (by omega : _ = x)
  clear hx
  refine short_slot hw ?_
  show decodeT x = _
  unfold decodeT
  simp only [h0, p0, e0, e1, e2, e3, e4, Nat.reduceEqDiff, reduceCtorEq, OfNat.ofNat_ne_zero, OfNat.ofNat_ne_one, OfNat.zero_ne_ofNat, OfNat.one_ne_ofNat, one_ne_zero, zero_ne_one, Nat.reduceMod, and_self, and_false, and_true, if_true, if_false]

theorem tset x0 x1 x2 : Statement (.tset x0 x1 x2) := of_slot rfl fun hw => by
  generalize hx : 939524096 + x0.val * 65536 + x1.val * 16 + x2.val = x
  obtain ⟨h0, p0, p1, p2, e0, e1, e2⟩ := layout48 14 0 0 0 x0 x1 x2 (by decide) (by decide) (by decide) (by omega : _ = x)
  clear hx
  refine short_slot hw ?_
  show decodeT x = _
  unfold decodeT
  simp only [h0, p0, p1, p2, e0, e1, e2, Nat.reduceEqDiff, reduceCtorEq, OfNat.ofNat_ne_zero, OfNat.ofNat_ne_one, OfNat.zero_ne_ofNat, OfNat.one_ne_ofNat, one_ne_zero, zero_ne_one, Nat.reduceMod, and_self, and_false, and_true, if_true, if_false]

theorem tdec x0 x1 x2 x3 : Statement (.tdec x0 x1 x2 x3) := of_slot rfl fun hw => by
  generalize hx : 1006632960 + x0.val * 65536 + x1.val * 1024 + x2.val * 16 + x3.val = x
  obtain ⟨h0, p0, p1, e0, e1, e2, e3⟩ := layout49 15 0 0 x0 x1 x2 x3 (by decide) (by decide) (by omega : _ = x)
  clear hx
  refine short_slot hw ?_
  show decodeT x = _
  unfold decodeT
  simp only [h0, p0, p1, e0, e1, e2, e3, Nat.reduceEqDiff, reduceCtorEq, OfNat.ofNat_ne_zero, OfNat.ofNat_ne_one, OfNat.zero_ne_ofNat, OfNat.one_ne_ofNat, one_ne_zero, zero_ne_one, Nat.reduceMod, and_self, and_false, and_true, if_true, if_false]

theorem twait x0 x1 : Statement (.twait x0 x1) := of_slot rfl fun hw => by
  generalize hx : 1073741824 + x0.val * 16 + x1.val = x
  obtain ⟨h0, p0, p1, e0, e1⟩ := layout50 16 0 0 x0 x1 (by decide) (by decide) (by omega : _ = x)
  clear hx
  refine short_slot hw ?_
  show decodeT x = _
  unfold decodeT
  simp only [h0, p0, p1, e0, e1, Nat.reduceEqDiff, reduceCtorEq, OfNat.ofNat_ne_zero, OfNat.ofNat_ne_one, OfNat.zero_ne_ofNat, OfNat.one_ne_ofNat, one_ne_zero, zero_ne_one, Nat.reduceMod, and_self, and_false, and_true, if_true, if_false]

theorem gsend x0 x1 x2 : Statement (.gsend x0 x1 x2) := of_slot rfl fun hw => by
  generalize hx : 1140850688 + x0.val * 4194304 + x1.val * 65536 + x2.val = x
  obtain ⟨h0, p0, e0, e1, e2⟩ := layout51 17 0 x0 x1 x2 (by decide) (by omega : _ = x)
  clear hx
  refine short_slot hw ?_
  show decodeT x = _
  unfold decodeT
  simp only [h0, p0, e0, e1, e2, Nat.reduceEqDiff, reduceCtorEq, OfNat.ofNat_ne_zero, OfNat.ofNat_ne_one, OfNat.zero_ne_ofNat, OfNat.one_ne_ofNat, one_ne_zero, zero_ne_one, Nat.reduceMod, and_self, and_false, and_true, if_true, if_false]

theorem ready x0 x1 x2 : Statement (.ready x0 x1 x2) := of_slot rfl fun hw => by
  generalize hx : 1207959552 + x0.val * 65536 + x1.val * 1024 + x2.val = x
  obtain ⟨h0, p0, p1, e0, e1, e2⟩ := layout52 18 0 0 x0 x1 x2 (by decide) (by decide) (by omega : _ = x)
  clear hx
  refine short_slot hw ?_
  show decodeT x = _
  unfold decodeT
  simp only [h0, p0, p1, e0, e1, e2, Nat.reduceEqDiff, reduceCtorEq, OfNat.ofNat_ne_zero, OfNat.ofNat_ne_one, OfNat.zero_ne_ofNat, OfNat.one_ne_ofNat, one_ne_zero, zero_ne_one, Nat.reduceMod, and_self, and_false, and_true, if_true, if_false]

theorem unready x0 x1 : Statement (.unready x0 x1) := of_slot rfl fun hw => by
  generalize hx : 1275068416 + x0.val * 65536 + x1.val = x
  obtain ⟨h0, p0, p1, e0, e1⟩ := layout53 19 0 0 x0 x1 (by decide) (by decide) (by omega : _ = x)
  clear hx
  refine short_slot hw ?_
  show decodeT x = _
  unfold decodeT
  simp only [h0, p0, p1, e0, e1, Nat.reduceEqDiff, reduceCtorEq, OfNat.ofNat_ne_zero, OfNat.ofNat_ne_one, OfNat.zero_ne_ofNat, OfNat.one_ne_ofNat, one_ne_zero, zero_ne_one, Nat.reduceMod, and_self, and_false, and_true, if_true, if_false]

theorem asend x0 x1 x2 x3 : Statement (.asend x0 x1 x2 x3) := of_slot rfl fun hw => by
  generalize hx : 1342177280 + x0.val * 4194304 + x1.val * 65536 + x2.val * 1024 + x3.val = x
  obtain ⟨h0, p0, e0, e1, e2, e3⟩ := layout54 20 0 x0 x1 x2 x3 (by decide) (by omega : _ = x)
  clear hx
  refine short_slot hw ?_
  show decodeT x = _
  unfold decodeT
  simp only [h0, p0, e0, e1, e2, e3, Nat.reduceEqDiff, reduceCtorEq, OfNat.ofNat_ne_zero, OfNat.ofNat_ne_one, OfNat.zero_ne_ofNat, OfNat.one_ne_ofNat, one_ne_zero, zero_ne_one, Nat.reduceMod, and_self, and_false, and_true, if_true, if_false]

theorem peel x0 x1 x2 x3 : Statement (.peel x0 x1 x2 x3) := of_slot rfl fun hw => by
  generalize hx : 1409286144 + x0.val * 65536 + x1.val * 1024 + x2.val * 16 + x3.val = x
  obtain ⟨h0, p0, p1, e0, e1, e2, e3⟩ := layout49 21 0 0 x0 x1 x2 x3 (by decide) (by decide) (by omega : _ = x)
  clear hx
  refine short_slot hw ?_
  show decodeT x = _
  unfold decodeT
  simp only [h0, p0, p1, e0, e1, e2, e3, Nat.reduceEqDiff, reduceCtorEq, OfNat.ofNat_ne_zero, OfNat.ofNat_ne_one, OfNat.zero_ne_ofNat, OfNat.one_ne_ofNat, one_ne_zero, zero_ne_one, Nat.reduceMod, and_self, and_false, and_true, if_true, if_false]

theorem addiLong x0 x1 x2 x3 : Statement (.addiLong x0 x1 x2 x3) := of_slot rfl fun hw => by
  generalize hx : 134217728 + x0.val * 1048576 + x1.val * 16384 + x2.val = x
  obtain ⟨h0, p0, e0, e1, e2⟩ := layout1 2 0 x0 x1 x2 (by decide) (by omega : _ = x)
  clear hx
  refine long_slot hw ?_
  unfold decodeLong
  simp only [h0, p0, e0, e1, e2, Nat.reduceEqDiff, reduceCtorEq, OfNat.ofNat_ne_zero, OfNat.ofNat_ne_one, OfNat.zero_ne_ofNat, OfNat.one_ne_ofNat, one_ne_zero, zero_ne_one, Nat.reduceMod, and_self, and_false, and_true, if_true, if_false]

theorem andiLong x0 x1 x2 x3 : Statement (.andiLong x0 x1 x2 x3) := of_slot rfl fun hw => by
  generalize hx : 201326592 + x0.val * 1048576 + x1.val * 16384 + x2.val = x
  obtain ⟨h0, p0, e0, e1, e2⟩ := layout1 3 0 x0 x1 x2 (by decide) (by omega : _ = x)
  clear hx
  refine long_slot hw ?_
  unfold decodeLong
  simp only [h0, p0, e0, e1, e2, Nat.reduceEqDiff, reduceCtorEq, OfNat.ofNat_ne_zero, OfNat.ofNat_ne_one, OfNat.zero_ne_ofNat, OfNat.one_ne_ofNat, one_ne_zero, zero_ne_one, Nat.reduceMod, and_self, and_false, and_true, if_true, if_false]

theorem oriLong x0 x1 x2 x3 : Statement (.oriLong x0 x1 x2 x3) := of_slot rfl fun hw => by
  generalize hx : 268435456 + x0.val * 1048576 + x1.val * 16384 + x2.val = x
  obtain ⟨h0, p0, e0, e1, e2⟩ := layout1 4 0 x0 x1 x2 (by decide) (by omega : _ = x)
  clear hx
  refine long_slot hw ?_
  unfold decodeLong
  simp only [h0, p0, e0, e1, e2, Nat.reduceEqDiff, reduceCtorEq, OfNat.ofNat_ne_zero, OfNat.ofNat_ne_one, OfNat.zero_ne_ofNat, OfNat.one_ne_ofNat, one_ne_zero, zero_ne_one, Nat.reduceMod, and_self, and_false, and_true, if_true, if_false]

theorem xoriLong x0 x1 x2 x3 : Statement (.xoriLong x0 x1 x2 x3) := of_slot rfl fun hw => by
  generalize hx : 335544320 + x0.val * 1048576 + x1.val * 16384 + x2.val = x
  obtain ⟨h0, p0, e0, e1, e2⟩ := layout1 5 0 x0 x1 x2 (by decide) (by omega : _ = x)
  clear hx
  refine long_slot hw ?_
  unfold decodeLong
  simp only [h0, p0, e0, e1, e2, Nat.reduceEqDiff, reduceCtorEq, OfNat.ofNat_ne_zero, OfNat.ofNat_ne_one, OfNat.zero_ne_ofNat, OfNat.one_ne_ofNat, one_ne_zero, zero_ne_one, Nat.reduceMod, and_self, and_false, and_true, if_true, if_false]

theorem ldiLong x0 x1 x2 : Statement (.ldiLong x0 x1 x2) := of_slot rfl fun hw => by
  generalize hx : 469762048 + x0.val * 1048576 + x1.val = x
  obtain ⟨h0, p0, e0, e1⟩ := layout17 7 0 x0 x1 (by decide) (by omega : _ = x)
  clear hx
  refine long_slot hw ?_
  unfold decodeLong
  simp only [h0, p0, e0, e1, Nat.reduceEqDiff, reduceCtorEq, OfNat.ofNat_ne_zero, OfNat.ofNat_ne_one, OfNat.zero_ne_ofNat, OfNat.one_ne_ofNat, one_ne_zero, zero_ne_one, Nat.reduceMod, and_self, and_false, and_true, if_true, if_false]

theorem ldhi x0 x1 x2 x3 : Statement (.ldhi x0 x1 x2 x3) := of_slot rfl fun hw => by
  generalize hx : 536870912 + x0.val * 1048576 + x1.val * 16384 + x2.val = x
  obtain ⟨h0, p0, e0, e1, e2⟩ := layout1 8 0 x0 x1 x2 (by decide) (by omega : _ = x)
  clear hx
  refine long_slot hw ?_
  unfold decodeLong
  simp only [h0, p0, e0, e1, e2, Nat.reduceEqDiff, reduceCtorEq, OfNat.ofNat_ne_zero, OfNat.ofNat_ne_one, OfNat.zero_ne_ofNat, OfNat.one_ne_ofNat, one_ne_zero, zero_ne_one, Nat.reduceMod, and_self, and_false, and_true, if_true, if_false]

theorem cmpiLong x0 x1 x2 x3 x4 : Statement (.cmpiLong x0 x1 x2 x3 x4) := of_slot rfl fun hw => by
  generalize hx : 671088640 + x0.val * 524288 + x1.val * 8192 + x2.val * 1024 + x3.val = x
  obtain ⟨h0, p0, e0, e1, e2, e3⟩ := layout55 10 0 x0 x1 x2 x3 (by decide) (by omega : _ = x)
  clear hx
  refine long_slot hw ?_
  unfold decodeLong
  simp only [h0, p0, e0, e1, e2, e3, Nat.reduceEqDiff, reduceCtorEq, OfNat.ofNat_ne_zero, OfNat.ofNat_ne_one, OfNat.zero_ne_ofNat, OfNat.one_ne_ofNat, one_ne_zero, zero_ne_one, Nat.reduceMod, and_self, and_false, and_true, if_true, if_false]

theorem loopiLong x0 x1 x2 : Statement (.loopiLong x0 x1 x2) := of_slot rfl fun hw => by
  generalize hx : 1275068416 + x0.val * 16384 + x1.val = x
  obtain ⟨h0, p0, e0, e1⟩ := layout56 19 0 x0 x1 (by decide) (by omega : _ = x)
  clear hx
  refine long_slot hw ?_
  unfold decodeLong
  simp only [h0, p0, e0, e1, Nat.reduceEqDiff, reduceCtorEq, OfNat.ofNat_ne_zero, OfNat.ofNat_ne_one, OfNat.zero_ne_ofNat, OfNat.one_ne_ofNat, one_ne_zero, zero_ne_one, Nat.reduceMod, and_self, and_false, and_true, if_true, if_false]

theorem ldbLong x0 x1 x2 x3 : Statement (.ldbLong x0 x1 x2 x3) := of_slot rfl fun hw => by
  generalize hx : 67108864 + x0.val * 1048576 + x1.val * 16384 + x2.val = x
  obtain ⟨h0, p0, e0, e1, e2⟩ := layout1 1 0 x0 x1 x2 (by decide) (by omega : _ = x)
  clear hx
  refine long_slot hw ?_
  unfold decodeLong
  simp only [h0, p0, e0, e1, e2, Nat.reduceEqDiff, reduceCtorEq, OfNat.ofNat_ne_zero, OfNat.ofNat_ne_one, OfNat.zero_ne_ofNat, OfNat.one_ne_ofNat, one_ne_zero, zero_ne_one, Nat.reduceMod, and_self, and_false, and_true, if_true, if_false]

theorem ldbnLong x0 x1 x2 x3 : Statement (.ldbnLong x0 x1 x2 x3) := of_slot rfl fun hw => by
  generalize hx : 134217728 + x0.val * 1048576 + x1.val * 16384 + x2.val = x
  obtain ⟨h0, p0, e0, e1, e2⟩ := layout1 2 0 x0 x1 x2 (by decide) (by omega : _ = x)
  clear hx
  refine long_slot hw ?_
  unfold decodeLong
  simp only [h0, p0, e0, e1, e2, Nat.reduceEqDiff, reduceCtorEq, OfNat.ofNat_ne_zero, OfNat.ofNat_ne_one, OfNat.zero_ne_ofNat, OfNat.one_ne_ofNat, one_ne_zero, zero_ne_one, Nat.reduceMod, and_self, and_false, and_true, if_true, if_false]

theorem ldhLong x0 x1 x2 x3 : Statement (.ldhLong x0 x1 x2 x3) := of_slot rfl fun hw => by
  generalize hx : 201326592 + x0.val * 1048576 + x1.val * 16384 + x2.val = x
  obtain ⟨h0, p0, e0, e1, e2⟩ := layout1 3 0 x0 x1 x2 (by decide) (by omega : _ = x)
  clear hx
  refine long_slot hw ?_
  unfold decodeLong
  simp only [h0, p0, e0, e1, e2, Nat.reduceEqDiff, reduceCtorEq, OfNat.ofNat_ne_zero, OfNat.ofNat_ne_one, OfNat.zero_ne_ofNat, OfNat.one_ne_ofNat, one_ne_zero, zero_ne_one, Nat.reduceMod, and_self, and_false, and_true, if_true, if_false]

theorem ldhnLong x0 x1 x2 x3 : Statement (.ldhnLong x0 x1 x2 x3) := of_slot rfl fun hw => by
  generalize hx : 268435456 + x0.val * 1048576 + x1.val * 16384 + x2.val = x
  obtain ⟨h0, p0, e0, e1, e2⟩ := layout1 4 0 x0 x1 x2 (by decide) (by omega : _ = x)
  clear hx
  refine long_slot hw ?_
  unfold decodeLong
  simp only [h0, p0, e0, e1, e2, Nat.reduceEqDiff, reduceCtorEq, OfNat.ofNat_ne_zero, OfNat.ofNat_ne_one, OfNat.zero_ne_ofNat, OfNat.one_ne_ofNat, one_ne_zero, zero_ne_one, Nat.reduceMod, and_self, and_false, and_true, if_true, if_false]

theorem ldwLong x0 x1 x2 x3 : Statement (.ldwLong x0 x1 x2 x3) := of_slot rfl fun hw => by
  generalize hx : 335544320 + x0.val * 1048576 + x1.val * 16384 + x2.val = x
  obtain ⟨h0, p0, e0, e1, e2⟩ := layout1 5 0 x0 x1 x2 (by decide) (by omega : _ = x)
  clear hx
  refine long_slot hw ?_
  unfold decodeLong
  simp only [h0, p0, e0, e1, e2, Nat.reduceEqDiff, reduceCtorEq, OfNat.ofNat_ne_zero, OfNat.ofNat_ne_one, OfNat.zero_ne_ofNat, OfNat.one_ne_ofNat, one_ne_zero, zero_ne_one, Nat.reduceMod, and_self, and_false, and_true, if_true, if_false]

theorem ldwnLong x0 x1 x2 x3 : Statement (.ldwnLong x0 x1 x2 x3) := of_slot rfl fun hw => by
  generalize hx : 402653184 + x0.val * 1048576 + x1.val * 16384 + x2.val = x
  obtain ⟨h0, p0, e0, e1, e2⟩ := layout1 6 0 x0 x1 x2 (by decide) (by omega : _ = x)
  clear hx
  refine long_slot hw ?_
  unfold decodeLong
  simp only [h0, p0, e0, e1, e2, Nat.reduceEqDiff, reduceCtorEq, OfNat.ofNat_ne_zero, OfNat.ofNat_ne_one, OfNat.zero_ne_ofNat, OfNat.one_ne_ofNat, one_ne_zero, zero_ne_one, Nat.reduceMod, and_self, and_false, and_true, if_true, if_false]

theorem lddLong x0 x1 x2 x3 : Statement (.lddLong x0 x1 x2 x3) := of_slot rfl fun hw => by
  generalize hx : 469762048 + x0.val * 1048576 + x1.val * 16384 + x2.val = x
  obtain ⟨h0, p0, e0, e1, e2⟩ := layout1 7 0 x0 x1 x2 (by decide) (by omega : _ = x)
  clear hx
  refine long_slot hw ?_
  unfold decodeLong
  simp only [h0, p0, e0, e1, e2, Nat.reduceEqDiff, reduceCtorEq, OfNat.ofNat_ne_zero, OfNat.ofNat_ne_one, OfNat.zero_ne_ofNat, OfNat.one_ne_ofNat, one_ne_zero, zero_ne_one, Nat.reduceMod, and_self, and_false, and_true, if_true, if_false]

theorem stbLong x0 x1 x2 x3 : Statement (.stbLong x0 x1 x2 x3) := of_slot rfl fun hw => by
  generalize hx : 536870912 + x0.val * 1048576 + x1.val * 16384 + x2.val = x
  obtain ⟨h0, p0, e0, e1, e2⟩ := layout1 8 0 x0 x1 x2 (by decide) (by omega : _ = x)
  clear hx
  refine long_slot hw ?_
  unfold decodeLong
  simp only [h0, p0, e0, e1, e2, Nat.reduceEqDiff, reduceCtorEq, OfNat.ofNat_ne_zero, OfNat.ofNat_ne_one, OfNat.zero_ne_ofNat, OfNat.one_ne_ofNat, one_ne_zero, zero_ne_one, Nat.reduceMod, and_self, and_false, and_true, if_true, if_false]

theorem sthLong x0 x1 x2 x3 : Statement (.sthLong x0 x1 x2 x3) := of_slot rfl fun hw => by
  generalize hx : 603979776 + x0.val * 1048576 + x1.val * 16384 + x2.val = x
  obtain ⟨h0, p0, e0, e1, e2⟩ := layout1 9 0 x0 x1 x2 (by decide) (by omega : _ = x)
  clear hx
  refine long_slot hw ?_
  unfold decodeLong
  simp only [h0, p0, e0, e1, e2, Nat.reduceEqDiff, reduceCtorEq, OfNat.ofNat_ne_zero, OfNat.ofNat_ne_one, OfNat.zero_ne_ofNat, OfNat.one_ne_ofNat, one_ne_zero, zero_ne_one, Nat.reduceMod, and_self, and_false, and_true, if_true, if_false]

theorem stwLong x0 x1 x2 x3 : Statement (.stwLong x0 x1 x2 x3) := of_slot rfl fun hw => by
  generalize hx : 671088640 + x0.val * 1048576 + x1.val * 16384 + x2.val = x
  obtain ⟨h0, p0, e0, e1, e2⟩ := layout1 10 0 x0 x1 x2 (by decide) (by omega : _ = x)
  clear hx
  refine long_slot hw ?_
  unfold decodeLong
  simp only [h0, p0, e0, e1, e2, Nat.reduceEqDiff, reduceCtorEq, OfNat.ofNat_ne_zero, OfNat.ofNat_ne_one, OfNat.zero_ne_ofNat, OfNat.one_ne_ofNat, one_ne_zero, zero_ne_one, Nat.reduceMod, and_self, and_false, and_true, if_true, if_false]

theorem stdLong x0 x1 x2 x3 : Statement (.stdLong x0 x1 x2 x3) := of_slot rfl fun hw => by
  generalize hx : 738197504 + x0.val * 1048576 + x1.val * 16384 + x2.val = x
  obtain ⟨h0, p0, e0, e1, e2⟩ := layout1 11 0 x0 x1 x2 (by decide) (by omega : _ = x)
  clear hx
  refine long_slot hw ?_
  unfold decodeLong
  simp only [h0, p0, e0, e1, e2, Nat.reduceEqDiff, reduceCtorEq, OfNat.ofNat_ne_zero, OfNat.ofNat_ne_one, OfNat.zero_ne_ofNat, OfNat.one_ne_ofNat, one_ne_zero, zero_ne_one, Nat.reduceMod, and_self, and_false, and_true, if_true, if_false]

theorem ldsLong x0 x1 x2 x3 : Statement (.ldsLong x0 x1 x2 x3) := of_slot rfl fun hw => by
  generalize hx : 805306368 + x0.val * 1048576 + x1.val * 16384 + x2.val = x
  obtain ⟨h0, p0, e0, e1, e2⟩ := layout1 12 0 x0 x1 x2 (by decide) (by omega : _ = x)
  clear hx
  refine long_slot hw ?_
  unfold decodeLong
  simp only [h0, p0, e0, e1, e2, Nat.reduceEqDiff, reduceCtorEq, OfNat.ofNat_ne_zero, OfNat.ofNat_ne_one, OfNat.zero_ne_ofNat, OfNat.one_ne_ofNat, one_ne_zero, zero_ne_one, Nat.reduceMod, and_self, and_false, and_true, if_true, if_false]

theorem vldLong x0 x1 x2 x3 : Statement (.vldLong x0 x1 x2 x3) := of_slot rfl fun hw => by
  generalize hx : 872415232 + x0.val * 1048576 + x1.val * 16384 + x2.val = x
  obtain ⟨h0, p0, e0, e1, e2⟩ := layout1 13 0 x0 x1 x2 (by decide) (by omega : _ = x)
  clear hx
  refine long_slot hw ?_
  unfold decodeLong
  simp only [h0, p0, e0, e1, e2, Nat.reduceEqDiff, reduceCtorEq, OfNat.ofNat_ne_zero, OfNat.ofNat_ne_one, OfNat.zero_ne_ofNat, OfNat.one_ne_ofNat, one_ne_zero, zero_ne_one, Nat.reduceMod, and_self, and_false, and_true, if_true, if_false]

theorem vstLong x0 x1 x2 x3 : Statement (.vstLong x0 x1 x2 x3) := of_slot rfl fun hw => by
  generalize hx : 939524096 + x0.val * 1048576 + x1.val * 16384 + x2.val = x
  obtain ⟨h0, p0, e0, e1, e2⟩ := layout1 14 0 x0 x1 x2 (by decide) (by omega : _ = x)
  clear hx
  refine long_slot hw ?_
  unfold decodeLong
  simp only [h0, p0, e0, e1, e2, Nat.reduceEqDiff, reduceCtorEq, OfNat.ofNat_ne_zero, OfNat.ofNat_ne_one, OfNat.zero_ne_ofNat, OfNat.one_ne_ofNat, one_ne_zero, zero_ne_one, Nat.reduceMod, and_self, and_false, and_true, if_true, if_false]

theorem vldsLong x0 x1 x2 x3 : Statement (.vldsLong x0 x1 x2 x3) := of_slot rfl fun hw => by
  generalize hx : 1006632960 + x0.val * 1048576 + x1.val * 16384 + x2.val = x
  obtain ⟨h0, p0, e0, e1, e2⟩ := layout1 15 0 x0 x1 x2 (by decide) (by omega : _ = x)
  clear hx
  refine long_slot hw ?_
  unfold decodeLong
  simp only [h0, p0, e0, e1, e2, Nat.reduceEqDiff, reduceCtorEq, OfNat.ofNat_ne_zero, OfNat.ofNat_ne_one, OfNat.zero_ne_ofNat, OfNat.one_ne_ofNat, one_ne_zero, zero_ne_one, Nat.reduceMod, and_self, and_false, and_true, if_true, if_false]

theorem ldfeLong x0 x1 x2 x3 : Statement (.ldfeLong x0 x1 x2 x3) := of_slot rfl fun hw => by
  generalize hx : 1342177280 + x0.val * 1048576 + x1.val * 16384 + x2.val = x
  obtain ⟨h0, p0, e0, e1, e2⟩ := layout1 20 0 x0 x1 x2 (by decide) (by omega : _ = x)
  clear hx
  refine long_slot hw ?_
  unfold decodeLong
  simp only [h0, p0, e0, e1, e2, Nat.reduceEqDiff, reduceCtorEq, OfNat.ofNat_ne_zero, OfNat.ofNat_ne_one, OfNat.zero_ne_ofNat, OfNat.one_ne_ofNat, one_ne_zero, zero_ne_one, Nat.reduceMod, and_self, and_false, and_true, if_true, if_false]

theorem ldfecLong x0 x1 x2 x3 : Statement (.ldfecLong x0 x1 x2 x3) := of_slot rfl fun hw => by
  generalize hx : 1409286144 + x0.val * 1048576 + x1.val * 16384 + x2.val = x
  obtain ⟨h0, p0, e0, e1, e2⟩ := layout1 21 0 x0 x1 x2 (by decide) (by omega : _ = x)
  clear hx
  refine long_slot hw ?_
  unfold decodeLong
  simp only [h0, p0, e0, e1, e2, Nat.reduceEqDiff, reduceCtorEq, OfNat.ofNat_ne_zero, OfNat.ofNat_ne_one, OfNat.zero_ne_ofNat, OfNat.one_ne_ofNat, one_ne_zero, zero_ne_one, Nat.reduceMod, and_self, and_false, and_true, if_true, if_false]

theorem vldfeLong x0 x1 x2 x3 : Statement (.vldfeLong x0 x1 x2 x3) := of_slot rfl fun hw => by
  generalize hx : 1476395008 + x0.val * 1048576 + x1.val * 16384 + x2.val = x
  obtain ⟨h0, p0, e0, e1, e2⟩ := layout1 22 0 x0 x1 x2 (by decide) (by omega : _ = x)
  clear hx
  refine long_slot hw ?_
  unfold decodeLong
  simp only [h0, p0, e0, e1, e2, Nat.reduceEqDiff, reduceCtorEq, OfNat.ofNat_ne_zero, OfNat.ofNat_ne_one, OfNat.zero_ne_ofNat, OfNat.one_ne_ofNat, one_ne_zero, zero_ne_one, Nat.reduceMod, and_self, and_false, and_true, if_true, if_false]

theorem vldfecLong x0 x1 x2 x3 : Statement (.vldfecLong x0 x1 x2 x3) := of_slot rfl fun hw => by
  generalize hx : 1543503872 + x0.val * 1048576 + x1.val * 16384 + x2.val = x
  obtain ⟨h0, p0, e0, e1, e2⟩ := layout1 23 0 x0 x1 x2 (by decide) (by omega : _ = x)
  clear hx
  refine long_slot hw ?_
  unfold decodeLong
  simp only [h0, p0, e0, e1, e2, Nat.reduceEqDiff, reduceCtorEq, OfNat.ofNat_ne_zero, OfNat.ofNat_ne_one, OfNat.zero_ne_ofNat, OfNat.one_ne_ofNat, one_ne_zero, zero_ne_one, Nat.reduceMod, and_self, and_false, and_true, if_true, if_false]

theorem stfLong x0 x1 x2 x3 : Statement (.stfLong x0 x1 x2 x3) := of_slot rfl fun hw => by
  generalize hx : 1610612736 + x0.val * 1048576 + x1.val * 16384 + x2.val = x
  obtain ⟨h0, p0, e0, e1, e2⟩ := layout1 24 0 x0 x1 x2 (by decide) (by omega : _ = x)
  clear hx
  refine long_slot hw ?_
  unfold decodeLong
  simp only [h0, p0, e0, e1, e2, Nat.reduceEqDiff, reduceCtorEq, OfNat.ofNat_ne_zero, OfNat.ofNat_ne_one, OfNat.zero_ne_ofNat, OfNat.one_ne_ofNat, one_ne_zero, zero_ne_one, Nat.reduceMod, and_self, and_false, and_true, if_true, if_false]

theorem vstfLong x0 x1 x2 x3 : Statement (.vstfLong x0 x1 x2 x3) := of_slot rfl fun hw => by
  generalize hx : 1677721600 + x0.val * 1048576 + x1.val * 16384 + x2.val = x
  obtain ⟨h0, p0, e0, e1, e2⟩ := layout1 25 0 x0 x1 x2 (by decide) (by omega : _ = x)
  clear hx
  refine long_slot hw ?_
  unfold decodeLong
  simp only [h0, p0, e0, e1, e2, Nat.reduceEqDiff, reduceCtorEq, OfNat.ofNat_ne_zero, OfNat.ofNat_ne_one, OfNat.zero_ne_ofNat, OfNat.one_ne_ofNat, one_ne_zero, zero_ne_one, Nat.reduceMod, and_self, and_false, and_true, if_true, if_false]

theorem prefLong x0 x1 x2 : Statement (.prefLong x0 x1 x2) := of_slot rfl fun hw => by
  generalize hx : 2550136832 + x0.val * 16384 + x1.val = x
  obtain ⟨h0, p0, p1, e0, e1⟩ := layout25 38 0 0 x0 x1 (by decide) (by decide) (by omega : _ = x)
  clear hx
  refine long_slot hw ?_
  unfold decodeLong
  simp only [h0, p0, p1, e0, e1, Nat.reduceEqDiff, reduceCtorEq, OfNat.ofNat_ne_zero, OfNat.ofNat_ne_one, OfNat.zero_ne_ofNat, OfNat.one_ne_ofNat, one_ne_zero, zero_ne_one, Nat.reduceMod, and_self, and_false, and_true, if_true, if_false]

theorem vaddsLong x0 x1 x2 x3 x4 x5 : Statement (.vaddsLong x0 x1 x2 x3 x4 x5) := of_slot rfl fun hw => by
  generalize hx : 1275068416 + x0.val * 1048576 + x1.val * 16384 + x2.val * 64 + x3.val * 8 + x4.val = x
  obtain ⟨h0, p0, e0, e1, e2, e3, e4⟩ := layout28 19 0 x0 x1 x2 x3 x4 (by decide) (by omega : _ = x)
  clear hx
  refine long_slot hw ?_
  unfold decodeLong
  simp only [h0, p0, e0, e1, e2, e3, e4, Nat.reduceEqDiff, reduceCtorEq, OfNat.ofNat_ne_zero, OfNat.ofNat_ne_one, OfNat.zero_ne_ofNat, OfNat.one_ne_ofNat, one_ne_zero, zero_ne_one, Nat.reduceMod, and_self, and_false, and_true, if_true, if_false]

theorem vmulsLong x0 x1 x2 x3 x4 x5 : Statement (.vmulsLong x0 x1 x2 x3 x4 x5) := of_slot rfl fun hw => by
  generalize hx : 1342177280 + x0.val * 1048576 + x1.val * 16384 + x2.val * 64 + x3.val * 8 + x4.val = x
  obtain ⟨h0, p0, e0, e1, e2, e3, e4⟩ := layout28 20 0 x0 x1 x2 x3 x4 (by decide) (by omega : _ = x)
  clear hx
  refine long_slot hw ?_
  unfold decodeLong
  simp only [h0, p0, e0, e1, e2, e3, e4, Nat.reduceEqDiff, reduceCtorEq, OfNat.ofNat_ne_zero, OfNat.ofNat_ne_one, OfNat.zero_ne_ofNat, OfNat.one_ne_ofNat, one_ne_zero, zero_ne_one, Nat.reduceMod, and_self, and_false, and_true, if_true, if_false]

theorem vfmasLong x0 x1 x2 x3 x4 x5 : Statement (.vfmasLong x0 x1 x2 x3 x4 x5) := of_slot rfl fun hw => by
  generalize hx : 1409286144 + x0.val * 1048576 + x1.val * 16384 + x2.val * 64 + x3.val * 8 + x4.val = x
  obtain ⟨h0, p0, e0, e1, e2, e3, e4⟩ := layout28 21 0 x0 x1 x2 x3 x4 (by decide) (by omega : _ = x)
  clear hx
  refine long_slot hw ?_
  unfold decodeLong
  simp only [h0, p0, e0, e1, e2, e3, e4, Nat.reduceEqDiff, reduceCtorEq, OfNat.ofNat_ne_zero, OfNat.ofNat_ne_one, OfNat.zero_ne_ofNat, OfNat.one_ne_ofNat, one_ne_zero, zero_ne_one, Nat.reduceMod, and_self, and_false, and_true, if_true, if_false]

theorem vbcastLong x0 x1 x2 x3 x4 : Statement (.vbcastLong x0 x1 x2 x3 x4) := of_slot rfl fun hw => by
  generalize hx : 1476395008 + x0.val * 1048576 + x1.val * 64 + x2.val * 8 + x3.val = x
  obtain ⟨h0, p0, e0, e1, e2, e3⟩ := layout32 22 0 x0 x1 x2 x3 (by decide) (by omega : _ = x)
  clear hx
  refine long_slot hw ?_
  unfold decodeLong
  simp only [h0, p0, e0, e1, e2, e3, Nat.reduceEqDiff, reduceCtorEq, OfNat.ofNat_ne_zero, OfNat.ofNat_ne_one, OfNat.zero_ne_ofNat, OfNat.one_ne_ofNat, one_ne_zero, zero_ne_one, Nat.reduceMod, and_self, and_false, and_true, if_true, if_false]

theorem mproof x0 x1 x2 x3 : Statement (.mproof x0 x1 x2 x3) := of_slot rfl fun hw => by
  generalize hx : 738197504 + x0.val * 65536 + x1.val * 64 + x2.val = x
  obtain ⟨h0, p0, p1, p2, e0, e1, e2⟩ := layout57 11 0 0 0 x0 x1 x2 (by decide) (by decide) (by decide) (by omega : _ = x)
  clear hx
  refine long_slot hw ?_
  unfold decodeLong
  simp only [h0, p0, p1, p2, e0, e1, e2, Nat.reduceEqDiff, reduceCtorEq, OfNat.ofNat_ne_zero, OfNat.ofNat_ne_one, OfNat.zero_ne_ofNat, OfNat.one_ne_ofNat, one_ne_zero, zero_ne_one, Nat.reduceMod, and_self, and_false, and_true, if_true, if_false]

theorem queueNotification : ∀ x0, Statement (.queueNotification x0) := fun x0 _ _ _ _ h => by cases h

theorem pin : ∀ x0, Statement (.pin x0) := fun x0 _ _ _ _ h => by cases h

theorem unpin : ∀ x0, Statement (.unpin x0) := fun x0 _ _ _ _ h => by cases h

theorem configWrite : ∀ x0, Statement (.configWrite x0) := fun x0 _ _ _ _ h => by cases h

theorem loadImage : ∀ x0 x1, Statement (.loadImage x0 x1) := fun x0 x1 _ _ _ _ h => by cases h

theorem createJob : ∀ x0 x1, Statement (.createJob x0 x1) := fun x0 x1 _ _ _ _ h => by cases h

theorem start : ∀ x0 x1, Statement (.start x0 x1) := fun x0 x1 _ _ _ _ h => by cases h

theorem signal : ∀ x0 x1, Statement (.signal x0 x1) := fun x0 x1 _ _ _ _ h => by cases h

theorem preempt : ∀ x0 x1, Statement (.preempt x0 x1) := fun x0 x1 _ _ _ _ h => by cases h

theorem resume : ∀ x0 x1, Statement (.resume x0 x1) := fun x0 x1 _ _ _ _ h => by cases h

theorem kill : ∀ x0 x1, Statement (.kill x0 x1) := fun x0 x1 _ _ _ _ h => by cases h

theorem copyIn : ∀ x0 x1, Statement (.copyIn x0 x1) := fun x0 x1 _ _ _ _ h => by cases h

theorem copyOut : ∀ x0 x1, Statement (.copyOut x0 x1) := fun x0 x1 _ _ _ _ h => by cases h

theorem hostCopyComplete : ∀ x0, Statement (.hostCopyComplete x0) := fun x0 _ _ _ _ h => by cases h

theorem setTolerance : ∀ x0 x1, Statement (.setTolerance x0 x1) := fun x0 x1 _ _ _ _ h => by cases h

theorem queryPart : ∀ x0 x1, Statement (.queryPart x0 x1) := fun x0 x1 _ _ _ _ h => by cases h

theorem queryJob : ∀ x0 x1, Statement (.queryJob x0 x1) := fun x0 x1 _ _ _ _ h => by cases h

theorem queryBinding : ∀ x0 x1, Statement (.queryBinding x0 x1) := fun x0 x1 _ _ _ _ h => by cases h

theorem queryClusterMap : ∀ x0 x1, Statement (.queryClusterMap x0 x1) := fun x0 x1 _ _ _ _ h => by cases h

theorem queryAttestation : ∀ x0 x1, Statement (.queryAttestation x0 x1) := fun x0 x1 _ _ _ _ h => by cases h

theorem queryCertChain : ∀ x0 x1, Statement (.queryCertChain x0 x1) := fun x0 x1 _ _ _ _ h => by cases h

theorem queryErrorLog : ∀ x0 x1, Statement (.queryErrorLog x0 x1) := fun x0 x1 _ _ _ _ h => by cases h

theorem peelRequest : ∀ x0 x1, Statement (.peelRequest x0 x1) := fun x0 x1 _ _ _ _ h => by cases h

theorem inboundPostedWrite : ∀ x0 x1 x2 x3, Statement (.inboundPostedWrite x0 x1 x2 x3) := fun x0 x1 x2 x3 _ _ _ _ h => by cases h

theorem inboundPacketRelease : ∀ x0, Statement (.inboundPacketRelease x0) := fun x0 _ _ _ _ h => by cases h

theorem inboundPacketAck : ∀ x0, Statement (.inboundPacketAck x0) := fun x0 _ _ _ _ h => by cases h

theorem inboundRead : ∀ x0 x1 x2 x3, Statement (.inboundRead x0 x1 x2 x3) := fun x0 x1 x2 x3 _ _ _ _ h => by cases h

theorem deviceReset : Statement .deviceReset := fun _ _ _ _ h => by cases h

theorem bootComplete : ∀ x0, Statement (.bootComplete x0) := fun x0 _ _ _ _ h => by cases h

theorem poolTransactionTimeout : ∀ x0 x1, Statement (.poolTransactionTimeout x0 x1) := fun x0 x1 _ _ _ _ h => by cases h

theorem writeAck : ∀ x0, Statement (.writeAck x0) := fun x0 _ _ _ _ h => by cases h

theorem wallBusRealignment : ∀ x0 x1, Statement (.wallBusRealignment x0 x1) := fun x0 x1 _ _ _ _ h => by cases h

theorem realignmentDeferralEnd : ∀ x0 x1, Statement (.realignmentDeferralEnd x0 x1) := fun x0 x1 _ _ _ _ h => by cases h

theorem realignmentPauseEnd : ∀ x0 x1, Statement (.realignmentPauseEnd x0 x1) := fun x0 x1 _ _ _ _ h => by cases h

theorem flitArrival : ∀ x0 x1 x2, Statement (.flitArrival x0 x1 x2) := fun x0 x1 x2 _ _ _ _ h => by cases h

theorem linkRetrain : ∀ x0, Statement (.linkRetrain x0) := fun x0 _ _ _ _ h => by cases h

theorem linkRetrainEnd : ∀ x0, Statement (.linkRetrainEnd x0) := fun x0 _ _ _ _ h => by cases h

theorem coltempRefresh : ∀ x0 x1 x2, Statement (.coltempRefresh x0 x1 x2) := fun x0 x1 x2 _ _ _ _ h => by cases h

theorem instructionFetchComplete : ∀ x0, Statement (.instructionFetchComplete x0) := fun x0 _ _ _ _ h => by cases h

theorem exposedResultLand : ∀ x0, Statement (.exposedResultLand x0) := fun x0 _ _ _ _ h => by cases h

theorem longResultLand : ∀ x0, Statement (.longResultLand x0) := fun x0 _ _ _ _ h => by cases h

theorem contextSelect : ∀ x0, Statement (.contextSelect x0) := fun x0 _ _ _ _ h => by cases h

theorem waitcEnd : ∀ x0, Statement (.waitcEnd x0) := fun x0 _ _ _ _ h => by cases h

theorem contextIdle : ∀ x0, Statement (.contextIdle x0) := fun x0 _ _ _ _ h => by cases h

theorem gatherBufferFlush : ∀ x0, Statement (.gatherBufferFlush x0) := fun x0 _ _ _ _ h => by cases h

theorem fencehComplete : ∀ x0, Statement (.fencehComplete x0) := fun x0 _ _ _ _ h => by cases h

theorem remoteAccessPerform : ∀ x0, Statement (.remoteAccessPerform x0) := fun x0 _ _ _ _ h => by cases h

theorem translationWalkComplete : ∀ x0, Statement (.translationWalkComplete x0) := fun x0 _ _ _ _ h => by cases h

theorem routeStaleResend : ∀ x0, Statement (.routeStaleResend x0) := fun x0 _ _ _ _ h => by cases h

theorem fullEmptyRequestArrival : ∀ x0, Statement (.fullEmptyRequestArrival x0) := fun x0 _ _ _ _ h => by cases h

theorem copyElementFault : ∀ x0 x1, Statement (.copyElementFault x0 x1) := fun x0 x1 _ _ _ _ h => by cases h

theorem copyElementReplay : ∀ x0 x1, Statement (.copyElementReplay x0 x1) := fun x0 x1 _ _ _ _ h => by cases h

theorem copyComplete : ∀ x0, Statement (.copyComplete x0) := fun x0 _ _ _ _ h => by cases h

theorem copyFailure : ∀ x0, Statement (.copyFailure x0) := fun x0 _ _ _ _ h => by cases h

theorem copyByteReport : ∀ x0 x1, Statement (.copyByteReport x0 x1) := fun x0 x1 _ _ _ _ h => by cases h

theorem streamReadAhead : ∀ x0 x1, Statement (.streamReadAhead x0 x1) := fun x0 x1 _ _ _ _ h => by cases h

theorem streamDrainWrite : ∀ x0 x1, Statement (.streamDrainWrite x0 x1) := fun x0 x1 _ _ _ _ h => by cases h

theorem matrixCommandStart : ∀ x0, Statement (.matrixCommandStart x0) := fun x0 _ _ _ _ h => by cases h

theorem matrixBoundary : ∀ x0, Statement (.matrixBoundary x0) := fun x0 _ _ _ _ h => by cases h

theorem matrixCommandComplete : ∀ x0, Statement (.matrixCommandComplete x0) := fun x0 _ _ _ _ h => by cases h

theorem mstComplete : ∀ x0, Statement (.mstComplete x0) := fun x0 _ _ _ _ h => by cases h

theorem matrixFetchFault : ∀ x0, Statement (.matrixFetchFault x0) := fun x0 _ _ _ _ h => by cases h

theorem matrixPriorityAgeing : ∀ x0 x1, Statement (.matrixPriorityAgeing x0 x1) := fun x0 x1 _ _ _ _ h => by cases h

theorem handoverStopAndHold : ∀ x0, Statement (.handoverStopAndHold x0) := fun x0 _ _ _ _ h => by cases h

theorem handoverQueueDrain : ∀ x0, Statement (.handoverQueueDrain x0) := fun x0 _ _ _ _ h => by cases h

theorem handoverWriteback : ∀ x0, Statement (.handoverWriteback x0) := fun x0 _ _ _ _ h => by cases h

theorem handoverTlbInvalidate : ∀ x0, Statement (.handoverTlbInvalidate x0) := fun x0 _ _ _ _ h => by cases h

theorem handoverOwnerFlip : ∀ x0, Statement (.handoverOwnerFlip x0) := fun x0 _ _ _ _ h => by cases h

theorem handoverHeldRequests : ∀ x0, Statement (.handoverHeldRequests x0) := fun x0 _ _ _ _ h => by cases h

theorem handoverComplete : ∀ x0, Statement (.handoverComplete x0) := fun x0 _ _ _ _ h => by cases h

theorem barrierArrival : ∀ x0, Statement (.barrierArrival x0) := fun x0 _ _ _ _ h => by cases h

theorem barvPhaseReturn : ∀ x0, Statement (.barvPhaseReturn x0) := fun x0 _ _ _ _ h => by cases h

theorem counterDecrement : ∀ x0, Statement (.counterDecrement x0) := fun x0 _ _ _ _ h => by cases h

theorem taskStart : ∀ x0, Statement (.taskStart x0) := fun x0 _ _ _ _ h => by cases h

theorem taskPriorityAgeing : ∀ x0 x1, Statement (.taskPriorityAgeing x0 x1) := fun x0 x1 _ _ _ _ h => by cases h

theorem launchArrival : ∀ x0, Statement (.launchArrival x0) := fun x0 _ _ _ _ h => by cases h

theorem asendRemoteArrival : ∀ x0, Statement (.asendRemoteArrival x0) := fun x0 _ _ _ _ h => by cases h

theorem readinessUpdate : ∀ x0, Statement (.readinessUpdate x0) := fun x0 _ _ _ _ h => by cases h

theorem groupMessageSteer : ∀ x0, Statement (.groupMessageSteer x0) := fun x0 _ _ _ _ h => by cases h

theorem memberCoreDelivery : ∀ x0, Statement (.memberCoreDelivery x0) := fun x0 _ _ _ _ h => by cases h

theorem groupBounce : ∀ x0, Statement (.groupBounce x0) := fun x0 _ _ _ _ h => by cases h

theorem refreshAnswer : ∀ x0, Statement (.refreshAnswer x0) := fun x0 _ _ _ _ h => by cases h

theorem parkRelease : ∀ x0 x1, Statement (.parkRelease x0 x1) := fun x0 x1 _ _ _ _ h => by cases h

theorem groupMessageAck : ∀ x0, Statement (.groupMessageAck x0) := fun x0 _ _ _ _ h => by cases h

theorem eventEntry : ∀ x0, Statement (.eventEntry x0) := fun x0 _ _ _ _ h => by cases h

theorem trapEntry : ∀ x0, Statement (.trapEntry x0) := fun x0 _ _ _ _ h => by cases h

theorem lateFaultDelivery : ∀ x0, Statement (.lateFaultDelivery x0) := fun x0 _ _ _ _ h => by cases h

theorem timerExpiry : ∀ x0, Statement (.timerExpiry x0) := fun x0 _ _ _ _ h => by cases h

theorem serviceContextEntry : ∀ x0, Statement (.serviceContextEntry x0) := fun x0 _ _ _ _ h => by cases h

theorem serviceContextReturn : ∀ x0, Statement (.serviceContextReturn x0) := fun x0 _ _ _ _ h => by cases h

theorem serviceDeadline : ∀ x0, Statement (.serviceDeadline x0) := fun x0 _ _ _ _ h => by cases h

theorem preemptStopTimeout : ∀ x0, Statement (.preemptStopTimeout x0) := fun x0 _ _ _ _ h => by cases h

theorem preemptImageWrite : ∀ x0, Statement (.preemptImageWrite x0) := fun x0 _ _ _ _ h => by cases h

theorem killGraceExpiry : ∀ x0, Statement (.killGraceExpiry x0) := fun x0 _ _ _ _ h => by cases h

theorem jobEnd : ∀ x0, Statement (.jobEnd x0) := fun x0 _ _ _ _ h => by cases h

theorem scrubPass : ∀ x0, Statement (.scrubPass x0) := fun x0 _ _ _ _ h => by cases h

theorem serviceStoreReload : ∀ x0, Statement (.serviceStoreReload x0) := fun x0 _ _ _ _ h => by cases h

theorem mgmtDataError : ∀ x0, Statement (.mgmtDataError x0) := fun x0 _ _ _ _ h => by cases h

theorem powerStateEntry : ∀ x0, Statement (.powerStateEntry x0) := fun x0 _ _ _ _ h => by cases h

theorem powerStateWake : ∀ x0, Statement (.powerStateWake x0) := fun x0 _ _ _ _ h => by cases h

theorem layerEmergencyOff : ∀ x0 x1, Statement (.layerEmergencyOff x0 x1) := fun x0 x1 _ _ _ _ h => by cases h

theorem rackControllerOperation : ∀ x0, Statement (.rackControllerOperation x0) := fun x0 _ _ _ _ h => by cases h

theorem barrierUnitRequest : ∀ x0, Statement (.barrierUnitRequest x0) := fun x0 _ _ _ _ h => by cases h

theorem mstTileRead : ∀ x0, Statement (.mstTileRead x0) := fun x0 _ _ _ _ h => by cases h

theorem serviceStoreReloadDone : ∀ x0, Statement (.serviceStoreReloadDone x0) := fun x0 _ _ _ _ h => by cases h

theorem cxlPortTraining : ∀ x0, Statement (.cxlPortTraining x0) := fun x0 _ _ _ _ h => by cases h

theorem launchAcknowledgement : ∀ x0, Statement (.launchAcknowledgement x0) := fun x0 _ _ _ _ h => by cases h

end Sys2Proof.Laws.Encoding
end

