-- ==== Sys2Proof/Tests/Slice0.lean ====
section
/-! SUPPORT. Tests: ill-formed terms that the check refuses, words written out from the encoding tables, one step each on small states,
and for every statement states that meet its hypotheses. Expected values are worked out from the tables of spec/. -/

open Sys2Proof Sys2Proof.Machine

section

set_option Elab.async false

/-! ## Ill-formed instructions -/

/-- A path tag 7 (R93) is refused. -/
theorem test_illFormed_tag : Instr.wellFormed (.add 1 2 3 7) = false := by decide

/-- A destination predicate 96 (R95) is refused. -/
theorem test_illFormed_pred_dest : Instr.wellFormed (.pset 96 0) = false := by decide

/-- A source predicate 127 (R95) is refused. -/
theorem test_illFormed_pred_source : Instr.wellFormed (.pand 1 2 127 0) = false := by decide

/-- A test of predicate 96 (Table fetch-14) is refused. -/
theorem test_illFormed_pred_cond : Instr.wellFormed (.bt 96 0) = false := by decide

/-- A compare condition 6 (Table fetch-8) is refused. -/
theorem test_illFormed_cc : Instr.wellFormed (.cmp 1 2 3 6 0) = false := by decide

/-- PCOUNT toward 64 (Table fetch-6) is refused. -/
theorem test_illFormed_pcount : Instr.wellFormed (.pcount 64 1 0) = false := by decide

/-- Special register 16 (Table fetch-6) is refused. -/
theorem test_illFormed_special : Instr.wellFormed (.mfs 1 16 0) = false := by decide

/-- A zero count (R98) is refused. -/
theorem test_illFormed_loopi : Instr.wellFormed (.loopi 8 0 0) = false := by decide

/-- A zero count in the immediate (R98) is refused. -/
theorem test_illFormed_loopi_long : Instr.wellFormed (.loopiLong 8 0 0) = false := by decide

/-- Scope 6 (R95) is refused. -/
theorem test_illFormed_scope : Instr.wellFormed (.fenceh 6 0) = false := by decide

/-- Scope 7 of LDACQ (R95) is refused. -/
theorem test_illFormed_scope_acq : Instr.wellFormed (.ldacq 1 2 7 3 0) = false := by decide

/-- A code that has a row of its own (98) is refused. -/
theorem test_illFormed_svc : Instr.wellFormed (.svc 3 0) = false := by decide

/-- A lane size 2 (Table fetch-10) is refused. -/
theorem test_illFormed_lane16 : Instr.wellFormed (.vgath 1 2 3 0 2 0) = false := by decide

/-- RKTAKE of 62 (Table fetch-10) is refused. -/
theorem test_illFormed_rktake : Instr.wellFormed (.rktake 62 1 0) = false := by decide

/-- A float operation in S32 (R100) is refused. -/
theorem test_illFormed_float : Instr.wellFormed (.vfma 1 2 3 3 0 0) = false := by decide

/-- An integer operation in F32 (R100) is refused. -/
theorem test_illFormed_integer : Instr.wellFormed (.vand 1 2 3 0 0 0) = false := by decide

/-- A conversion to its own type (Table fetch-11) is refused. -/
theorem test_illFormed_vcvt : Instr.wellFormed (.vcvt 1 2 1 1 0 0) = false := by decide

/-- An immediate of a 16-bit type with high bits (R100) is refused. -/
theorem test_illFormed_short : Instr.wellFormed (.vaddsLong 1 2 1 0 0 0x10000) = false := by decide

/-- A packed format 6 (R94) is refused. -/
theorem test_illFormed_fmt : Instr.wellFormed (.kunp 1 2 6 0 0 0) = false := by decide

/-- Q4N in KUNP (Table fetch-12) is refused. -/
theorem test_illFormed_q4n : Instr.wellFormed (.kunp 1 2 3 0 0 0) = false := by decide

/-- A part beyond the run (R207) is refused. -/
theorem test_illFormed_part : Instr.wellFormed (.kunp 1 2 0 2 1 0) = false := by decide

/-- Rounding 2 (R94) is refused. -/
theorem test_illFormed_round : Instr.wellFormed (.qpk 1 2 0 0 0 2 0 0) = false := by decide

/-- Saturation 2 (R94) is refused. -/
theorem test_illFormed_saturate : Instr.wellFormed (.qpk 1 2 0 0 0 0 2 0) = false := by decide

/-- Scale register 16 (R95) is refused. -/
theorem test_illFormed_scale : Instr.wellFormed (.klds 16 1 0 0) = false := by decide

/-- Format pair 7 (Table fetch-13) is refused. -/
theorem test_illFormed_pair : Instr.wellFormed (.mma 1 2 3 4 7 0) = false := by decide

/-- Axis 3 (Table fetch-13) is refused. -/
theorem test_illFormed_axis : Instr.wellFormed (.mmas 1 2 3 4 3 0) = false := by decide

/-- Granules that lie outside a core's slice, or outside every stack (23 R402), are refused. -/
theorem test_illFormed_granules : Instr.wellFormed (.scrubPass (.granules (some 0) (2 ^ 18 - 1) 2)) = false ∧
    Instr.wellFormed (.scrubPass (.granules none (2 ^ 36 - 1) 1)) = false ∧ Instr.wellFormed (.scrubPass (.granules none (2 ^ 36) 4)) = true := by decide

/-- A flit with more data than it holds (04 R81) is refused. -/
theorem test_illFormed_flit : Instr.wellFormed (.flitArrival 0 true ⟨0, 0, false, 1, 2, 0, .copyWrite 0 (List.replicate 33 0) 0 0 0⟩) = false := by decide

/-! ## Words -/

/-- X form A, ALU fn 22 (05 R94-R103). -/
theorem test_decode_mulhn : decodeSlot .x 0b00000111111100000100001010110110 none = some (.mulhn 63 1 2 6) := by decide +kernel

/-- X form I, major 3, imm11 -1 (05 R94-R103). -/
theorem test_decode_andi : decodeSlot .x 0b00001100010100011011111111111000 none = some (.andi 5 6 (-1) 0) := by decide +kernel

/-- X form I, major 6, sub-operation 2, amount 63 (05 R94-R103). -/
theorem test_decode_srai : decodeSlot .x 0b00011000000100001010000111111000 none = some (.srai 1 2 63 0) := by decide +kernel

/-- X form C, major 9, LTN, acc 1 (05 R94-R103). -/
theorem test_decode_cmp_and : decodeSlot .x 0b00100110111110000110001001001000 none = some (.cmpAnd 95 3 4 4 0) := by decide +kernel

/-- X form CI, major 10, LE, imm7 -64 (05 R94-R103). -/
theorem test_decode_cmpi : decodeSlot .x 0b00101000010000000110111000000000 none = some (.cmpi 8 3 3 (-64) 0) := by decide +kernel

/-- X form Q, major 11, fn 3 (05 R94-R103). -/
theorem test_decode_pandn : decodeSlot .x 0b00101100000010000010000001111000 none = some (.pandn 1 2 3 0) := by decide +kernel

/-- X form A, major 15, guard p31 (05 R94-R103). -/
theorem test_decode_sels : decodeSlot .x 0b00111100000100001000001111111000 none = some (.sels 1 2 3 31 0) := by decide +kernel

/-- X form I, major 17, register 13 (05 R94-R103). -/
theorem test_decode_mts : decodeSlot .x 0b01000100000000100100000001101000 none = some (.mts 9 13 0) := by decide +kernel

/-- X form LI, major 19 (05 R94-R103). -/
theorem test_decode_loopi : decodeSlot .x 0b01001111111111111111111111111000 none = some (.loopi 4095 2047 0) := by decide +kernel

/-- X form LI with its immediate (05 R94-R103). -/
theorem test_decode_loopi_long : decodeSlot .x 0b01001100000000100000000000000000 (some 0xFFFFFFFF) = some (.loopiLong 8 0 0xFFFFFFFF) := by decide +kernel

/-- X form A, major 22, fn 5, scope SYSTEM (05 R94-R103). -/
theorem test_decode_fenceh : decodeSlot .x 0b01011000010100000000000000101000 none = some (.fenceh 5 0) := by decide +kernel

/-- X form A, major 22, fn 6, code 0xABC (05 R94-R103). -/
theorem test_decode_svc : decodeSlot .x 0b01011000000010101011110000110000 none = some (.svc 0xABC 0) := by decide +kernel

/-- M form M, major 11, off11 -1024 (05 R94-R103). -/
theorem test_decode_std : decodeSlot .m 0b00101100010000011010000000000000 none = some (.std 4 6 (-1024) 0) := by decide +kernel

/-- M form MB, major 17 (05 R94-R103). -/
theorem test_decode_vstb : decodeSlot .m 0b01000111111111111000001111111000 none = some (.vstb 63 31 1 63 0) := by decide +kernel

/-- M form A, major 18, guard p7, 16-bit lanes (05 R94-R103). -/
theorem test_decode_vgath : decodeSlot .m 0b01001000000100001000001111101000 none = some (.vgath 1 2 3 7 1 0) := by decide +kernel

/-- M form A, major 26, scope 3, size 2 (05 R94-R103). -/
theorem test_decode_ldacq : decodeSlot .m 0b01101000000100001000000001110000 none = some (.ldacq 1 2 3 2 0) := by decide +kernel

/-- M form A, major 28, op 4, acquire-release (05 R94-R103). -/
theorem test_decode_atom_maxn : decodeSlot .m 0b01110000000100001000001101001000 none = some (.atomMaxn 1 2 3 1 0) := by decide +kernel

/-- M form A, major 30, op 3 (05 R94-R103). -/
theorem test_decode_vatom_max : decodeSlot .m 0b01111000000100001000001100110000 none = some (.vatomMax 1 2 3 0 0) := by decide +kernel

/-- M form A, major 33 (05 R94-R103). -/
theorem test_decode_rktake : decodeSlot .m 0b10000111110100001000000000000000 none = some (.rktake 61 2 0) := by decide +kernel

/-- V form VC, major 11, F16, LE (05 R94-R103). -/
theorem test_decode_vcmp : decodeSlot .v 0b00101110111110000100000110111000 none = some (.vcmp 95 2 3 1 3 0) := by decide +kernel

/-- V form VS, major 21, BF16, guard p1 (05 R94-R103). -/
theorem test_decode_vfmas : decodeSlot .v 0b01010100000100001000001110001000 none = some (.vfmas 1 2 3 2 1 0) := by decide +kernel

/-- V form V, major 28, from S32 to F16 (05 R94-R103). -/
theorem test_decode_vcvt : decodeSlot .v 0b01110000000100001000001101000000 none = some (.vcvt 1 2 3 1 0 0) := by decide +kernel

/-- V form VS with its immediate (05 R94-R103). -/
theorem test_decode_vadds_long : decodeSlot .v 0b01001100000100001000000000000000 (some 0x3F800000) = some (.vaddsLong 1 2 0 0 0 0x3F800000) := by decide +kernel

/-- K form K, major 1, F6, part 2, F32 (05 R94-R103). -/
theorem test_decode_kunp : decodeSlot .k 0b00000100000100001001010000000000 none = some (.kunp 1 2 2 2 0 0) := by decide +kernel

/-- K form M, major 3 (05 R94-R103). -/
theorem test_decode_klds : decodeSlot .k 0b00001100111100001011111111111000 none = some (.klds 15 2 (-1) 0) := by decide +kernel

/-- Q form K, major 3, part 3, BF16, sc15 (05 R94-R103). -/
theorem test_decode_qamax : decodeSlot .q 0b00001100111100100101111101111000 none = some (.qamax 15 9 3 2 15 0) := by decide +kernel

/-- F form V, major 8, BF16, guard p7 (05 R94-R103). -/
theorem test_decode_ftanh : decodeSlot .f 0b00100000000100001000000010111000 none = some (.ftanh 1 2 2 7 0) := by decide +kernel

/-- T form T, major 6, tile 15, pair 6 (05 R94-R103). -/
theorem test_decode_mma : decodeSlot .t 0b00011000110001000001011111110000 none = some (.mma 3 4 5 15 6 0) := by decide +kernel

/-- T form T, major 10, tile 2, rack target (05 R94-R103). -/
theorem test_decode_mst_rack : decodeSlot .t 0b00101000110001000001010010100000 none = some (.mstRack 3 4 5 2 0) := by decide +kernel

/-- T form T, major 3, counter 63, rack target (05 R94-R103). -/
theorem test_decode_copy_rack : decodeSlot .t 0b00001100010000100000111111111000 none = some (.copyRack 1 2 3 63 0) := by decide +kernel

/-- T form T, major 4, output, stream 7 (05 R94-R103). -/
theorem test_decode_bind_out : decodeSlot .t 0b00010000010000100000000001111000 none = some (.bindOut 1 2 7 0) := by decide +kernel

/-- T form T with its immediate, tile 4 (05 R94-R103). -/
theorem test_decode_mproof : decodeSlot .t 0b00101100000001010000000100000000 (some 0xDEADBEEF) = some (.mproof 5 4 0 0xDEADBEEF) := by decide +kernel

/-- T form T, major 21, counter 33 (05 R94-R103). -/
theorem test_decode_peel : decodeSlot .t 0b01010100000000010000101000010000 none = some (.peel 1 2 33 0) := by decide +kernel

/-- B kind 6, vector register 5, off22 -1 (05 R94-R103). -/
theorem test_decode_chk : decodeSlot .b 0b11010001011111111111111111111111 none = some (.chk 69 (-1)) := by decide +kernel

/-- B kind 5 (05 R94-R103). -/
theorem test_decode_call : decodeSlot .b 0b10100000000111111111111111111111 none = some (.call 0x1FFFFF) := by decide +kernel

/-- R97: major opcode 0 in a class other than the surrendered word (05 R94-R103). -/
theorem test_decode_major_zero : decodeSlot .m 0b00000000000100001000001100000000 none = none := by decide +kernel

/-- R95: a predicate field accepts 0-95 (05 R94-R103). -/
theorem test_decode_pred_96 : decodeSlot .x 0b00100111000000000110001000000000 none = none := by decide +kernel

/-- R95: a scope field accepts 0-5 (05 R94-R103). -/
theorem test_decode_scope_6 : decodeSlot .x 0b01011000011000000000000000101000 none = none := by decide +kernel

/-- Table fetch-7: ALU functions 23-31 (05 R94-R103). -/
theorem test_decode_alu_23 : decodeSlot .x 0b00000100000100001000001110111000 none = none := by decide +kernel

/-- Table fetch-7: the b field of CLZ must be zero (05 R94-R103). -/
theorem test_decode_clz_b : decodeSlot .x 0b00000100000100001000001110000000 none = none := by decide +kernel

/-- R98: a zero count in LOOPI (05 R94-R103). -/
theorem test_decode_loopi_zero : decodeSlot .x 0b01001100000000100000000000000000 none = none := by decide +kernel

/-- R98: a zero count in imm32 (05 R94-R103). -/
theorem test_decode_loopi_zero_long : decodeSlot .x 0b01001100000000100000000000000000 (some 0) = none := by decide +kernel

/-- Table fetch-10: RKTAKE of 62 (05 R94-R103). -/
theorem test_decode_rktake_62 : decodeSlot .m 0b10000111111000001000000000000000 none = none := by decide +kernel

/-- R100: a float operation in S32 (05 R94-R103). -/
theorem test_decode_vfma_s32 : decodeSlot .v 0b00010000000100001000001111000000 none = none := by decide +kernel

/-- R100: a long form in BF16 with high bits set (05 R94-R103). -/
theorem test_decode_vbcast_high : decodeSlot .v 0b01011000000100000000000010000000 (some 0x10000) = none := by decide +kernel

/-- R207: a part beyond the packed run (05 R94-R103). -/
theorem test_decode_kunp_part : decodeSlot .k 0b00000100000100001000010010000000 none = none := by decide +kernel

/-- R102: MPROOF is long-only (05 R94-R103). -/
theorem test_decode_mproof_short : decodeSlot .t 0b00101100000001010000000100000000 none = none := by decide +kernel

/-- Table fetch-14: predicate 96 (05 R94-R103). -/
theorem test_decode_bt_96 : decodeSlot .b 0b00011000000000000000000000000100 none = none := by decide +kernel
/-- 05 Table fetch-14: the whole c field of J and CALL is zero, and so is the offset of JR; the top bit of c decides here. -/
theorem test_decode_b_zero_fields :
    decodeSlot .b 0b10010000000000000000000000000100 none = none ∧ decodeSlot .b 0b10110000000000000000000000000100 none = none ∧
    decodeSlot .b 0b11110000010000000000000000000001 none = none ∧
    decodeSlot .b 0b10000000000000000000000000000100 none = some (.j 4) := by decide +kernel

/-! ## A small machine -/

namespace Sys2Proof.Tests

/-- A one-core job with one page at 0, in frame 2 of stack 0. -/
def job : Job := { lonelyJob State.reset 0 with pages := [⟨0, 0, 2, true, true, true⟩] }

/-- Core 0 runs context 0 of that job; the bundle at 0, of 8 bytes, has passed its checks. -/
def base : State :=
  let s := { State.reset with jobs := [job], nextJob := 2, cur := { Issue.reset with checked := true, len := 8 } }
  let s := onCore s 0 fun c => { c with job := some 1, holder := some 0, storeOk := true }
  onCtx s 0 fun c => { c with status := .running, task := some 0 }

/-- Context 0 with some scalar registers set. -/
def withS (l : List (Nat × Word)) (s : State) : State :=
  onCtx s 0 fun c => { c with s := l.foldl (fun v x => v.setIfInBounds x.1 x.2) c.s }
/-- Context 0 with some vector registers set. -/
def withV (l : List (Nat × VWord)) (s : State) : State :=
  onCtx s 0 fun c => { c with v := l.foldl (fun v x => v.setIfInBounds x.1 x.2) c.v }
/-- Context 0 with a predicate set. -/
def withP (r : Nat) (x : BitVec 128) (s : State) : State := onCtx s 0 fun c => { c with p := c.p.setIfInBounds r x }
/-- Context 0 with the fields of an engine register set. -/
def withE (e : Nat) (l : List Word) (s : State) : State :=
  onCtx s 0 fun c => { c with e := (List.range 8).foldl (fun v i => v.setIfInBounds (8 * e + i) (l[i]?.getD 0)) c.e }

/-- The bundle issues with memory, marks and arrival records as they stand. -/
def atIssue (s : State) : State := { s with cur := { s.cur with mem := s.mem, bad := s.bad, arrivals := (ctxAt s s.cur.key).arrivals } }
/-- The state after one operation. -/
def after (i : Instr) (s : State) : State := match exec i (atIssue s) with | .next t => t | _ => s
/-- The scalar result that an operation sends: register, landing cycle, value. -/
def sentS (i : Instr) (s : State) : List (Nat × Nat × Nat) :=
  (ctxAt (after i s) 0).flights.map fun f => (f.dest.ix, f.land, f.value.toNat)
/-- Lane `j` of `w` bits of the result that an operation sends. -/
def lane (i : Instr) (s : State) (w j : Nat) : List Nat := (ctxAt (after i s) 0).flights.map fun f => laneOf w f.value j
/-- The flags that an operation sends. -/
def flagsOf (i : Instr) (s : State) : List Nat := (ctxAt (after i s) 0).flights.map fun f => f.flags.toNat
/-- The causes of the late faults of context 0. -/
def faults (s : State) : List (Nat × Nat) := (ctxAt s 0).late.map fun f => (f.cause.code, f.addr.toNat)
/-- The window address of a byte of the own slice. -/
def own (off : Nat) : Word := BitVec.ofNat 64 (15 * 2 ^ 48 + off)

/-! ## One step each: scalar results (07 Table scalar-3, R154-R163) -/

/-- The sum wraps modulo 2^64 and lands in context cycle 2. -/
theorem test_add : sentS (.add 3 1 2 0) (withS [(1, 0xFFFFFFFFFFFFFFFF), (2, 2)] base) = [(3, 2, 1)] := by decide +kernel
/-- s0 reads as zero and discards writes. -/
theorem test_add_s0 : sentS (.add 0 1 2 0) (withS [(0, 7), (1, 5)] base) = [] ∧
    sentS (.add 3 0 1 0) (withS [(0, 7), (1, 5)] base) = [(3, 2, 5)] := by decide +kernel
theorem test_sub : sentS (.sub 3 1 2 0) (withS [(1, 1), (2, 3)] base) = [(3, 2, 0xFFFFFFFFFFFFFFFE)] := by decide +kernel
theorem test_and : sentS (.and 3 1 2 0) (withS [(1, 0xF0F0), (2, 0xFF00)] base) = [(3, 2, 0xF000)] := by decide +kernel
theorem test_or : sentS (.or 3 1 2 0) (withS [(1, 0xF0F0), (2, 0xFF00)] base) = [(3, 2, 0xFFF0)] := by decide +kernel
theorem test_xor : sentS (.xor 3 1 2 0) (withS [(1, 0xF0F0), (2, 0xFF00)] base) = [(3, 2, 0x0FF0)] := by decide +kernel
/-- x AND NOT y, in this order. -/
theorem test_andn : sentS (.andn 3 1 2 0) (withS [(1, 0xF0F0), (2, 0xFF00)] base) = [(3, 2, 0x00F0)] := by decide +kernel
/-- Bits of y above [5] are ignored. -/
theorem test_shl : sentS (.shl 3 1 2 0) (withS [(1, 3), (2, 65)] base) = [(3, 2, 6)] := by decide +kernel
theorem test_shr : sentS (.shr 3 1 2 0) (withS [(1, 0x8000000000000000), (2, 63)] base) = [(3, 2, 1)] := by decide +kernel
theorem test_sra : sentS (.sra 3 1 2 0) (withS [(1, 0x8000000000000000), (2, 62)] base) = [(3, 2, 0xFFFFFFFFFFFFFFFE)] := by
  decide +kernel
theorem test_rol : sentS (.rol 3 1 2 0) (withS [(1, 0x8000000000000001), (2, 1)] base) = [(3, 2, 3)] := by decide +kernel
theorem test_min : sentS (.min 3 1 2 0) (withS [(1, 0xFFFFFFFFFFFFFFFF), (2, 1)] base) = [(3, 2, 0xFFFFFFFFFFFFFFFF)] := by
  decide +kernel
theorem test_max : sentS (.max 3 1 2 0) (withS [(1, 0xFFFFFFFFFFFFFFFF), (2, 1)] base) = [(3, 2, 1)] := by decide +kernel
theorem test_minn : sentS (.minn 3 1 2 0) (withS [(1, 0xFFFFFFFFFFFFFFFF), (2, 1)] base) = [(3, 2, 1)] := by decide +kernel
theorem test_maxn : sentS (.maxn 3 1 2 0) (withS [(1, 0xFFFFFFFFFFFFFFFF), (2, 1)] base) = [(3, 2, 0xFFFFFFFFFFFFFFFF)] := by
  decide +kernel
theorem test_addw : sentS (.addw 3 1 2 0) (withS [(1, 0x17FFFFFFF), (2, 1)] base) = [(3, 2, 0xFFFFFFFF80000000)] := by decide +kernel
theorem test_subw : sentS (.subw 3 1 2 0) (withS [(1, 0x100000000), (2, 1)] base) = [(3, 2, 0xFFFFFFFFFFFFFFFF)] := by
  decide +kernel
theorem test_clz : sentS (.clz 3 1 0) (withS [(1, 1)] base) = [(3, 2, 63)] ∧ sentS (.clz 3 0 0) base = [(3, 2, 64)] := by decide +kernel
theorem test_ctz : sentS (.ctz 3 1 0) (withS [(1, 8)] base) = [(3, 2, 3)] ∧ sentS (.ctz 3 0 0) base = [(3, 2, 64)] := by decide +kernel
theorem test_popc : sentS (.popc 3 1 0) (withS [(1, 0xFFFFFFFFFFFFFFFF)] base) = [(3, 2, 64)] := by decide +kernel
theorem test_bswap : sentS (.bswap 3 1 0) (withS [(1, 0x0102030405060708)] base) = [(3, 2, 0x0807060504030201)] := by decide +kernel
/-- The multiplies land 3 context cycles after issue. -/
theorem test_mul : sentS (.mul 3 1 2 0) (withS [(1, 0xFFFFFFFFFFFFFFFF), (2, 3)] base) = [(3, 4, 0xFFFFFFFFFFFFFFFD)] := by
  decide +kernel
theorem test_mulh : sentS (.mulh 3 1 2 0) (withS [(1, 0xFFFFFFFFFFFFFFFF), (2, 3)] base) = [(3, 4, 0xFFFFFFFFFFFFFFFF)] := by
  decide +kernel
theorem test_mulhn : sentS (.mulhn 3 1 2 0) (withS [(1, 0xFFFFFFFFFFFFFFFF), (2, 3)] base) = [(3, 4, 2)] := by decide +kernel
theorem test_andi : sentS (.andi 3 1 (-2) 0) (withS [(1, 0xFFFFFFFFFFFFFFFF)] base) = [(3, 2, 0xFFFFFFFFFFFFFFFE)] := by
  decide +kernel
theorem test_srai : sentS (.srai 3 1 63 0) (withS [(1, 0x8000000000000000)] base) = [(3, 2, 0xFFFFFFFFFFFFFFFF)] := by decide +kernel
theorem test_ldi : sentS (.ldi 3 0x400 0) base = [(3, 2, 0xFFFFFFFFFFFFFC00)] := by decide +kernel
theorem test_ldhi : sentS (.ldhi 3 1 0 0x12345678) (withS [(1, 0xFFFFFFFF9ABCDEF0)] base) = [(3, 2, 0x123456789ABCDEF0)] := by
  decide +kernel
theorem test_sels : sentS (.sels 3 1 2 4 0) (withS [(1, 5), (2, 6)] base) = [(3, 2, 6)] ∧
    sentS (.sels 3 1 2 4 0) (withP 4 1 (withS [(1, 5), (2, 6)] base)) = [(3, 2, 5)] := by decide +kernel
/-- A compare sets or clears all 128 bits. -/
theorem test_cmp : (sentS (.cmp 4 1 2 2 0) (withS [(1, 0xFFFFFFFFFFFFFFFF), (2, 1)] base)).map (·.2.2) = [2 ^ 128 - 1] ∧
    (sentS (.cmp 4 1 2 4 0) (withS [(1, 0xFFFFFFFFFFFFFFFF), (2, 1)] base)).map (·.2.2) = [0] := by decide +kernel
theorem test_cmpi : (sentS (.cmpi 4 1 0 (-1) 0) (withS [(1, 0xFFFFFFFFFFFFFFFF)] base)).map (·.2.2) = [2 ^ 128 - 1] := by decide +kernel
theorem test_pandn : (sentS (.pandn 4 0 5 0) (withP 5 3 base)).map (·.2.2) = [2 ^ 128 - 4] := by decide +kernel
/-- PFIRST keeps the lowest set bit alone. -/
theorem test_pfirst : (sentS (.pfirst 4 5 0) (withP 5 0b101000 base)).map (·.2.2) = [8] := by decide +kernel
theorem test_pcount : sentS (.pcount 3 0 0) base = [(3, 2, 128)] := by decide +kernel
theorem test_pfroms : (sentS (.pfroms 4 1 2 0) (withS [(1, 1), (2, 2)] base)).map (·.2.2) = [2 ^ 65 + 1] := by decide +kernel
theorem test_mfs_tfb : sentS (.mfs 3 10 0) base = [(3, 2, 15 * 2 ^ 48 + 0xFF * 2 ^ 14)] := by decide +kernel
theorem test_mts_sends : (ctxAt (after (.mts 1 8 0) (withS [(1, 3)] base)) 0).flights.map (·.dest) = [⟨.special, 8⟩] := by decide +kernel
/-- A tag whose path is not taken: no effect (05 R93). -/
theorem test_tag : after (.add 3 1 2 1) base = base := by decide +kernel

/-! ## Vector lanes (09) -/

/-- 1.5 + 2.25 in F32. -/
theorem test_vadd_f32 : lane (.vadd 3 1 2 0 0 0) (withV [(1, 0x3FC00000), (2, 0x40100000)] base) 32 0 = [0x40700000] := by decide +kernel
/-- S32 lanes wrap. -/
theorem test_vadd_s32 : lane (.vadd 3 1 2 3 0 0) (withV [(1, 0xFFFFFFFF), (2, 2)] base) 32 0 = [1] := by decide +kernel
/-- Infinity minus infinity is the canonical NaN, with NV. -/
theorem test_vsub_nv : lane (.vsub 3 1 2 0 0 0) (withV [(1, 0x7F800000), (2, 0x7F800000)] base) 32 0 = [0x7FC00000] ∧
    flagsOf (.vsub 3 1 2 0 1 0) (withP 1 1 (withV [(1, 0x7F800000), (2, 0x7F800000)] base)) = [1] := by decide +kernel
/-- 3 × 5 in F16, lane 127. -/
theorem test_vmul_f16 : lane (.vmul 3 1 2 1 0 0) (withV [(1, 0x4200 <<< 2032), (2, 0x4500 <<< 2032)] base) 16 127 = [0x4B80] := by
  decide +kernel
/-- One rounding: (1 + 2^-23)^2 - (1 + 2^-22) is 2^-46, which two roundings would lose. -/
theorem test_vfma : lane (.vfma 3 1 2 0 0 0) (withV [(1, 0x3F800001), (2, 0x3F800001), (3, 0xBF800002)] base) 32 0 = [0x28800000] := by
  decide +kernel
/-- d - a × b: 10 - 2 × 3. -/
theorem test_vfms : lane (.vfms 3 1 2 0 0 0) (withV [(1, 0x40000000), (2, 0x40400000), (3, 0x41200000)] base) 32 0 = [0x40800000] := by
  decide +kernel
/-- a × b - d: 2 × 3 - 10. -/
theorem test_vfnma : lane (.vfnma 3 1 2 0 0 0) (withV [(1, 0x40000000), (2, 0x40400000), (3, 0x41200000)] base) 32 0 = [0xC0800000] := by
  decide +kernel
/-- The guarded lanes alone are written. -/
theorem test_guard : (ctxAt (after (.vor 3 1 2 3 1 0) (withP 1 4 (withV [(1, 5), (2, 2)] base))) 0).flights.map (·.mask.toNat) =
    [0xFFFFFFFF * 2 ^ 32] := by decide +kernel
theorem test_vsra : lane (.vsra 3 1 2 3 0 0) (withV [(1, 0x80000000), (2, 33)] base) 32 0 = [0xC0000000] := by decide +kernel
theorem test_vperm : lane (.vperm 3 1 2 3 0 0) (withV [(1, 7 <<< 64), (2, 2)] base) 32 0 = [7] := by decide +kernel
theorem test_vslide : lane (.vslide 3 1 1 3 0 0) (withS [(1, 1)] (withV [(1, 7 <<< 32)] base)) 32 0 = [7] ∧
    lane (.vslide 3 1 1 3 0 0) (withS [(1, 0xFFFFFFFFFFFFFFFF)] (withV [(1, 7)] base)) 32 0 = [0] := by decide +kernel
theorem test_viota : lane (.viota 3 0 0 0) base 32 3 = [0x40400000] := by decide +kernel
/-- 2^31 in F32 lies outside S32: the largest, with NV. -/
theorem test_vcvt_s32 : lane (.vcvt 3 1 0 3 0 0) (withV [(1, 0x4F000000)] base) 32 0 = [0x7FFFFFFF] := by decide +kernel
/-- Infinity clamped to S32: out of range, NV, and not the exact value, NX (08 R173, R174). -/
theorem test_vcvt_clamp : flagsOf (.vcvt 3 1 0 3 1 0) (withP 1 1 (withV [(1, 0x7F800000)] base)) = [0b10001] := by decide +kernel
/-- 65520 rounds to infinity in F16. -/
theorem test_vcvt_f16 : lane (.vcvt 3 1 0 1 0 0) (withV [(1, 0x477FF000)] base) 16 0 = [0x7C00] := by decide +kernel
theorem test_vcmp : (sentS (.vcmp 4 1 2 0 2 0) (withV [(1, 0x3F800000)] base)).map (·.2.2) = [0] ∧
    (sentS (.vcmp 4 2 1 0 2 0) (withV [(1, 0x3F800000)] base)).map (·.2.2) = [3] := by decide +kernel
theorem test_vext : (sentS (.vext 3 1 2 3 0) (withS [(2, 65)] (withV [(1, 0x80000000 <<< 32)] base))).map (·.2.2) =
    [0xFFFFFFFF80000000] := by decide +kernel
theorem test_vabs_nan : lane (.vabs 3 1 0 0 0) (withV [(1, 0xFFC00001)] base) 32 0 = [0x7FC00000] := by decide +kernel
/-- Elements 64 on of an I4 run, part 1 in S32 lanes. -/
theorem test_kunp_i4 : lane (.kunp 3 1 5 1 3 0) (withV [(1, 0x9 <<< 256)] base) 32 0 = [0xFFFFFFF9] := by decide +kernel
/-- 1.0 is 0x38 in F8A. -/
theorem test_qpk_f8a : (ctxAt (after (.qpk 3 1 0 0 0 0 0 0) (withV [(1, 0x3F800000)] base)) 0).flights.map (fun f => laneOf 8 f.value 0) = [0x38] := by
  decide +kernel
theorem test_frcp_exact : lane (.frcp 3 1 0 0 0) base 32 0 = [0x7F800000] := by decide +kernel
/-- The tree over 64 lanes of 1.0. -/
theorem test_fsum : lane (.fsum 3 1 0 0 0) (withV [(1, BitVec.ofNat 2048 (0x3F800000 * ((2 ^ 2048 - 1) / (2 ^ 32 - 1))))] base) 32 63 =
    [0x42800000] := by decide +kernel
theorem test_fmaxr : lane (.fmaxr 3 1 3 0 0) (withV [(1, 0xFFFFFFFF00000005)] base) 32 9 = [5] := by decide +kernel
theorem test_fscan : lane (.fscan 3 1 0 0 0) (withV [(1, 0x3F8000003F800000)] base) 32 1 = [0x40000000] := by decide +kernel

/-! ## Memory (10) -/

/-- The own slice, little-endian; the result lands after 4 context cycles. -/
theorem test_ldd : sentS (.ldd 3 1 1 0) (withS [(1, own 0x100)] { base with mem := [(0x108, 0x12), (0x10F, 0x80)] }) =
    [(3, 5, 0x8000000000000012)] := by decide +kernel
theorem test_ldb : sentS (.ldb 3 1 (-1) 0) (withS [(1, own 0x101)] { base with mem := [(0x100, 0x80)] }) =
    [(3, 5, 0xFFFFFFFFFFFFFF80)] := by decide +kernel
theorem test_ldhn : sentS (.ldhn 3 1 0 0) (withS [(1, own 0x100)] { base with mem := [(0x101, 0x80)] }) = [(3, 5, 0x8000)] := by
  decide +kernel
/-- A misaligned address is a late ALIGN with the address of the access. -/
theorem test_ldw_align : faults (after (.ldw 3 1 0 0) (withS [(1, own 0x102)] base)) = [(0x12, (own 0x102).toNat)] := by decide +kernel
theorem test_sth : (after (.sth 2 1 0 0) (withS [(1, own 0x10), (2, 0xABCD0102)] base)).mem = [(0x10, 0x02), (0x11, 0x01)] := by
  decide +kernel
/-- Toward job space a store waits to be gathered, and nothing is written yet. -/
theorem test_std_far : (after (.std 2 1 0 0) (withS [(1, 0x100), (2, 9)] base)).reqs.map (fun r => (r.status, r.vec1.toNat)) =
    [(.gathered, 9)] ∧ (after (.std 2 1 0 0) (withS [(1, 0x100), (2, 9)] base)).mem = [] := by decide +kernel
theorem test_lds_defer : (ctxAt (after (.lds 3 1 0 0) (withS [(1, own 0x101)] base)) 0).flights.map (fun f => (f.value.toNat, f.df)) =
    [(0, true)] := by decide +kernel
theorem test_vldb : lane (.vldb 3 1 2 1 0) (withS [(2, 1)] { base with mem := [(0x20200, 7)] }) 32 0 = [7] := by decide +kernel
theorem test_klds_perm : faults (after (.klds 2 1 0 0) (withS [(1, 0x100)] base)) = [(0x10, 0x100)] := by decide +kernel
/-- A VGATH gets the bytes of its own slice as its bundle found them, though a store of the bundle has come first (00 R7). -/
theorem test_vgath_issue :
    let s := atIssue (withP 1 4 (withS [(1, own 0)] base))
    (match exec (.vgath 3 1 2 1 0 0) { s with mem := [(0, 7)] } with
     | .next t => t.reqs.map fun r => laneOf 32 r.vec2 1
     | _ => []) = [0] := by decide +kernel
/-- The guarded lane of a scatter alone is stored, at its offset times 4. -/
theorem test_vscat : (after (.vscat 3 1 2 1 0 0) (withP 1 4 (withS [(1, own 0)] (withV [(2, 0x20 <<< 32), (3, 0x55 <<< 32)] base)))).mem =
    [(0x80, 0x55)] := by decide +kernel
/-- STF marks its granule full; LDFE of an empty one is held. -/
theorem test_stf : (after (.stf 2 1 0 0) (withS [(1, own 0x20)] base)).full ≠ [] ∧
    (after (.ldfe 3 1 0 0) (withS [(1, own 0x20)] base)).reqs.map (·.status) = [.held] := by decide +kernel
theorem test_pref : (after (.pref 1 0 0) base).lines.map (·.1) = [2 ^ 32 + 512] ∧ ctxAt (after (.pref 1 0 0) base) 0 = ctxAt base 0 := by decide +kernel
theorem test_atom : (after (.atomAdd 3 1 2 0 0) (withS [(1, 0x100), (2, 5)] base)).reqs.map (fun r => (r.addr.toNat, r.arg1.toNat)) =
    [(0x100, 5)] := by decide +kernel

/-! ## Control and system (06) -/

theorem test_bt : (after (.bt 4 2) (withP 4 1 base)).cur.succ = 8 ∧ (after (.bt 4 2) base).cur.taken = none := by decide +kernel
theorem test_ball : (after (.ball 0 (-1)) base).cur.succ = -4 := by decide +kernel
/-- CALL links the bundle in sequence into s63. -/
theorem test_call : sentS (.call 4) base = [(63, 2, 8)] ∧ (after (.call 4) base).cur.succ = 16 := by decide +kernel
theorem test_loop_zero : (after (.loop 0 2 0) base).cur.push = none ∧ (after (.loop 0 2 0) base).cur.skip ≠ none := by decide +kernel
theorem test_loopi : (after (.loopi 2 5 0) base).cur.push = some ⟨5, 8, 8⟩ := by decide +kernel
theorem test_waitc : (ctxAt (after (.waitc 1 5 0) (withS [(1, 70000)] base)) 0).waitc = 65535 := by decide +kernel
theorem test_trap : let c := ctxAt (after (.trap 0x123 0) (onCtx base 0 fun c => { c with tvec := 0x100 })) 0
    (c.pc, c.h, c.en, c.tcause) = (0x100, true, false, 0x0012340) := by decide +kernel
theorem test_rft : let c := ctxAt (after (.rft 0) (onCtx { base with mem := [(0x3FC000, 0x40)] } 0 fun c => { c with h := true, en := false })) 0
    (c.pc, c.h, c.en) = (0x40, false, true) := by decide +kernel
theorem test_yield : (ctxAt (after (.yield 0) base) 0).status = .ready := by decide +kernel
theorem test_tend : (ctxAt (after (.tend 0) base) 0).status = .ending := by decide +kernel
theorem test_svc : (ctxAt (after (.svcProbe 0) base) 0).status = .serviced ∧ (coreAt (after (.svcProbe 0) base) 0).services = [.svc 0 2] := by
  decide +kernel

/-! ## Engines, tasks, groups (10, 11, 17) -/

theorem test_ewr : (ctxAt (after (.ewr 3 1 7 0) (withS [(1, 9)] base)) 0).flights.map (fun f => (f.dest.ix, f.land)) = [(31, 2)] := by
  decide +kernel
theorem test_erd : sentS (.erd 3 4 7 0) (withE 3 [0, 0, 0, 0, 0, 0, 0, 9] base) = [(4, 3, 9)] := by decide +kernel
theorem test_tset : (coreAt (after (.tset 1 5 0) (withS [(1, 65535)] base)) 0).counters[5] = 65535 ∧
    faults (after (.tset 1 5 0) (withS [(1, 65536)] base)) = [(0x10, 65536)] := by decide +kernel
theorem test_spawn_perm : faults (after (.spawn 0 1 2 0 0) (withS [(1, 1)] base)) = [(0x10, 1)] := by decide +kernel
theorem test_gsend_id : faults (after (.gsend 0 1 0) (withS [(1, 3)] base)) = [(0x22, 3)] := by decide +kernel
theorem test_rkopen_sends : (after (.rkopen 2 1 0) base).reqs.length = 1 := by decide +kernel
theorem test_mpri : (ctxAt (after (.mpri 3 0) base) 0).mprio = 3 := by decide +kernel
theorem test_mzero_perm : faults (after (.mzero 2 0) base) = [(0x10, 0)] := by decide +kernel

/-! ## States that meet the hypotheses of the statements -/

/-- Every operation with tag 0 issues where the bundle has passed its checks. -/
theorem issues (i : Instr) {s : State} (h : s.cur.checked = true) (t : s.cur.taken = none) : Issues i 0 s :=
  ⟨by rw [t]; rfl, .inl h⟩

/-- An operation that stands alone issues by its own checks too. -/
theorem test_witness_verdict : Issues (.add 3 1 2 0) 0 { base with cur := { base.cur with checked := false } } ∧
    Issues (.addi 3 1 1 5) 5 { base with cur := { base.cur with checked := false } } := by
  constructor <;> exact ⟨by decide +kernel, .inr rfl⟩

/-- Scalar results, counts, immediates, predicates (the boundary compare condition is 5), lanes, reductions. -/
theorem test_witness_AluResults : Issues (.mulhn 63 63 63 0) 0 base := issues _ rfl rfl
theorem test_witness_CountsAndImmediates : Issues (.pcount 63 95 0) 0 base ∧ Issues (.sels 63 1 2 31 0) 0 base :=
  ⟨issues _ rfl rfl, issues _ rfl rfl⟩
theorem test_witness_SpecialRegisterReads : Issues (.mfs 1 15 0) 0 base ∧ Issues (.mts 1 15 0) 0 base :=
  ⟨issues _ rfl rfl, issues _ rfl rfl⟩
theorem test_witness_PredicateResults : (5 : Fin 8).val < 6 ∧ Issues (.cmp 95 1 2 5 0) 0 base ∧ Issues (.pfirst 1 2 0) 0 base :=
  ⟨by decide, issues _ rfl rfl, issues _ rfl rfl⟩
theorem test_witness_LaneArithmetic : (2 : Fin 4).val ≠ 3 ∧ Issues (.vfma 1 2 3 2 7 0) 0 base := ⟨by decide, issues _ rfl rfl⟩
theorem test_witness_LaneLogicAndMoves : Issues (.vsra 1 2 3 3 7 0) 0 base ∧ Issues (.vins 1 2 3 1 0) 0 base :=
  ⟨issues _ rfl rfl, issues _ rfl rfl⟩
theorem test_witness_LaneScalarOperands : (2 : Fin 4).val ≠ 3 ∧ Issues (.vfmasLong 1 2 2 0 0 5) 0 base := ⟨by decide, issues _ rfl rfl⟩
theorem test_witness_LaneCompareExtractConvert : Issues (.vcmp 95 1 2 3 3 0) 0 base ∧ Issues (.vcvt 1 2 3 0 0 0) 0 base :=
  ⟨issues _ rfl rfl, issues _ rfl rfl⟩
/-- The last part of an F8A run in F32 lanes, and of a Q4N run in F16 lanes, end with the register. -/
theorem test_witness_PackedResults : (0 : Fin 8).val < 6 ∧ (0 : Fin 8).val ≠ 3 ∧ 8 * ((3 + 1) * (2048 / laneWidth 0)) ≤ 2048 ∧
    4 * ((3 + 1) * (2048 / laneWidth 1)) ≤ 2048 ∧ Issues (.qpk 1 2 0 3 0 0 0 0) 0 base ∧ Issues (.qpkq 1 2 3 1 15 0) 0 base :=
  ⟨by decide, by decide, by decide, by decide, issues _ rfl rfl, issues _ rfl rfl⟩
/-- The reciprocal of zero is exact, that of 3 is not. -/
theorem test_witness_SpecialFunctionLanes : (0 : Fin 4).val ≠ 3 ∧ Issues (.frcp 1 2 0 1 0) 0 (withP 1 1 base) ∧ selected 32 (readP (withP 1 1 base) 1) 0 = true ∧
    (∃ x f, frcp (decodeFmt fp32 0) = .exact x f) ∧ ∃ n m e, frcp (decodeFmt fp32 0x40400000) = .near n m e :=
  ⟨by decide, issues _ rfl rfl, by decide +kernel, ⟨_, _, rfl⟩, ⟨_, _, _, rfl⟩⟩
theorem test_witness_ReductionLanes : (2 : Fin 4).val ≠ 3 ∧ Issues (.fscan 1 2 2 7 0) 0 base := ⟨by decide, issues _ rfl rfl⟩

/-! ### Memory -/

/-- s1 holds an address. -/
def addr (x : Word) : State := withS [(1, x)] base

/-- The last doubleword of the own slice; a misaligned one; job space. -/
theorem test_witness_ScalarLoads :
    (Issues (.ldd 2 1 0 0) 0 (addr (own 0x3FFFF8)) ∧ OwnPlace (addr (own 0x3FFFF8)) (own 0x3FFFF8) 8 false 0x3FFFF8) ∧
    (Issues (.ldd 2 1 0 0) 0 (addr (own 0x3FFFF4)) ∧ OwnFate (addr (own 0x3FFFF4)) (own 0x3FFFF4) 8 false .align (own 0x3FFFF4)) ∧
    Issues (.ldd 2 1 0 0) 0 (addr 0x100) ∧ ownOffset (addr 0x100) 0 0x100 8 = none :=
  ⟨⟨issues _ rfl rfl, ⟨0x3FFFF8, by decide +kernel⟩⟩, ⟨issues _ rfl rfl, ⟨0x3FFFF4, by decide +kernel⟩⟩, issues _ rfl rfl, by decide +kernel⟩
theorem test_witness_ScalarStores :
    (CanonicalMemory (addr (own 0x3FFFF8)) ∧ Issues (.std 2 1 0 0) 0 (addr (own 0x3FFFF8)) ∧
      OwnPlace (addr (own 0x3FFFF8)) (own 0x3FFFF8) 8 true 0x3FFFF8) ∧
    (Issues (.std 2 1 0 0) 0 (addr (own 0x3FFFF4)) ∧ OwnFate (addr (own 0x3FFFF4)) (own 0x3FFFF4) 8 true .align (own 0x3FFFF4)) ∧
    Issues (.std 2 1 0 0) 0 (addr 0x100) ∧ ownOffset (addr 0x100) 0 0x100 8 = none :=
  ⟨⟨rfl, issues _ rfl rfl, ⟨0x3FFFF8, by decide +kernel⟩⟩, ⟨issues _ rfl rfl, ⟨0x3FFFF4, by decide +kernel⟩⟩,
    issues _ rfl rfl, by decide +kernel⟩
/-- Beside an access of the bundle to the last byte of the own slice, and to the one before the store's. -/
def beside (a n : Nat) (s : State) : State := { s with cur := { s.cur with late := [(15 * 2 ^ 48 + a, n)] } }
theorem test_witness_StoresBesideReads :
    (let s := beside 0x3FFFFF 1 (addr (own 0x3FFFF8))
     Issues (.std 2 1 0 0) 0 s ∧ OwnPlace s (own 0x3FFFF8) 8 true 0x3FFFF8 ∧ meetsLate s (own 0x3FFFF8).toNat 8 = true) ∧
    (let s := beside 0x3FFFF7 1 (addr (own 0x3FFFF8))
     OwnPlace s (own 0x3FFFF8) 8 true 0x3FFFF8 ∧ meetsLate s (own 0x3FFFF8).toNat 8 = false) ∧
    (let s := beside 0x3FFFFF 1 (addr 448)
     Issues (.vstb 2 31 1 63 0) 0 s ∧ physFate (ownView s true) (slicePhys 0 0x3FFF00) (windowAddr 0 0x3FFF00 % 2 ^ 64) 256 256 true = none ∧
       meetsLate s (BitVec.ofNat 64 (windowAddr 0 0x3FFF00)).toNat 256 = true ∧ meetsLate (addr 448) (BitVec.ofNat 64 (windowAddr 0 0x3FFF00)).toNat 256 = false) ∧
    (let s := beside 0x80 1 (addr (own 1))
     Issues (.qsts 15 1 0 0) 0 s ∧ ownOffset s 0 (own 1) 128 = some 1 ∧ meetsLate s (own 1).toNat 128 = true ∧ meetsLate (beside 0x81 1 s) (own 1).toNat 128 = false) ∧
    (let s := beside 8 8 (addr (own 8))
     Issues (.stf 2 1 0 0) 0 s ∧ OwnPlace s (own 8) 8 true 8 ∧ meetsLate s (own 8).toNat 8 = true ∧ meetsLate (addr (own 8)) (own 8).toNat 8 = false) :=
  ⟨⟨issues _ rfl rfl, ⟨0x3FFFF8, by decide +kernel⟩, by decide +kernel⟩, ⟨⟨0x3FFFF8, by decide +kernel⟩, by decide +kernel⟩,
    ⟨issues _ rfl rfl, by decide +kernel⟩, ⟨issues _ rfl rfl, by decide +kernel⟩, issues _ rfl rfl, ⟨8, by decide +kernel⟩, by decide +kernel⟩
/-- Unit 511 of bank 31 is the last of the slice. -/
theorem test_witness_VectorLoadsAndStores :
    (Issues (.vld 2 1 0 0) 0 (addr (own 0x3FFF00)) ∧ OwnPlace (addr (own 0x3FFF00)) (own 0x3FFF00) 256 false 0x3FFF00) ∧
    OwnFate (addr (own 0x80)) (own 0x80) 256 true .align (own 0x80) ∧ ownOffset (addr 0x100) 0 0x100 256 = none ∧
    (let s := addr 448
     Issues (.vstb 2 31 1 63 0) 0 s ∧ (readS s 1).toNat + 63 < 512 ∧ CanonicalMemory s ∧
     physFate (ownView s true) (slicePhys 0 (131072 * 31 + 256 * 511)) (windowAddr 0 (131072 * 31 + 256 * 511) % 2 ^ 64) 256 256 true = none ∧
     physFate (ownView s false) (slicePhys 0 (131072 * 31 + 256 * 511)) (windowAddr 0 (131072 * 31 + 256 * 511) % 2 ^ 64) 256 256 false = none) ∧
    (let s := { addr 448 with layersOff := [(0, 0)] }
     Issues (.vldb 2 31 1 63 0) 0 s ∧ (readS s 1).toNat + 63 < 512 ∧
     (physFate (ownView s false) (slicePhys 0 (131072 * 31 + 256 * 511)) (windowAddr 0 (131072 * 31 + 256 * 511) % 2 ^ 64) 256 256 false).isSome ∧
     (physFate (ownView s true) (slicePhys 0 (131072 * 31 + 256 * 511)) (windowAddr 0 (131072 * 31 + 256 * 511) % 2 ^ 64) 256 256 true).isSome) :=
  ⟨⟨issues _ rfl rfl, ⟨0x3FFF00, by decide +kernel⟩⟩, ⟨0x80, by decide +kernel⟩, by decide +kernel,
    ⟨issues _ rfl rfl, by decide +kernel, rfl, by decide +kernel, by decide +kernel⟩, issues _ rfl rfl, by decide +kernel⟩
/-- A deferred base; a fate; the own slice; job space. -/
theorem test_witness_SpeculativeLoads :
    (Issues (.lds 2 1 0 0) 0 (onCtx base 0 fun c => { c with sdf := 2 }) ∧ deferS (onCtx base 0 fun c => { c with sdf := 2 }) 1 = true) ∧
    (Issues (.lds 2 1 0 0) 0 (addr (own 4)) ∧ OwnFate (addr (own 4)) (own 4) 8 false .align (own 4)) ∧
    (deferS (addr (own 8)) 1 = false ∧ OwnPlace (addr (own 8)) (own 8) 8 false 8 ∧ OwnPlace (addr (own 0)) (own 0) 256 false 0) ∧
    deferS (addr 8) 1 = false ∧ ownOffset (addr 8) 0 8 8 = none ∧ ownOffset (addr 8) 0 8 256 = none :=
  ⟨⟨issues _ rfl rfl, by decide +kernel⟩, ⟨issues _ rfl rfl, ⟨4, by decide +kernel⟩⟩,
    ⟨by decide +kernel, ⟨8, by decide +kernel⟩, ⟨0, by decide +kernel⟩⟩, by decide +kernel, by decide +kernel, by decide +kernel⟩
/-- A KLDS address needs no alignment. -/
theorem test_witness_ScaleLoadsAndStores :
    (∃ q, ownOffset (addr (own 1)) 0 (own 1) 128 = some q ∧ 1 = slicePhys 0 q ∧ physFate (addr (own 1)) 1 (own 1).toNat 128 1 false = none ∧
      physFate (addr (own 1)) 1 (own 1).toNat 128 1 true = none) ∧
    (∃ q, ownOffset (addr (own 4)) 0 (own 4) 4 = some q ∧ 4 = slicePhys 0 q ∧ physFate (addr (own 4)) 4 (own 4).toNat 4 4 false = none) ∧
    CanonicalMemory (addr (own 1)) ∧ Issues (.klds 15 1 0 0) 0 (addr (own 1)) ∧ Issues (.qsts 15 1 0 0) 0 (addr (own 1)) ∧
    ownOffset (addr 0x100) 0 0x100 128 = none ∧ ownOffset (addr 0x100) 0 0x100 4 = none :=
  ⟨⟨1, by decide +kernel⟩, ⟨4, by decide +kernel⟩, rfl, issues _ rfl rfl, issues _ rfl rfl, by decide +kernel, by decide +kernel⟩

/-- Lane 1 alone is guarded; s1 is the base. -/
def scatter (x : Word) : State := withP 1 4 (addr x)
theorem test_witness_GatherAndScatter :
    Issues (.vgath 3 1 2 1 0 0) 0 (scatter 0) ∧ Issues (.vgath 3 1 2 1 0 0) 0 (atIssue (scatter (own 0))) ∧
    (jobOfCtx (scatter (own 0)) 0 = some job ∧ guardLanes 4 (readP (scatter (own 0)) 1) = [1] ∧
      laneOwn (scatter (own 0)) (own 0) 0 4 1 = true ∧ wfMemory (scatter (own 0)).mem = true ∧
      ∀ l ∈ [1], (access (scatter (own 0)) job (laneAddr (own 0) 0 4 l) 4 4 true).toOption = some (slicePhys 0 0)) ∧
    (scatterFate (scatter 0x40) job 0x40 0 4 true [1] = none ∧ laneOwn (scatter 0x40) 0x40 0 4 1 = false) ∧
    (([own 0, 0x40, 2].map fun x => walkFate job (laneAddr x 0 4 1, 4, true)) = [none, none, none] ∧
      walkFate job (laneAddr 0x20000 0 4 1, 4, true) = some (.page, 0x20000)) ∧
    scatterFate (scatter 2) job 2 0 4 true [1] = some (.align, 2) ∧ readV (scatter 2) 2 = 0 ∧ readS (scatter 2) 1 = 2 :=
  ⟨issues _ rfl rfl, issues _ rfl rfl, by decide +kernel, by decide +kernel, by decide +kernel, by decide +kernel⟩
/-- Lane 1 in the own slice, with and without an access of the bundle to its last byte. -/
theorem test_witness_ScatterBesideRead :
    let s := scatter (own 0)
    Issues (.vscat 3 1 2 1 0 0) 0 (beside 3 1 s) ∧ meetsLate (beside 3 1 s) (laneAddr (own 0) 0 4 1) 4 = true ∧
      scatterFate (beside 3 1 s) job (own 0) 0 4 true [1] = none ∧ meetsLate (beside 4 1 s) (laneAddr (own 0) 0 4 1) 4 = false :=
  ⟨issues _ rfl rfl, by decide +kernel⟩
/-- Column 0 of die 0 realigns. -/
def realigning (s : State) : State := { s with columns := [(0, { Column.reset with pausing := some 0 })] }
/-- Whichever layer a unit lies on (log entry 45), the way to it from one of the two cores of a column crosses the column's wall buses. -/
theorem wayPaused_column (s : State) (u : Nat) : wayPaused (realigning s) (.core 0) (.unit u) = true ∨ wayPaused (realigning s) (.core 32) (.unit u) = true := by
  have c : ∀ n, n = 0 ∨ n = 32 → (columnAt (realigning s) (coreDie n) (coreCol n)).pausing.isSome = true := by
    rintro n (rfl | rfl) <;> rfl
  simp only [wayPaused, crossingCore, Option.any_some, c 0 (.inl rfl), c 32 (.inr rfl), Agent.layer, show coreLayer 0 = 0 from rfl, show coreLayer 32 = 1 from rfl]
  have h := (Config.unitLayer u).isLt
  generalize (Config.unitLayer u).val = l at h
  obtain rfl | rfl : l = 0 ∨ l = 1 := by omega
  · exact .inr rfl
  · exact .inl rfl
/-- The job runs on core 32 too. -/
def twoCores : State := onCore base 32 fun c => { c with job := some 1 }
/-- A prefetch whose way pauses, one of a job page, one with a deferred base. -/
theorem test_witness_PrefetchPaused : (jobOfCtx (realigning twoCores) 0 = some job ∧ jobOfCtx (realigning twoCores) 128 = some job ∧
      access (realigning twoCores) job 0 1 1 false = .ok (2 ^ 40 + 2 * 65536)) ∧
    (touchPaused (realigning twoCores) 0 (2 ^ 40 + 2 * 65536) = true ∨ touchPaused (realigning twoCores) 32 (2 ^ 40 + 2 * 65536) = true) := by
  refine ⟨by decide +kernel, ?_⟩
  have place : agentOf (realigning twoCores) (2 ^ 40 + 2 * 65536) = .unit 0 := by decide +kernel
  simp only [touchPaused, place, Bool.or_eq_true]
  rcases wayPaused_column twoCores 0 with h | h
  · exact .inl (.inl h)
  · exact .inr (.inl h)
theorem test_witness_Prefetches :
    (jobOfCtx base 0 = some job ∧ access base job 0 1 1 false = .ok (2 ^ 40 + 2 * 65536) ∧ deferS base 1 = false ∧
      touchPaused base 0 (2 ^ 40 + 2 * 65536) = false ∧ inStack (2 ^ 40 + 2 * 65536) = true ∧ handing base 0 1 5 = false) ∧
    deferS (onCtx base 0 fun c => { c with sdf := 2 }) 1 = true := by decide +kernel
/-- Lane 1 in the own slice, readable, and on a poisoned granule. -/
theorem test_witness_OwnLanes :
    let s := atIssue (scatter (own 0))
    let a := laneAddr (readS s 1) (readV s 2) 4 1
    guardLanes 4 (readP s 1) = [1] ∧ ownOffset s 0 (BitVec.ofNat 64 a) 4 = some 0 ∧ physFate (asIssued s) (slicePhys 0 0) a 4 4 false = none ∧
      physFate (asIssued (atIssue { scatter (own 0) with bad := [0] })) (slicePhys 0 0) a 4 4 false = some (.ue, own 0) := by decide +kernel

theorem test_witness_FullEmptyAndPrefetch :
    (Issues (.ldfe 2 1 0 0) 0 (addr 8) ∧ ownOffset (addr 8) 0 8 8 = none ∧ ownOffset (addr 8) 0 8 256 = none) ∧
    (let s := addr (own 8)
     Issues (.ldfec 2 1 0 0) 0 s ∧ ownOffset s 0 (own 8) 8 = some 8 ∧ windowPhys s 0 (own 8) = some 8 ∧ (own 8).toNat % 8 = 0 ∧
       sliceOff s 8 = false ∧ poisonedAt s.bad 8 8 = none ∧ (∀ q ∈ s.reqs, q.status ≠ .held) ∧ includesAll s.full (8 / 16) (granules 8 8) = false ∧
       includesAll (include1 s.full 0) (8 / 16) (granules 8 8) = true) ∧
    (CanonicalMemory (addr (own 8)) ∧ Issues (.stf 2 1 0 0) 0 (addr (own 8)) ∧ OwnPlace (addr (own 8)) (own 8) 8 true 8 ∧ inSlice 8 = true) ∧
    OwnFate (addr (own 4)) (own 4) 8 true .align (own 4) ∧ Issues (.pref 1 0 0) 0 base :=
  ⟨⟨issues _ rfl rfl, by decide +kernel⟩, ⟨issues _ rfl rfl, by decide +kernel⟩,
    ⟨rfl, issues _ rfl rfl, ⟨8, by decide +kernel⟩, by decide +kernel⟩, ⟨4, by decide +kernel⟩, issues _ rfl rfl⟩

/-! ### A job with declarations -/

/-- Two FREE trays of 512 bytes in job space, written by context 0. -/
def rack : Rack := ⟨0, 0x200, 0x1000, 0, List.replicate 2 ⟨false, false, 0, 0, 0, false⟩, [], 0, 0, none⟩
/-- A die-level barrier of two arrivals in its fifth phase. -/
def barrier : Barrier := ⟨2, 0, 2, 0, 2, 0, 5, 0, 0, 0, 0, false⟩
/-- Contexts 0 and 1 are members; context 1 has made room for two messages; the tree is rooted at the spine. -/
def group : Group := ⟨[0, 1], [(1, 2)], .spine, [(.spine, .die 0, 2)], [], []⟩
def rich : Job := { job with racks := [rack], barriers := [barrier], groups := [group], masks := [(0, BitVec.allOnes 16), (1, 1)] }
/-- That job in the place of the first. -/
def declared : State := { base with jobs := [rich] }

/-! ### Operations at issue -/

theorem test_witness_SynchronisingRequestsIssue :
    Issues (.cas 3 1 2 1 0) 0 base ∧
    (let s := withS [(1, 1), (2, 65535), (3, 0)] declared
     Issues (.binit 3 1 2 0) 0 s ∧ barrierOf s 0 (readS s 1) 16 = some barrier ∧
       binitOk s 0 barrier (readS s 1) (readS s 2) (readS s 3) = true ∧ barrierOf s 0 (readS s 1) 8 = some barrier ∧
       barrierOf s 0 0 16 = none ∧ barrierOf s 0 0 8 = none) :=
  ⟨issues _ rfl rfl, issues _ rfl rfl, by decide +kernel⟩

theorem test_witness_BranchesAndLoops :
    (Issues (.bt 0 1) 0 base ∧ base.cur.taken = none ∧ (readP base 0).getLsbD 0 = true ∧ (readP base 1).getLsbD 0 = false) ∧
    (let s := { base with cur := { base.cur with taken := some 10 } }
     Issues (.j 1) 0 s ∧ Issues (.call 1) 0 s ∧ Issues (.jr 1 2) 0 s ∧ s.cur.taken ≠ none) ∧
    (Issues (.loop 1 2047 0) 0 (addr 1) ∧ readS (addr 1) 1 ≠ 0 ∧ readS (addr 0) 1 = 0) ∧ Issues (.waitc 1 2047 0) 0 (addr 65535) :=
  ⟨⟨issues _ rfl rfl, by decide +kernel⟩, ⟨⟨by decide +kernel, .inl rfl⟩, ⟨by decide +kernel, .inl rfl⟩, ⟨by decide +kernel, .inl rfl⟩, by decide +kernel⟩,
    ⟨issues _ rfl rfl, by decide +kernel⟩,
    issues _ rfl rfl⟩

/-- A body that ends at the bundle, with two iterations and with one left. -/
def inLoop (n : Word) : State := onCtx base 0 fun c => { c with loops := [⟨n, 0x40, 0⟩] }
theorem test_witness_LoopBackAtRetirement :
    ({ base with cur := { base.cur with taken := some 10 } } : State).cur.taken ≠ none ∧
    (base.cur.taken = none ∧ base.cur.pop = false ∧ (ctxAt base 0).loops = []) ∧
    ((ctxAt (inLoop 2) 0).loops = [⟨2, 0x40, 0⟩] ∧ (inLoop 2).cur.h = 0) ∧ ((ctxAt (inLoop 1) 0).loops = [⟨1, 0x40, 0⟩] ∧ (inLoop 1).cur.h = 0) ∧
    ({ base with cur := { base.cur with h := 8 } } : State).cur.h ≠ 0 := by
  refine ⟨?_, ⟨rfl, rfl, ?_⟩, ⟨rfl, rfl⟩, ⟨rfl, rfl⟩, ?_⟩ <;> decide +kernel

/-- A result of context 0 in flight. -/
def flying (d : Item) (land : Nat) : State := onCtx base 0 fun c => { c with flights := [⟨d, 7, BitVec.allOnes 2048, false, 0, land, 0⟩] }
theorem test_witness_ResultsLand :
    (ctxAt (flying ⟨.scalar, 63⟩ 1) 0).flights = [⟨⟨.scalar, 63⟩, 7, BitVec.allOnes 2048, false, 0, 1, 0⟩] ∧
    1 ≤ (ctxAt (flying ⟨.scalar, 63⟩ 1) 0).ccyc + 1 ∧ (ctxAt (flying ⟨.scalar, 63⟩ 2) 0).ccyc + 1 < 2 ∧
    streamOf (ctxAt (flying ⟨.vector, 63⟩ 1) 0) 63 = none := by decide +kernel
theorem test_witness_SpecialRegisterWrites : ∀ n ∈ List.range 16,
    (ctxAt (flying ⟨.special, n⟩ 1) 0).flights = [⟨⟨.special, n⟩, (7 : Word).setWidth 2048, BitVec.allOnes 2048, false, 0, 1, 0⟩] := by
  decide +kernel

theorem test_witness_SystemOperations :
    (let s := onCtx base 0 fun c => { c with tvec := 0x100 }
     let c := ctxAt s 0
     Issues (.trap 0xFFF 0) 0 s ∧ c.h = false ∧ c.tvec ≠ 0 ∧ c.fence = none ∧ c.afterRft = false ∧ c.late = [] ∧ c.status = .running ∧
       c.waitc = 0 ∧ c.streams = Vector.replicate 8 none ∧ (∀ f ∈ c.flights, c.ccyc + 1 < f.land) ∧ c.held.length ≤ 32) ∧
    (Issues (.tend 0) 0 base ∧ (ctxAt base 0).task = some 0 ∧ base.launches = []) ∧ Issues (.fenceh 5 0) 0 base ∧ Issues (.svc 4 0) 0 base :=
  ⟨⟨issues _ rfl rfl, by decide +kernel⟩, ⟨issues _ rfl rfl, by decide +kernel⟩, issues _ rfl rfl, issues _ rfl rfl⟩

/-- YIELD and SVC beside a WAITC; TEND with a fault of the handler's code found, and with none; a FENCEH beside another. -/
theorem test_witness_SystemOperationsBeside :
    (let s := onCtx base 0 fun c => { c with waitc := 3 }
     Issues (.yield 0) 0 s ∧ (ctxAt s 0).waitc ≠ 0 ∧ (ctxAt base 0).waitc = 0) ∧
    (let f : FaultRec := ⟨.page, 0, 0x20000, 0, 3, true, ⟨true, 1⟩, 1, none⟩
     let s := onCtx base 0 fun c => { c with h := true, late := [f] }
     Issues (.tend 0) 0 s ∧ handlerFault (ctxAt s 0) = some f ∧ handlerFault (ctxAt base 0) = none) ∧
    (let s := onCtx base 0 fun c => { c with fence := some ⟨5, false, [], []⟩ }
     Issues (.fenceh 1 0) 0 s ∧ max (((ctxAt s 0).fence.map (·.scope)).getD 0) (1 : Fin 64).val = 5) :=
  ⟨⟨issues _ rfl rfl, by decide +kernel⟩, ⟨issues _ rfl rfl, by decide +kernel⟩, issues _ rfl rfl, by decide +kernel⟩
/-- Poison met by a task that carries the retried mark. -/
theorem test_witness_RetriedTask :
    let s := onCore { addr (own 8) with bad := [0], cur := { base.cur with bad := [0] } } 0 fun c => { c with tasks := c.tasks.setIfInBounds 0 { Task.reset with status := .running, retried := true } }
    retriedTask s 0 = true ∧ OwnFate s (own 8) 8 false .ue (own 8) ∧ jobAt s 1 = some job ∧ job.status ≠ .ended :=
  ⟨by decide +kernel, ⟨8, by decide +kernel⟩, by decide +kernel, by decide⟩

/-- e1 describes one row of 16 elements of 16 bytes; s1 is a source, s2 a destination or a rack. -/
def pattern (x y : Word) : State := withE 1 [0x110, 16] (withS [(1, x), (2, y)] declared)
theorem test_witness_EngineOperations :
    Issues (.ewr 15 1 7 0) 0 base ∧ (Issues (.copy 1 1 2 63 0) 0 (pattern 0 0x100) ∧ patternOk (eAll (ctxAt (pattern 0 0x100) 0) 1) = true) ∧
    patternOk (eAll (ctxAt base 0) 1) = false ∧
    (let s := pattern 0 0
     let f := eAll (ctxAt s 0) 1
     Issues (.copyRack 1 1 2 0 0) 0 s ∧ rackTarget s 0 (readS s 2) = some (rich, 0, rack) ∧ patternOk f = true ∧
       0 ≤ (patternExtent f true).1 ∧ (patternExtent f true).2 < rack.size ∧ (openTray rack (some s.nextId)).2 = some 0) ∧
    rackTarget (pattern 0 1) 0 (readS (pattern 0 1) 2) = none ∧
    (let s := pattern (own 0) 0
     Issues (.bindOut 1 1 7 0) 0 s ∧ bindOk (eAll (ctxAt s 0) 1) (readS s 1) true = true ∧ bindOk (eAll (ctxAt s 0) 1) (readS s 1) false = true ∧
       s.cur.pops = []) :=
  ⟨issues _ rfl rfl, ⟨issues _ rfl rfl, by decide +kernel⟩, by decide +kernel, ⟨issues _ rfl rfl, by decide +kernel⟩, by decide +kernel,
    issues _ rfl rfl, by decide +kernel⟩

/-- A rack with no FREE tray; a pattern that just fits a tray, and one that does not; a BIND that is refused. -/
def fullRack : Rack := { rack with trays := [] }
def full : State := { pattern 0 0 with jobs := [{ rich with racks := [fullRack] }] }
theorem test_witness_EngineOperationsRefused :
    (Issues (.copyRack 1 1 2 0 0) 0 full ∧ rackTarget full 0 (readS full 2) = some ({ rich with racks := [fullRack] }, 0, fullRack) ∧
      (openTray fullRack (some full.nextId)).2 = none) ∧
    ([32, 33].map fun n => decide ((patternExtent (eAll (ctxAt (withE 1 [0x110, n] declared) 0) 1) true).2 < rack.size)) = [true, false] ∧
    bindOk (eAll (ctxAt base 0) 1) (readS base 1) true = false ∧ bindOk (eAll (ctxAt base 0) 1) (readS base 1) false = false :=
  ⟨⟨issues _ rfl rfl, by decide +kernel⟩, by decide +kernel, by decide +kernel, by decide +kernel⟩
/-- e1 is a layout of one step; the operands are aligned in the own slice. -/
def layout (l : List Word) (x y : Word) : State := withE 1 l (withS [(1, x), (2, y)] declared)
theorem test_witness_MatrixOperations :
    (let s := layout [64, 128, 0x100, 64, 128] (own 0) (own 0x8000)
     Issues (.mma 1 1 2 15 0 0) 0 s ∧ tileAllowed s 0 15 = true ∧ mmaFault s 0 1 (readS s 1) (readS s 2) 0 = none) ∧
    (let s := layout [2048, 0, 0x1800] (own 0) (own 0x10000)
     mmasFault s 0 1 (readS s 1) (readS s 2) = none) ∧
    (let s := layout [512, 1] 0x100 0x7F
     (eAll (ctxAt s 0) 1)[1].toNat < 2 ∧ rowAlign (readS s 1) (eAll (ctxAt s 0) 1)[0] 4 = none ∧ mstOk (eAll (ctxAt s 0) 1) (readS s 2) = true ∧
       rowAlign (readS s 1) (eAll (ctxAt s 0) 1)[0] (outBytes (eAll (ctxAt s 0) 1)[1]) = none) ∧
    (Issues (.mzero 3 0) 0 base ∧ tileAllowed base 0 3 = false) ∧
    (let s := layout [0, 0] 0 0
     let f := eAll (ctxAt s 0) 1
     Issues (.mstRack 1 1 2 0 0) 0 s ∧ tileAllowed s 0 0 = true ∧ rackTarget s 0 (readS s 1) = some (rich, 0, rack) ∧
       mstOk f (readS s 2) = true ∧ 127 * f[0].toNat + 96 * outBytes f[1] ≤ rack.size ∧ (openTray rack (some s.nextId)).2 = some 0 ∧
       rowAlign (trayAddr (openTray rack (some s.nextId)).1 0) f[0] (outBytes f[1]) = none) ∧ Issues (.mpri 3 0) 0 base :=
  ⟨⟨issues _ rfl rfl, by decide +kernel⟩, by decide +kernel, by decide +kernel, ⟨issues _ rfl rfl, by decide +kernel⟩,
    ⟨issues _ rfl rfl, by decide +kernel⟩, issues _ rfl rfl⟩

/-- An MMA of pair 2 with its super-scale; an MST to a rack with no FREE tray, with a completion word and without one. -/
theorem test_witness_MatrixOperationsMore :
    (let s := layout [64, 128, 0x50100, 64, 128] (own 0) (own 0x8000)
     mmaFault s 0 1 (readS s 1) (readS s 2) 2 = none ∧ bits (eAll (ctxAt s 0) 1)[2] 0 0 = 0 ∧ bits (eAll (ctxAt s 0) 1)[2] 23 16 = 5) ∧
    (let s := { layout [0, 0] 0 63 with jobs := full.jobs }
     Issues (.mstRack 1 1 2 0 0) 0 s ∧ tileAllowed s 0 0 = true ∧ rackTarget s 0 (readS s 1) = some ({ rich with racks := [fullRack] }, 0, fullRack) ∧
       mstOk (eAll (ctxAt s 0) 1) (readS s 2) = true ∧ (openTray fullRack (some s.nextId)).2 = none ∧ bits (readS s 2) 6 6 = 0 ∧ bits (0x40 : Word) 6 6 = 1) :=
  ⟨by decide +kernel, issues _ rfl rfl, by decide +kernel⟩
/-- An ASEND within the part is refused for no reason that lies in the part's own id. -/
theorem local_send : asendRefused (withS [(1, 0)] declared) 0 = false := by
  have h : Config.partId.toNat ≠ 0 := by
    have := Config.partIndex.isLt
    simp only [Config.partId, BitVec.toNat_ofNat]
    omega
  have h' : (0 == Config.partId.toNat) = false := by simpa using Ne.symm h
  have e : bits (0 : Word) 27 16 = 0 := by decide
  have u : (bits (0 : Word) 63 60 ≠ 0 || (bits (0 : Word) 27 16 == 0 && bits (0 : Word) 59 28 ≠ 0) ||
    (bits (0 : Word) 27 16 == 0 && 4 * jobCores (withS [(1, 0)] declared) ≤ bits (0 : Word) 15 0)) = false := by decide +kernel
  unfold asendRefused
  rw [u, e, h']
  rfl

theorem test_witness_TaskOperations :
    (Issues (.tset 1 63 0) 0 (addr 65535) ∧ (readS (addr 65535) 1).toNat ≤ 65535 ∧ 65535 < (readS (addr 65536) 1).toNat) ∧
    (let s := withS [(1, 0), (2, 0xFFFC)] declared
     ((jobOfCtx s 0).map (·.n)).getD 0 = 1 ∧ (readS s 1).toNat < 1 ∧ (readS s 2).toNat ≤ 65535 ∧ handlerOk (readS s 2) = true ∧
       (readS s 2).toNat % 4 = 0 ∧ namedGroup s 0 (readS s 1) false = some (rich, group) ∧ handlerOk (eAll (ctxAt s 0) 0)[0] = true) ∧
    asendRefused (withS [(1, 0)] declared) 0 = false ∧
    (1 ≤ (readS (addr 1) 1).toNat ∧ namedGroup (addr 0) 0 0 false = none) ∧
    (let s := withS [(1, 0), (2, 64)] declared
     Issues (.ready 1 2 0) 0 s ∧ namedGroup s 0 (readS s 1) true = some (rich, group) ∧ readS s 2 ≠ 0 ∧
       (readS s 2).toNat + roomOf group (ctxId s 0) ≤ 64 ∧ (readS s 2).toNat ≤ freeEntries (coreAt s 0).tasks) ∧
    (let s := { withS [(1, 0)] declared with cur := { base.cur with key := 1 }, ctxs := put declared.ctxs 1 Ctx.reset }
     Issues (.unready 1 0) 0 s ∧ namedGroup s 1 (readS s 1) true = some (rich, group) ∧ roomOf group (ctxId s 1) ≠ 0 ∧ s.launches = []) ∧
    (let s := withS [(1, 0), (2, 1)] declared
     Issues (.peel 1 2 0 0) 0 s ∧ jobOfCtx s 0 = some rich ∧ (readS s 1).toNat ≤ 11 ∧ holdsStack rich (boundStack rich (readS s 1).toNat) = true ∧
       (readS s 2).toNat ≤ 3 ∧ boundDie rich (readS s 2).toNat = otherDie (boundStack rich (readS s 1).toNat)) ∧
    11 < (readS (addr 12) 1).toNat ∧ holdsStack rich (boundStack rich 11) = false :=
  ⟨⟨issues _ rfl rfl, by decide +kernel⟩, by decide +kernel, local_send, by decide +kernel, ⟨issues _ rfl rfl, by decide +kernel⟩,
    ⟨issues _ rfl rfl, by decide +kernel⟩, ⟨issues _ rfl rfl, by decide +kernel⟩, by decide +kernel⟩

/-! ### Exceptions and the service context -/

/-- A fault of the bundle now at the PC, in user code or in a handler. -/
def illop (h : Bool) : FaultRec := ⟨.illop, 0, 0, 0, 3, false, ⟨h, 0⟩, 1, none⟩
def trapped (f : FaultRec) (tvec : Word) : State := onCtx base 0 fun c => { c with trap := some f, tvec := tvec }
theorem test_witness_TrapEntry :
    (let s := trapped (illop false) 0x100
     let c := ctxAt s 0
     atBoundary s 0 = true ∧ candidate c = some (.trap (illop false)) ∧ (illop false).cause ≠ .ue ∧ c.tvec ≠ 0 ∧ frameClash s 0 = [] ∧
       c.streams = Vector.replicate 8 none ∧ c.flights = [] ∧ c.loops.length ≤ 6 ∧ c.held.length ≤ 32 ∧ (∀ a ∈ c.arrivals, a.barrier < 256) ∧
       (s.reqs.filter fun r => r.ctx == 0).length ≤ 127 ∧ wfMemory s.mem = true) := by decide +kernel
/-- One result of each file in flight, an arrival with its phase and one pending, a BWAIT and a load to withdraw, and the load's response to come. -/
def busy : State :=
  let s := onCtx (trapped (illop false) 0x100) 0 fun c => { c with
    flights := [⟨⟨.scalar, 5⟩, 77, BitVec.allOnes 2048, true, 3, 3, 2⟩, ⟨⟨.vector, 6⟩, 0x1234, laneMask 32 64 (· == 1), false, 0, 8, 3⟩,
      ⟨⟨.pred, 7⟩, 0xAB, BitVec.allOnes 2048, false, 5, 4, 4⟩, ⟨⟨.scale, 15⟩, 0xAB, BitVec.allOnes 2048, false, 0, 5, 5⟩]
    arrivals := [⟨1, 9, false⟩, ⟨3, 0, true⟩] }
  { s with reqs := [{ newReq base (.bwait 2 1 0) 1 with id := 9, left := 1, status := .sent, arg2 := 4 },
    { newReq base (.ldd 2 1 0 0) 8 with id := 10, order := 10, left := 2, status := .sent, ways := [(0, 0)] }] }
theorem test_witness_TrapEntryInFlight :
    let c := ctxAt busy 0
    atBoundary busy 0 = true ∧ candidate c = some (.trap (illop false)) ∧ frameClash busy 0 = [] ∧
      (∀ x ∈ c.flights, c.ccyc + 1 < x.land ∧ x.land ≤ c.ccyc + 8 ∧ x.dest.ix < 128) ∧ c.flights.length ≤ 24 ∧ (∀ a ∈ c.arrivals, a.barrier < 256) ∧
      c.withdrawn = [] ∧ (c.flights.filter fun x => !superseded busy 0 x) = c.flights ∧
      (withdrawnOf (prepareEntry busy 0) 0).map (fun r => (r.id, pendKind r)) = [(9, some 3), (10, some 1)] ∧ wfMemory busy.mem = true := by decide +kernel
/-- Its frame, as 21 Tables intr-1 to intr-3 lay it out: word 0 of the records, the pending entries, the ARRIVE words. -/
theorem test_trap_records :
    let t := match execTrapEntry 0 busy with | .next t => t | _ => busy
    let at' := fun o n => readLE t.mem (framePhys busy 0 + o) n
    [at' 0x28 2, at' 0x2A 2] = [4, 2] ∧ [at' 0x100 8, at' 0x110 8] = [5 + 2 ^ 10 + 2 * 2 ^ 11 + 3 * 2 ^ 16, 6 + 2 ^ 7 + 7 * 2 ^ 11] ∧ at' 0x520 256 = 0x1234 ∧
      at' 0x620 32 = 0b1100 ∧ at' 0x2008 8 = 4 + 2 ^ 32 ∧ at' 0x2018 8 = 8 ∧ [at' 0x3204 4, at' 0x320C 4] = [9, 0] ∧ t.ghosts.map (·.id) = [10] := by
  decide +kernel
theorem test_witness_EventAndFaultEntries :
    (let s := onCtx base 0 fun c => { c with evec := 0x100, emask := 15, epend := 8 }
     atBoundary s 0 = true ∧ candidate (ctxAt s 0) = some .event ∧ jobStops s 0 = false ∧ (ctxAt s 0).streams = Vector.replicate 8 none ∧
       (∀ x ∈ (ctxAt s 0).flights, (ctxAt s 0).ccyc + 1 < x.land) ∧ (ctxAt s 0).held.length ≤ 32) ∧
    (let f : FaultRec := ⟨.page, 0, 0x20000, 0, 3, true, ⟨false, 0⟩, 1, none⟩
     let s := onCtx base 0 fun c => { c with tvec := 0x100, late := [f] }
     let c := ctxAt s 0
     atBoundary s 0 = true ∧ candidate c = some (.late f) ∧ f.cause ≠ .ue ∧ c.tvec ≠ 0 ∧ c.trap = none ∧ c.held = [] ∧
       c.late = [f] ∧ f.load = none ∧ c.streams = Vector.replicate 8 none) ∧
    (jobAt base 1 = some job ∧ job.status ≠ .ended) ∧
    (atBoundary (trapped (illop true) 0x100) 0 = true ∧ candidate (ctxAt (trapped (illop true) 0x100) 0) = some (.trap (illop true))) ∧
    candidate (ctxAt (trapped (illop false) 0) 0) = some (.trap (illop false)) := by decide +kernel
/-- The verdict of a bundle that a check stops, in state `s`: cause, position, TADDR. -/
def stops (s : State) (ex : List Op) : Option (Cause × Nat × Nat) :=
  match verdict s 0 none 0 8 ex ex with
  | .trap f => some (f.cause, f.pos, f.addr.toNat)
  | _ => none
/-- The registers of an MMA of two K steps on operands that end with a byte of bank group 7, or that share bank group 0. -/
def mmaOf (f2 : Nat) (x : Word) : State := withE 1 [64, 64, 0x200 + BitVec.ofNat 64 f2, 64, 64] (withS [(1, x), (2, own 0)] base)
theorem test_witness_BundleChecks :
    (let fits := fun (s : State) (ex : List Op) => sysDefect ex ex = none ∧ (ex.find? fun x => loopEndsShort 8 x.2) = none ∧
       (ctxAt s 0).group = [] ∧ (ctxAt s 0).flights.length ≤ 22 ∧ (ctxAt s 0).streams = Vector.replicate 8 none
     let noWait := fun (s : State) (ex : List Op) => staticDefect s 0 none 8 ex ex = none ∧ (ex.findSome? fun y => streamFault (ctxAt s 0) y.2) = none ∧
       bundleWaits s 0 none ex = false
     let grouped := onCtx base 0 fun c => { c with group := [⟨.scalar, 1⟩] }
     let two : List Op := [(0, .add 3 1 2 0), (1, .sub 3 1 2 0)]
     let banks : List Op := [(3, .vldb 1 0 1 0 0), (4, .vstb 2 3 1 0 0)]
     let deferred := onCtx base 0 fun c => { c with sdf := 2 }
     (⟨.scalar, 1⟩ ∈ (usesOf (ctxAt grouped 0) (.add 3 1 2 0)).reads ∧ stops grouped [(0, .add 3 1 2 0)] = some (.illdep, 0, 0)) ∧
     (fits base two ∧ stops base two = some (.illdep, 1, 0)) ∧ (fits base banks ∧ stops base banks = some (.illbank, 4, 0)) ∧
     (noWait deferred [(3, .std 2 1 0 0)] ∧ sDf (ctxAt deferred 0) 1 = true ∧ stops deferred [(3, .std 2 1 0 0)] = some (.dfuse, 3, 0)) ∧
     (noWait (addr 449) [(3, .vldb 1 0 1 63 0)] ∧ stops (addr 449) [(3, .vldb 1 0 1 63 0)] = some (.bankrange, 3, 512) ∧
       stops (addr 448) [(3, .vldb 1 0 1 63 0)] = none)) := by decide +kernel
theorem test_witness_MatrixBankChecks :
    (let noWait := fun (s : State) (ex : List Op) => staticDefect s 0 none 8 ex ex = none ∧ (ex.findSome? fun y => streamFault (ctxAt s 0) y.2) = none ∧
       bundleWaits s 0 none ex = false
     let y : Instr := .mma 1 1 2 3 0 0
     let far := mmaOf 1 (own 0x37E000)
     let near := mmaOf 0 (own 0x100)
     (noWait far [(9, y)] ∧ matrixCount (ctxAt far 0) 1 = 2 ∧ ownOffset far 0 (own 0x37E000) (mmaABytes (ctxAt far 0) 1 0) = some 0x37E000 ∧
       bits (eVal (ctxAt far 0) 1 2) 0 0 = 1 ∧ stops far [(9, y)] = some (.matrixbank, 9, 0)) ∧
     (noWait near [(9, y)] ∧ bits (eVal (ctxAt near 0) 1 2) 0 0 = 0 ∧ ownOffset near 0 (own 0x100) (mmaABytes (ctxAt near 0) 1 0) = some 0x100 ∧
       ownOffset near 0 (own 0) (mmaBBytes (ctxAt near 0) 1 0) = some 0 ∧ stops near [(9, y)] = some (.matrixbank, 9, 0))) := by decide +kernel
/-- An A operand that ends with the first byte of group 7, and one that starts with its last byte and runs past the slice. -/
theorem test_witness_HandleBanks :
    (let x := own (0x380000 - 0x203F)
     mmaABytes (ctxAt (mmaOf 1 x) 0) 1 0 = 0x2040 ∧ stops (mmaOf 1 x) [(9, .mma 1 1 2 3 0 0)] = some (.matrixbank, 9, 0)) ∧
    stops (mmaOf 1 (own 0x3FFFFF)) [(9, .mma 1 1 2 3 0 0)] = some (.matrixbank, 9, 0) ∧
    stops (mmaOf 1 (own (0x380000 - 0x2040))) [(9, .mma 1 1 2 3 0 0)] = none := by decide +kernel
theorem test_witness_ReturnFromTrap : Issues (.rft 0) 0 (onCtx base 0 fun c => { c with h := true }) := issues _ rfl rfl

theorem test_witness_TimerAndServiceContext :
    (let s := onCtx { base with clock := 9 } 0 fun c => { c with timerAt := some 4 }
     (ctxAt s 0).timerAt = some 4 ∧ 4 ≤ timeNow s ∧ (ctxAt s 0).frozen = false) ∧
    (let s := onCore (onCtx base 0 fun c => { c with status := .serviced }) 0 fun n => { n with services := [.svc 0 2] }
     (coreAt s 0).services = [.svc 0 2] ∧ (coreAt s 0).service = none ∧ (coreAt s 0).storeOk = true) ∧
    (let s := onCore (onCtx { base with clock := 20000 } 0 fun c => { c with status := .serviced }) 0 fun n => { n with service := some (.svc 0 4, 0) }
     (coreAt s 0).service = some (.svc 0 4, 0) ∧ (coreAt s 0).services = [] ∧ jobOfCore s 0 = some job ∧ (ctxAt s 0).status = .serviced ∧ (ctxAt s 0).waitc = 0 ∧
       0 + 20000 ≤ s.clock) := by decide +kernel

/-- The state that a row leaves. -/
def turn (i : Instr) (s : State) : State := match exec i s with | .next t => t | _ => s

/-- 22 R397: the service context takes the stage in the empty cycles of a WAITC, which resume when it returns. -/
theorem test_service_during_waitc :
    (let s := onCore (onCtx base 0 fun c => { c with waitc := 5 }) 0 fun n => { n with services := [.proof 0 0] }
     let t := turn (.serviceContextEntry 0) s
     let u := turn (.serviceContextReturn 0) t
     (ctxAt t 0).status = .serviced ∧ (ctxAt t 0).waitc = 5 ∧ (ctxAt u 0).status = .running ∧ (ctxAt u 0).waitc = 5) := by decide +kernel

/-! ### Requests -/

/-- One request of context 0 is outstanding; stack 0 belongs to its home die, 0. -/
def theReq (op : Instr) (a : Word) (f : Req → Req) : Req := f { newReq base op a with id := 9, line := 9, left := 1, ways := [(a.toNat / 65536, 0)] }
def oneReq (op : Instr) (a : Word) (f : Req → Req) : State := { base with reqs := [theReq op a f] }
theorem test_witness_RequestsTravel :
    (let f := fun r : Req => { r with status := .gathered }
     reqAt (oneReq (.std 2 1 0 0) 8 f) 9 = some (theReq (.std 2 1 0 0) 8 f) ∧ jobOfCtx (oneReq (.std 2 1 0 0) 8 f) 0 = some job ∧
       (theReq (.std 2 1 0 0) 8 f).heads = true) ∧
    (let s := oneReq (.std 2 1 0 0) 0xFFF8 id
     reqTargets (theReq (.std 2 1 0 0) 0xFFF8 id) = [(0xFFF8, 8, true)] ∧ stackOf job 0xFFF8 = some 0 ∧ handing s 0 1 4 = false ∧
       walkFate job (0xFFF8, 8, true) = none ∧ (theReq (.std 2 1 0 0) 0xFFF8 id).status = .walking ∧
       mayEnter s (theReq (.std 2 1 0 0) 0xFFF8 id) = true) ∧
    (let s := oneReq (.std 2 1 0 0) 0x10000 id
     let r := theReq (.std 2 1 0 0) 0x10000 id
     reqTargets r = [(0x10000, 8, true)] ∧ stackOf job 0x10000 = none ∧ walkFate job (0x10000, 8, true) = some (.page, 0x10000) ∧
       mayEnter s r = true ∧ isSpeculative r.op = false ∧ r.discard = false ∧ (coreAt s 0).services = [] ∧ (coreAt s 0).service = none ∧
       (ctxAt s 0).status ≠ .idle ∧ (ctxAt s 0).status ≠ .ending) ∧
    (let s := { oneReq (.std 2 1 0 0) 8 (fun r => { r with status := .sent }) with portB := [0] }
     stackOf job 8 = some 0 ∧ 0 ≠ ownerDie s 0 ∧ handing s 0 1 5 = false) ∧
    (let r := theReq (.ldfec 2 1 0 0) (own 8) fun r => { r with status := .sent }
     let s := oneReq (.ldfec 2 1 0 0) (own 8) fun r => { r with status := .sent }
     reqAt s 9 = some r ∧ isFullEmpty r.op = true ∧ inTurn s job r = true ∧ windowPhys s 0 r.addr = some 8 ∧ r.addr.toNat % feBytes r.op = 0 ∧ sliceOff s 8 = false ∧
       poisonedAt s.bad 8 8 = none ∧ ∀ q ∈ s.reqs, q.status ≠ .held) := by decide +kernel

theorem test_witness_StaleWayPaused (s : State) : routePaused (realigning s) 0 (0, 0) = true ∨ routePaused (realigning s) 32 (0, 0) = true :=
  wayPaused_column s 0
/-- A write behind a read of its bundle that waits for its walk; a stale way that pauses; the marked response of a withdrawn load. -/
theorem test_witness_RequestsHeld :
    (let a := { newReq base (.ldd 2 1 0 0) 8 with id := 8, line := 8, issue := 8 }
     let r := { newReq base (.std 2 1 0 0) 8 with id := 9, line := 9, issue := 8 }
     let s := { base with reqs := [a, r] }
     reqAt s 9 = some r ∧ r.status = .walking ∧ readInCore s r = true ∧ readInCore { base with reqs := [r] } r = false) ∧
    routePaused { base with portB := [0] } 0 (0, 0) = false ∧
    (let g := theReq (.ldd 2 1 0 0) 8 fun r => { r with status := .performed, marks := [0] }
     let s := { base with ghosts := [g], routes := [⟨0, 1, 0, 1⟩] }
     reqAt s 9 = none ∧ ghostAt s 9 = some g ∧ answerPaused s g = false ∧ cachedRoute s 0 1 0 = some 1 ∧
       (match execLongResultLand 9 s with | .next t => (t.ghosts == [] && cachedRoute t 0 1 0 == some 0) | _ => false) = true) := by decide +kernel
theorem test_witness_AccessesPerform : ∀ x ∈ ([.ldd 2 1 0 0, .cas 2 1 3 0 0, .atomMaxn 2 1 3 0 0] : List Instr),
    let f := fun r : Req => { r with status := .sent }
    let s := oneReq x 0xFFF8 f
    let r := theReq x 0xFFF8 f
    reqAt s 9 = some r ∧ jobOfCtx s 0 = some job ∧ (lineOf s r).length ≤ 1 ∧ r.status = .sent ∧ isMemoryReq r = true ∧ inTurn s job r = true ∧
      (reqAccess r.op).map (·.1) = some 8 ∧ access s job 0xFFF8 8 8 true = .ok (2 ^ 40 + 2 * 65536 + 0xFFF8) ∧
      access s job 0xFFF8 8 8 false = .ok (2 ^ 40 + 2 * 65536 + 0xFFF8) ∧ storeOutside r = false ∧ stackOf job 0xFFF8 = some 0 ∧
      handing s 0 1 5 = false ∧ r.ways = [(0, ownerDie s 0)] ∧ wfMemory s.mem = true := by decide +kernel

/-- A fate; a full/empty store outside every slice; one in a slice. -/
theorem test_witness_AccessFates :
    (let f := fun r : Req => { r with status := .sent }
     let s := oneReq (.ldd 2 1 0 0) 0x20000 f
     let r := theReq (.ldd 2 1 0 0) 0x20000 f
     isMemoryReq r = true ∧ inTurn s job r = true ∧ (∀ w ∈ r.ways, staleWay s job w = false) ∧ reqFate s job r = some (.page, 0x20000)) ∧
    (let f := fun r : Req => { r with status := .sent, guard := 4, arg1 := 1, found := some (.ue, own 0) }
     let s := oneReq (.vgath 3 1 2 1 0 0) (own 0) f
     let r := theReq (.vgath 3 1 2 1 0 0) (own 0) f
     isMemoryReq r = true ∧ inTurn s job r = true ∧ storeOutside r = false ∧ reqFate s job r = some (.ue, own 0)) ∧
    (let f := fun r : Req => { r with status := .sent }
     let r := theReq (.stf 2 1 0 0) 8 f
     inTurn (oneReq (.stf 2 1 0 0) 8 f) job r = true ∧ isMemoryReq r = true ∧ storeOutside r = true) ∧
    (let f := fun r : Req => { r with status := .sent }
     let s := oneReq (.vstf 2 1 0 0) (own 0x100) f
     let r := theReq (.vstf 2 1 0 0) (own 0x100) f
     inTurn s job r = true ∧ isMemoryReq r = true ∧ storeOutside r = false ∧ reqAccess r.op = some (256, true) ∧
       access s job r.addr.toNat 256 256 true = .ok 0x100 ∧ inSlice 0x100 = true ∧ ∀ q ∈ s.reqs, q.status ≠ .held) := by decide +kernel

/-- A STREL of the own slice is over as it is performed; one elsewhere is answered (10 R226). -/
theorem test_witness_OwnWrites :
    let f := fun r : Req => { r with status := .sent, vec1 := 7 }
    let done := fun (a : Word) => match execRemoteAccessPerform (.request 9) (oneReq (.strel 2 1 1 3 0) a f) with
      | .next t => t.reqs.map (fun r => r.status == .performed)
      | _ => []
    (let s := oneReq (.strel 2 1 1 3 0) (own 8) f
     let r := theReq (.strel 2 1 1 3 0) (own 8) f
     inTurn s job r = true ∧ isMemoryReq r = true ∧ hasResult r.op = false ∧ (∀ x ∈ reqTargets r, ownTarget s r x = true)) ∧
    done (own 8) = [] ∧ done 8 = [true] := by decide +kernel
/-- A gather and a scatter of two guarded lanes of 16 bits, the last one at the end of its register; a vector atomic of 64 lanes at one word. -/
theorem test_witness_LanesPerform :
    let guard : BitVec 128 := 1 + 2 ^ 127
    let f := fun r : Req => { r with status := .sent, vec1 := 0x10 <<< (16 * 127), guard := guard }
    let at' := 2 ^ 40 + 2 * 65536
    (∀ x ∈ ([.vgath 3 1 2 7 1 0, .vscat 3 1 2 7 1 0] : List Instr),
      inTurn (oneReq x 0 f) job (theReq x 0 f) = true ∧ isMemoryReq (theReq x 0 f) = true ∧ gatherBytes 1 = 2 ∧ (theReq x 0 f).found = none ∧
        (∀ l ∈ [0, 127], ownOffset (oneReq x 0 f) 0 (BitVec.ofNat 64 (laneAddr 0 (theReq x 0 f).vec1 2 l)) 2 = none) ∧
        (∀ l ∈ List.range 128, selected 16 guard l = (l == 0 || l == 127)) ∧
        access (oneReq x 0 f) job 0 2 2 (x matches .vscat ..) = .ok at' ∧
        access (oneReq x 0 f) job (2 * bits (theReq x 0 f).vec1 2047 2032) 2 2 (x matches .vscat ..) = .ok (at' + 0x20)) ∧
    (let f := fun r : Req => { r with status := .sent }
     ∀ x ∈ ([.vatomAdd 3 1 2 0 0, .vatomMax 3 1 2 1 0] : List Instr),
       inTurn (oneReq x 0xFFFC f) job (theReq x 0xFFFC f) = true ∧ isMemoryReq (theReq x 0xFFFC f) = true ∧
         (∀ l ∈ List.range 64, bits (theReq x 0xFFFC f).vec1 (32 * l + 31) (32 * l) = 0) ∧
         access (oneReq x 0xFFFC f) job 0xFFFC 4 4 true = .ok (at' + 0xFFFC)) := by decide +kernel

theorem test_witness_ResponsesReturn :
    (let f := fun r : Req => { r with status := .performed }
     let r := theReq (.ldd 63 1 0 0) 8 f
     reqAt (oneReq (.ldd 63 1 0 0) 8 f) 9 = some r ∧ r.discard = false ∧ r.redirect = false ∧ r.faulted = false ∧
       answerPaused (oneReq (.ldd 63 1 0 0) 8 f) r = false ∧ r.found = none ∧ (63 : SReg) ≠ 0 ∧ (ctxAt (oneReq (.ldd 63 1 0 0) 8 f) 0).flights = []) ∧
    (let f := fun r : Req => { r with status := .refused, found := some (.page, 8) }
     let s := oneReq (.ldd 2 1 0 0) 8 f
     let r := theReq (.ldd 2 1 0 0) 8 f
     reqAt s 9 = some r ∧ r.status = .refused ∧ r.found = some (.page, 8) ∧ (ctxAt s 0).h = r.epoch.handler ∧ (ctxAt s 0).status ≠ .waiting) ∧
    (let f := fun r : Req => { r with status := .performed }
     ∀ x ∈ ([.cas 63 1 2 1 0, .vld 0 1 0 0] : List Instr), reqAt (oneReq x 8 f) 9 = some (theReq x 8 f) ∧ (theReq x 8 f).found = none ∧
       streamOf (ctxAt (oneReq x 8 f) 0) 0 = none) := by
  decide +kernel
/-- The last register of a triple; a gather; a store; a refused speculative load, and a refused load of interrupted code. -/
theorem test_witness_ResponseForms :
    (let f := fun r : Req => { r with status := .performed }
     (∀ x ∈ ([.rktake 61 1 0, .vgath 63 1 2 1 0 0, .ldfecLong 63 1 0 0x7FFFFFFF] : List Instr), hasResult x = true ∧
       reqAt (oneReq x 8 f) 9 = some (theReq x 8 f) ∧ answerPaused (oneReq x 8 f) (theReq x 8 f) = false) ∧
     (61 : SReg).val + 2 < 64 ∧ isMemoryReq (theReq (.std 2 1 0 0) 8 f) = true ∧ hasResult (.std 2 1 0 0) = false) ∧
    (let f := fun r : Req => { r with status := .refused, found := some (.page, 8) }
     (theReq (.lds 2 1 0 0) 8 f).found = some (.page, 8) ∧ isSpeculative (.ldd 2 1 0 0) = false ∧ retriedTask (oneReq (.ldd 2 1 0 0) 8 f) 0 = false ∧
       let s := onCtx (oneReq (.ldd 2 1 0 0) 8 f) 0 fun c => { c with h := true }
       (ctxAt s 0).h = true ∧ (theReq (.ldd 2 1 0 0) 8 f).epoch.handler = false ∧ (ctxAt s 0).heldSaved.length + (ctxAt s 0).held.length < 32) := by
  decide +kernel

/-! ### The issue stage -/

def handingOver (n : Nat) (src : HandoverSource) : State := { base with handovers := [⟨0, 1, 1, n, true, 0, src⟩] }
def peelBy : HandoverSource := .context 9 0 63 0 0 ⟨false, 0⟩ false false
theorem test_witness_StageSteps :
    (jobOfCtx base 0 = some job ∧ stackOf job (ctxAt base 0).pc.toNat = some 0 ∧ handing base 0 1 5 = false ∧
      (fetchBundle base job (ctxAt base 0).pc).toOption.isSome = true ∧ fetchPoison base 0 = none ∧
      (fetchBundle base job 0x20000).toOption.isSome = false ∧
      jobOfCtx (handingOver 5 peelBy) 0 = some job ∧ stackOf job (ctxAt (handingOver 5 peelBy) 0).pc.toNat = some 0 ∧
      handing (handingOver 5 peelBy) 0 1 5 = true) ∧
    (let s := onCtx base 0 fun c => { c with status := .ready }
     stageOpen s 0 = true ∧ countHeld s 0 = false ∧ jobOfCore s 0 = some job ∧ job.preempt = none ∧ runningCtx s 0 = none ∧
       (ctxAt s 0).status = .ready ∧ (ctxAt s 0).stopped = false ∧ ∀ y : Fin 4, y ≠ 0 → (ctxAt s y.val).status = .idle) ∧
    (let s := onCtx (onCtx base 0 fun c => { c with status := .ready }) 3 fun c => { c with status := .ready }
     let after := fun y : Fin 4 => (y.val + 3 - (((coreAt s 0).holder).getD (coreAt s 0).last).val) % 4
     (ctxAt s 3).status = .ready ∧ (ctxAt s 3).prio = (ctxAt s 0).prio ∧ (coreAt s 0).holder = some 0 ∧ after 3 < after 0 ∧ bestReady s 0 = some 3) ∧
    (let s := onCtx base 0 fun c => { c with waitc := 1 }
     (ctxAt s 0).waitc = 1 ∧ (ctxAt s 0).status = .running ∧ stageOpen s 0 = true) ∧
    (let s := onCtx base 0 fun c => { c with status := .ending }
     (ctxAt s 0).status = .ending ∧ (ctxAt s 0).fence = none ∧ (ctxAt s 0).streams = Vector.replicate 8 none ∧ ∀ r ∈ s.reqs, r.ctx = 0 → keepsBusy r = false) ∧
    (let s := onCtx base 0 fun c => { c with fence := some ⟨5, true, [], []⟩ }
     (ctxAt s 0).fence = some ⟨5, true, [], []⟩ ∧ fenceReady s ⟨5, true, [], []⟩ = true) ∧
    fenceReady base ⟨5, false, [], []⟩ = true := by decide +kernel

/-! ### Copies and streams -/

/-- A copy of two elements of 16 bytes. -/
def copyOf (src dst : Word) (f : Copy → Copy) : Copy :=
  f ⟨9, 0, vec8 fun i => if i = 0 then 0x110 else if i = 1 then 2 else 0, src, dst, 5, false, 0, none, [], [], [], 0, [], [], [], [], none, 0, ⟨false, 0⟩, false⟩
def copying (src dst : Word) (f : Copy → Copy) : State := { base with copies := [copyOf src dst f] }
theorem test_witness_CopySteps :
    (let s := copying (own 0x20) 0x100 id
     let c := copyOf (own 0x20) 0x100 id
     let a := (List.range 16).map fun i => some (0x30 + i)
     let b := (List.range 16).map fun i => some (2 ^ 40 + 2 * 65536 + 0x110 + i)
     copyAt s 9 = some c ∧ jobOfCtx s 0 = some job ∧ elementPaused s c 1 = false ∧ elementReady s c 1 = true ∧
       elementPlaces s job c 1 = .ok (a, b) ∧ elementFree s a = true ∧ elementFree s b = true ∧
       (∀ x ∈ b, x.any (inFrame s 0) = false) ∧ badPlace s (a.filterMap fun x => x) false = none ∧ badPlace s (b.filterMap fun x => x) true = none) ∧
    (elementReady (copying 0x20000 0x100 id) (copyOf 0x20000 0x100 id) 0 = true ∧
      elementPlaces (copying 0x20000 0x100 id) job (copyOf 0x20000 0x100 id) 0 = .error (.jobSide .page 0x20000)) ∧
    (let c := copyOf 0 0x100 fun c => { c with suspended := [(0, false)] }
     (0, false) ∈ c.suspended ∧ c.hasSent 0 = false ∧ inService (copying 0 0x100 id) 0 9 0 = false ∧ (elementPlaces (copying 0 0x100 id) job c 0).toOption.isSome = true) ∧
    (let x : Word := BitVec.ofNat 64 (13 * 2 ^ 48)
     let c := copyOf x 0x100 fun c => { c with retries := [(0, 4)] }
     poolElement c 0 = some x ∧ elementReady (copying x 0x100 fun c => { c with retries := [(0, 4)] }) c 0 = true ∧ 4 ≤ look 0 c.retries 0 ∧
       look 0 (copyOf x 0x100 id).retries 0 < 4) ∧
    (let c := copyOf 0 0x100 fun c => { c with moved := [0, 1], unreported := 0 }
     c.failed = none ∧ patternElements c.pattern ≤ c.moved.length ∧ c.unreported = 0 ∧ completionHeld (copying 0 0x100 id) 0 = false ∧
       targetHeld (copying 0 0x100 id) c.ctx c.rack = false) ∧
    (let c := copyOf 0 0x100 fun c => { c with failed := some (.perm, 8) }
     c.failed = some (.perm, 8) ∧ c.taskEnded = false ∧ c.unreported = 0 ∧ failureHeld (copying 0 0x100 id) c = false ∧ (ctxAt (copying 0 0x100 id) 0).h = c.epoch.handler) ∧
    (1 ≠ 0 ∧ 1 ≤ (copyOf 0 0x100 fun c => { c with unreported := 1 }).unreported) := by decide +kernel

/-- Sixteen bytes to report to barrier 1: within what its phase expects, the last of it, and past it. -/
def reporting (pa pb : Nat) : State :=
  { declared with jobs := [{ rich with barriers := [{ barrier with pa := pa, pb := pb, eb := 7 }] }]
                  copies := [copyOf 0 0x100 fun c => { c with unreported := 16, pattern := c.pattern.set 0 0x1000110 }] }
/-- The phase, what it still awaits, LASTOVER and the kinds of the log after the report. -/
def reported (pa pb : Nat) : List (Nat × Nat × Nat × Nat) × List Nat :=
  match execCopyByteReport 9 16 (reporting pa pb) with
  | .next t => (t.jobs.flatMap fun j => j.barriers.map fun q => (q.phase, q.pa, q.pb, q.lastOver), t.log.map (·.kind))
  | _ => ([], [])
theorem test_witness_CopyReports :
    reportHeld (reporting 1 32) 0 1 = false ∧ barrier.parent = 0 ∧ barrier.early < barrier.ea := by decide +kernel
/-- 15 R323: what the report leaves of the phase. -/
theorem test_copy_reports : [(1, 32), (1, 16), (0, 16), (1, 15)].map (fun x => reported x.1 x.2) =
    [([(5, 1, 16, 0)], []), ([(5, 1, 0, 0)], []), ([(6, 2, 7, 0)], []), ([(6, 2, 7, 5)], [10])] := by decide +kernel
/-- A COPY to a rack whose bytes are all performed. -/
theorem test_witness_CopyToRack :
    let c := copyOf 0 0x100 fun c => { c with moved := [0, 1], rack := some (0, 0) }
    let j := { rich with racks := ((rich.racks[0]?).map fun r => { r with command := some 9 }).toList }
    let s := { declared with jobs := [j], copies := [c] }
    copyAt s 9 = some c ∧ jobOfCtx s 0 = some j ∧ (j.racks[0]?).bind (·.command) = some c.id ∧ completionHeld s 0 = false ∧
      targetHeld s c.ctx c.rack = false := by decide +kernel

/-- An element toward host memory, and its landing. -/
theorem test_witness_CopyLanding :
    let c := copyOf 0x100 (BitVec.ofNat 64 (14 * 2 ^ 48)) id
    let s := { base with hostMap := [(0, 2 ^ 24)], copies := [c] }
    (elementPlaces s job c 0).toOption.map (fun x => (x.1.all Option.isSome, x.2.all fun y => y.any inHost)) = some (true, true) ∧
    elementPaused s c 0 = false ∧ elementReady s c 0 = true ∧
    (let c := { c with sent := [(0, List.replicate 16 7)] }
     c.sent.find? (fun y => y.1 == 0) = some (0, List.replicate 16 7) ∧ c.holds 0 = false ∧ c.hasSent 0 = true ∧ c.failed = none ∧
       (elementDst s job c 0).toOption.map (fun b => b.all Option.isSome) = some true ∧
       elementDst { s with hostMap := [] } job c 0 = .error (.hostSide (14 * 2 ^ 48))) ∧
    inService s 0 9 0 = false ∧ wayPaused s (.unit 28) (.core 0) = false := by decide +kernel

/-- A stream of two vectors of the own slice. -/
def stream (out : Bool) (base : Word) (q : List VWord) : Stream :=
  ⟨out, vec8 fun i => if i = 0 then 0x110 else if i = 1 then 32 else 0, base, 0, q, none, 0, ⟨false, 0⟩, 1⟩
def streaming (x : Stream) : State := onCtx base 0 fun c => { c with streams := c.streams.setIfInBounds 7 (some x) }
theorem test_witness_StreamSteps :
    (let x := stream false (own 0) [3]
     let s := streaming x
     jobOfCtx s 0 = some job ∧ (ctxAt s 0).streams[7] = some x ∧ x.fault = none ∧ x.queue.length < 8 ∧ 0 + 256 < patternBytes x.pattern ∧
       streamHeld s job 0 x 256 = false ∧ streamBehind s 0 x 256 = false ∧ (streamRead s job x 256).toOption = some 0 ∧
       s.cores.all (fun q => !q.2.gated) = true) ∧
    (let x := stream false 0xFF00 [3]
     streamHeld (streaming x) job 0 x 256 = false ∧ streamBehind (streaming x) 0 x 256 = false ∧
       (match streamRead (streaming x) job x 256 with | .error e => some e | .ok _ => none) = some (.page, 0x10000) ∧
       walkable (.page, 0x10000) = true ∧ (coreAt (streaming x) 0).services = [] ∧
       (coreAt (streaming x) 0).service = none ∧ (ctxAt (streaming x) 0).status = .running) ∧
    (let x := stream false (own 0) [3]
     let s := { streaming x with bad := [31] }
     (match streamRead s job x 256 with | .error e => some e | .ok _ => none) = some (.ue, own 0x1F0) ∧ walkable (.ue, own 0x1F0) = false) ∧
    (let x := stream true (own 0) [3]
     let s := streaming x
     (ctxAt s 0).streams[7] = some x ∧ streamHeld s job 0 x 0 = false ∧ streamBehind s 0 x 0 = false ∧
       ((streamWrite s job x 0 3).toOption.map (·.mem)) = some [(0, 3)]) := by decide +kernel

/-! ### The matrix engine -/

/-- A command of context 0 on tile 3, with a layout. -/
def cmd (op : Instr) (l : List Word) (a b : Word) (f : MatrixCmd → MatrixCmd) : MatrixCmd :=
  f { id := 9, ctx := 0, op := op, layout := vec8 fun i => l[i]?.getD 0, a := a, b := b, ss := 0, tile := 3, prio := 0, queuedAt := 0, step := 0,
      flags := 0, banks := 0, rack := none, counter := none, words := [], wordsS32 := false, wordsBad := [], scaled := true, phase := .running, failed := none, bundle := 0,
      epoch := ⟨false, 0⟩, taskEnded := false }
def queued (m : MatrixCmd) : State := onCore base 0 fun c => { c with queue := [m] }
/-- An MMA of one step over zeros of the own slice, and an MMAS. -/
def mmaCmd (f : MatrixCmd → MatrixCmd) : MatrixCmd := cmd (.mma 1 1 2 3 0 0) [64, 128, 0x100, 64, 128] (own 0) (own 0x8000) f
def mmasCmd (x : Word) (f : MatrixCmd → MatrixCmd) : MatrixCmd := cmd (.mmas 1 1 2 3 0 0) [2048, 0, 0x100] x (own 0x10000) f
theorem test_witness_MatrixSteps :
    (let m := mmaCmd fun m => { m with phase := .queued }
     runningCmd (queued m) 0 = none ∧ bestCmd (queued m) 0 = some m) ∧
    (let m := mmaCmd id
     let s := queued m
     runningCmd s 0 = some m ∧ jobOfCore s 0 = some job ∧ isMma m.op = true ∧ m.failed = none ∧ m.step < m.count ∧ m.handle = false ∧
       (tileAt s 0 m.tile).bad = []) ∧
    (let m := cmd (.mzero 3 0) [] 0 0 id
     runningCmd (queued m) 0 = some m ∧ m.op = .mzero 3 0 ∧ m.failed = none ∧ m.flags = 0) ∧
    (let m := mmaCmd fun m => { m with step := 1 }
     runningCmd (queued m) 0 = some m ∧ m.step = m.count ∧ m.handle = false) ∧
    (let m := mmasCmd 0x20000 id
     runningCmd (queued m) 0 = some m ∧ m.step < m.count ∧ stepFate (queued m) job m = some (.page, 0x20000) ∧ walkable (.page, 0x20000) = true ∧
       (coreAt (queued m) 0).services = [] ∧ (coreAt (queued m) 0).service = none) ∧
    (let m := mmaCmd fun m => { m with phase := .queued, prio := 2 }
     let s := { queued m with clock := 147456 }
     (coreAt s 0).queue.find? (fun x => x.id == m.id) = some m ∧ m.phase = .queued ∧ m.queuedAt + 65536 ≤ timeNow s ∧ m.prio < 3) := by
  decide +kernel
/-- The data of one step can be read: an MMAS in the own slice. -/
theorem test_witness_MatrixStepReads :
    stepWaits (queued (mmasCmd (own 0) id)) job (mmasCmd (own 0) id) = false ∧
    (readRows (queued (mmasCmd (own 0) id)) job (nextRows job (mmasCmd (own 0) id))).toOption = some [0, 0] := by decide +kernel
/-- An MLD that reads one row 128 times. -/
def mldCmd : MatrixCmd := cmd (.mld 1 1 3 0) [0, 1] (own 0) 0 id
theorem test_witness_MatrixLoadReads : stepWaits (queued mldCmd) job mldCmd = false ∧
    ∃ rows, readRows (queued mldCmd) job (nextRows job mldCmd) = .ok rows := by
  have same : ∀ (n : Nat) (x : Nat × Nat) (v : Nat), readRow (queued mldCmd) job x = .ok v →
      readRows (queued mldCmd) job (List.replicate n x) = .ok (List.replicate n v) := by
    intro n x v h
    induction n with
    | zero => rfl
    | succ n ih => simp only [List.replicate_succ, readRows, h, ih]
  have rows : nextRows job mldCmd = List.replicate 128 ((own 0).toNat, 384) := by decide +kernel
  have free : rowWaits (queued mldCmd) job mldCmd false ((own 0).toNat, 384) = false := by decide +kernel
  have one : (readRow (queued mldCmd) job ((own 0).toNat, 384)).toOption.isSome = true := by decide +kernel
  cases h : readRow (queued mldCmd) job ((own 0).toNat, 384) with
  | error e => rw [h] at one; exact absurd one (by simp [Except.toOption])
  | ok v =>
    have all := same 128 _ v h
    rw [← rows] at all
    have notMst : isMst mldCmd.op = false := rfl
    refine ⟨?_, _, all⟩
    unfold stepWaits stepFate readStep
    rw [notMst, all, rows]
    simp [free]

theorem test_witness_MatrixLoadsAndStores :
    (runningCmd (queued mldCmd) 0 = some mldCmd ∧ mldCmd.op = .mld 1 1 3 0 ∧ mldCmd.failed = none) ∧
    (let m := cmd (.mst 1 1 2 3 0) [] (own 0) 0 id
     runningCmd (queued m) 0 = some m ∧ isMst m.op = true ∧ m.phase = .running) ∧
    (let m := cmd (.mst 1 1 2 3 0) [] (own 0) 0 fun m => { m with phase := .writing, step := 128, counter := some 63 }
     cmdAt (queued m) 9 = some (0, m) ∧ isMst m.op = true ∧ m.phase = .writing ∧ m.failed = none ∧ 128 ≤ m.step ∧
       completionHeld (queued m) 0 = false ∧ targetHeld (queued m) m.ctx m.rack = false) ∧
    (let m := cmd (.mstRack 1 1 2 3 0) [] (own 0) 0 fun m => { m with phase := .writing, step := 128, rack := some (0, 0) }
     let r := (rich.racks[0]?).map fun r => { r with command := some 9 }
     let j := { rich with racks := r.toList }
     let s := onCore { declared with jobs := [j] } 0 fun c => { c with queue := [m] }
     cmdAt s 9 = some (0, m) ∧ isMst m.op = true ∧ jobOfCtx s 0 = some j ∧ (j.racks[0]?).bind (·.command) = some m.id ∧
       targetHeld s m.ctx m.rack = false) ∧
    (let m := cmd (.mproof 1 3 0 7) [] 5 0 id
     runningCmd (queued m) 0 = some m ∧ m.op = .mproof 1 3 0 7 ∧ m.failed = none ∧ (coreAt (queued m) 0).fails ≠ BitVec.allOnes 32) := by
  decide +kernel

/-- The first row of an MST into the own slice. -/
theorem test_witness_MatrixStoreRow :
    let m := cmd (.mst 1 1 2 3 0) [0, 1] (own 0) 0 fun m => { m with phase := .writing }
    let s := queued m
    cmdAt s 9 = some (0, m) ∧ copyAt s 9 = none ∧ jobOfCore s 0 = some job ∧ m.wordsBad = [] ∧ stepWaits s job m = false ∧
      stepFate s job m = none ∧ (runPlaces s job true (mstRow m).1 (mstRow m).2).toOption.map (fun l => l.all fun pa => !inFrame s 0 pa) = some true := by decide +kernel

/-! ### Hand-overs, barriers, racks, counters -/

def hostChain : Chain := ⟨64, 64, 0⟩
theorem test_witness_HandoverSteps :
    (∀ n ∈ List.range 7, currentHandover (handingOver n peelBy) 0 = some ⟨0, 1, 1, n, true, 0, peelBy⟩) ∧
    (let x : Handover := ⟨0, 1, 1, 0, true, 0, peelBy⟩
     let s := { base with handovers := [{ x with reached := false }, x] }
     (∀ y ∈ s.handovers, y.step = 0) ∧ currentHandover s 0 = some x) ∧
    (peelPaused (handingOver 0 peelBy) ⟨0, 1, 1, 0, true, 0, peelBy⟩ = false ∧ peelHeld (handingOver 6 peelBy) ⟨0, 1, 1, 6, true, 0, peelBy⟩ = false ∧
      notOwner (handingOver 0 peelBy) ⟨0, 1, 1, 0, true, 0, peelBy⟩ = none ∧ 1 ≠ ownerDie (handingOver 0 peelBy) 0 ∧ 1 = otherDie 0) ∧
    (handingOver 5 peelBy).reqs.filter (heldFor (handingOver 5 peelBy) 0) = [] ∧
    (let f := fun r : Req => { r with status := .held }
     let r := theReq (.std 2 1 0 0) 8 f
     let s := { oneReq (.std 2 1 0 0) 8 f with handovers := [⟨0, 1, 1, 5, true, 0, peelBy⟩] }
     let u := setHandover s ⟨0, 1, 1, 5, true, 0, peelBy⟩ ⟨0, 1, 1, 6, true, 0, peelBy⟩
     s.reqs.filter (heldFor s 0) = [r] ∧ reqAt s 9 = some r ∧ jobOfCtx s 0 = some job ∧ reqAccess r.op = some (8, true) ∧ isSyncAccess r.op = false ∧
       isFullEmptyStore r.op = false ∧ (access s job 8 8 8 true).toOption.isSome = true ∧ (lineOf s r).length ≤ 1 ∧ wfMemory s.mem = true ∧ inTurn u job r = true ∧
       handing u 0 1 5 = false) ∧
    currentHandover (handingOver 6 (.host ⟨0, hostChain⟩)) 0 = some ⟨0, 1, 1, 6, true, 0, .host ⟨0, hostChain⟩⟩ := by decide +kernel

/-- A request of context 0 of the job with declarations, which has left its core. -/
def unitOf (op : Instr) (a : Word) (f : Req → Req) : Req := f { newReq base op a with id := 9, line := 9, left := 1 }
def unitReq (op : Instr) (a : Word) (f : Req → Req) : State := { declared with reqs := [unitOf op a f] }
def asSent (r : Req) : Req := { r with status := .sent }
/-- The declared job with another state of its barrier. -/
def phaseAt (q : Barrier) (s : State) : State := { s with jobs := [{ rich with barriers := [q] }] }
theorem test_witness_BarrierSteps :
    (let s := unitReq (.barv 1 0) 1 asSent
     let r := unitOf (.barv 1 0) 1 asSent
     reqAt s 9 = some r ∧ jobOfCtx s 0 = some rich ∧ bits r.addr 7 0 ≠ 0 ∧ rich.barriers[bits r.addr 7 0 - 1]? = some barrier ∧
       r.status = .sent ∧ r.left ≠ 0 ∧ inTurn s rich r = true ∧ 1 < barrier.pa) ∧
    (let q := { barrier with pa := 1 }
     let s := phaseAt q (unitReq (.barv 1 0) 1 asSent)
     (jobOfCtx s 0).bind (fun j => j.barriers[0]?) = some q ∧ q.pa = 1 ∧ q.pb = 0 ∧ q.parent = 0 ∧ q.early = 0 ∧ q.ea ≠ 0 ∧
       inTurn s { rich with barriers := [q] } (unitOf (.barv 1 0) 1 asSent) = true) ∧
    (let f := fun r : Req => { asSent r with left := 0 }
     releaseReady (unitReq (.barv 1 0) 1 f) (unitOf (.barv 1 0) 1 f) = true) ∧
    (let r := unitOf (.bwait 2 1 0) 1 fun r => { asSent r with arg2 := 4 }
     let s := unitReq (.bwait 2 1 0) 1 fun r => { asSent r with arg2 := 4 }
     reqAt s 9 = some r ∧ inTurn s rich r = true ∧ r.arg2.toNat < barrier.phase) ∧
    (let s := unitReq (.binit 3 1 2 0) 1 asSent
     inTurn s rich (unitOf (.binit 3 1 2 0) 1 asSent) = true ∧ barrier.touched = false) ∧
    (let f := fun r : Req => { r with status := .performed, value := 5 }
     let s := onCtx (unitReq (.barv 1 0) 1 f) 0 fun c => { c with arrivals := [⟨1, 0, true⟩] }
     reqAt s 9 = some (unitOf (.barv 1 0) 1 f) ∧ answerPaused s (unitOf (.barv 1 0) 1 f) = false ∧
       (unitOf (.barv 1 0) 1 f).discard = false ∧ (unitOf (.barv 1 0) 1 f).redirect = false ∧ ∀ y ∈ s.reqs, y.id ≠ 9 → isBarv y.op = false) := by decide +kernel

theorem test_witness_RackAndCounterSteps :
    (let s := unitReq (.rkopen 2 1 0) 0 asSent
     let r := unitOf (.rkopen 2 1 0) 0 asSent
     reqAt s 9 = some r ∧ jobOfCtx s 0 = some rich ∧ r.status = .sent ∧ r.left ≠ 0 ∧ inTurn s rich r = true ∧
       rackOf s rich r = some (0, rack) ∧ (openTray rack none).2 = some 0) ∧
    (openTray { rack with trays := [] } none).2 = none ∧
    (let k := { rack with trays := [⟨false, true, 0, 0, 0, false⟩] }
     let j := { rich with racks := [k] }
     let s := { unitReq (.rktake 2 1 0) 0 asSent with jobs := [j] }
     rackOf s j (unitOf (.rktake 2 1 0) 0 asSent) = some (0, k) ∧ trayWhere (·.fresh) k = some 0 ∧ k.trays[0]? = some ⟨false, true, 0, 0, 0, false⟩ ∧
       pinOf k (ctxId s 0) = none ∧ k.pins.length < 64) ∧
    (rackOf (unitReq (.rkdrop 1 0) 64 asSent) rich (unitOf (.rkdrop 1 0) 64 asSent) = none ∧ isRackOp (.rkdrop 1 0) = true ∧
      rackOf (unitReq (.rkdrop 1 0) 0 asSent) rich (unitOf (.rkdrop 1 0) 0 asSent) = some (0, rack)) ∧
    inTurn (unitReq (.tdec 1 2 63 0) 0 asSent) rich (unitOf (.tdec 1 2 63 0) 0 asSent) = true := by decide +kernel

/-! ### Tasks and groups -/

/-- A message of part 2 to context 3 of the job. -/
def remote : RemoteSend := ⟨2, 1, 3, 0, 0x40, 0, Vector.replicate 8 0⟩
def readyTask : Task := { Task.reset with status := .ready, handler := 0x40, prio := 2 }
theorem test_witness_TaskSteps :
    (let s := onCore (onCtx declared 0 fun c => { c with status := .idle, task := none }) 0 fun c => { c with tasks := c.tasks.setIfInBounds 63 readyTask }
     jobOfCore s 0 = some rich ∧ rich.status = .running ∧ rich.preempt = none ∧ (ctxAt s 0).status = .idle ∧
       (coreAt s 0).tasks[63]? = some readyTask ∧ readyTask.status = .ready ∧ readyTask.bound = none ∧
       ∀ k ∈ List.range 63, ((coreAt s 0).tasks[k]?).map (·.status) ≠ some .ready) ∧
    (let s := unitReq (.spawn 0 1 2 3 0) 0 asSent
     let r := unitOf (.spawn 0 1 2 3 0) 0 asSent
     reqAt s 9 = some r ∧ jobOfCtx s 0 = some rich ∧ r.left ≠ 0 ∧ inTurn s rich r = true ∧ s.launches = [] ∧ r.addr.toNat < rich.n ∧ freeSlot (coreAt s 0).tasks = some 0) ∧
    freeSlot (Vector.replicate 64 readyTask) = none ∧
    (let f := fun r : Req => { r with status := .performed }
     reqAt (unitReq (.spawn 0 1 2 3 0) 0 f) 9 = some (unitOf (.spawn 0 1 2 3 0) 0 f) ∧
       answerPaused (unitReq (.spawn 0 1 2 3 0) 0 f) (unitOf (.spawn 0 1 2 3 0) 0 f) = false) ∧
    (let s := { declared with inbox := [remote] }
     (s.inbox.find? fun x => x.part == remote.part) = some remote ∧ messagePaused s remote = false ∧ jobAt s remote.job.toNat = some rich ∧
       remote.ctx.toNat / 4 < rich.n ∧ handlerOk remote.handler = true ∧ s.launches = [] ∧ freeSlot (coreAt s 0).tasks = some 0) := by decide +kernel

/-- An ASEND within the part that reaches its core (17 R349). -/
theorem test_witness_AsendArrival :
    let f := fun r : Req => { asSent r with arg1 := 0x40, prio := 2 }
    let s := unitReq (.asend 0 1 2 0) 3 f
    let r := unitOf (.asend 0 1 2 0) 3 f
    reqAt s 9 = some r ∧ jobOfCtx s 0 = some rich ∧ r.left ≠ 0 ∧ inTurn s rich r = true ∧ s.launches = [] ∧ bits r.addr 27 16 = 0 ∧
      rich.binding[bits r.addr 15 0 / 4]?.getD 0 = 0 ∧ freeSlot (coreAt s 0).tasks = some 0 ∧
      ((match execLaunchArrival 9 s with | .next t => some ((coreAt t 0).tasks[0].bound, (coreAt t 0).tasks[0].handler.toNat) | _ => none) =
        some (some 3, 0x40)) := by decide +kernel
/-- A message of group 0. -/
def message (at' : Node) (f : Message → Message) : Message := f ⟨9, 1, 0, 0, Vector.replicate 8 0, 0, at', none, 0, 0, false, false, false⟩
def messaging (m : Message) (g : Group) : State := { declared with jobs := [{ rich with groups := [g] }], messages := [m] }
theorem test_witness_GroupSteps :
    (let u : Update := ⟨9, 1, 0, .die 0, .spine, -2, false⟩
     let s := { declared with updates := [u] }
     s.updates.find? (fun x => x.id == 9) = some u ∧ groupAt s 1 0 = some group ∧ updateFirst s u = true ∧ u.refresh = false ∧
       jobAt s 1 = some rich) ∧
    (let m := message .spine id
     let s := messaging m group
     s.messages.find? (fun x => x.id == 9) = some m ∧ groupAt s 1 0 = some group ∧ m.place = group.root ∧ m.returned = none ∧ m.bound = false ∧
       m.bounces < 8 ∧ group.fifo = [] ∧ group.area = [] ∧ bestPort group m.place (downPorts s rich group.members m.place) = some (.die 0, 2)) ∧
    (let g := { group with counts := [] }
     let m := message .spine id
     bestPort g m.place (downPorts (messaging m g) rich g.members m.place) = none ∧ parentNode (messaging m g) g.root m.place = none) ∧
    (let m := message (.core 0) id
     let s := messaging m group
     m.bound = false ∧ m.released = false ∧ wayPaused s (.unit (4 + clusterOf s 0)) (.core 0) = false ∧ memberWithRoom rich group 0 = some 1) ∧
    (let m := message .spine fun m => { m with returned := some (.die 0), bounces := 6 }
     m.returned = some (.die 0) ∧ climbPaused (messaging m group) (.die 0) = false ∧ m.bounces < 7) ∧
    (let m := message .spine id
     let g := { group with fifo := [m] }
     let s := { declared with jobs := [{ rich with groups := [g] }] }
     groupAt s 1 0 = some g ∧ g.fifo = [m] ∧ m.released = false ∧ 0 < rich.groups.length ∧ (∀ x ∈ s.messages, x.id ≠ m.id) ∧
       (bestPort g g.root (downPorts s { rich with groups := [g] } g.members g.root)).isSome) ∧
    (let f := fun r : Req => { r with status := .performed }
     let s := unitReq (.gsend 0 1 0) 0 f
     reqAt s 9 = some (unitOf (.gsend 0 1 0) 0 f) ∧ answerPaused s (unitOf (.gsend 0 1 0) 0 f) = false ∧ ∀ x ∈ s.messages, x.id ≠ 9) := by decide +kernel

/-! ### The host -/

/-- A chain with a command: values at byte offsets. -/
def chain (l : List (Nat × Nat)) : Chain := ⟨64, 4096, BitVec.ofNat 512 (l.foldl (fun n x => n + x.2 * 2 ^ (8 * x.1)) 0)⟩
/-- A part that is ready, with job 1 and 16 MiB of host memory mapped, where queue 0 holds a slot and one chain. -/
def hosting (j : Job) (c : Chain) : State :=
  { base with health := { Health.reset with ready := true }, jobs := [j], queues := [(0, ⟨true, 8, [c], true, false, 1, true⟩)], hostMap := [(0, 2 ^ 24)] }
def created : Job := { job with status := .created }

theorem test_witness_HostConfiguration :
    (let s := { base with health := { Health.reset with ready := true }, queues := (List.range 8).map fun q => (q, ⟨true, 4096, [], false, true, 0, true⟩) }
     answering s = true ∧ (queueAt s 7).enabled = true ∧ (queueAt s 7).ring.length < (queueAt s 7).size ∧ (queueAt s 7).pinned = true ∧
       ((queueAt s 1023).pinned = false ∧ 8 ≤ (pinned s).length) ∧ (queueAt s 7).slot = false ∧ (slotHolders s).length < 32) ∧
    (pinned { base with health := { Health.reset with ready := true } }).length < 8 ∧ answering State.reset = false := by decide +kernel

/-- Every kind of QUERY is accepted. -/
theorem test_witness_Queries : ∀ x ∈ ([(0, .queryPart), (3, .queryClusterMap), (4, .queryAttestation), (5, .queryCertChain),
      (6, .queryErrorLog)] : List (Nat × CommandKind)),
    let c := chain [(0, 0x0B), (0x10, x.1)]
    let s := hosting job c
    nextChain s 0 = some c ∧ commandKind c = some x.2 ∧ tooShort s c = false ∧ s.health.ready = true ∧ commandOk c = true ∧ cf c 4 4 = 0 := by
  decide +kernel
theorem test_witness_JobQueries : ∀ x ∈ ([(1, .queryJob), (2, .queryBinding)] : List (Nat × CommandKind)),
    let c := chain [(0, 0x0B), (4, 1), (0x10, x.1)]
    let s := hosting job c
    nextChain s 0 = some c ∧ commandKind c = some x.2 ∧ tooShort s c = false ∧ s.health.ready = true ∧ commandOk c = true ∧
      resident s (cf c 4 4) = some job := by decide +kernel

/-- One command for each clause, with the job it names. -/
theorem test_witness_JobCommands : ∀ x ∈ ([([(0, 0x0A), (0x10, 50)], .setTolerance, created), ([(0, 3), (4, 1)], .start, created),
      ([(0, 3), (4, 1)], .start, job), ([(0, 4), (4, 1), (0x10, 3)], .signal, job), ([(0, 4), (4, 1), (0x10, 4)], .signal, job),
      ([(0, 4), (4, 1), (0x10, 65535)], .signal, job), ([(0, 7), (4, 1)], .kill, job), ([(0, 7), (4, 1), (0x10, 1000000)], .kill, job),
      ([(0, 8), (2, 1), (4, 1), (0x18, 0), (0x20, 2 ^ 32), (0x28, 0), (0x2A, 63)], .copyIn, created),
      ([(0, 9), (4, 1), (0x20, 1)], .copyOut, job), ([(0, 12), (4, 1), (0x10, 0), (0x11, 1)], .peelRequest, job)] :
      List (List (Nat × Nat) × CommandKind × Job)),
    let c := chain x.1
    let s := hosting x.2.2 c
    nextChain s 0 = some c ∧ commandKind c = some x.2.1 ∧ tooShort s c = false ∧ s.health.ready = true ∧ commandOk c = true ∧
      (cf c 4 4 = 0 ∨ (resident s (cf c 4 4) = some x.2.2 ∧ x.2.2.queue = 0)) ∧ holdsStack x.2.2 (boundStack x.2.2 (cf c 0x10 1 % 4)) = (cf c 0x10 1 % 4 == 0) := by
  decide +kernel
/-- A START with a WAITING task of a counter at zero and one of a counter at one (17 R338). -/
theorem test_witness_StartWaiting :
    let c := chain [(0, 3), (4, 1)]
    let w : Task := { Task.reset with status := .waiting, counter := 5 }
    let s := onCore (hosting created c) 0 fun q => { q with
      tasks := (q.tasks.setIfInBounds 0 w).setIfInBounds 63 { w with counter := 6 }, counters := q.counters.setIfInBounds 6 1 }
    nextChain s 0 = some c ∧ resident s 1 = some created ∧ created.binding = [0] ∧
      (match execStart 0 c s with | .next t => [(coreAt t 0).tasks[0], (coreAt t 0).tasks[63]].map (·.status) | _ => []) = [.ready, .waiting] := by
  decide +kernel
def away : Job := { job with status := .preempted, binding := [], former := [0] }
/-- PEEL_REQUEST of a CREATED and of a PREEMPTED job, and a copy to job space and past the last slice of a PREEMPTED one. -/
theorem test_witness_JobCommandsPreempted : (∀ j ∈ [created, away],
      let c := chain [(0, 12), (4, 1), (0x10, 0), (0x11, 1)]
      nextChain (hosting j c) 0 = some c ∧ commandOk c = true ∧ resident (hosting j c) 1 = some j ∧ holdsStack j (boundStack j 0) = true) ∧
    ∀ d ∈ [0, 15 * 2 ^ 48 + 2 ^ 22],
      let c := chain [(0, 8), (4, 1), (0x18, d), (0x20, 1)]
      nextChain (hosting away c) 0 = some c ∧ commandOk c = true ∧ resident (hosting away c) 1 = some away ∧ cf c 0x18 8 = d ∧
        (match spaceOf d with | .slice n _ => decide (away.n ≤ n) | _ => true) = true := by decide +kernel
/-- A START that names no job, and one that names another queue's. -/
theorem test_witness_StartRefused :
    resident (hosting job (chain [(0, 3), (4, 2)])) 2 = none ∧ nextChain (hosting job (chain [(0, 3), (4, 2)])) 0 = some (chain [(0, 3), (4, 2)]) ∧
    resident (hosting { job with queue := 1 } (chain [(0, 3), (4, 1)])) 1 = some { job with queue := 1 } := by decide +kernel

/-- A logical stack beyond the last, and one that the job does not hold (03 R61). -/
theorem test_witness_PeelRefused : ∀ x ∈ [12, 11], let c := chain [(0, 12), (4, 1), (0x10, x), (0x11, 1)]
    let s := hosting job c
    nextChain s 0 = some c ∧ commandKind c = some .peelRequest ∧ tooShort s c = false ∧ commandOk c = true ∧ resident s 1 = some job ∧
      (11 < cf c 0x10 1 ∨ holdsStack job (boundStack job (cf c 0x10 1)) = false) := by decide +kernel

/-- An image of one core: one text section of one page, stack 0 and one task. -/
def imageBytes : List (Nat × Nat × Nat) :=
  [(0, 4, 0x4E554C42), (4, 2, 1), (8, 2, 1), (0x0A, 2, 1), (0x0C, 4, 2), (0x10, 8, 64), (0x18, 8, 96), (0x20, 8, 200), (0x2C, 4, 1), (0x30, 8, 200),
   (64, 1, 1), (84, 4, 4), (96, 2, 1), (98, 2, 16), (112, 2, 6), (114, 2, 88)]
def withImage (s : State) : State :=
  { s with mem := imageBytes.foldl (fun m x => writeLE m (hostPhys x.1) x.2.1 x.2.2) s.mem, images := [(7, 0, 200)], jobs := [], cores := [], nextJob := 1 }
def image : Image := ⟨0, 200, 1, 1, [⟨1, 0, 0, 0, 0, 4, 0⟩], [.stack 0 false, .task 0 0 0 0 0 (Vector.replicate 8 0)], 200, 0⟩
theorem test_witness_ImagesFull :
    (({ withImage (hosting job (chain [])) with images := List.replicate 64 (7, 0, 200) } : State).images.length = 64) := by decide +kernel
theorem test_witness_ImagesAndJobs :
    (let c := chain [(0, 1), (0x10, 0), (0x18, 200)]
     let s := withImage (hosting job c)
     nextChain s 0 = some c ∧ commandKind c = some .loadImage ∧ tooShort s c = false ∧ s.health.ready = true ∧ commandOk c = true ∧
       cf c 4 4 = 0 ∧ s.health.resetReq = false ∧ s.images.length < 64 ∧ tablesMapped (popRing s 0) (cf c 0x10 8) (cf c 0x18 8) = true ∧
       (readImage (popRing s 0) (cf c 0x10 8) (cf c 0x18 8)).any imageOk = true) ∧
    (let c := chain [(0, 2), (0x10, 7)]
     let s := withImage (hosting job c)
     let u := { popRing s 0 with images := s.images.filter fun x => x.1 != 7 }
     nextChain s 0 = some c ∧ commandKind c = some .createJob ∧ tooShort s c = false ∧ commandOk c = true ∧
       s.images.find? (fun x => x.1 == cf c 0x10 4) = some (7, 0, 200) ∧ createOk u c = true ∧
       queueTaken u 0 = false ∧ s.health.resetReq = false ∧ tablesMapped u 0 200 = true ∧ readImage u 0 200 = some image ∧ imageOk image = true ∧
       contentsMapped u image = true ∧ (List.range image.nrel).all (relocOk u image) = true) := by decide +kernel

/-- Whichever column of a die is its spare, cluster 0 has cores. -/
theorem clusterZero {s : State} (h : s.health.spares = []) : ∃ a l, clusterCores s 0 = a :: l := by
  have f : ∀ x : Fin 25, (((List.range 25).filter (fun c => c != x.val)).take 4).isEmpty = false := by decide +kernel
  have g := f (Config.spareColumn 0)
  have i : (standing s 0 : Nat → Nat) = id := by funext c; simp [standing, h]
  unfold clusterCores clusterColumns madeColumns usedColumns
  simp only [Nat.zero_div, Nat.zero_mod, Nat.mul_zero, List.drop_zero, i, List.map_id]
  revert g
  generalize ((List.range 25).filter fun c => c != (Config.spareColumn 0).val).take 4 = l
  intro g
  cases l with
  | nil => exact absurd g (by decide)
  | cons a l => exact ⟨_, _, rfl⟩
/-- Where no core is bound or retired, a job of one core can be bound. -/
theorem bindOne {s : State} {ok : List Nat → Bool} (h : s.health.spares = []) (e : s.cores = []) (w : ∀ l, ok l = true) :
    ∃ a, bindClusters s 0 ok (clusterNeeds 1) [] [] = some [a] := by
  obtain ⟨a, l, h⟩ := clusterZero h
  have free : clusterFree s 0 = true := by simp [clusterFree, coreAt, e, look, Core.reset]
  have every : activeCores s 0 = a :: l := by simp [activeCores, bindable, layerLost, coreAt, e, look, Core.reset, h]
  refine ⟨a, ?_⟩
  have needs : clusterNeeds 1 = [(0, 1)] := by decide
  rw [needs]
  simp [bindClusters, List.range_succ, free, every, w]
def creating : State := { popRing (withImage (hosting job (chain [(0, 2), (0x10, 7)]))) 0 with images := [] }
theorem test_witness_Allocate : ∃ j, allocate creating image 0 (chain [(0, 2), (0x10, 7)]) = some j := by
  have rot : cf (chain [(0, 2), (0x10, 7)]) 0x14 1 = 0 := by decide +kernel
  have apertures : cf (chain [(0, 2), (0x10, 7)]) 0x15 1 = 0 := by decide +kernel
  have some' : freeApertures creating 0 = some 0 := by decide +kernel
  have pages : imagePages image 0 = some [⟨0, 0, 1, false, true, true⟩] := by decide +kernel
  have jobs : creating.jobs = [] := rfl
  have groups : image.groups = [] := rfl
  have n : image.n = 1 := rfl
  have unheld : (image.stacks.all fun k => stackFree creating ((k.1 + 3 * 0) % 12)) = true := by decide +kernel
  have fits : ∀ j, switchesFit creating j [] = true := fun j => by simp [switchesFit, jobs]
  have free : ∀ x y, poolFree creating x y = true := fun x y => by simp [poolFree, jobs]
  unfold allocate allocateAt
  rw [rot, apertures]
  simp only [List.findSome?, show ((0 : Nat) = 255) = False from by decide, if_false, pages, some', groups, unheld, free, n, Bool.and_self, if_true]
  obtain ⟨a, h⟩ := bindOne (s := creating) rfl rfl (fun l => fits (jobOf creating image 0 0 l [⟨0, 0, 1, false, true, true⟩] _ 0 0 _ _))
  rw [h]
  exact ⟨_, rfl⟩

def preempting : Job := { job with preempt := some (⟨0, chain [(0, 5), (2, 1), (4, 1)]⟩, 0) }
theorem test_witness_PreemptionSteps :
    (let c := chain [(0, 5), (2, 1), (4, 1), (0x18, 2 ^ 24)]
     let s := hosting job c
     nextChain s 0 = some c ∧ commandKind c = some .preempt ∧ tooShort s c = false ∧ commandOk c = true ∧ resident s 1 = some job ∧
       imageLength job ≤ cf c 0x18 8 ∧ saveMapped s job true (cf c 0x10 8) (imageLength job) true = true ∧ jobCtxs job = [0, 1, 2, 3] ∧
       stopsNow s 1 = true ∧ jobOfCtx s 1 = some job) ∧
    (let s := { hosting preempting (chain []) with clock := 225000 }
     resident s 1 = some preempting ∧ 0 + 100000 ≤ timeNow s ∧ stopsAtBoundary s 0 = true) ∧
    (let s := onCtx { hosting preempting (chain []) with clock := 225000 } 0 fun c => { c with status := .ready }
     quiet (stopReady s preempting) preempting = true ∧ s.messages = [] ∧
       (∀ k ∈ jobCtxs preempting, (savedCtx (ctxAt (stopReady s preempting) k)).held.length ≤ 32) ∧ ∀ r ∈ s.reqs, preempting.binding.contains (r.ctx / 4) = false) := by
  decide +kernel
def gone : Job := { job with
  status := .preempted, binding := [], former := [0]
  saved := [⟨Core.reset, List.replicate 4 Ctx.reset, List.replicate 16 Tile.reset, [], [], [], []⟩] }
/-- The header of its image in host memory. -/
def saved (c : Chain) : State :=
  { hosting gone c with
    cores := []
    mem := [(0, 4, 0x56455250), (4, 2, 1), (8, 4, 1), (0x0C, 2, 1), (0x18, 8, 0x531000)].foldl (fun m (x : Nat × Nat × Nat) => writeLE m (hostPhys x.1) x.2.1 x.2.2) [] }
theorem test_witness_Resume :
    (let c := chain [(0, 6), (2, 1), (4, 1)]
     let s := saved c
     nextChain s 0 = some c ∧ commandKind c = some .resume ∧ tooShort s c = false ∧ commandOk c = true ∧ resident s 1 = some gone ∧
       saveMapped s gone true 0 (imageLength gone) false = true ∧ headerMatches s gone true 0 = true ∧ gone.groups = []) ∧
    ∃ a, bindAgain (saved (chain [(0, 6), (2, 1), (4, 1)])) gone = some [a] :=
  ⟨by decide +kernel, bindOne rfl rfl fun l => by
    simp [switchesFit, show gone.groups = [] from rfl, show (saved (chain [(0, 6), (2, 1), (4, 1)])).jobs = [gone] from rfl]⟩

/-- The image of a job at the start of host memory: every byte of it is mapped. -/
theorem test_witness_ImageMapped : (∀ y, 0 ≤ y → y < 0 + imageLength preempting → hostMapped (hosting preempting (chain [])) y = true) ∧
    cf (chain [(0, 5), (2, 1), (4, 1)]) 2 2 % 2 = 1 ∧ wfMemory (hosting preempting (chain [])).mem = true ∧ preempting.binding[0]? = some 0 ∧ 0 < preempting.n := by
  refine ⟨fun y _ h => ?_, by decide +kernel, by decide +kernel, rfl, by decide⟩
  have n : imageLength preempting = 0x531000 := by decide +kernel
  rw [n] at h
  have m : (hosting preempting (chain [])).hostMap = [(0, 2 ^ 24)] := rfl
  simp only [hostMapped, m, List.any_cons, List.any_nil, Bool.or_false, Bool.and_eq_true, decide_eq_true_eq]
  omega
/-- What SAVE holds of one core of the job that is away. -/
theorem test_witness_ResumeContexts : gone.saved.length = gone.n ∧ (gone.saved[0]?).map (fun y => y.ctxs.length) = some 4 ∧ [0].Nodup := by decide +kernel
/-- FLAGS[0]: the counter of a RUNNING job falls, that of a PREEMPTED one is owed, that of a copy that fails does neither (03 R59). -/
theorem test_witness_CountedCopies :
    let c := chain [(0, 8), (2, 1), (4, 1), (0x10, 0x100), (0x18, 0x200), (0x20, 16), (0x2A, 63)]
    let s := fun j => onCore { hosting j (chain []) with hostCopies := [⟨9, 1, true, ⟨0, c⟩⟩] } 0 fun q => { q with counters := q.counters.setIfInBounds 63 3 }
    let after := fun s : State => match execHostCopyComplete 9 s with
      | .next t => (t.completions.map (·.status.toNat), (coreAt t 0).counters[63], t.jobs.map (·.owed))
      | _ => ([], 0, [])
    cf c 2 2 % 2 = 1 ∧ (∀ j ∈ [job, away], resident (s j) 1 = some j ∧ hostCopyHeld (s j) j true 0x200 16 = false ∧ hostCounterHeld (s j) j c = false) ∧
      after (s job) = ([0], 2, [[]]) ∧ after (s away) = ([0], 3, [[(0, 63)]]) ∧ after { s job with hostMap := [] } = ([7], 3, [[]]) := by decide +kernel
theorem test_witness_JobEndings :
    (let c := chain [(0, 8), (4, 1), (0x10, 0x100), (0x18, 0x200), (0x20, 16)]
     let s := { hosting job (chain []) with hostCopies := [⟨9, 1, true, ⟨0, c⟩⟩] }
     s.hostCopies.find? (fun h => h.id == 9) = some ⟨9, 1, true, ⟨0, c⟩⟩ ∧ resident s 1 = some job ∧
       hostCopyHeld s job true (cf c 0x18 8) (cf c 0x20 8) = false ∧ cf c 2 2 % 2 = 0 ∧
       (let u := { s with hostMap := [(0, 2 ^ 24)] }
        hostCopyHeld u job true 0x200 16 = false ∧ wfMemory u.mem = true ∧ ∀ i ∈ List.range 16, devicePlace u job true (0x200 + i) = some (2 ^ 40 + 2 * 65536 + 0x200 + i) ∧
          hostMapped u (0x100 + i) = true ∧ (2 ^ 40 + 2 * 65536 + 0x200 + i) / 16 ∉ u.bad ∧ ∀ k ∈ List.range 16, 2 ^ 40 + 2 * 65536 + 0x200 + i ≠ hostPhys (0x100 + k))) ∧
    (let j := { job with kill := [(⟨0, chain []⟩, 4)] }
     let s := { hosting j (chain []) with clock := 9 }
     resident s 1 = some j ∧ j.kill.find? (fun x => x.2 ≤ timeNow s) = some (⟨0, chain []⟩, 4)) ∧
    (let j := { job with start := some ⟨0, chain [(0, 3)]⟩ }
     let s := { hosting j (chain []) with ctxs := [] }
     resident s 1 = some j ∧ onOffLayer s j = false ∧ j.status = .running ∧ jobDone s j = true ∧ j.start = some ⟨0, chain [(0, 3)]⟩) ∧
    (let j := { job with start := some ⟨0, chain [(0, 3)]⟩ }
     onOffLayer { hosting j (chain []) with layersOff := [(0, 0)] } j = true) := by decide +kernel

/-! ### The window, the links, the columns, errors and power -/

/-- The first GiB of the window is that of the job's space. -/
def open' (p : List Packet) : State := { hosting { job with apertures := 1 } (chain []) with packets := p }
theorem test_witness_InboundSteps :
    (let d : List (Option Byte) := [some 1, none]
     d ≠ [] ∧ d.length ≤ 256 - 0xFE % 256 ∧ 0xFE + d.length ≤ 2 ^ 36) ∧
    (let k : Packet := ⟨9, 0, 0, 0xFFFE, [some 1, none], false, false, none, none, 0, 0, .waiting⟩
     packetAt (open' [k]) 9 = some k ∧ windowPlace (open' [k]) k.offset true = some (2 ^ 40 + 2 * 65536 + 0xFFFE) ∧
       packetReady (open' [k]) k (ownerDie (open' [k]) (physStack (2 ^ 40 + 2 * 65536 + 0xFFFE))) = true) ∧
    (let k : Packet := ⟨9, 0, 0, 0x10000, [some 1], false, false, none, none, 0, 0, .waiting⟩
     windowPlace (open' [k]) k.offset true = none) ∧
    (let k : Packet := ⟨9, 0, 0, 0xFFFE, [some 1, none], false, true, none, some (2 ^ 40 + 2 * 65536 + 0xFFFE), 0, 0, .released⟩
     let s := open' [k]
     packetAt s 9 = some k ∧ k.place = some (2 ^ 40 + 2 * 65536 + 0xFFFE) ∧ handing s 0 1 5 = false ∧
       (∀ x ∈ s.packets, x.route = k.route → x.status = .released → k.seq ≤ x.seq) ∧ s.bad = [] ∧ wfMemory s.mem = true) ∧
    (let k : Packet := ⟨9, 0, 0, 0, [some 1], false, true, none, some (2 ^ 40 + 2 * 65536), 0, 0, .performed⟩
     packetAt (open' [k]) 9 = some k) ∧
    ((open' []).reads = [] ∧ readReady (open' []) ⟨0, 0xFFFF, 2, 0, 0, none⟩ = true) := by decide +kernel

/-- A read of the last mapped byte, and of the first one that is not. -/
theorem test_witness_InboundReadLogged :
    ((windowJob (open' []) 0xFFFF).isSome = true ∧ windowPlace (open' []) 0xFFFF false ≠ none) ∧
    ((windowJob (open' []) 0x10000).isSome = true ∧ windowPlace (open' []) 0x10000 false = none) ∧
    [1, 2].map (fun n => match execInboundRead 0 0xFFFF n 7 (open' []) with | .next t => t.log.map (·.kind) | _ => [0]) = [[], [9]] := by decide +kernel
/-- A flit of part 5 with link number 3. -/
def flit (e : Nat) (b : FlitBody) : Flit := ⟨3, 0, false, 5, Config.partId, e, b⟩
def linked : State := { base with links := [(15, { Link.reset with trained := true, expect := 3 })], bulk := [(5, 1)], endToEnd := [(5, 2)] }
/-- The parts are numbered from one on (04 R81). -/
theorem other_part : (0 : BitVec 12) ≠ Config.partId := by
  intro h
  have h' := congrArg BitVec.toNat h
  have := Config.partIndex.isLt
  simp [Config.partId] at h'
  omega
theorem test_witness_LinkAndColumnSteps :
    (let k := linkAt linked 15
     k.trained = true ∧ (flit 2 (.copyAck 0 0 0)).seq = k.expect ∧ (flit 2 (.copyAck 0 0 0)).dest = Config.partId ∧
       (linkAt linked 0).trained = false ∧ retrainDue linked 15 = false ∧ retrainDue { linked with clock := 2 ^ 40 } 15 = true) ∧
    ((1 < look 0 linked.endToEnd 5 ∧ 2 = look 0 linked.endToEnd 5 ∧ look 0 linked.endToEnd 5 < 3) ∧ linked.early = [] ∧
      (flit 2 (.copyRead 0 16 0 0)).body.ordered = true ∧ (flit 1 (.copyWrite 0 [] 0 0 0)).body.ordered = false ∧ (5, 1) ∈ linked.bulk ∧ (5, 2) ∉ linked.bulk) ∧
    ((flit 1 (.copyWrite 0 (List.replicate 32 7) 0 0 0)).body.fits = true ∧ (flit 2 (.messageArgs true (Vector.replicate 4 0))).body.ordered = true ∧
      (let s := { linked with coming := [(5, remote)] }
       s.coming.find? (fun x => x.1 == 5) = some (5, remote))) ∧
    (0 : BitVec 12) ≠ Config.partId ∧
    (realignmentDue { base with clock := 2 ^ 40 } 3 24 ≤ timeNow { base with clock := 2 ^ 40 } ∧
      (columnAt base 3 24).deferred = none ∧ (columnAt base 3 24).pausing = none) ∧
    (let s := { base with clock := 562500, columns := [(0, { Column.reset with deferred := some 0 })] }
     (columnAt s 0 0).deferred = some 0 ∧ realignmentHeld s 0 0 = false ∧ 0 + 250000 ≤ timeNow s) ∧
    (let s := { base with clock := 4500, columns := [(0, { Column.reset with pausing := some 0 })] }
     (columnAt s 0 0).pausing = some 0 ∧ 0 + 2000 ≤ timeNow s) ∧ base.poolTrained = none ∧
    (-160 ≤ (420 : BitVec 16).toInt ∧ (420 : BitVec 16).toInt ≤ 600 ∧ 420 < (421 : BitVec 16).toInt ∧ (400 : BitVec 16).toInt ≤ 400 ∧ 500 ≤ (500 : BitVec 16).toInt ∧ (499 : BitVec 16).toInt < 500) ∧
    (timeNow { base with clock := 2249 } < { Column.reset with tempDue := 1000 }.tempDue ∧ 1000 ≤ timeNow { base with clock := 2250 }) :=
  ⟨⟨by decide +kernel, by decide +kernel, rfl, by decide +kernel, by decide +kernel, by decide +kernel⟩, by decide +kernel, by decide +kernel, other_part, by decide +kernel,
    by decide +kernel, by decide +kernel, by decide +kernel, by decide +kernel, by decide +kernel⟩

theorem test_witness_ErrorAndPowerSteps :
    (isCoreId 0 = true ∧ (coreAt base 0).marked = false ∧ (coreAt base 0).uncorrected = 0 ∧ (coreAt base 0).corrected.length < 1000 ∧ base.log.length < 4096) ∧
    (hosting job (chain [])).health.ready = true ∧ (jobAt base 1 = some job ∧ job.status ≠ .ended) ∧
    (let s := { State.reset with tolerance := 10000, clock := 90000, idle := [(.stack 11, 0)] }
     (powerState s (.stack 11)).2 = true ∧ (powerState s (.stack 11)).1 ≤ s.tolerance ∧ s.tolerance ≠ 0 ∧ deeper s (.stack 11) = false ∧ idleSince s (.stack 11) = some 0 ∧
       0 + 4 * (powerState s (.stack 11)).1 ≤ timeNow s) ∧ (3, 1) ∉ base.layersOff := by decide +kernel

/-! ### Words, steps, memory -/

theorem test_witness_BundleRoundTrip :
    (Instr.wellFormed (.loop 1 2047 6) = true ∧ slotWord (.loop 1 2047 6) = some (.x, 0x48007FFE, none) ∧ 0x48007FFE % 8 ≠ 0 ∧ 0x48007FFE % 8 ≠ 5) ∧
    (Instr.wellFormed (.loop 1 0 5) = true ∧ slotWord (.loop 1 0 5) = some (.x, 0x48004005, none) ∧ loopEndsShort 8 (.loop 1 0 5) = true) ∧
    slotWord (.jr 1 63) = some (.b, 0xFFC00000, none) := by decide +kernel

/-- Core 0 is about to issue a bundle with one operation or none. -/
def issuingWords (l : List Nat) : State := withBundle State.reset l
/-- The hypotheses on the state and the bundle. -/
def stepHyps (l : List Nat) : Bool :=
  let s := issuingWords l
  let u := { s with agenda := [] }
  s.agenda == [.issue 0] && (coreAt u 0).service == none && (coreAt u 0).services == [] && (coreAt u 0).hold == false && (coreAt u 0).storeOk && runningCtx u 0 == some 0 &&
  (ctxAt u 0).fence.isNone && bestReady u 0 == none && landsNow u 0 == false && (ctxAt u 0).waitc == 0 && jobStops u 0 == false && candidate (ctxAt u 0) == none &&
  (ctxAt u 0).fetched && (ctxAt u 0).withdrawn == [] && fetchHeld u 0 == false && fetchPoison u 0 == none &&
  match jobOfCore u 0 with
  | none => false
  | some j =>
    j.status == .running && match fetchBundle u j (ctxAt u 0).pc with
      | .error _ => false
      | .ok ws => ws == l && match decodeBundle ws with
        | .error _ => false
        | .ok b => testsWait u 0 (opsOf b) == false && b.len == 4 * l.length && b.slots.length + 1 == l.length
theorem test_witness_StepRunsDecodedInstruction : stepHyps ((encode (.nop 0)).map (·.toNat)) = true ∧
    stepHyps ((encode (.add 3 1 2 0)).map (·.toNat)) = true ∧ stepHyps ((encode (.trap 1 0)).map (·.toNat)) = true ∧
    isPost (.trap 1 0) = true ∧ isPost (.add 3 1 2 0) = false := by decide +kernel
/-- The words of a bundle fetched and decoded at the PC of a state: its text is refused, its check traps, it waits. -/
def fetches (s : State) (l : List Nat) : Bool :=
  match jobOfCore s 0 with
  | none => false
  | some j => match fetchBundle s j (ctxAt s 0).pc with
    | .error _ => false
    | .ok ws => ws == l
theorem test_witness_StepTrapsAndWaits :
    (let l := ((encode (.add 3 1 2 0)).map (·.toNat)).take 1 ++ [0b00000100000100001000001110111000]
     fetches (issuingWords l) l = true ∧ decodeBundle l = .error (.illop, 0)) ∧
    (let s := onCtx (issuingWords ((encode (.add 3 1 2 0)).map (·.toNat))) 0 fun c => { c with group := [⟨.scalar, 1⟩] }
     stops s [(0, .add 3 1 2 0)] = some (.illdep, 0, 0)) ∧
    (let s := onCore (issuingWords ((encode (.twait 5 0)).map (·.toNat))) 0 fun c => { c with counters := c.counters.setIfInBounds 5 1 }
     (verdict s 0 none 0 8 [(9, .twait 5 0)] [(9, .twait 5 0)] matches .wait) = true) := by decide +kernel
theorem test_witness_VerdictOfBundle : let s := issuingWords ((encode (.add 3 1 2 0)).map (·.toNat))
    (verdict s 0 none 0 8 [(0, .add 3 1 2 0)] (executing none [(0, .add 3 1 2 0)]) matches .go) = true := by decide +kernel
theorem test_witness_ServiceStep :
    let s := onCore (issuingWords ((encode (.add 3 1 2 0)).map (·.toNat))) 0 fun c => { c with services := [.svc 1 2] }
    s.agenda = [.issue 0] ∧ (jobOfCore s 0).map (·.status) = some .running ∧ (coreAt s 0).service = none ∧ (coreAt s 0).storeOk = true ∧
      (coreAt s 0).services = [.svc 1 2] := by decide +kernel
theorem test_witness_RowStep : ({ base with agenda := [.row .deviceReset] } : State).agenda = .row .deviceReset :: [] ∧ isSlotOp .deviceReset = false := by
  decide +kernel
theorem test_witness_NoInstructionStops : Issues (.fscan 1 2 0 0 0) 0 base ∧ Issues (.qamax 15 1 0 0 15 0) 0 base ∧ Issues (.vlds 1 2 0 0) 0 base :=
  ⟨issues _ rfl rfl, issues _ rfl rfl, issues _ rfl rfl⟩
theorem test_witness_StepKeepsMemoryCanonical : CanonicalMemory { base with agenda := [.pass 1] } ∧
    ∃ t, step { base with agenda := [.pass 1] } = .next t := ⟨rfl, _, rfl⟩

/-! ## Steps of the engines, the fabric and the host, one each -/

/-- The host maps a range of its memory and writes a byte there (03 R59): a copy then finds it. -/
theorem test_host_turns : (match step { base with agenda := [.hostWrite 5 [7], .hostMaps [(0, 16)]] } with
    | .next t => (match step t with
      | .next u => readByte u.mem (hostPhys 5) == 7 && hostMapped u 15 && !hostMapped u 16
      | _ => false)
    | _ => false) = true := by decide +kernel

theorem test_land_scalar : sVal (ctxAt (after (.exposedResultLand 0) (flying ⟨.scalar, 3⟩ 1)) 0) 3 = 7 ∧
    (ctxAt (after (.exposedResultLand 0) (flying ⟨.scalar, 3⟩ 2)) 0).flights ≠ [] := by decide +kernel
/-- EPEND: ones clear bits 0-2 and set bit 3 (07 Table scalar-5). -/
theorem test_land_epend : (ctxAt (after (.exposedResultLand 0) (onCtx base 0 fun c =>
    { c with epend := 5, flights := [⟨⟨.special, 9⟩, 0b1001, BitVec.allOnes 2048, false, 0, 1, 0⟩] })) 0).epend = 0b1100 := by decide +kernel
/-- ATOM.ADD at job-space address 8: the old word is the answer (15 R317). -/
theorem test_atomAdd_performed :
    let s := after (.remoteAccessPerform (.request 9)) { oneReq (.atomAdd 2 1 3 0 0) 8 (fun r => { r with status := .sent, arg1 := 0xFF }) with
      mem := [(2 ^ 40 + 2 * 65536 + 8, 2)] }
    s.reqs.map (fun r => (r.status, r.value.toNat)) = [(.performed, 2)] ∧ readLE s.mem (2 ^ 40 + 2 * 65536 + 8) 8 = 0x101 := by decide +kernel
/-- Element 1 of a copy is performed once. -/
theorem test_copy_element :
    let s := after (.remoteAccessPerform (.element 9 1)) { copying (own 0x20) 0x100 id with mem := [(0x30, 5)] }
    s.mem = [(0x30, 5), (2 ^ 40 + 2 * 65536 + 0x110, 5)] ∧ s.copies.map (·.moved) ≠ [[]] := by decide +kernel
theorem test_copy_complete : (coreAt (after (.copyComplete 9) (onCore (copying 0 0x100 fun c => { c with moved := [0, 1] }) 0 fun c =>
    { c with counters := c.counters.setIfInBounds 5 3 })) 0).counters[5] = 2 := by decide +kernel
theorem test_stream_drain : (after (.streamDrainWrite 0 7) (streaming (stream true (own 0x100) [3]))).mem = [(0x100, 3)] := by decide +kernel
/-- Two sources of one operation name the register of an input stream: its vector is taken once (10 R246). -/
theorem test_stream_pops : (after (.vadd 3 63 63 3 0 0) (streaming (stream false (own 0) [3, 4]))).cur.pops = [63] := by decide +kernel
/-- A far store and a far load of its bytes in one bundle: the store waits for the load, which reads what stood there as they issued (00 R7). -/
theorem test_bundle_load_before_store :
    let s := { base with cur := { base.cur with first := base.nextId, reads := true } }
    let t := after (.ldd 2 1 8 0) (after (.std 3 1 8 0) (withS [(3, 7)] s))
    (t.reqs.map fun r => (storesTo r, t.reqs.any (follows r))) = [(true, true), (false, false)] := by decide +kernel
theorem test_timer : (ctxAt (after (.timerExpiry 0) (onCtx { base with clock := 9 } 0 fun c => { c with timerAt := some 4 })) 0).epend = 1 := by
  decide +kernel
theorem test_barv_completes :
    let s := after (.barrierArrival 9) (phaseAt { barrier with pa := 1 } (unitReq (.barv 1 0) 1 asSent))
    (s.jobs.flatMap (·.barriers)).map (fun q => (q.phase, q.pa)) = [(6, 2)] := by decide +kernel
theorem test_rkopen_answer : (after (.rackControllerOperation 9) (unitReq (.rkopen 2 1 0) 0 asSent)).reqs.map (fun r => r.value.toNat) = [0x1000] := by
  decide +kernel
theorem test_spawn_enters : ((coreAt (after (.launchArrival 9) (unitReq (.spawn 0 1 2 3 0) 0 asSent)) 0).tasks[0]).status = .ready := by
  decide +kernel
/-- SIGNAL of context 3 sets EPEND bit 1 there and completes with status 0. -/
theorem test_signal : let c := chain [(0, 4), (4, 1), (8, 0x55), (0x10, 3)]
    let s := after (.signal 0 c) (hosting job c)
    (ctxAt s 3).epend = 2 ∧ (ctxAt s 2).epend = 0 ∧ s.completions.map (fun x => (x.tag.toNat, x.status.toNat, x.used)) = [(0x55, 0, 16)] := by
  decide +kernel
theorem test_signal_range : let c := chain [(0, 4), (4, 1), (0x10, 4)]
    (after (.signal 0 c) (hosting job c)).completions.map (fun x => x.status.toNat) = [1] := by decide +kernel
theorem test_loadImage : let c := chain [(0, 1), (0x10, 0), (0x18, 200)]
    (after (.loadImage 0 c) (withImage (hosting job c))).completions.map (fun x => (x.status.toNat, x.result)) = [(0, [1, 0, 0, 0])] := by
  decide +kernel
theorem test_half : (columnAt (after (.coltempRefresh 0 0 421) base) 0 0).half = true ∧ (columnAt (after (.coltempRefresh 0 0 420) base) 0 0).half = false := by
  decide +kernel

/-! ## Whole steps: the second bundle of 05 Table fetch-16 and its outcomes in Table fetch-17 -/

/-- The bundle at 0x10000 with p9 and p10 set to given bits. -/
def second (x y : BitVec 128) : State :=
  let s := { onCtx base 0 fun c => { c with pc := 0x10000, p := (c.p.setIfInBounds 9 x).setIfInBounds 10 y } with
    jobs := [{ job with pages := [⟨1, 0, 2, false, true, true⟩] }], cur := Issue.reset, agenda := [.issue 0] }
  let words := [0xE018005B, 0x08514009, 0x0861800D, 0x02400028, 0x22BFFFF8]
  let put := fun (m : List Host.Cell × Nat) (w : Nat) => (writeLE m.1 m.2 4 w, m.2 + 4)
  { s with mem := (words.foldl put ([], 2 ^ 40 + 2 * 65536)).1 }
def outcome (s : State) : Nat × List (Nat × Nat) :=
  match step s with
  | .next t => ((ctxAt t 0).pc.toNat, (ctxAt t 0).flights.map fun f => (f.dest.ix, f.value.toNat))
  | _ => (0, [])
theorem test_second_b0 : outcome (second 1 0) = (0x10000 + 160, [(5, 1)]) := by decide +kernel
theorem test_second_b1 : outcome (second 0 0) = (0x10000 - 32, []) := by decide +kernel
theorem test_second_none : outcome (second 0 1) = (0x10000 + 20, [(6, 1)]) := by decide +kernel

end Sys2Proof.Tests

end
end

section
/-! SUPPORT. The links and the columns (01 R18-R20, 04 R77, R78, R81-R84): what the accessors read after an update, what the
flits, the layers and the prefetches leave as it was, and the statement about their steps. -/

namespace Sys2Proof.Machine

/-! ## Memory kept, links and columns read after an update -/

theorem memoryKept_of_eq {s t : State} (hm : t.mem = s.mem) (hf : t.full = s.full) (hb : t.bad = s.bad) : MemoryKept s t :=
  ⟨fun _ => by rw [hm], hf, hb⟩

theorem memoryKept_refl (s : State) : MemoryKept s s := memoryKept_of_eq rfl rfl rfl

theorem MemoryKept.trans {s t u : State} (h : MemoryKept s t) (g : MemoryKept t u) : MemoryKept s u :=
  let ⟨hm, hf, hb⟩ := h
  let ⟨gm, gf, gb⟩ := g
  ⟨fun a => (gm a).trans (hm a), gf.trans hf, gb.trans hb⟩

@[simp] theorem linkAt_setLink_same (s : State) (l : Nat) (k : Link) : linkAt (setLink s l k) l = k := look_put_same ..

theorem linkAt_setLink_ne (s : State) (k : Link) {l m : Nat} (h : m ≠ l) : linkAt (setLink s l k) m = linkAt s m :=
  look_put_ne _ _ _ h

@[simp] theorem columnAt_setColumn_same (s : State) (die col : Nat) (c : Column) : columnAt (setColumn s die col c) die col = c :=
  look_put_same ..

/-! ## Which links are in use -/

/-- A link updated with its use unchanged leaves the same links in use. -/
theorem trained_setLink {s : State} {l : Nat} {k : Link} (h : k.trained = (linkAt s l).trained) (m : Nat) :
    (linkAt (setLink s l k) m).trained = (linkAt s m).trained := by
  by_cases hm : m = l
  · subst hm; simpa using h
  · rw [linkAt_setLink_ne s k hm]

/-- The links toward a part depend only on which links are in use. -/
theorem routesTo_congr {s t : State} (h : ∀ m, (linkAt t m).trained = (linkAt s m).trained) (part : Nat) :
    routesTo t part = routesTo s part := by
  simp [routesTo, h]

/-! ## A flit that leaves (04 R82, R83) -/

/-- The link after a flit has left on it: the flit carries the number that the link has taken. -/
def Link.sent (k : Link) (f : Flit) : Link :=
  { k with next := k.next + 1, unacked := k.unacked ++ [{ f with seq := k.next, ack := k.expect, again := k.ask }] }

theorem placeFlit_parks {s : State} {f : Flit} (h : routesTo s f.dest.toNat = []) :
    placeFlit s f = { s with parked := s.parked ++ [f] } := by
  simp [placeFlit, h]

theorem placeFlit_leaves {s : State} {f : Flit} {m : Nat} {ms : List Nat} (h : routesTo s f.dest.toNat = m :: ms) :
    placeFlit s f = setLink s m ((linkAt s m).sent f) := by
  simp [placeFlit, h, Link.sent]

theorem placeFlit_memoryKept (s : State) (f : Flit) : MemoryKept s (placeFlit s f) := by
  cases h : routesTo s f.dest.toNat with
  | nil => rw [placeFlit_parks h]; exact memoryKept_refl s
  | cons m ms => rw [placeFlit_leaves h]; exact memoryKept_refl s

theorem placeFlit_trained (s : State) (f : Flit) (l : Nat) : (linkAt (placeFlit s f) l).trained = (linkAt s l).trained := by
  cases h : routesTo s f.dest.toNat with
  | nil => rw [placeFlit_parks h]; rfl
  | cons m ms => rw [placeFlit_leaves h]; exact trained_setLink (k := (linkAt s m).sent f) rfl l

/-- Flits that leave one after another keep memory, and every link as much in use as before. -/
theorem placeFlits_kept (fs : List Flit) (s : State) (l : Nat) :
    MemoryKept s (fs.foldl placeFlit s) ∧ (linkAt (fs.foldl placeFlit s) l).trained = (linkAt s l).trained :=
  List.foldlRecOn fs placeFlit (motive := fun t => MemoryKept s t ∧ (linkAt t l).trained = (linkAt s l).trained)
    ⟨memoryKept_refl s, rfl⟩ fun t ⟨hm, ht⟩ f _ => ⟨hm.trans (placeFlit_memoryKept t f), (placeFlit_trained t f l).trans ht⟩

/-! ## A flit that arrives: its delivery by class (04 R84) -/

theorem receiveFlit_forwards {s : State} {f : Flit} (h : f.dest ≠ Config.partId) : receiveFlit s f = placeFlit s f := by
  simp [receiveFlit, h]

theorem receiveFlit_ordered {s : State} {f : Flit} (hd : f.dest = Config.partId) (ho : f.body.ordered = true) :
    receiveFlit s f = orderedFlit s f := by
  simp [receiveFlit, hd, ho]

theorem receiveFlit_bulk {s : State} {f : Flit} (hd : f.dest = Config.partId) (ho : f.body.ordered = false) :
    receiveFlit s f = bulkFlit s f := by
  simp [receiveFlit, hd, ho]

theorem orderedFlit_late {s : State} {f : Flit} (h : f.endToEnd < look 0 s.endToEnd f.source.toNat) : orderedFlit s f = s := by
  simp [orderedFlit, h]

theorem orderedFlit_early {s : State} {f : Flit} (he : s.early = []) (h : look 0 s.endToEnd f.source.toNat < f.endToEnd) :
    orderedFlit s f = { s with early := [f] } := by
  have hl : ¬f.endToEnd < look 0 s.endToEnd f.source.toNat := by omega
  have hn : ¬f.endToEnd = look 0 s.endToEnd f.source.toNat := by omega
  simp [orderedFlit, he, hl, deliverInOrder, hn]

theorem orderedFlit_next {s : State} {f : Flit} (he : s.early = []) (h : f.endToEnd = look 0 s.endToEnd f.source.toNat) :
    orderedFlit s f = deliverFlit { s with early := [], endToEnd := put s.endToEnd f.source.toNat (f.endToEnd + 1) } f := by
  simp [orderedFlit, he, deliverInOrder, ← h]

theorem bulkFlit_duplicate {s : State} {f : Flit} (h : (f.source.toNat, f.endToEnd) ∈ s.bulk) : bulkFlit s f = s := by
  simp [bulkFlit, h]

theorem bulkFlit_new {s : State} {f : Flit} (h : (f.source.toNat, f.endToEnd) ∉ s.bulk) :
    bulkFlit s f = deliverFlit { s with bulk := s.bulk ++ [(f.source.toNat, f.endToEnd)] } f := by
  simp [bulkFlit, h]

/-- The last flit of an active message gives it its last four arguments, and it is whole. -/
theorem messageFlit_whole {s : State} {part : BitVec 12} {m : RemoteSend} (args : Vector Word 4)
    (h : s.coming.find? (fun x => x.1 == part.toNat) = some (part.toNat, m)) :
    messageFlit s part true args =
      { s with coming := s.coming.filter fun y => y.1 != part.toNat, inbox := s.inbox ++ [joinArgs m true args] } := by
  simp [messageFlit, h]

theorem joinArgs_whole (m : RemoteSend) (args : Vector Word 4) (i : Nat) (hi : i < 4) :
    (joinArgs m true args).args[i]? = m.args[i]? ∧ (joinArgs m true args).args[4 + i]? = args[i]? := by
  interval_cases i <;> simp [joinArgs, vec8]

/-! ## A flit that arrives: the link (04 R82) -/

/-- The link once it has taken a flit in its sequence. -/
def Link.taken (k : Link) (f : Flit) (now : Nat) : Link :=
  { k with
    expect := k.expect + 1, ask := false
    unacked := (k.unacked.filter fun g => f.ack ≤ g.seq).map fun g => if f.again then { g with ack := k.expect + 1, again := false } else g
    replays := if f.again then k.replayed now else k.replays }

/-- The state in which a link has taken a flit, which has not taken effect yet. -/
def taking (s : State) (l : Nat) (f : Flit) : State := setLink s l ((linkAt s l).taken f (timeNow s))

@[simp] theorem linkAt_taking (s : State) (l : Nat) (f : Flit) : linkAt (taking s l f) l = (linkAt s l).taken f (timeNow s) :=
  linkAt_setLink_same ..

theorem routesTo_taking (s : State) (l : Nat) (f : Flit) (part : Nat) : routesTo (taking s l f) part = routesTo s part :=
  routesTo_congr (trained_setLink (k := (linkAt s l).taken f (timeNow s)) rfl) part

section
variable {s : State} {l : Nat} {f : Flit} (hl : l < 16) (ht : (linkAt s l).trained = true) (hf : f.body.fits = true)
include hl ht hf

/-- A sound flit in link sequence is taken, and then takes effect. -/
theorem exec_flitArrival_sound (hs : f.seq = (linkAt s l).expect) :
    exec (.flitArrival l true f) s = .next (receiveFlit (taking s l f) f) := by
  show execFlitArrival l true f s = _
  by_cases ha : f.again = true <;> simp [execFlitArrival, taking, Link.taken, ht, hf, hs, ha, Nat.not_le.2 hl]

/-- An unsound flit, or one out of link sequence, only has the link ask for it again. -/
theorem exec_flitArrival_unsound {ok : Bool} (h : ok = false ∨ f.seq ≠ (linkAt s l).expect) :
    exec (.flitArrival l ok f) s =
      .next (setLink s l { linkAt s l with ask := true, replays := (linkAt s l).replayed (timeNow s) }) := by
  show execFlitArrival l ok f s = _
  simp [execFlitArrival, ht, hf, h, Nat.not_le.2 hl]

end

/-! ## What a flit that is taken does -/

section
variable {s : State} {l : Nat} {f : Flit}

theorem receive_late (hd : f.dest = Config.partId) (ho : f.body.ordered = true)
    (h : f.endToEnd < look 0 s.endToEnd f.source.toNat) : receiveFlit (taking s l f) f = taking s l f :=
  (receiveFlit_ordered hd ho).trans (orderedFlit_late h)

theorem receive_early (hd : f.dest = Config.partId) (ho : f.body.ordered = true) (he : s.early = [])
    (h : look 0 s.endToEnd f.source.toNat < f.endToEnd) :
    receiveFlit (taking s l f) f = { taking s l f with early := [f] } :=
  (receiveFlit_ordered hd ho).trans (orderedFlit_early he h)

/-- The state in which the next flit in the end-to-end sequence of its source takes effect. -/
def delivering (s : State) (l : Nat) (f : Flit) : State :=
  { taking s l f with early := [], endToEnd := put s.endToEnd f.source.toNat (f.endToEnd + 1) }

theorem receive_next (hd : f.dest = Config.partId) (ho : f.body.ordered = true) (he : s.early = [])
    (h : f.endToEnd = look 0 s.endToEnd f.source.toNat) : receiveFlit (taking s l f) f = deliverFlit (delivering s l f) f :=
  (receiveFlit_ordered hd ho).trans (orderedFlit_next he h)

theorem deliver_copyRead {off n x y : Nat} (hb : f.body = .copyRead off n x y) : deliverFlit (delivering s l f) f =
    { delivering s l f with reads := s.reads ++ [⟨partRequester f.source, off, n, f.endToEnd, s.writes, some (f.source.toNat, x, y)⟩] } := by
  simp only [deliverFlit, hb]; rfl

theorem deliver_lastArgs {m : RemoteSend} {args : Vector Word 4} (hb : f.body = .messageArgs true args)
    (hc : s.coming.find? (fun x => x.1 == f.source.toNat) = some (f.source.toNat, m)) : deliverFlit (delivering s l f) f =
    { delivering s l f with
      coming := s.coming.filter fun y => y.1 != f.source.toNat, inbox := s.inbox ++ [joinArgs m true args] } := by
  simp only [deliverFlit, hb]
  exact messageFlit_whole (s := delivering s l f) args hc

theorem receive_duplicate (hd : f.dest = Config.partId) (ho : f.body.ordered = false)
    (h : (f.source.toNat, f.endToEnd) ∈ s.bulk) : receiveFlit (taking s l f) f = taking s l f :=
  (receiveFlit_bulk hd ho).trans (bulkFlit_duplicate h)

theorem receive_copyWrite {off x y i : Nat} {d : List Byte} (hd : f.dest = Config.partId) (hb : f.body = .copyWrite off d x y i)
    (h : (f.source.toNat, f.endToEnd) ∉ s.bulk) : receiveFlit (taking s l f) f =
    postWrite { taking s l f with bulk := s.bulk ++ [(f.source.toNat, f.endToEnd)] } (partRequester f.source) off (d.map some) false
      (some (f.source.toNat, x, y, i)) := by
  rw [receiveFlit_bulk hd (by rw [hb]; rfl), bulkFlit_new (s := taking s l f) h]
  simp only [deliverFlit, hb]; rfl

theorem receive_parks (hd : f.dest ≠ Config.partId) (h : routesTo s f.dest.toNat = []) :
    receiveFlit (taking s l f) f = { taking s l f with parked := s.parked ++ [f] } :=
  (receiveFlit_forwards hd).trans (placeFlit_parks ((routesTo_taking s l f _).trans h))

theorem receive_leaves {m : Nat} {ms : List Nat} (hd : f.dest ≠ Config.partId) (h : routesTo s f.dest.toNat = m :: ms) (hm : m ≠ l) :
    receiveFlit (taking s l f) f = setLink (taking s l f) m ((linkAt s m).sent f) := by
  rw [receiveFlit_forwards hd, placeFlit_leaves ((routesTo_taking s l f _).trans h), taking, linkAt_setLink_ne _ _ hm]

end

/-! ## Retraining (04 R83) -/

theorem exec_linkRetrain_early {s : State} {l : Nat} (h : retrainDue s l = false) : exec (.linkRetrain l) s = .next s := by
  show execLinkRetrain l s = _
  simp [execLinkRetrain, h]

/-- A link that retrains is out of use, and keeps memory. -/
theorem exec_linkRetrain_due {s : State} {l : Nat} (hl : l < 16) (ht : (linkAt s l).trained = true) (h : retrainDue s l = true) :
    ∃ t, exec (.linkRetrain l) s = .next t ∧ (linkAt t l).trained = false ∧ MemoryKept s t := by
  show ∃ t, execLinkRetrain l s = _ ∧ _
  rw [execLinkRetrain, if_neg (by simp [ht, h, hl])]
  refine ⟨_, rfl, ?_, ?_⟩
  · exact (placeFlits_kept _ _ l).2.trans (by rw [linkAt_setLink_same])
  · exact (placeFlits_kept _ _ l).1

/-- A link that has retrained is in use if the system configuration has it. -/
theorem exec_linkRetrainEnd {s : State} {l : Nat} (hl : l < 16) (ht : (linkAt s l).trained = false) :
    ∃ t, exec (.linkRetrainEnd l) s = .next t ∧ (linkAt t l).trained = Config.linkConfigured ⟨l, hl⟩ ∧ MemoryKept s t := by
  show ∃ t, execLinkRetrainEnd l s = _ ∧ _
  rw [execLinkRetrainEnd, dif_pos hl]
  by_cases hc : Config.linkConfigured ⟨l, hl⟩ = true
  · rw [if_neg (by simp [ht, hc])]
    refine ⟨_, rfl, ?_, ?_⟩
    · exact (placeFlits_kept _ _ l).2.trans (by rw [linkAt_setLink_same, hc])
    · exact (placeFlits_kept _ _ l).1
  · rw [if_pos (by simp [hc])]
    exact ⟨s, rfl, by simp [ht, hc], memoryKept_refl s⟩

/-! ## Layers that go off (23 R411) -/

theorem loseSlices_kept (s : State) (die layer : Nat) :
    (loseSlices s die layer).columns = s.columns ∧ (loseSlices s die layer).layersOff = s.layersOff :=
  List.foldlRecOn _ _ (motive := fun t : State => t.columns = s.columns ∧ t.layersOff = s.layersOff) ⟨rfl, rfl⟩ fun _ h _ _ => h

theorem mem_addTo {α : Type} [BEq α] [LawfulBEq α] (l : List α) (a x : α) : x ∈ addTo l a ↔ x ∈ l ∨ x = a := by
  by_cases h : a ∈ l
  · simp only [addTo, List.contains_iff_mem.2 h, if_true]
    exact ⟨.inl, fun hx => hx.elim id fun e => e ▸ h⟩
  · simp [addTo, h]

theorem emergencyOff_columns (s : State) (die layer : Nat) : (emergencyOff s die layer).columns = s.columns := by
  by_cases h : s.layersOff.contains (die, layer) = true
  · rw [emergencyOff, if_pos h]
  · rw [emergencyOff, if_neg h]; exact (loseSlices_kept s die layer).1

/-- The layers that are off afterwards: those that were, and this one. -/
theorem mem_layersOff_emergencyOff (s : State) (die layer : Nat) (x : Nat × Nat) :
    x ∈ (emergencyOff s die layer).layersOff ↔ x ∈ s.layersOff ∨ x = (die, layer) := by
  by_cases h : s.layersOff.contains (die, layer) = true
  · rw [emergencyOff, if_pos h]
    exact ⟨.inl, fun hx => hx.elim id fun e => e ▸ List.contains_iff_mem.1 h⟩
  · rw [emergencyOff, if_neg h, ← mem_addTo, ← (loseSlices_kept s die layer).2]; rfl

/-- Both layers of a die are turned off. -/
def bothOff (s : State) (die : Nat) : State := emergencyOff (emergencyOff s die 0) die 1

theorem bothOff_columns (s : State) (die : Nat) : (bothOff s die).columns = s.columns :=
  (emergencyOff_columns _ die 1).trans (emergencyOff_columns s die 0)

theorem mem_layersOff_bothOff (s : State) (die : Nat) : (die, 0) ∈ (bothOff s die).layersOff ∧ (die, 1) ∈ (bothOff s die).layersOff := by
  simp [bothOff, mem_layersOff_emergencyOff]

/-! ## Readings of a column (01 R18-R20) -/

/-- The column with a reading taken: HALF is set above 105 °C, and cleared at 100 °C. -/
def Column.reading (c : Column) (t : BitVec 16) : Column :=
  { c with temp := t, half := if 420 < t.toInt then true else if t.toInt ≤ 400 then false else c.half, tempDue := c.tempDue + 1000 }

theorem Column.reading_half_set {c : Column} {t : BitVec 16} (h : 420 < t.toInt) : (c.reading t).half = true := by
  simp [reading, h]

theorem Column.reading_half_cleared {c : Column} {t : BitVec 16} (h : t.toInt ≤ 400) : (c.reading t).half = false := by
  simp [reading, h, show ¬420 < t.toInt by omega]

theorem Column.reading_half_kept {c : Column} {t : BitVec 16} (lo : 400 < t.toInt) (hi : t.toInt ≤ 420) :
    (c.reading t).half = c.half := by
  simp [reading, Int.not_le.2 lo, Int.not_lt.2 hi]

theorem exec_coltempRefresh_early {s : State} {die col : Nat} (t : BitVec 16) (h : timeNow s < (columnAt s die col).tempDue) :
    exec (.coltempRefresh die col t) s = .next s := by
  show execColtempRefresh die col t s = _
  simp [execColtempRefresh, h]

theorem exec_coltempRefresh_due {s : State} {die col : Nat} {t : BitVec 16} (hd : die < 4) (hc : col < 25) (lo : -160 ≤ t.toInt)
    (hi : t.toInt ≤ 600) (h : (columnAt s die col).tempDue ≤ timeNow s) :
    exec (.coltempRefresh die col t) s =
      let u := setColumn s die col ((columnAt s die col).reading t)
      .next (if 500 ≤ t.toInt then bothOff u die else u) := by
  show execColtempRefresh die col t s = _
  rw [execColtempRefresh, if_neg (by omega)]
  rfl

/-! ## Realignment (04 R77, R78) -/

/-- A column whose realignment has come due, and is due next 20 ms later. -/
def Column.realigning (c : Column) : Column := { c with dueAt := c.dueAt + 20000000 }

theorem exec_wallBusRealignment {s : State} {die col : Nat} (hd : die < 4) (hc : col < 25)
    (h : realignmentDue s die col ≤ timeNow s) (hn : (columnAt s die col).deferred = none) (hp : (columnAt s die col).pausing = none) :
    exec (.wallBusRealignment die col) s = .next (setColumn s die col
      (if realignmentHeld s die col then { (columnAt s die col).realigning with deferred := some (timeNow s) }
        else { (columnAt s die col).realigning with pausing := some (timeNow s) })) := by
  show execWallBusRealignment die col s = _
  rw [execWallBusRealignment, if_neg (by simp [hn, hp]; omega)]
  by_cases hh : realignmentHeld s die col = true <;> simp only [hh, if_true, if_false, Bool.false_eq_true] <;> rfl

theorem exec_realignmentDeferralEnd {s : State} {die col t : Nat} (hn : (columnAt s die col).deferred = some t)
    (h : realignmentHeld s die col = false ∨ t + 250000 ≤ timeNow s) :
    exec (.realignmentDeferralEnd die col) s =
      .next (setColumn s die col { columnAt s die col with deferred := none, pausing := some (timeNow s) }) := by
  show execRealignmentDeferralEnd die col s = _
  simp only [execRealignmentDeferralEnd, hn]
  rw [if_neg]
  rcases h with h | h
  · simp [h]
  · simp only [Bool.and_eq_true, decide_eq_true_eq]; omega

theorem exec_realignmentPauseEnd {s : State} {die col t : Nat} (hp : (columnAt s die col).pausing = some t)
    (h : t + 2000 ≤ timeNow s) :
    exec (.realignmentPauseEnd die col) s =
      .next (prefetchesReached (noteReached (setColumn s die col { columnAt s die col with pausing := none }))) := by
  show execRealignmentPauseEnd die col s = _
  simp only [execRealignmentPauseEnd, hp, if_neg (Nat.not_lt.2 h)]

/-! ## The CXL port (03 R67) -/

theorem exec_cxlPortTraining_first {s : State} {size : Nat} (h : s.poolTrained = none) (hs : size ≤ 2 ^ 42) :
    exec (.cxlPortTraining size) s = .next { s with poolTrained := some size } := by
  show execCxlPortTraining size s = _
  rw [execCxlPortTraining, if_neg]
  rintro (trained | large)
  · simp [h] at trained
  · exact absurd hs (Nat.not_le.2 large)

/-! ## The prefetches that a pause held up: the columns and memory are as before -/

/-- The columns and memory, its full bits and its poison marks are as before. -/
def ColumnsAndMemoryKept (s t : State) : Prop := t.columns = s.columns ∧ t.mem = s.mem ∧ t.full = s.full ∧ t.bad = s.bad

namespace ColumnsAndMemoryKept

theorem refl (s : State) : ColumnsAndMemoryKept s s := ⟨rfl, rfl, rfl, rfl⟩

theorem trans {s t u : State} (h : ColumnsAndMemoryKept s t) (g : ColumnsAndMemoryKept t u) : ColumnsAndMemoryKept s u := by
  obtain ⟨h1, h2, h3, h4⟩ := h
  obtain ⟨g1, g2, g3, g4⟩ := g
  exact ⟨g1.trans h1, g2.trans h2, g3.trans h3, g4.trans h4⟩

theorem memory {s t : State} : ColumnsAndMemoryKept s t → MemoryKept s t := fun ⟨_, hm, hf, hb⟩ => memoryKept_of_eq hm hf hb

theorem columnAt {s t : State} (h : ColumnsAndMemoryKept s t) (die col : Nat) : columnAt t die col = columnAt s die col := by
  simp only [Machine.columnAt, h.1]

/-- Steps that keep them, one after another. -/
theorem foldl {α : Type} {op : State → α → State} (h : ∀ s a, ColumnsAndMemoryKept s (op s a)) (l : List α) (s : State) :
    ColumnsAndMemoryKept s (l.foldl op s) :=
  List.foldlRecOn l op (motive := ColumnsAndMemoryKept s) (refl s) fun t ht a _ => ht.trans (h t a)

end ColumnsAndMemoryKept

theorem wakeSlice_kept (s : State) (n : Nat) : ColumnsAndMemoryKept s (wakeSlice s n) := by
  unfold wakeSlice; split <;> exact ⟨rfl, rfl, rfl, rfl⟩

theorem evicted_kept (s : State) (line : Nat) : ColumnsAndMemoryKept s (evicted s line) := by
  unfold evicted; dsimp only; repeat' split
  all_goals exact ⟨rfl, rfl, rfl, rfl⟩

theorem touchLine_kept (write : Bool) (l : List Nat) (s : State) (line : Nat) : ColumnsAndMemoryKept s (touchLine write l s line) := by
  refine .trans ?_ (evicted_kept _ line)
  split <;> exact ⟨rfl, rfl, rfl, rfl⟩

theorem cached_kept (s : State) (write : Bool) (l : List Nat) : ColumnsAndMemoryKept s (cached s write l) :=
  .trans (.foldl wakeSlice_kept _ s) (.foldl (touchLine_kept write l) _ _)

theorem touchPage_kept (j : Job) (n : Nat) (s : State) (vpage : Nat) : ColumnsAndMemoryKept s (touchPage j n s vpage) := by
  unfold touchPage; dsimp only; repeat' split
  all_goals exact ⟨rfl, rfl, rfl, rfl⟩

theorem touchRoutes_kept (s : State) (j : Job) (n : Nat) (l : List Nat) : ColumnsAndMemoryKept s (touchRoutes s j n l) :=
  .foldl (touchPage_kept j n) _ s

theorem prefetchLine_kept (s : State) (x : Prefetch) : ColumnsAndMemoryKept s (prefetchLine s x) := by
  unfold prefetchLine
  split
  · exact .refl s
  · split
    · exact .refl s
    · split
      · exact .refl s
      · exact (cached_kept s _ _).trans (touchRoutes_kept _ _ _ _)

theorem sendPrefetch_kept (s : State) (x : Prefetch) : ColumnsAndMemoryKept s (sendPrefetch s x) := by
  unfold sendPrefetch; split
  · exact ⟨rfl, rfl, rfl, rfl⟩
  · exact prefetchLine_kept s x

theorem prefetchesReached_kept (s : State) : ColumnsAndMemoryKept s (prefetchesReached s) :=
  .trans ⟨rfl, rfl, rfl, rfl⟩ (.foldl sendPrefetch_kept _ { s with prefetches := [] })

theorem noteReached_kept (s : State) : ColumnsAndMemoryKept s (noteReached s) := ⟨rfl, rfl, rfl, rfl⟩

/-- After a pause that has lasted 2 µs the column pauses no more, and memory is as before. -/
theorem realignmentPauseEnd_kept {s : State} {die col t : Nat} (hp : (columnAt s die col).pausing = some t) (h : t + 2000 ≤ timeNow s) :
    ∃ u, exec (.realignmentPauseEnd die col) s = .next u ∧ (columnAt u die col).pausing = none ∧ MemoryKept s u := by
  have kept := (noteReached_kept (setColumn s die col { columnAt s die col with pausing := none })).trans (prefetchesReached_kept _)
  refine ⟨_, exec_realignmentPauseEnd hp h, ?_, kept.memory⟩
  rw [kept.columnAt, columnAt_setColumn_same]

/-- A due reading is the column's, and memory is kept but where the layers go off at 125 °C. -/
theorem coltempRefresh_reads {s : State} {die col : Nat} {t : BitVec 16} (hd : die < 4) (hc : col < 25) (lo : -160 ≤ t.toInt)
    (hi : t.toInt ≤ 600) (h : (columnAt s die col).tempDue ≤ timeNow s) :
    ∃ u, exec (.coltempRefresh die col t) s = .next u ∧ columnAt u die col = (columnAt s die col).reading t ∧
      (t.toInt < 500 → MemoryKept s u) ∧ (500 ≤ t.toInt → (die, 0) ∈ u.layersOff ∧ (die, 1) ∈ u.layersOff) := by
  refine ⟨_, exec_coltempRefresh_due hd hc lo hi h, ?_⟩
  by_cases hot : 500 ≤ t.toInt
  · rw [if_pos hot]
    refine ⟨?_, fun cold => absurd hot (by omega), fun _ => mem_layersOff_bothOff _ die⟩
    rw [columnAt, bothOff_columns]
    exact columnAt_setColumn_same ..
  · rw [if_neg hot]
    exact ⟨columnAt_setColumn_same .., fun _ => memoryKept_refl s, fun h => absurd h hot⟩

/-- Settles O52: a taken flit takes effect by its class (`receive_…`, `deliver_…`), what leaves and what retrains keeps memory and the
use of the other links (`placeFlits_kept`), and of what happens to a column only layers that go off touch memory. -/
theorem linkAndColumnSteps : Obligations.LinkAndColumnSteps := by
  intro s l die col size f temp c k src taken arrives
  refine ⟨fun hl ht hf => ⟨fun hs => ?_, fun ok h => ?_, exec_linkRetrain_due hl ht, exec_linkRetrain_early⟩, exec_linkRetrainEnd,
    fun hd hc => ⟨exec_coltempRefresh_early temp, fun lo hi h => ?_, fun h hn hp => ?_⟩, fun t hn h => ?_,
    fun t => realignmentPauseEnd_kept, fun h hs => ?_⟩
  · have sound := exec_flitArrival_sound hl ht hf hs
    refine ⟨fun hd ho => ⟨fun h => ?_, fun he h => ?_, fun off n x y he h hb => ?_, fun m args he h hb hc => ?_⟩,
      fun hd ho h => ?_, fun off d x y i hd hb h => ?_, fun hd h => ?_, fun m ms hd h hm => ?_⟩
    · exact ⟨_, sound, receive_late hd ho h⟩
    · exact ⟨_, sound, receive_early hd ho he h⟩
    · rw [receive_next hd ho he h, deliver_copyRead hb] at sound
      exact ⟨_, sound, linkAt_taking s l f, look_put_same .., rfl, memoryKept_refl s, rfl⟩
    · rw [receive_next hd ho he h, deliver_lastArgs hb hc] at sound
      exact ⟨_, sound, _, rfl, memoryKept_refl s, joinArgs_whole m args⟩
    · exact ⟨_, sound, receive_duplicate hd ho h⟩
    · rw [receive_copyWrite hd hb h] at sound
      exact ⟨_, sound, linkAt_taking s l f, rfl, memoryKept_refl s, rfl⟩
    · exact ⟨_, sound, receive_parks hd h⟩
    · rw [receive_leaves hd h hm] at sound
      refine ⟨_, sound, ?_, ?_, memoryKept_refl s⟩
      · rw [linkAt_setLink_ne _ _ hm.symm]
        exact linkAt_taking s l f
      · rw [linkAt_setLink_same]; rfl
  · exact ⟨_, exec_flitArrival_unsound hl ht hf h, linkAt_setLink_same .., rfl, rfl, memoryKept_refl s⟩
  · obtain ⟨t, run, reading, cold, hot⟩ := coltempRefresh_reads hd hc lo hi h
    refine ⟨t, run, ?_⟩
    rw [reading]
    exact ⟨rfl, rfl, cold, hot, Column.reading_half_set, Column.reading_half_cleared, Column.reading_half_kept⟩
  · refine ⟨_, exec_wallBusRealignment hd hc h hn hp, ?_, memoryKept_refl s, ?_⟩ <;> rw [columnAt_setColumn_same]
    · split <;> rfl
    · split
      · exact ⟨rfl, hp⟩
      · rfl
  · exact ⟨_, exec_realignmentDeferralEnd hn h, by rw [columnAt_setColumn_same], by rw [columnAt_setColumn_same]⟩
  · exact exec_cxlPortTraining_first h hs

end Sys2Proof.Machine
end

section
/-! SUPPORT. Bundles of one operation (05 R88-R103): what its slot word says of the word's size, its path tag and its template, the
header and the words that the encoder writes, and the statements about decoding. -/

namespace Sys2Proof.Laws.Encoding

/-! ## The slot word -/

/-- The word of every well-formed operation decodes to it: the laws of all constructors. -/
theorem decodeSlot_slotWord (i : Instr) : Statement i :=
  Instr.casesOn (motive := Statement) i
    nop add sub and or xor andn shl shr sra rol min max minn maxn addw subw clz ctz popc bswap mul mulh mulhn addi andi ori xori shli shri
    srai roli ldi cmp cmpAnd cmpi pand por pxor pandn pnot pset pclr pfirst pfroms pcount sels mfs mts loop loopi brklp waitc trap rft
    yield tend fencel fenceh svc svcNop svcLog svcProbe svcTouch bt bf bany ball j call chk jr ldb ldbn ldh ldhn ldw ldwn ldd stb sth stw
    std lds vld vst vlds vldb vstb vgath vscat ldfe ldfec vldfe vldfec stf vstf ldacq strel atomAdd atomMin atomMax atomMinn atomMaxn
    atomAnd atomOr atomXor atomSwap cas vatomAdd vatomAnd vatomOr vatomMax rkopen rkpub rktake rkdrop binit barv bwait pref vadd vsub vmul
    vfma vfms vfnma vmin vmax vabs vneg vcmp vand vor vxor vshl vshr vsra vsel vadds vmuls vfmas vbcast vext vins vperm vslide viota vcvt
    kunp kunpq klds kldss qpk qpkq qamax qsts frcp frsq fsqrt fexp2 flog2 fsin fcos ftanh fsum fmaxr fminr fscan ewr erd copy copyRack
    bindIn bindOut unbind mma mmas mzero mld mst mstRack mpri spawn tset tdec twait gsend ready unready asend peel addiLong andiLong
    oriLong xoriLong ldiLong ldhi cmpiLong loopiLong ldbLong ldbnLong ldhLong ldhnLong ldwLong ldwnLong lddLong stbLong sthLong stwLong
    stdLong ldsLong vldLong vstLong vldsLong ldfeLong ldfecLong vldfeLong vldfecLong stfLong vstfLong prefLong vaddsLong vmulsLong
    vfmasLong vbcastLong mproof queueNotification pin unpin configWrite loadImage createJob start signal preempt resume kill copyIn
    copyOut hostCopyComplete setTolerance queryPart queryJob queryBinding queryClusterMap queryAttestation queryCertChain queryErrorLog
    peelRequest inboundPostedWrite inboundPacketRelease inboundPacketAck inboundRead deviceReset bootComplete poolTransactionTimeout
    writeAck wallBusRealignment realignmentDeferralEnd realignmentPauseEnd flitArrival linkRetrain linkRetrainEnd coltempRefresh
    instructionFetchComplete exposedResultLand longResultLand contextSelect waitcEnd contextIdle gatherBufferFlush fencehComplete
    remoteAccessPerform translationWalkComplete routeStaleResend fullEmptyRequestArrival copyElementFault copyElementReplay copyComplete
    copyFailure copyByteReport streamReadAhead streamDrainWrite matrixCommandStart matrixBoundary matrixCommandComplete mstComplete
    matrixFetchFault matrixPriorityAgeing handoverStopAndHold handoverQueueDrain handoverWriteback handoverTlbInvalidate handoverOwnerFlip
    handoverHeldRequests handoverComplete barrierArrival barvPhaseReturn counterDecrement taskStart taskPriorityAgeing launchArrival
    asendRemoteArrival readinessUpdate groupMessageSteer memberCoreDelivery groupBounce refreshAnswer parkRelease groupMessageAck
    eventEntry trapEntry lateFaultDelivery timerExpiry serviceContextEntry serviceContextReturn serviceDeadline preemptStopTimeout
    preemptImageWrite killGraceExpiry jobEnd scrubPass serviceStoreReload mgmtDataError powerStateEntry powerStateWake layerEmergencyOff
    rackControllerOperation barrierUnitRequest mstTileRead serviceStoreReloadDone cxlPortTraining launchAcknowledgement

theorem slotWord_lt {i : Instr} {c : Cls} {w : Nat} {m : Option (BitVec 32)} (hs : slotWord i = some (c, w, m)) : w < 2 ^ 32 := by
  cases i
  all_goals cases hs
  all_goals omega

/-- A well-formed operation that is no test carries a path tag below 7 in the low bits of its word (05 R92). -/
theorem pathTag_lt {i : Instr} {c : Cls} {w : Nat} {m : Option (BitVec 32)} (hw : i.wellFormed = true)
    (hs : slotWord i = some (c, w, m)) (hc : c ≠ .b) : w % 8 < 7 := by
  cases i
  all_goals cases hs
  case bt | bf | bany | ball | j | call | chk | jr => exact absurd rfl hc
  all_goals
    simp only [Instr.wellFormed, decide_eq_true_eq] at hw
    omega

/-- The short X map has no LDHI, and the short T map no MPROOF: both are long-only (05 R98, R102). -/
theorem decodeShort_longOnly {c : Cls} {w : Nat} (h : c = .x ∧ w / 67108864 = 8 ∨ c = .t ∧ w / 67108864 = 11) :
    decodeShort c w = none := by
  rcases h with ⟨rfl, h⟩ | ⟨rfl, h⟩
  · simp [decodeShort, decodeX, h]
  · simp [decodeShort, decodeT, h]

/-- Only a long-capable operation has a long form (05 R91). -/
theorem decodeLong_incapable {c : Cls} {w : Nat} {m : BitVec 32} (h : longCapable c (w / 67108864) = false) :
    decodeLong c w m = none := by
  cases c with
  | x | m | v | t =>
    dsimp only [decodeLong]
    split
    all_goals simp_all [longCapable]
  | k | q | f | b => rfl

theorem decodeSlot_short {c : Cls} {w : Nat} {i : Instr} (h : decodeSlot c w none = some i) : decodeShort c w ≠ none := by
  intro e
  simp [decodeSlot, e] at h

theorem decodeSlot_long {c : Cls} {w : Nat} {m : BitVec 32} {i : Instr} (h : decodeSlot c w (some m) = some i) :
    longCapable c (w / 67108864) = true := by
  by_contra e
  simp [decodeSlot, decodeLong_incapable (Bool.eq_false_iff.mpr e)] at h

/-! ## A bundle of one operation: its header and its words -/

/-- The position of an operation that stands alone. -/
def solePos : Cls → Nat
  | .x => 0 | .m => 2 | .v => 4 | .k => 6 | .q => 7 | .f => 8 | .t => 9 | .b => 10

/-- The header of a bundle of one operation. -/
def soleHeader (c : Cls) (long : Bool) : Nat := 2 ^ 31 + soloHeader c long + 0x5B

/-- The words after it, in MASK order: of the T class the surrendered word stands first (Table fetch-3). -/
def soleWords (c : Cls) (w : Nat) : Option (BitVec 32) → List Nat
  | none => [w]
  | some m => if c = .t then [m.toNat, w] else [w, m.toNat]

/-- The path tag of an operation that stands alone names a test, which is absent (05 R93). -/
def namesTest (c : Cls) (w : Nat) : Bool := c != .b && ((1 ≤ w % 8 && w % 8 ≤ 4) || w % 8 == 6)

/-- The path-tag check of `bndDefect` (05 R93): the tag names an absent test, or one that is taken where there is none. -/
def tagDefect (h p w : Nat) : Bool :=
  (1 ≤ wordTag p w && wordTag p w ≤ 4 && !maskHas h (9 + wordTag p w)) ||
  (wordTag p w == 6 && !positions.any fun q => 10 ≤ q && maskHas h q)

/-- The header declares the position of class `c` and no other whose word is an operation (05 R88-R91). -/
structure SoleHeader (h : Nat) (c : Cls) : Prop where
  ok : headerOk h = true
  stop : (h / 2 ^ 31 % 2 == 1) = true
  templates : ∀ q ∈ positions, templateDefect h q = false
  present : maskHas h (solePos c) = true
  live : surrendered h (solePos c) = false
  others : ∀ q ∈ positions, q ≠ solePos c → maskHas h q = true → surrendered h q = true
  giver : ∀ q ∈ surrenderTo h (solePos c), maskHas h q = true
  noTest : c ≠ .b → ∀ q ∈ positions, 10 ≤ q → maskHas h q = false

/-- In these words the operation of class `c` with word `w` stands alone. -/
structure Sole (h : Nat) (ws : List Nat) (c : Cls) (w : Nat) (m : Option (BitVec 32)) : Prop extends SoleHeader h c where
  length : bundleLen h = 4 * (1 + ws.length)
  word : wordAt h ws (solePos c) = w
  imm : (surrenderTo h (solePos c)).map (fun q => BitVec.ofNat 32 (wordAt h ws q)) = m

@[simp] theorem posClass_solePos (c : Cls) : posClass (solePos c) = c := by cases c <;> rfl

theorem solePos_mem (c : Cls) : solePos c ∈ positions := by cases c <;> decide

/-! ## Its decoding -/

/-- The first that passes a test which one element alone can pass. -/
theorem find?_sole {l : List Nat} {f : Nat → Bool} {p : Nat} (hp : p ∈ l) (h : ∀ q ∈ l, q ≠ p → f q = false) :
    l.find? f = if f p then some p else none := by
  by_cases hf : f p = true
  · obtain ⟨q, hq⟩ := Option.isSome_iff_exists.mp (List.find?_isSome.mpr ⟨p, hp, hf⟩)
    have : q = p := by
      by_contra hne
      have := List.find?_some hq
      simp [h q (List.mem_of_find?_eq_some hq) hne] at this
    rw [hq, if_pos hf, this]
  · rw [if_neg hf, List.find?_eq_none]
    intro q hq
    by_cases e : q = p
    · rwa [e]
    · simp [h q hq e]

theorem decodeAt_surrendered {h q : Nat} (ws : List Nat) (hs : surrendered h q = true) : decodeAt h ws q = some none := by
  simp [decodeAt, hs]

theorem decodeSlots_surrendered {h : Nat} (ws : List Nat) {l : List Nat} (hs : ∀ q ∈ l, surrendered h q = true) :
    decodeSlots h ws l = .ok [] := by
  induction l with
  | nil => rfl
  | cons q l ih =>
    rw [List.forall_mem_cons] at hs
    simp [decodeSlots, decodeAt_surrendered ws hs.1, ih hs.2]

/-- Where all positions but one surrender their words, that one decides. -/
theorem decodeSlots_sole {h p : Nat} {ws l : List Nat} (hp : p ∈ l) (nodup : l.Nodup)
    (hs : ∀ q ∈ l, q ≠ p → surrendered h q = true) :
    (decodeAt h ws p = none → decodeSlots h ws l = .error p) ∧
    ∀ i, decodeAt h ws p = some (some i) → decodeSlots h ws l = .ok [⟨p, i⟩] := by
  induction l with
  | nil => cases hp
  | cons q l ih =>
    rw [List.forall_mem_cons] at hs
    rw [List.nodup_cons] at nodup
    obtain ⟨hq, hl⟩ := hs
    by_cases e : q = p
    · subst e
      have rest := decodeSlots_surrendered ws fun x hx => hl x hx fun e => nodup.1 (e ▸ hx)
      exact ⟨fun ha => by simp [decodeSlots, ha], fun i ha => by simp [decodeSlots, ha, rest]⟩
    · have hp' : p ∈ l := (List.mem_cons.mp hp).resolve_left (Ne.symm e)
      obtain ⟨bad, good⟩ := ih hp' nodup.2 hl
      exact ⟨fun ha => by simp [decodeSlots, decodeAt_surrendered ws (hq e), bad ha],
        fun i ha => by simp [decodeSlots, decodeAt_surrendered ws (hq e), good i ha]⟩

section
variable {h : Nat} {ws : List Nat} {c : Cls} {w : Nat} {m : Option (BitVec 32)} {i : Instr}

theorem Sole.decodeAt_eq (S : Sole h ws c w m) (hd : decodeSlot c w m = some i) :
    decodeAt h ws (solePos c) = if loopEndsShort (bundleLen h) i then none else some (some i) := by
  simp [decodeAt, S.live, S.word, S.imm, hd]

/-- The template of a sole operation that decodes is in order (05 R91), so the check of its position is that of its path tag. -/
theorem Sole.bndDefect_eq (S : Sole h ws c w m) (hd : decodeSlot c w m = some i) :
    bndDefect h ws (solePos c) = tagDefect h (solePos c) w := by
  have imm := S.imm
  cases hq : surrenderTo h (solePos c) with
  | some q =>
    rw [hq] at imm
    subst imm
    simp [bndDefect, tagDefect, S.live, S.word, hq, S.giver q hq, decodeSlot_long hd]
  | none =>
    rw [hq] at imm
    subst imm
    have notLong : ((c == .x && w / 67108864 == 8) || (c == .t && w / 67108864 == 11)) = false := by
      simpa using mt decodeShort_longOnly (decodeSlot_short hd)
    simp only [bndDefect, tagDefect, S.live, S.word, hq, posClass_solePos, notLong, Bool.false_or, Bool.false_eq_true, if_false]

/-- Beside a sole operation no test stands, so its path tag may name none. -/
theorem SoleHeader.tagDefect_eq (S : SoleHeader h c) (w : Nat) : tagDefect h (solePos c) w = namesTest c w := by
  by_cases hb : c = .b
  · subst hb
    rfl
  · have absent := S.noTest hb
    have noTests : (positions.any fun q => 10 ≤ q && maskHas h q) = false := by simpa [List.any_eq_false] using absent
    have named : 1 ≤ w % 8 → w % 8 ≤ 4 → maskHas h (9 + w % 8) = false := fun lo hi =>
      absent _ (by simp [positions]; omega) (by omega)
    have tag : wordTag (solePos c) w = w % 8 := by
      cases c with
      | b => exact absurd rfl hb
      | _ => rfl
    rw [tagDefect, noTests, tag]
    by_cases lo : 1 ≤ w % 8 <;> by_cases hi : w % 8 ≤ 4 <;> simp [namesTest, hb, lo, hi, named]

/-- A sole operation is rejected for its path tag first, then for a loop that ends too early, and is the bundle otherwise. -/
theorem Sole.decodeBundle_eq (S : Sole h ws c w m) (hd : decodeSlot c w m = some i) :
    decodeBundle (h :: ws) = if namesTest c w then .error (.illbnd, solePos c) else
      if loopEndsShort (bundleLen h) i then .error (.illop, solePos c) else .ok ⟨true, bundleLen h, [⟨solePos c, i⟩]⟩ := by
  have mem := solePos_mem c
  have find : (positions.find? fun q => templateDefect h q || (maskHas h q && bndDefect h ws q)) =
      if namesTest c w then some (solePos c) else none := by
    rw [find?_sole mem, S.templates _ mem, S.present, S.bndDefect_eq hd, S.tagDefect_eq w]
    · rfl
    · intro q hq hne
      rw [S.templates q hq]
      by_cases hm : maskHas h q = true
      · simp [bndDefect, S.others q hq hne hm]
      · simp [hm]
  have declared : solePos c ∈ Sys2Proof.present h := List.mem_filter.mpr ⟨mem, S.present⟩
  have nodup : (Sys2Proof.present h).Nodup := List.Nodup.filter _ (by decide : positions.Nodup)
  obtain ⟨bad, good⟩ := decodeSlots_sole (h := h) (ws := ws) declared nodup
    fun q hq hne => S.others q (List.mem_of_mem_filter hq) hne (List.of_mem_filter hq)
  rw [S.decodeAt_eq hd] at bad good
  dsimp only [decodeBundle]
  rw [find, S.ok, S.stop]
  by_cases hn : namesTest c w = true
  · simp [hn]
  · by_cases hl : loopEndsShort (bundleLen h) i = true
    · simp [hn, hl, bad]
    · simp [hn, hl, good i]

/-! ## Its encoding -/

/-- The words of a short form are a sole operation. -/
theorem sole_short (c : Cls) (w : Nat) : Sole (soleHeader c false) [w] c w none := by
  have header : SoleHeader (soleHeader c false) c := by cases c <;> constructor <;> decide
  refine ⟨header, ?_, ?_, ?_⟩ <;> cases c <;> rfl

/-- Those of a long form too, in the four classes that have one. -/
theorem sole_long {c : Cls} (hc : c = .x ∨ c = .m ∨ c = .v ∨ c = .t) (w : Nat) (m : BitVec 32) :
    Sole (soleHeader c true) (soleWords c w (some m)) c w (some m) := by
  have header : SoleHeader (soleHeader c true) c := by
    rcases hc with rfl | rfl | rfl | rfl <;> constructor <;> decide
  refine ⟨header, ?_, ?_, ?_⟩
  · rcases hc with rfl | rfl | rfl | rfl <;> rfl
  · rcases hc with rfl | rfl | rfl | rfl <;> rfl
  · have given : some (BitVec.ofNat 32 m.toNat) = some m := by simp
    rcases hc with rfl | rfl | rfl | rfl <;> exact given

theorem sole_of_decodeSlot (hd : decodeSlot c w m = some i) : Sole (soleHeader c m.isSome) (soleWords c w m) c w m := by
  cases m with
  | none => exact sole_short c w
  | some m =>
    have hc := decodeSlot_long hd
    refine sole_long ?_ w m
    cases c with
    | x | m | v | t => simp
    | k | q | f | b => cases hc
end

theorem toNat_word {x : Nat} (h : x < 2 ^ 32) : (BitVec.ofNat 32 x).toNat = x := by rw [BitVec.toNat_ofNat, Nat.mod_eq_of_lt h]

theorem soleHeader_lt (c : Cls) (long : Bool) : soleHeader c long < 2 ^ 32 := by cases c <;> cases long <;> decide

/-- The encoder writes the header and the words of a sole operation. -/
theorem encode_eq {i : Instr} {c : Cls} {w : Nat} {m : Option (BitVec 32)} (hs : slotWord i = some (c, w, m)) :
    (encode i).map (·.toNat) = soleHeader c m.isSome :: soleWords c w m := by
  have header := toNat_word (soleHeader_lt c m.isSome)
  have word := toNat_word (slotWord_lt hs)
  unfold encode
  split
  · cases hs
  · rw [hs]
    cases m with
    | none => exact congrArg₂ (fun x y => [x, y]) header word
    | some imm =>
      cases c with
      | t => exact congrArg₂ (fun x y => [x, imm.toNat, y]) header word
      | _ => exact congrArg₂ (fun x y => [x, y, imm.toNat]) header word

/-- Settles O54: what the encoder writes is a sole operation (`encode_eq`, `sole_of_decodeSlot`) whose word decodes to it
(`decodeSlot_slotWord`), so that the decoder's answer turns on its path tag and its loop end alone. -/
theorem bundleRoundTrip : Obligations.BundleRoundTrip := by
  refine ⟨fun e => ?_, fun i c w m hw hs => ?_⟩
  · fin_cases e <;> rfl
  · intro n p bundle
    have hd := decodeSlot_slotWord i hw c w m hs
    have S := sole_of_decodeSlot hd
    have len : bundleLen (soleHeader c m.isSome) = n := by
      have : ((encode i).map (·.toNat)).length = (soleWords c w m).length + 1 := by rw [encode_eq hs, List.length_cons]
      rw [S.length, Nat.add_comm, ← this, List.length_map]
    have run := S.decodeBundle_eq hd
    rw [← encode_eq hs, len] at run
    have hp : p = solePos c := by cases c <;> rfl
    rw [hp]
    refine ⟨fun tag => run.trans (if_neg ?_), fun hb h0 h5 => run.trans (if_pos ?_)⟩
    · unfold namesTest
      rcases tag with rfl | tag | tag
      · simp
      · simp [tag]
      · simp [tag]
    · have := pathTag_lt hw hs hb
      simp [namesTest, hb]
      omega

/-- Settles O55: the bundles are decoded by evaluation, and each word is the slot word of its operation. -/
theorem decodeWords : Obligations.DecodeWords := by
  refine ⟨by decide, by decide, by decide, ?_, ?_, ?_, ?_, ?_, ?_, ?_, ?_⟩
  · exact sub 3 1 2 0 rfl _ _ _ rfl
  · exact vldb 5 7 9 2 0 rfl _ _ _ rfl
  · exact vadd 1 2 3 2 4 0 rfl _ _ _ rfl
  · exact kunpq 8 9 1 2 5 0 rfl _ _ _ rfl
  · exact qpk 8 9 0 1 0 1 1 0 rfl _ _ _ rfl
  · exact fsum 2 3 0 0 0 rfl _ _ _ rfl
  · exact tdec 4 5 33 0 rfl _ _ _ rfl
  · exact jr 1 7 rfl _ _ _ rfl

end Sys2Proof.Laws.Encoding
end

section
/-! SUPPORT. The issue stage (05 R86, 06 R125, R140, R145, 13 R287, 14 R304): what a fetch's own access leaves as it was, which
context the selector takes, what an empty cycle and a fence do, and the statement about these steps. -/

namespace Sys2Proof.Machine

/-! ## Contexts and work kept -/

theorem workKept_refl (s : State) : WorkKept s s := ⟨rfl, rfl, rfl, rfl, rfl, rfl, rfl, rfl, rfl⟩

theorem WorkKept.trans {s t u : State} (h : WorkKept s t) (g : WorkKept t u) : WorkKept s u := by
  obtain ⟨h1, h2, h3, h4, h5, h6, h7, h8, h9⟩ := h
  obtain ⟨g1, g2, g3, g4, g5, g6, g7, g8, g9⟩ := g
  exact ⟨g1.trans h1, g2.trans h2, g3.trans h3, g4.trans h4, g5.trans h5, g6.trans h6, g7.trans h7, g8.trans h8, g9.trans h9⟩

theorem ctxAt_of_ctxs {s t : State} (h : t.ctxs = s.ctxs) (k : Nat) : ctxAt t k = ctxAt s k := by rw [ctxAt, ctxAt, h]

theorem othersKept_onCtx (s : State) (k : Nat) (f : Ctx → Ctx) : OthersKept s (onCtx s k f) k := fun _ hq => ctxAt_onCtx_ne s f hq

/-- A change of one context changes nothing else. -/
theorem onlyContext_onCtx (s : State) (k : Nat) (f : Ctx → Ctx) : OnlyContext s (onCtx s k f) k :=
  ⟨othersKept_onCtx s k f, memoryKept_refl s, ⟨fun _ => rfl, fun _ _ => rfl⟩, workKept_refl s,
    ⟨rfl, rfl, rfl, rfl, rfl, rfl, rfl, rfl, rfl, rfl, rfl⟩⟩

@[simp] theorem ctxAt_passClocks (s : State) (n k : Nat) : ctxAt (passClocks s n) k = ctxAt s k := rfl
@[simp] theorem coreAt_passClocks (s : State) (n m : Nat) : coreAt (passClocks s n) m = coreAt s m := rfl
@[simp] theorem ctxAt_leaveStage (s : State) (k q : Nat) : ctxAt (leaveStage s k) q = ctxAt s q := rfl

/-! ## A fetch's own access to the caches (05 R86, 13 R279, R281) -/

/-- Contexts, work under way and the instruction caches are as before. -/
structure FetchKept (s t : State) : Prop where
  ctxs : t.ctxs = s.ctxs
  work : WorkKept s t
  icache : ∀ n, (coreAt t n).icache = (coreAt s n).icache

namespace FetchKept

theorem refl (s : State) : FetchKept s s := ⟨rfl, workKept_refl s, fun _ => rfl⟩

theorem trans {s t u : State} (h : FetchKept s t) (g : FetchKept t u) : FetchKept s u :=
  ⟨g.ctxs.trans h.ctxs, h.work.trans g.work, fun n => (g.icache n).trans (h.icache n)⟩

/-- Steps that keep them, one after another. -/
theorem foldl {α : Type} {op : State → α → State} (h : ∀ s a, FetchKept s (op s a)) (l : List α) (s : State) :
    FetchKept s (l.foldl op s) :=
  List.foldlRecOn l op (motive := FetchKept s) (refl s) fun t ht a _ => ht.trans (h t a)

end FetchKept

theorem wakeSlice_fetchKept (s : State) (n : Nat) : FetchKept s (wakeSlice s n) := by
  unfold wakeSlice
  split
  · refine ⟨rfl, workKept_refl s, fun m => ?_⟩
    show (coreAt (onCore s n fun c => { c with gated := false }) m).icache = _
    by_cases h : m = n
    · rw [h, coreAt_onCore_same]
    · rw [coreAt_onCore_ne s _ h]
  · exact .refl s

theorem evicted_fetchKept (s : State) (line : Nat) : FetchKept s (evicted s line) := by
  unfold evicted; dsimp only; repeat' split
  all_goals exact ⟨rfl, workKept_refl s, fun _ => rfl⟩

theorem touchLine_fetchKept (write : Bool) (l : List Nat) (s : State) (line : Nat) : FetchKept s (touchLine write l s line) := by
  refine .trans ?_ (evicted_fetchKept _ line)
  split <;> exact ⟨rfl, workKept_refl s, fun _ => rfl⟩

theorem cached_fetchKept (s : State) (write : Bool) (l : List Nat) : FetchKept s (cached s write l) :=
  .trans (.foldl wakeSlice_fetchKept _ s) (.foldl (touchLine_fetchKept write l) _ _)

theorem touchPage_fetchKept (j : Job) (n : Nat) (s : State) (vpage : Nat) : FetchKept s (touchPage j n s vpage) := by
  unfold touchPage; dsimp only; repeat' split
  all_goals exact ⟨rfl, workKept_refl s, fun _ => rfl⟩

theorem fetchTouch_fetchKept (s : State) (n : Nat) (a : Word) (len : Nat) : FetchKept s (fetchTouch s n a len) := by
  unfold fetchTouch; dsimp only; repeat' split
  · exact .refl s
  · exact (cached_fetchKept s _ _).trans (.foldl (touchPage_fetchKept _ n) _ _)
  · exact .refl s

theorem fetchTouch_memoryKept (s : State) (n : Nat) (a : Word) (len : Nat) : MemoryKept s (fetchTouch s n a len) := by
  unfold fetchTouch; dsimp only; repeat' split
  · exact memoryKept_refl s
  · exact ((cached_kept s _ _).trans (touchRoutes_kept _ _ n _)).memory
  · exact memoryKept_refl s

theorem cacheBundle_ctxs (s : State) (n : Nat) (a : Word) (len : Nat) : (cacheBundle s n a len).ctxs = s.ctxs :=
  (fetchTouch_fetchKept s n a len).ctxs

theorem cacheBundle_workKept (s : State) (n : Nat) (a : Word) (len : Nat) : WorkKept s (cacheBundle s n a len) :=
  (fetchTouch_fetchKept s n a len).work

theorem cacheBundle_memoryKept (s : State) (n : Nat) (a : Word) (len : Nat) : MemoryKept s (cacheBundle s n a len) :=
  fetchTouch_memoryKept s n a len

/-- The instruction cache holds the bundle as the newest of the 2,048 (log entry 39). -/
theorem cacheBundle_icache (s : State) (n : Nat) (a : Word) (len : Nat) :
    (coreAt (cacheBundle s n a len) n).icache = (a.toNat :: (coreAt s n).icache.filter (· != a.toNat)).take icacheBundles := by
  rw [cacheBundle, coreAt_onCore_same, (fetchTouch_fetchKept s n a len).icache]

/-! ## A fetch completes (05 R86, 13 R287) -/

/-- Context `k` with its bundle at hand. -/
def fetchedCtx (s : State) (k : Nat) : State := onCtx s k fun c => { c with fetched := true }

theorem bundleComes_readable {s : State} {j : Job} {k : Nat} {ws : List Nat} (hf : fetchBundle s j (ctxAt s k).pc = .ok ws)
    (hp : fetchPoison s k = none) :
    bundleComes s j k = cacheBundle (fetchedCtx s k) (k / 4) (ctxAt s k).pc (4 * ws.length) := by
  simp [bundleComes, hf, hp, fetchedCtx]

theorem bundleComes_error {s : State} {j : Job} {k : Nat} {e : Cause × Word} (hf : fetchBundle s j (ctxAt s k).pc = .error e) :
    bundleComes s j k = fetchedCtx s k := by
  simp [bundleComes, hf, fetchedCtx]

/-- In every case the bundle is at hand, and at most the instruction cache has changed besides. -/
theorem bundleComes_cases (s : State) (j : Job) (k : Nat) :
    bundleComes s j k = fetchedCtx s k ∨ ∃ len, bundleComes s j k = cacheBundle (fetchedCtx s k) (k / 4) (ctxAt s k).pc len := by
  cases hf : fetchBundle s j (ctxAt s k).pc with
  | error e => exact .inl (bundleComes_error hf)
  | ok ws =>
    cases hp : fetchPoison s k with
    | none => exact .inr ⟨_, bundleComes_readable hf hp⟩
    | some a => exact .inl (by simp [bundleComes, hf, hp, fetchedCtx])

theorem bundleComes_kept (s : State) (j : Job) (k : Nat) :
    (bundleComes s j k).ctxs = (fetchedCtx s k).ctxs ∧ MemoryKept s (bundleComes s j k) ∧ WorkKept s (bundleComes s j k) := by
  obtain h | ⟨len, h⟩ := bundleComes_cases s j k
  · rw [h]
    exact ⟨rfl, memoryKept_refl s, workKept_refl s⟩
  · rw [h]
    exact ⟨cacheBundle_ctxs .., cacheBundle_memoryKept (fetchedCtx s k) .., cacheBundle_workKept (fetchedCtx s k) ..⟩

/-- A fetch that hits waits for nothing, nor one whose pages are neither handed over nor behind paused wall buses. -/
theorem fetchHeld_hit {s : State} {k : Nat} (h : (ctxAt s k).pc.toNat ∈ (coreAt s (k / 4)).icache) : fetchHeld s k = false := by
  unfold fetchHeld
  split <;> simp [h]

theorem fetchHeld_free {s : State} {k : Nat} {j : Job} (hj : jobOfCtx s k = some j)
    (h : ∀ a ∈ [(ctxAt s k).pc.toNat, (ctxAt s k).pc.toNat + 4 * (bundleLenWords s j (ctxAt s k).pc.toNat - 1)],
      ∀ g, pageOf j a = some g → handing s g.stack 1 5 = false ∧ touchPaused s (k / 4) (pagePhys g a) = false) : fetchHeld s k = false := by
  unfold fetchHeld
  rw [hj]
  dsimp only
  rw [Bool.and_eq_false_iff]
  right
  rw [List.any_eq_false]
  intro a ha
  cases hp : pageOf j a with
  | none => simp
  | some g => simp [h a ha g hp]

theorem fetchHeld_handing {s : State} {k : Nat} {j : Job} {g : Page} (hj : jobOfCtx s k = some j)
    (hm : (ctxAt s k).pc.toNat ∉ (coreAt s (k / 4)).icache) (hp : pageOf j (ctxAt s k).pc.toNat = some g)
    (hh : handing s g.stack 1 5 = true) : fetchHeld s k = true := by
  simp [fetchHeld, hj, hm, hp, hh]

theorem exec_instructionFetchComplete {s : State} {k : Nat} {j : Job} (hj : jobOfCtx s k = some j) (h : fetchHeld s k = false) :
    exec (.instructionFetchComplete k) s = .next (bundleComes s j k) := by
  show execInstructionFetchComplete k s = _
  simp [execInstructionFetchComplete, h, hj]

theorem exec_instructionFetchComplete_held {s : State} {k : Nat} (h : fetchHeld s k = true) :
    exec (.instructionFetchComplete k) s = .next s := by
  show execInstructionFetchComplete k s = _
  simp [execInstructionFetchComplete, h]

/-! ## The selector (06 R125) -/

/-- A fold by a choice of two takes the one that is chosen beside every other. -/
theorem foldl_choice {α : Type} {better : α → α → α} {c : α} (pick : ∀ x y, better x y = x ∨ better x y = y) (l : List α) (a : α)
    (win : ∀ y ∈ a :: l, better c y = c ∧ better y c = c) (mem : c ∈ a :: l) : l.foldl better a = c := by
  induction l generalizing a with
  | nil => exact (List.mem_singleton.mp mem).symm
  | cons b l ih =>
    refine ih (better a b) ?_ ?_
    · intro y hy
      rcases List.mem_cons.mp hy with rfl | hy
      · rcases pick a b with h | h <;> rw [h] <;> exact win _ (by simp)
      · exact win y (by simp [hy])
    · rcases List.mem_cons.mp mem with rfl | mem
      · rw [(win b (by simp)).1]
        exact List.mem_cons_self
      · rcases List.mem_cons.mp mem with rfl | mem
        · rw [(win a (by simp)).2]
          exact List.mem_cons_self
        · exact List.mem_cons_of_mem _ mem

theorem betterCtx_pick (s : State) (n : Nat) (last a b : Fin 4) : betterCtx s n last a b = a ∨ betterCtx s n last a b = b := by
  unfold betterCtx
  dsimp only
  split
  · exact .inr rfl
  · exact .inl rfl

/-- A context beats another by its priority, or at the same one by its place after the last holder (06 R125). -/
def Beats (s : State) (n : Nat) (last c y : Fin 4) : Prop :=
  (ctxAt s (4 * n + y.val)).prio.val < (ctxAt s (4 * n + c.val)).prio.val ∨
  (ctxAt s (4 * n + y.val)).prio.val = (ctxAt s (4 * n + c.val)).prio.val ∧ afterLast last c < afterLast last y

theorem betterCtx_beats {s : State} {n : Nat} {last c y : Fin 4} (h : Beats s n last c y) :
    betterCtx s n last c y = c ∧ betterCtx s n last y c = c := by
  unfold betterCtx Beats at *
  dsimp only
  constructor
  · rw [if_neg]
    simp only [Bool.or_eq_true, Bool.and_eq_true, decide_eq_true_eq, beq_iff_eq]
    omega
  · rw [if_pos]
    simp only [Bool.or_eq_true, Bool.and_eq_true, decide_eq_true_eq, beq_iff_eq]
    omega

/-- It is the same to count the places after the last holder from 0. -/
theorem beats_iff {s : State} {n : Nat} {last c y : Fin 4} : Beats s n last c y ↔
    (ctxAt s (4 * n + y.val)).prio.val < (ctxAt s (4 * n + c.val)).prio.val ∨
    (ctxAt s (4 * n + y.val)).prio.val = (ctxAt s (4 * n + c.val)).prio.val ∧
      (c.val + 3 - last.val) % 4 < (y.val + 3 - last.val) % 4 := by
  simp [Beats, afterLast]

theorem isReady_iff (s : State) (k : Nat) : isReady s k = true ↔
    ((ctxAt s k).status = .ready ∨ ((ctxAt s k).status = .waiting ∧ bundleBlocked s k = false)) ∧ (ctxAt s k).stopped = false := by
  simp [isReady]

theorem betterCtx_self (s : State) (n : Nat) (last c : Fin 4) : betterCtx s n last c c = c := by
  rcases betterCtx_pick s n last c c with h | h <;> exact h

theorem mem_readyCtxs {s : State} {n : Nat} (hp : ∀ i, jobOfCore s n = some i → i.preempt = none) (y : Fin 4) :
    y ∈ readyCtxs s n ↔ isReady s (4 * n + y.val) = true := by
  have hy : y ∈ ([0, 1, 2, 3] : List (Fin 4)) := by revert y; decide
  have none' : ((jobOfCore s n).any fun j => j.preempt.isSome) = false := by
    cases hj : jobOfCore s n with
    | none => rfl
    | some i => simp [hp i hj]
  simp [readyCtxs, List.mem_filter, hy, none']

/-- The selector takes the ready context that beats every other. -/
theorem bestReady_eq {s : State} {n : Nat} {c : Fin 4} (hc : c ∈ readyCtxs s n)
    (best : ∀ y ∈ readyCtxs s n, y ≠ c → Beats s n (lastHolder (coreAt s n)) c y) : bestReady s n = some c := by
  unfold bestReady
  split
  case h_1 e => simp [e] at hc
  case h_2 a l e =>
    rw [e] at hc best
    refine congrArg some (foldl_choice (betterCtx_pick s n _) l a (fun y hy => ?_) hc)
    by_cases h : y = c
    · rw [h]
      exact ⟨betterCtx_self .., betterCtx_self ..⟩
    · exact betterCtx_beats (best y hy h)

/-- The core remembers which context has held its stage last. -/
def lastNoted (s : State) (n : Nat) : State :=
  match (coreAt s n).holder with
  | some o => onCore s n fun q => { q with last := o }
  | none => s

/-- Context `c` of core `n` holds the stage and runs. -/
def stageTaken (s : State) (n : Nat) (c : Fin 4) : State :=
  onCtx (onCore s n fun q => { q with holder := some c }) (4 * n + c.val) fun x => { x with status := .running }

@[simp] theorem coreAt_stageTaken (s : State) (n : Nat) (c : Fin 4) :
    coreAt (stageTaken s n c) n = { coreAt s n with holder := some c } := by simp [stageTaken]

@[simp] theorem ctxAt_stageTaken_same (s : State) (n : Nat) (c : Fin 4) :
    ctxAt (stageTaken s n c) (4 * n + c.val) = { ctxAt s (4 * n + c.val) with status := .running } := by simp [stageTaken]

theorem ctxAt_stageTaken_ne (s : State) {n q : Nat} {c : Fin 4} (h : q ≠ 4 * n + c.val) : ctxAt (stageTaken s n c) q = ctxAt s q := by
  rw [stageTaken, ctxAt_onCtx_ne _ _ h, ctxAt_onCore]

theorem lastNoted_kept (s : State) (n : Nat) :
    (lastNoted s n).ctxs = s.ctxs ∧ MemoryKept s (lastNoted s n) ∧ WorkKept s (lastNoted s n) := by
  unfold lastNoted
  split <;> exact ⟨rfl, memoryKept_refl s, workKept_refl s⟩

theorem runningCtx_lastNoted (s : State) (n : Nat) : runningCtx (lastNoted s n) n = runningCtx s n := by
  unfold lastNoted
  split
  · unfold runningCtx
    rw [coreAt_onCore_same]
    rfl
  · rfl

/-- Where no context runs, none has to give up the stage. -/
theorem giveStage_free {s : State} {n : Nat} (c : Fin 4) (h : runningCtx s n = none) :
    ∃ clocks, giveStage s n c = passClocks (stageTaken (lastNoted s n) n c) clocks := by
  have displaced : giveStage s n c = passClocks (stageTaken (match runningCtx (lastNoted s n) n with
      | some o => onCtx (lastNoted s n) (4 * n + o.val) fun x => { x with status := .ready }
      | none => lastNoted s n) n c) (if lastHolder (coreAt s n) = c then 0 else 1) := rfl
  rw [runningCtx_lastNoted, h] at displaced
  exact ⟨_, displaced⟩

theorem giveStage_kept {s : State} {n : Nat} (c : Fin 4) (h : runningCtx s n = none) :
    (coreAt (giveStage s n c) n).holder = some c ∧ (ctxAt (giveStage s n c) (4 * n + c)).status = .running ∧
    OthersKept s (giveStage s n c) (4 * n + c) ∧ MemoryKept s (giveStage s n c) ∧ WorkKept s (giveStage s n c) := by
  obtain ⟨clocks, e⟩ := giveStage_free c h
  obtain ⟨ctxs, memory, work⟩ := lastNoted_kept s n
  rw [e]
  refine ⟨?_, ?_, fun q hq => ?_, memory, work⟩
  · rw [coreAt_passClocks, coreAt_stageTaken]
  · rw [ctxAt_passClocks, ctxAt_stageTaken_same]
  · rw [ctxAt_passClocks, ctxAt_stageTaken_ne _ hq, ctxAt_of_ctxs ctxs]

theorem exec_contextSelect {s : State} {n : Nat} {c : Fin 4} (stage : stageOpen s n = true) (free : countHeld s n = false)
    (none' : runningCtx s n = none) (best : bestReady s n = some c) : exec (.contextSelect n) s = .next (giveStage s n c) := by
  show execContextSelect n s = _
  simp [execContextSelect, stage, free, none', best]

/-! ## The last empty cycle of a WAITC (06 R140) -/

theorem exec_waitcEnd {s : State} {k : Nat} (hw : (ctxAt s k).waitc = 1) (hr : (ctxAt s k).status = .running)
    (ho : stageOpen s (k / 4) = true) : exec (.waitcEnd k) s = .next (emptyCycle s k) := if_pos ⟨hw, hr, ho⟩

/-- The state as the last empty cycle ends, before what stood beside the WAITC takes effect. -/
def lastCycle (s : State) (k : Nat) : State :=
  passClocks (onCtx s k fun c => { c with waitc := 0, ccyc := c.ccyc + 1 }) (cycleClocks s (k / 4))

theorem emptyCycle_last {s : State} {k : Nat} (hw : (ctxAt s k).waitc = 1) : emptyCycle s k = waitOver (lastCycle s k) k := by
  simp [emptyCycle, lastCycle, hw, onCtx]

@[simp] theorem ctxAt_lastCycle (s : State) (k : Nat) :
    ctxAt (lastCycle s k) k = { ctxAt s k with waitc := 0, ccyc := (ctxAt s k).ccyc + 1 } := by
  rw [lastCycle, ctxAt_passClocks, ctxAt_onCtx_same]

/-- The state after the last empty cycle with its bundle's SVC and YIELD forgotten. -/
def waitCleared (s : State) (k : Nat) : State := onCtx (lastCycle s k) k fun c => { c with svc := none, yields := false }

@[simp] theorem ctxAt_waitCleared (s : State) (k : Nat) : ctxAt (waitCleared s k) k =
    { ctxAt s k with waitc := 0, ccyc := (ctxAt s k).ccyc + 1, svc := none, yields := false } := by
  rw [waitCleared, ctxAt_onCtx_same, ctxAt_lastCycle]

theorem othersKept_waitCleared (s : State) (k : Nat) : OthersKept s (waitCleared s k) k := fun q hq => by
  rw [waitCleared, ctxAt_onCtx_ne _ _ hq, lastCycle, ctxAt_passClocks, ctxAt_onCtx_ne _ _ hq]

theorem waitOver_service {s : State} {k : Nat} {code : BitVec 12} (h : (ctxAt s k).svc = some code) :
    waitOver (lastCycle s k) k = serviceCall (waitCleared s k) k code := by
  simp [waitOver, waitCleared, h]

theorem waitOver_yields {s : State} {k : Nat} (h : (ctxAt s k).svc = none) (hy : (ctxAt s k).yields = true) :
    waitOver (lastCycle s k) k = giveUpStage (waitCleared s k) k := by
  simp [waitOver, waitCleared, h, hy]

theorem waitOver_plain {s : State} {k : Nat} (h : (ctxAt s k).svc = none) (hy : (ctxAt s k).yields = false) :
    waitOver (lastCycle s k) k = waitCleared s k := by
  simp [waitOver, waitCleared, h, hy]

@[simp] theorem ctxAt_giveUpStage_same (s : State) (k : Nat) : ctxAt (giveUpStage s k) k = { ctxAt s k with status := .ready } := by
  rw [giveUpStage, ctxAt_leaveStage, ctxAt_onCtx_same]

theorem ctxAt_giveUpStage_ne (s : State) {k q : Nat} (h : q ≠ k) : ctxAt (giveUpStage s k) q = ctxAt s q := by
  rw [giveUpStage, ctxAt_leaveStage, ctxAt_onCtx_ne _ _ h]

/-- A context that gives up the stage holds it no more. -/
theorem giveUpStage_holder (s : State) (k : Nat) : (coreAt (giveUpStage s k) (k / 4)).holder ≠ some (Fin.ofNat 4 k) := by
  rw [giveUpStage, leaveStage, coreAt_onCore_same]
  dsimp only
  split
  · exact (Option.some_ne_none _).symm
  · assumption

@[simp] theorem ctxAt_serviceCall_same (s : State) (k : Nat) (code : BitVec 12) :
    ctxAt (serviceCall s k code) k = { ctxAt s k with status := .serviced } := by
  rw [serviceCall, ctxAt_onCore, ctxAt_onCtx_same]

theorem ctxAt_serviceCall_ne (s : State) {k q : Nat} (code : BitVec 12) (h : q ≠ k) : ctxAt (serviceCall s k code) q = ctxAt s q := by
  rw [serviceCall, ctxAt_onCore, ctxAt_onCtx_ne _ _ h]

@[simp] theorem coreAt_serviceCall (s : State) (k : Nat) (code : BitVec 12) : coreAt (serviceCall s k code) (k / 4) =
    { coreAt s (k / 4) with services := (coreAt s (k / 4)).services ++ [.svc k code] } := by
  rw [serviceCall, coreAt_onCore_same, coreAt_onCtx]

/-! ## IDLE (06 R145) -/

theorem exec_contextIdle {s : State} {k : Nat} (he : (ctxAt s k).status = .ending) (hf : (ctxAt s k).fence = none)
    (hw : (ctxAt s k).withdrawn = []) (hs : (ctxAt s k).streams = Vector.replicate 8 none)
    (hr : ∀ r ∈ s.reqs, r.ctx = k → keepsBusy r = false) :
    ∃ u : State, exec (.contextIdle k) s = .next (setCtx u k { ctxAt s k with status := .idle }) ∧ u.ctxs = s.ctxs ∧ MemoryKept s u := by
  have drained : ((ctxAt s k).streams.toList.all fun x => x.isNone) = true := by rw [hs]; decide
  have idle : (s.reqs.any fun r => r.ctx == k && keepsBusy r) = false := by
    rw [List.any_eq_false]
    intro r h
    simpa using hr r h
  have run : exec (.contextIdle k) s = .next (setCtx (match jobOfCtx s k with
      | some j => setJob s { j with racks := j.racks.map (endTray (ctxId s k)) }
      | none => s) k { ctxAt s k with status := .idle }) := if_pos ⟨he, hf, drained, by simp [idle], hw⟩
  refine ⟨_, run, ?_, ?_⟩ <;> split
  · rfl
  · rfl
  · exact memoryKept_refl s
  · exact memoryKept_refl s

/-! ## Fences (14 R304) -/

theorem exec_fencehComplete_ends {s : State} {k : Nat} {f : Fence} (hf : (ctxAt s k).fence = some f) (hr : fenceReady s f = true)
    (hp : f.points = true) : exec (.fencehComplete k) s = .next (onCtx s k fun c => { c with fence := none }) := by
  show execFencehComplete k s = _
  simp [execFencehComplete, hf, hr, hp]

/-- The fence once the fence points of its scope are taken, in the state with the gathered stores of the scope sent. -/
def pointed (s : State) (k : Nat) (f : Fence) : Fence :=
  { f with points := true, waits := unperformed s (inScope s f.scope k),
           writes := if f.scope < 5 then [] else writesOut s (inScope s f.scope k) }

theorem exec_fencehComplete_points {s : State} {k : Nat} {f : Fence} (hf : (ctxAt s k).fence = some f) (hr : fenceReady s f = true)
    (hp : f.points = false) :
    exec (.fencehComplete k) s = .next (onCtx (flushGathered s (inScope s f.scope k)) k fun c =>
      { c with fence := some (pointed (flushGathered s (inScope s f.scope k)) k f) }) := by
  show execFencehComplete k s = _
  simp [execFencehComplete, hf, hr, hp, pointed]

theorem sendReq_heads (s : State) (r : Req) : (sendReq s r).heads = false := by
  unfold sendReq
  repeat' split
  all_goals rfl

/-- Of the contexts that a flush covers no gathered store is left at the head of its line (14 R298). -/
theorem flushGathered_heads {s : State} {covers : Nat → Bool} {r : Req} (h : r ∈ (flushGathered s covers).reqs)
    (hc : covers r.ctx = true) : r.heads = false := by
  obtain ⟨q, -, rfl⟩ := List.mem_map.mp h
  by_cases hq : (covers q.ctx && q.heads) = true
  · rw [if_pos hq]
    exact sendReq_heads s q
  · rw [if_neg hq] at hc ⊢
    simpa [hc] using hq

theorem mem_unperformed {s : State} {covers : Nat → Bool} {r : Req} (h : r ∈ s.reqs) (hc : covers r.ctx = true)
    (hp : r.status ≠ .performed) (hr : r.status ≠ .refused) : r.id ∈ unperformed s covers :=
  List.mem_map.mpr ⟨r, List.mem_filter.mpr ⟨h, by simp [hc, hp, hr]⟩, rfl⟩

/-! ## The statement -/

/-- Settles O35: each turn answers as its `exec_…` lemma says, and what it leaves as it was is that of the operations it is made of. -/
theorem stageSteps : Obligations.StageSteps := by
  intro s k n c j x
  refine ⟨fun hj free => ?_, fun g hj hm hp hh => ?_, fun ho counts hp free ready best => ?_, fun hw hr ho hs => ?_,
    fun code hw hr ho hs => ?_, fun he hf hw hs hr => ?_, fun f hf hr => ⟨fun hp => ?_, fun hp => ?_⟩⟩
  · have held : fetchHeld s k = false := free.elim fetchHeld_hit (fetchHeld_free hj)
    obtain ⟨ctxs, memory, work⟩ := bundleComes_kept s j k
    refine ⟨_, exec_instructionFetchComplete hj held, ?_, fun q hq => ?_, memory, work, fun ws hf hp => ?_, fun e hf => ?_⟩
    · rw [ctxAt_of_ctxs ctxs, fetchedCtx, ctxAt_onCtx_same]
    · rw [ctxAt_of_ctxs ctxs]
      exact othersKept_onCtx s k _ q hq
    · rw [bundleComes_readable hf hp, cacheBundle_icache]
      rfl
    · rw [bundleComes_error hf]
      exact onlyContext_onCtx ..
  · exact exec_instructionFetchComplete_held (fetchHeld_handing hj hm hp hh)
  · have chosen : bestReady s n = some c :=
      bestReady_eq ((mem_readyCtxs hp c).mpr ((isReady_iff ..).mpr ready)) fun y hy hne =>
        beats_iff.mpr (best y ((isReady_iff ..).mp ((mem_readyCtxs hp y).mp hy)) hne)
    exact ⟨_, exec_contextSelect ho counts free chosen, giveStage_kept c free⟩
  · have run := exec_waitcEnd hw hr ho
    rw [emptyCycle_last hw] at run
    by_cases hy : x.yields = true
    · rw [waitOver_yields hs hy] at run
      refine ⟨_, run, fun q hq => ?_, memoryKept_refl s, ?_⟩
      · rw [ctxAt_giveUpStage_ne _ hq, othersKept_waitCleared s k q hq]
      · rw [if_pos hy, ctxAt_giveUpStage_same, ctxAt_waitCleared, ← hs]
        exact ⟨rfl, giveUpStage_holder _ k⟩
    · have hy := Bool.eq_false_iff.mpr hy
      rw [waitOver_plain hs hy] at run
      refine ⟨_, run, othersKept_waitCleared s k, memoryKept_refl s, ?_⟩
      rw [hy, if_neg Bool.false_ne_true, ctxAt_waitCleared, ← hs, ← hy]
  · have run := exec_waitcEnd hw hr ho
    rw [emptyCycle_last hw, waitOver_service hs] at run
    refine ⟨_, run, fun q hq => ?_, memoryKept_refl s, ?_, ?_⟩
    · rw [ctxAt_serviceCall_ne _ _ hq, othersKept_waitCleared s k q hq]
    · rw [ctxAt_serviceCall_same]
    · rw [coreAt_serviceCall]
      rfl
  · obtain ⟨u, run, ctxs, memory⟩ := exec_contextIdle he hf hw hs hr
    refine ⟨_, run, ctxAt_setCtx_same .., fun q hq => ?_, memory⟩
    rw [ctxAt_setCtx_ne _ _ hq, ctxAt_of_ctxs ctxs]
  · exact ⟨_, exec_fencehComplete_ends hf hr hp, ctxAt_onCtx_same .., onlyContext_onCtx ..⟩
  · refine ⟨_, _, exec_fencehComplete_points hf hr hp, ctxAt_onCtx_same .., rfl, rfl, fun q hq => ctxAt_onCtx_ne _ _ hq,
      memoryKept_refl s, ⟨fun _ => rfl, fun _ _ => rfl⟩, fun r h hin => ⟨flushGathered_heads h hin, fun hp hr => ?_⟩⟩
    exact mem_unperformed h hin hp hr

end Sys2Proof.Machine
end

section
/-! SUPPORT. Control flow (06 R128-R140) and the landing of results (06 R114, 07 R148): what a branch test, a loop operation and a retirement
leave, and what one result leaves of its context. -/

namespace Sys2Proof.Machine

/-! ## What `afterOp` adds to an operation of the control flow -/

/-- An operation that commits nothing has at most head vectors taken beside its effect. -/
theorem afterOp_uncommitted {i : Instr} {s : State} (hc : commits s s.cur.key i = false) (t : State) :
    ∃ pops, afterOp i s t = { t with cur := { t.cur with pops := t.cur.pops ++ pops } } := by
  obtain ⟨pops, h⟩ := afterOp_eq i s t
  rw [hc, if_neg Bool.false_ne_true] at h
  exact ⟨pops, h⟩

/-- One that reads no vector either has nothing beside its effect. -/
theorem afterOp_plain {i : Instr} {s : State} (hv : (usesOf (ctxAt s s.cur.key) i).rv = []) (hc : commits s s.cur.key i = false)
    (t : State) : afterOp i s t = t := by
  simp [afterOp, hv, hc]

/-- Where such an operation issues, it answers its effect and nothing else. -/
theorem operate_plain {i : Instr} {p : Tag} {s : State} (h : Issues i p s) (hv : (usesOf (ctxAt s s.cur.key) i).rv = [])
    (hc : commits s s.cur.key i = false) (e : State → State) : operate i p s e = .next (e s) := by
  rw [operate_issues h, afterOp_plain hv hc]

/-! ## Branch tests (06 R131-R133) -/

theorem branch_taken {s : State} {hit : Bool} (hn : s.cur.taken = none) (hh : hit = true) (target : Word) :
    branch s hit target false = { s with cur := { s.cur with taken := some s.cur.pos, succ := target } } := by
  simp [branch, hn, hh]

theorem branch_links {s : State} (hn : s.cur.taken = none) (target : Word) :
    branch s true target true =
      { resultS s 63 1 (s.cur.h + BitVec.ofNat 64 s.cur.len) false with cur := { s.cur with taken := some s.cur.pos, succ := target } } := by
  simp [branch, hn, resultS, result]

theorem branch_passed {s : State} {hit : Bool} (h : s.cur.taken ≠ none ∨ hit = false) (target : Word) (link : Bool) :
    branch s hit target link = s := by
  rcases h with h | h <;> simp [branch, h]

section
variable {i : Instr} {hit : State → Bool} {target : State → Word} {link : Bool} {s : State}
  (he : ∀ s, exec i s = operate i 0 s fun s => branch s (hit s) (target s) link) (hc : commits s s.cur.key i = false) (h : Issues i 0 s)
include he hc h

/-- A test that is false, or that an earlier one precedes, changes no register, no flag and no memory. -/
theorem test_passed (hp : s.cur.taken ≠ none ∨ hit s = false) :
    ∃ t, exec i s = .next t ∧ t.cur.taken = s.cur.taken ∧ t.cur.succ = s.cur.succ ∧
      ctxAt t s.cur.key = ctxAt s s.cur.key ∧ OnlyContext s t s.cur.key := by
  have run := (he s).trans (operate_issues h _)
  obtain ⟨pops, after⟩ := afterOp_uncommitted hc s
  rw [branch_passed hp, after] at run
  exact ⟨_, run, rfl, rfl, rfl, onlyContext_refl s _⟩

/-- A test that is taken gives the successor, and without a link nothing else. -/
theorem test_taken (hl : link = false) (hn : s.cur.taken = none) (hh : hit s = true) :
    ∃ t, exec i s = .next t ∧ t.cur.taken = some s.cur.pos ∧ t.cur.succ = target s ∧
      ctxAt t s.cur.key = ctxAt s s.cur.key ∧ OnlyContext s t s.cur.key := by
  subst hl
  have run := (he s).trans (operate_issues h _)
  rw [branch_taken hn hh] at run
  obtain ⟨pops, after⟩ := afterOp_uncommitted hc { s with cur := { s.cur with taken := some s.cur.pos, succ := target s } }
  rw [after] at run
  exact ⟨_, run, rfl, rfl, rfl, onlyContext_refl s _⟩

end

/-- CALL and JR with a link send the address of the next bundle to s63 where they are taken. -/
theorem link_taken {i : Instr} {target : State → Word} {s : State}
    (he : ∀ s, exec i s = operate i 0 s fun s => branch s true (target s) true) (hc : commits s s.cur.key i = false) (h : Issues i 0 s)
    (hn : s.cur.taken = none) : ∃ t, exec i s = .next t ∧ t.cur.taken = some s.cur.pos ∧ t.cur.succ = target s ∧
      SendsScalar i s t 63 1 (s.cur.h + BitVec.ofNat 64 s.cur.len) false := by
  have run := (he s).trans (operate_issues h _)
  rw [branch_links hn] at run
  obtain ⟨pops, after⟩ := afterOp_uncommitted hc { resultS s 63 1 (s.cur.h + BitVec.ofNat 64 s.cur.len) false with
    cur := { s.cur with taken := some s.cur.pos, succ := target s } }
  rw [after] at run
  refine ⟨_, run, rfl, rfl, (if_neg (by decide)).mpr ⟨?_, result_onlyContext ..⟩⟩
  rw [hc, Bool.or_false]
  exact result_ctx ..

/-! ## Loops and WAITC at issue (06 R135-R137, R140) -/

theorem exec_loop {a : SReg} {e : Fin 2048} {p : Tag} {s : State} (h : Issues (.loop a e p) p s) (hn : readS s a ≠ 0) :
    exec (.loop a e p) s = .next { s with cur := { s.cur with push := some (loopEntry s (readS s a) e) } } := by
  show execLoop a e p s = _
  rw [execLoop, operate_plain h rfl rfl, if_neg hn]

/-- A LOOP of no iterations pushes nothing; its fall-through is the bundle after the end bundle. -/
theorem exec_loop_zero {a : SReg} {e : Fin 2048} {p : Tag} {s : State} (h : Issues (.loop a e p) p s) (hz : readS s a = 0) :
    exec (.loop a e p) s = .next { s with cur := { s.cur with skip := some (s.cur.h + BitVec.ofNat 64 (4 * e.val) +
      BitVec.ofNat 64 (bundleLenAt s s.cur.key (s.cur.h + BitVec.ofNat 64 (4 * e.val)))) } } := by
  show execLoop a e p s = _
  rw [execLoop, operate_plain h rfl rfl, if_pos hz]

theorem exec_loopi {e : Fin 4096} {c : Fin 2048} {p : Tag} {s : State} (h : Issues (.loopi e c p) p s) :
    exec (.loopi e c p) s = .next { s with cur := { s.cur with push := some (loopEntry s (BitVec.ofNat 64 c) e) } } := by
  show execLoopi e c p s = _
  rw [execLoopi, operate_plain h rfl rfl]

theorem exec_loopiLong {e : Fin 4096} {p : Tag} {m : BitVec 32} {s : State} (h : Issues (.loopiLong e p m) p s) :
    exec (.loopiLong e p m) s = .next { s with cur := { s.cur with push := some (loopEntry s (m.setWidth 64) e) } } := by
  show execLoopiLong e p m s = _
  rw [execLoopiLong, operate_plain h rfl rfl]

theorem exec_brklp {p : Tag} {s : State} (h : Issues (.brklp p) p s) :
    exec (.brklp p) s = .next { s with cur := { s.cur with pop := true } } := by
  show execBrklp p s = _
  rw [execBrklp, operate_plain h rfl rfl]

theorem exec_waitc {a : SReg} {n : Fin 2048} {p : Tag} {s : State} (h : Issues (.waitc a n p) p s) :
    exec (.waitc a n p) s = .next (onCtx s s.cur.key fun c => { c with waitc := max c.waitc (waitCount (readS s a) n) }) := by
  show execWaitc a n p s = _
  rw [execWaitc, operate_plain h rfl rfl]

/-- Settles O20: a branch test by what `branch` does, an operation of the loops by its effect on the working field. -/
theorem branchesAndLoops : Obligations.BranchesAndLoops := by
  constructor
  · intro g c k o direct tests links
    have test : ∀ {i : Instr} {hit : State → Bool} {target : State → Word},
        (∀ s, exec i s = operate i 0 s fun s => branch s (hit s) (target s) false) → (∀ s, commits s s.cur.key i = false) →
        tests i hit target := fun he hc s h => ⟨test_taken he (hc s) h rfl, test_passed he (hc s) h⟩
    have link : ∀ {i : Instr} {target : State → Word},
        (∀ s, exec i s = operate i 0 s fun s => branch s true (target s) true) → (∀ s, commits s s.cur.key i = false) →
        links i target := fun he hc s h => ⟨link_taken he (hc s) h, fun hn => test_passed he (hc s) h (.inl hn)⟩
    exact ⟨test (fun _ => rfl) fun _ => rfl, test (fun _ => rfl) fun _ => rfl, test (fun _ => rfl) fun _ => rfl,
      test (fun _ => rfl) fun _ => rfl, test (fun _ => rfl) fun _ => rfl, test (fun _ => rfl) fun _ => rfl,
      test (fun _ => rfl) fun _ => rfl, link (fun _ => rfl) fun _ => rfl, link (fun _ => rfl) fun _ => rfl⟩
  · intro a e f c n m b p s k entry gives stop
    refine ⟨fun h hn => ?_, fun h hz => ?_, fun h => ?_, fun h => ?_, fun h => ?_, fun h => ?_, rfl⟩
    · exact ⟨_, exec_loop h hn, rfl, rfl, onlyContext_refl s k⟩
    · exact ⟨_, exec_loop_zero h hz, rfl, rfl, onlyContext_refl s k⟩
    · exact ⟨_, exec_loopi h, rfl, rfl, onlyContext_refl s k⟩
    · exact ⟨_, exec_loopiLong h, rfl, rfl, onlyContext_refl s k⟩
    · exact ⟨_, exec_brklp h, rfl, rfl, onlyContext_refl s k⟩
    · exact ⟨_, exec_waitc h, ctxAt_onCtx_same .., onlyContext_onCtx ..⟩

/-! ## Retirement (06 R138, R139) -/

theorem popStream_ccyc (c : Ctx) (r : Nat) : (popStream c r).ccyc = c.ccyc := by
  unfold popStream
  split <;> rfl

theorem popStreams_ccyc (l : List Nat) (c : Ctx) : (l.foldl popStream c).ccyc = c.ccyc :=
  List.foldlRecOn l popStream (motive := fun d => d.ccyc = c.ccyc) rfl fun d h r _ => (popStream_ccyc d r).trans h

/-- The context of a bundle after its retirement. -/
def retiredCtx (s : State) (stop : Bool) (w : List Item) (c : Ctx) : Ctx :=
  let d := loopDecide s.cur c.loops
  { s.cur.pops.foldl popStream c with
    loops := d.1, pc := d.2.1, ccyc := (s.cur.pops.foldl popStream c).ccyc + 1, ccycLast := (s.cur.pops.foldl popStream c).ccyc + 1
    landing := d.2.2, afterRft := false
    group := if stop then [] else (s.cur.pops.foldl popStream c).group ++ w
    timerAt := if (s.cur.pops.foldl popStream c).frozen then (s.cur.pops.foldl popStream c).timerAt.map (· + timeNow s)
      else (s.cur.pops.foldl popStream c).timerAt
    frozen := false }

theorem ctxAt_retire (s : State) (stop : Bool) (w : List Item) :
    ctxAt (retire s stop w) s.cur.key = retiredCtx s stop w (ctxAt s s.cur.key) :=
  (ctxAt_of_ctxs (cacheBundle_ctxs (onCtx s s.cur.key fun _ => retiredCtx s stop w (ctxAt s s.cur.key)) ..) _).trans (ctxAt_onCtx_same ..)

/-- A context cycle passes, and the loop stack and the PC are those that `loopDecide` gives. -/
theorem retire_loops (s : State) (stop : Bool) (w : List Item) :
    (ctxAt (retire s stop w) s.cur.key).ccyc = (ctxAt s s.cur.key).ccyc + 1 ∧
    (ctxAt (retire s stop w) s.cur.key).pc = (loopDecide s.cur (ctxAt s s.cur.key).loops).2.1 ∧
    (ctxAt (retire s stop w) s.cur.key).loops = (loopDecide s.cur (ctxAt s s.cur.key).loops).1 := by
  rw [ctxAt_retire]
  exact ⟨congrArg (· + 1) (popStreams_ccyc ..), rfl, rfl⟩

/-- The loop stack and the successor after a taken test (06 R139). -/
theorem loopDecide_taken {q : Issue} (h : q.taken ≠ none) (loops : List LoopEntry) :
    loopDecide q loops = (q.push.toList ++ (if q.pop then loops.drop 1 else loops), q.succ, false) := by
  simp [loopDecide, Option.isSome_iff_ne_none.mpr h]

/-- Without one they are what `loopBack` makes of the stack after the pop of a BRKLP. -/
theorem loopDecide_untaken {q : Issue} (h : q.taken = none) (loops : List LoopEntry) :
    loopDecide q loops =
      (q.push.toList ++ (loopBack q.h (if q.pop then loops.drop 1 else loops)).1,
        (loopBack q.h (if q.pop then loops.drop 1 else loops)).2.1.getD (q.skip.getD (q.h + BitVec.ofNat 64 q.len)),
        (loopBack q.h (if q.pop then loops.drop 1 else loops)).2.2) := by
  simp [loopDecide, h]

/-- An entry whose body ends elsewhere is left as it is. -/
theorem loopBack_elsewhere {h : Word} {e : LoopEntry} (he : e.stop ≠ h) (l : List LoopEntry) :
    loopBack h (e :: l) = (e :: l, none, false) := by
  simp [loopBack, he]

/-- A count above one is decremented, and its start is the successor. -/
theorem loopBack_again {h : Word} {e : LoopEntry} (he : e.stop = h) (hn : e.count ≠ 1) (l : List LoopEntry) :
    loopBack h (e :: l) = ({ e with count := e.count - 1 } :: l, some e.start, true) := by
  have above : ¬e.count - 1 = 0 := fun h0 => hn (sub_eq_zero.mp h0)
  rw [loopBack, if_pos he]
  exact if_neg above

/-- At one the entry is popped, and the next one is looked at. -/
theorem loopBack_last {h : Word} {e : LoopEntry} (he : e.stop = h) (hn : e.count = 1) (l : List LoopEntry) :
    loopBack h (e :: l) = ((loopBack h l).1, (loopBack h l).2.1, true) := by
  simp [loopBack, he, hn]

/-- The bundle that follows in sequence, or the one that a LOOP of no iterations skips to. -/
def fallThrough (q : Issue) : Word := q.skip.getD (q.h + BitVec.ofNat 64 q.len)

/-- Without a taken test the stack `l`, after the pop of a BRKLP, and the PC are those that `loopBack` gives. -/
theorem retire_untaken {s : State} {l : List LoopEntry} (ht : s.cur.taken = none)
    (hl : (if s.cur.pop then (ctxAt s s.cur.key).loops.drop 1 else (ctxAt s s.cur.key).loops) = l) (stop : Bool) (w : List Item) :
    (ctxAt (retire s stop w) s.cur.key).pc = (loopBack s.cur.h l).2.1.getD (fallThrough s.cur) ∧
    (ctxAt (retire s stop w) s.cur.key).loops = s.cur.push.toList ++ (loopBack s.cur.h l).1 := by
  obtain ⟨-, pc, stack⟩ := retire_loops s stop w
  rw [loopDecide_untaken ht, hl] at pc stack
  exact ⟨pc, stack⟩

/-- Settles O21: retirement leaves what `loopDecide` gives, which looks at the innermost entry by `loopBack`. -/
theorem loopBackAtRetirement : Obligations.LoopBackAtRetirement := by
  intro s stop w e l k c t loops pushed fall
  obtain ⟨cycle, pc, stack⟩ := retire_loops s stop w
  have pushed_eq : ∀ l, s.cur.push.toList ++ l = pushed l := fun l => by
    dsimp only [pushed]
    cases s.cur.push <;> rfl
  have fall_eq : fallThrough s.cur = fall := by
    dsimp only [fall, fallThrough]
    cases s.cur.skip <;> rfl
  have untaken (ht : s.cur.taken = none) : t.pc = (loopBack s.cur.h loops).2.1.getD fall ∧ t.loops = pushed (loopBack s.cur.h loops).1 := by
    rw [← fall_eq, ← pushed_eq]
    exact retire_untaken ht rfl stop w
  refine ⟨cycle, fun ht => ?_, fun ht hl => ?_, fun ht hl he => ?_, fun ht hl he hn => ?_, fun ht hl he hn => ?_⟩
  · rw [loopDecide_taken ht] at pc stack
    exact ⟨pc, stack.trans (pushed_eq _)⟩
  · simpa [hl, loopBack] using untaken ht
  · simpa [hl, loopBack_elsewhere he] using untaken ht
  · simpa [hl, loopBack_again he hn] using untaken ht
  · have rest : (ctxAt { onCtx s k (fun c => { c with loops := l }) with cur := { s.cur with pop := false } } k).loops = l :=
      congrArg Ctx.loops ((ctxAt_of_ctxs rfl k).trans (ctxAt_onCtx_same s k fun c => { c with loops := l }))
    obtain ⟨pc', stack'⟩ := retire_untaken
      (s := { onCtx s k (fun c => { c with loops := l }) with cur := { s.cur with pop := false } }) ht rest stop w
    obtain ⟨pc, stack⟩ := untaken ht
    rw [hl, loopBack_last he hn, ← fall_eq] at pc
    rw [hl, loopBack_last he hn, ← pushed_eq] at stack
    exact ⟨pc.trans pc'.symm, stack.trans stack'.symm⟩

/-! ## A result lands (06 R114, 07 R148) -/

theorem landDue_alone {clock : Nat} {c : Ctx} {f : Flight} (hf : c.flights = [f]) (hd : f.land ≤ c.ccyc + 1) :
    landDue clock c = landFlight clock { c with flights := [] } f := by
  simp [landDue, hf, dueFlight, hd, inOrder, insertFlight]

theorem landFlight_scalar {clock : Nat} {c : Ctx} {f : Flight} (hf : f.dest.file = .scalar) (hx : f.dest.ix ≠ 0) :
    landFlight clock c f = { c with
      s := c.s.setIfInBounds f.dest.ix (f.value.setWidth 64), sdf := setDf c.sdf f.dest.ix f.df, fpstat := c.fpstat ||| f.flags } := by
  simp [landFlight, hf, hx]

/-- s0 and p0 are written by nothing; the flags land (07 R148). -/
theorem landFlight_zero {clock : Nat} {c : Ctx} {f : Flight} (hf : f.dest = ⟨.scalar, 0⟩ ∨ f.dest = ⟨.pred, 0⟩) :
    landFlight clock c f = { c with fpstat := c.fpstat ||| f.flags } := by
  rcases hf with hf | hf <;> simp [landFlight, hf]

theorem landVector_unbound {c : Ctx} {r : Nat} (h : streamOf c r = none) (v mask : VWord) (df : Bool) :
    landVector c r v mask df = { c with v := c.v.setIfInBounds r (blend (c.v[r]?.getD 0) v mask), vdf := setDf c.vdf r df } := by
  simp [landVector, h]

theorem landFlight_vector {clock : Nat} {c : Ctx} {f : Flight} (hf : f.dest.file = .vector) :
    landFlight clock c f = { landVector c f.dest.ix f.value f.mask f.df with
      fpstat := (landVector c f.dest.ix f.value f.mask f.df).fpstat ||| f.flags } := by
  simp [landFlight, hf]

theorem landFlight_pred {clock : Nat} {c : Ctx} {f : Flight} (hf : f.dest.file = .pred) (hx : f.dest.ix ≠ 0) :
    landFlight clock c f = { c with p := c.p.setIfInBounds f.dest.ix (f.value.setWidth 128), fpstat := c.fpstat ||| f.flags } := by
  simp [landFlight, hf, hx]

theorem landFlight_engine {clock : Nat} {c : Ctx} {f : Flight} (hf : f.dest.file = .engine) :
    landFlight clock c f = { c with e := c.e.setIfInBounds f.dest.ix (f.value.setWidth 64), fpstat := c.fpstat ||| f.flags } := by
  simp [landFlight, hf]

theorem landFlight_scale {clock : Nat} {c : Ctx} {f : Flight} (hf : f.dest.file = .scale) :
    landFlight clock c f = { c with
      sc := c.sc.setIfInBounds f.dest.ix (scaleOf (blend (scaleBits (scVal c f.dest.ix)) f.value f.mask))
      fpstat := c.fpstat ||| f.flags } := by
  simp [landFlight, hf]

/-- Settles O22: a result alone in flight that is due lands as `landFlight` says for its file; `landDue` keeps one that is not due. -/
theorem resultsLand : Obligations.ResultsLand := by
  intro s k f c lands hf
  have waits : c.ccyc + 1 < f.land → landDue s.clock c = c := fun h => landDue_none (by simpa [hf] using h)
  have due (hd : f.land ≤ c.ccyc + 1) {d : Ctx} (h : landFlight s.clock { c with flights := [] } f =
      { d with flights := [], fpstat := c.fpstat ||| f.flags }) : lands d :=
    ⟨_, rfl, onlyContext_onCtx .., by rw [ctxAt_onCtx_same, landDue_alone hf hd, h]⟩
  refine ⟨fun h => ⟨_, rfl, onlyContext_onCtx .., by rw [ctxAt_onCtx_same, waits h]⟩, fun hd =>
    ⟨fun h hx => due hd (landFlight_scalar h hx), fun h => due hd (landFlight_zero h), fun h hs => due hd ?_,
      fun h hx => due hd (landFlight_pred h hx), fun h => due hd (landFlight_engine h), fun h => due hd (landFlight_scale h)⟩⟩
  rw [landFlight_vector h, landVector_unbound (c := { c with flights := [] }) hs]

end Sys2Proof.Machine
end

section
/-! SUPPORT. A turn of an issue stage (06 R105, R109, R110; 05 R96): which of its branches a context at a boundary takes, and what the issue of a
bundle runs. -/

namespace Sys2Proof.Machine

/-! ## Turns -/

theorem step_turn {s : State} {t : Turn} {l : List Turn} (h : s.agenda = t :: l) :
    step s = stepped s (runTurn exec t { s with agenda := l }) := by
  rw [step, h]

theorem runTurn_row {i : Instr} {s : State} (h : isSlotOp i = false) : runTurn exec (.row i) s = exec i s := by
  simp [runTurn, h]

/-- A cause for the service context takes the turn of an issue stage (06 R126, 22 R397). -/
theorem issueStage_service {s : State} {n : Nat} {j : Job} {x : ServiceCause} {l : List ServiceCause} (hj : jobOfCore s n = some j)
    (hr : j.status = .running) (hs : (coreAt s n).service = none) (ho : (coreAt s n).storeOk = true)
    (hx : (coreAt s n).services = x :: l) : issueStage exec n s = exec (.serviceContextEntry n) s := by
  show _ = execServiceContextEntry n s
  simp [issueStage, hj, hr, hs, ho, hx]

/-- Without one, and with no context of a higher priority that is ready, the running context moves (06 R125). -/
theorem issueStage_running {s : State} {n : Nat} {j : Job} {c : Fin 4} (hj : jobOfCore s n = some j) (hr : j.status = .running)
    (hs : (coreAt s n).service = none) (hx : (coreAt s n).services = []) (hh : (coreAt s n).hold = false)
    (ho : (coreAt s n).storeOk = true) (hc : runningCtx s n = some c)
    (hb : ∀ o, bestReady s n = some o → (ctxAt s (4 * n + o.val)).prio.val ≤ (ctxAt s (4 * n + c.val)).prio.val) :
    issueStage exec n s = moveCtx exec s (4 * n + c.val) := by
  have lower : ((bestReady s n).any fun o =>
      decide ((ctxAt s (4 * n + c.val)).prio < (ctxAt s (4 * n + o.val)).prio)) = false := by
    rw [Option.any_eq_false]
    intro o h
    simpa using hb o h
  simp [issueStage, hj, hr, hs, ho, hx, hh, hc, lower]

theorem stopsHere_of_jobStops {s : State} {k : Nat} (h : jobStops s k = false) : stopsHere s k = false := by
  unfold jobStops stopsHere at *
  cases hj : jobOfCtx s k with
  | none => rfl
  | some j => simp_all

/-- A context at a boundary with nothing due and its bundle at hand issues it. -/
theorem moveCtx_issues {s : State} {k : Nat} (hl : landsNow s k = false) (hw : (ctxAt s k).waitc = 0) (hp : jobStops s k = false)
    (hf : (ctxAt s k).fence = none) (hn : candidate (ctxAt s k) = none) (hg : (ctxAt s k).fetched = true) :
    moveCtx exec s k = issueNext exec s k := by
  simp [moveCtx, hl, hw, stopsHere_of_jobStops hp, hf, hn, hg]

theorem jobOfCtx_ctx (s : State) (n : Nat) (c : Fin 4) : jobOfCtx s (4 * n + c.val) = jobOfCore s n := by
  have : (4 * n + c.val) / 4 = n := by omega
  rw [jobOfCtx, this]

section
variable {s : State} {k : Nat} {j : Job} {ws : List Nat} (hj : jobOfCtx s k = some j) (hw : (ctxAt s k).withdrawn = [])
  (hh : fetchHeld s k = false) (hp : fetchPoison s k = none) (hf : fetchBundle s j (ctxAt s k).pc = .ok ws)
include hj hw hh hp hf

/-- A bundle that does not decode is not run: its trap is entered. -/
theorem issueNext_undecoded {e : DecodeFate} {p : Nat} (hd : decodeBundle ws = .error (e, p)) :
    issueNext exec s k = issueTrap s k (issueFault s k (ctxAt s k).pc (fateCause e) p 0) := by
  simp [issueNext, hj, hw, hh, hp, hf, hd]

theorem issueNext_decoded {b : Bundle} (hd : decodeBundle ws = .ok b) : issueNext exec s k = issueBundle exec s k b := by
  simp [issueNext, hj, hw, hh, hp, hf, hd]

end

/-! ## The issue of a bundle of at most one operation (06 R105, R110) -/

theorem runOps_nil (run : Instr → State → Answer) (s : State) : runOps run [] s = .next s := rfl

theorem runOps_single (run : Instr → State → Answer) (x : Op) (s : State) :
    runOps run [x] s = run x.2 { s with cur := { s.cur with pos := x.1 } } := by
  unfold runOps
  cases run x.2 { s with cur := { s.cur with pos := x.1 } } <;> rfl

/-- What an answer becomes when a next state is changed by `f` and the working field is cleared. -/
def finished (f : State → State) : Answer → Answer
  | .next t => .next { f t with cur := Issue.reset }
  | o => o

/-- The items that the executing operations of a bundle of context `k` write. -/
def writtenBy (s : State) (k : Nat) (taken : Option Nat) (l : List Op) : List Item :=
  (executing taken l).flatMap (opWrites (ctxAt s k) taken)

section
variable {s : State} {k : Nat} {b : Bundle} {taken : Option Nat}

theorem issueGo_empty (hb : b.slots = []) : issueGo exec s k b taken =
    finished (retire · b.stop (writtenBy s k taken (opsOf b)))
      (exec (.nop (if b.stop then 1 else 0)) (begun s k b.len (executing taken (opsOf b)))) := by
  have : opsOf b = [] := by simp [opsOf, hb]
  simp only [issueGo, hb, List.isEmpty_nil, if_true, this, writtenBy]
  cases exec (.nop (if b.stop then 1 else 0)) (begun s k b.len (executing taken [])) <;> rfl

/-- An operation that does not follow its bundle runs before the retirement. -/
theorem issueGo_within {y : Slot} (hb : b.slots = [y]) (hy : 10 ≤ y.pos ∨ isPost y.instr = false) : issueGo exec s k b taken =
    finished (retire · b.stop (writtenBy s k taken (opsOf b)))
      (runOps exec [(y.pos, y.instr)] (begun s k b.len (executing taken (opsOf b)))) := by
  have all : opsOf b = [(y.pos, y.instr)] := by simp [opsOf, hb]
  have within : testsOf (opsOf b) ++ mainOf (opsOf b) = [(y.pos, y.instr)] := by
    rw [all]
    by_cases h : 10 ≤ y.pos
    · simp [testsOf, mainOf, h, Nat.not_lt.mpr h]
    · simp [testsOf, mainOf, h, Nat.not_le.mp h, hy.resolve_left h]
  have after : postOf (opsOf b) = [] := by
    rw [all]
    rcases hy with h | h
    · simp [postOf, Nat.not_lt.mpr h]
    · simp [postOf, h]
  simp only [issueGo, hb, List.isEmpty_cons, Bool.false_eq_true, if_false, within, after, writtenBy]
  cases runOps exec [(y.pos, y.instr)] (begun s k b.len (executing taken (opsOf b))) <;> rfl

/-- One that follows its bundle runs after it (06 R110). -/
theorem issueGo_after {y : Slot} (hb : b.slots = [y]) (hp : y.pos < 10) (hy : isPost y.instr = true) : issueGo exec s k b taken =
    finished id (runOps exec [(y.pos, y.instr)]
      (retire (begun s k b.len (executing taken (opsOf b))) b.stop (writtenBy s k taken (opsOf b)))) := by
  have all : opsOf b = [(y.pos, y.instr)] := by simp [opsOf, hb]
  have within : testsOf (opsOf b) ++ mainOf (opsOf b) = [] := by
    rw [all]
    simp [testsOf, mainOf, Nat.not_le.mpr hp, hy]
  have after : postOf (opsOf b) = [(y.pos, y.instr)] := by
    rw [all]
    cases hf : isFence y.instr <;> simp [postOf, hp, hy, hf]
  simp only [issueGo, hb, List.isEmpty_cons, Bool.false_eq_true, if_false, within, after, writtenBy, runOps_nil]
  cases runOps exec [(y.pos, y.instr)] (retire (begun s k b.len (executing taken (opsOf b))) b.stop
    ((executing taken (opsOf b)).flatMap (opWrites (ctxAt s k) taken))) <;> rfl

/-- The test of a bundle that is taken, and the verdict of its checks from step 5 of R96 on. -/
def takenIn (s : State) (k : Nat) (b : Bundle) : Option Nat := firstTaken (ctxAt s k) (testsOf (opsOf b))
def verdictOn (s : State) (k : Nat) (b : Bundle) : Verdict :=
  verdict s k (takenIn s k b) (ctxAt s k).pc b.len (opsOf b) (executing (takenIn s k b) (opsOf b))

theorem issueBundle_go (ht : testsWait s k (opsOf b) = false) (hv : verdictOn s k b = .go) :
    issueBundle exec s k b = issueGo exec s k b (takenIn s k b) := by
  unfold verdictOn takenIn at hv
  simp only [issueBundle, ht, Bool.false_eq_true, if_false, hv, takenIn]

theorem issueBundle_trap (ht : testsWait s k (opsOf b) = false) {f : FaultRec} (hv : verdictOn s k b = .trap f) :
    issueBundle exec s k b = issueTrap s k f := by
  unfold verdictOn takenIn at hv
  simp only [issueBundle, ht, Bool.false_eq_true, if_false, hv]

theorem issueBundle_wait (ht : testsWait s k (opsOf b) = false) (hv : verdictOn s k b = .wait) :
    issueBundle exec s k b = .next (heldBundle s k) := by
  unfold verdictOn takenIn at hv
  simp only [issueBundle, ht, Bool.false_eq_true, if_false, hv]

theorem heldBundle_waits (h : jobStops s k = false) : heldBundle s k = waiting s k := by
  simp [heldBundle, h]

end

/-! ## The statement -/

/-- Settles O56: the turn of an issue stage comes to the running context's next bundle, which decodes or traps, and what its checks say
is done. -/
theorem stepRunsDecodedInstruction : Obligations.StepRunsDecodedInstruction := by
  refine ⟨?_, ?_, fun s i rest ha hi => by rw [step_turn ha, runTurn_row hi]⟩
  · intro s rest n j c ws u k x ha hj hr hs hx hh ho hc hb hl hw hp hf hn hg hd he hpo hfb trapping
    have hj' : jobOfCtx u k = some j := (jobOfCtx_ctx u n c).trans hj
    have turn : step s = stepped s (issueNext exec u k) := by
      rw [step_turn ha, ← moveCtx_issues hl hw hp hf hn hg, ← issueStage_running hj hr hs hx hh ho hc hb]
      rfl
    refine ⟨fun e p hb => ⟨issueFault u k x.pc (fateCause e) p 0, ?_, by cases e <;> rfl, rfl, rfl, rfl, rfl⟩, ?_⟩
    · rw [issueNext_undecoded hj' hd he hpo hfb hb] at turn
      exact turn
    · intro b hb l taken ex written check start at' done ht
      have finished_eq (f : State → State) (a : Answer) : finished f a = done f a := by cases a <;> rfl
      rw [issueNext_decoded hj' hd he hpo hfb hb] at turn
      refine ⟨fun hgo => ?_, fun f hf => ?_, fun hwait => ?_⟩
      · rw [issueBundle_go ht hgo] at turn
        refine ⟨fun hb => ?_, fun y hb hy => ?_, fun y hb hy hpost => ?_, turn⟩
        · rw [turn, issueGo_empty hb, finished_eq]
          rfl
        · rw [turn, issueGo_within hb hy, runOps_single, finished_eq]
          rfl
        · rw [turn, issueGo_after hb hy hpost, runOps_single, finished_eq]
          rfl
      · rw [issueBundle_trap ht hf] at turn
        exact turn
      · rw [issueBundle_wait ht hwait, heldBundle_waits hp] at turn
        exact turn
  · intro s rest n j x l u ha hj hr hs ho hx
    rw [step_turn ha, ← issueStage_service hj hr hs ho hx]
    rfl

end Sys2Proof.Machine
end

section
/-! SUPPORT. Every row answers a next state (06 R105): one lemma for each part of the machine, and the sum of them over the instructions. -/

namespace Sys2Proof.Machine

/-! ## The shared shapes of rows -/

theorem command_next (i : CommandKind) (q : Nat) (c : Chain) (s : State) (f : Pending → State → State) :
    ∃ t, command i q c s f = .next t := by
  simp only [command]
  repeat' split
  all_goals exact ⟨_, rfl⟩

theorem advance_next (s : State) (stack n : Nat) (f : State → Handover → State) : ∃ t, advance s stack n f = .next t := by
  unfold advance
  repeat' split
  all_goals exact ⟨_, rfl⟩

theorem alu2_next (i : Instr) (d a b : SReg) (p : Tag) (lat : Nat) (f : Word → Word → Word) (s : State) :
    ∃ t, alu2 i d a b p lat f s = .next t := operate_next ..
theorem alu1_next (i : Instr) (d a : SReg) (p : Tag) (f : Word → Word) (s : State) :
    ∃ t, alu1 i d a p f s = .next t := operate_next ..
theorem plog_next (i : Instr) (d a b : PReg) (p : Tag) (f : BitVec 128 → BitVec 128 → BitVec 128) (s : State) :
    ∃ t, plog i d a b p f s = .next t := operate_next ..
theorem atom_next (i : Instr) (a b : SReg) (p : Tag) (s : State) : ∃ t, atom i a b p s = .next t := operate_next ..
theorem vatom_next (i : Instr) (d : VReg) (a : SReg) (b : VReg) (p : Tag) (s : State) :
    ∃ t, vatom i d a b p s = .next t := operate_next ..

/-! ## The rows that are no slot operations, by the part of the machine that they belong to -/

/-- The rows of the host side and of pre-emption. -/
theorem hostRows_next :
    (∀ q s, ∃ t, execQueueNotification q s = .next t) ∧ (∀ q s, ∃ t, execPin q s = .next t) ∧ (∀ q s, ∃ t, execUnpin q s = .next t) ∧
    (∀ w s, ∃ t, execConfigWrite w s = .next t) ∧ (∀ id s, ∃ t, execHostCopyComplete id s = .next t) ∧
    (∀ ok s, ∃ t, execBootComplete ok s = .next t) ∧ (∀ job s, ∃ t, execPreemptStopTimeout job s = .next t) ∧
    (∀ job s, ∃ t, execPreemptImageWrite job s = .next t) ∧ (∀ job s, ∃ t, execKillGraceExpiry job s = .next t) ∧
    (∀ job s, ∃ t, execJobEnd job s = .next t) := by
  and_intros
  all_goals
    intros
    simp only [execQueueNotification, execPin, execUnpin, execConfigWrite, execHostCopyComplete, execBootComplete, execPreemptStopTimeout,
      execPreemptImageWrite, execKillGraceExpiry, execJobEnd]
    repeat' split
    all_goals exact ⟨_, rfl⟩

/-- The rows of the inbound window, the links and the columns. -/
theorem linkRows_next :
    (∀ r off data ro s, ∃ t, execInboundPostedWrite r off data ro s = .next t) ∧ (∀ id s, ∃ t, execInboundPacketRelease id s = .next t) ∧
    (∀ id s, ∃ t, execInboundPacketAck id s = .next t) ∧ (∀ r off len tag s, ∃ t, execInboundRead r off len tag s = .next t) ∧
    (∀ die col s, ∃ t, execWallBusRealignment die col s = .next t) ∧ (∀ die col s, ∃ t, execRealignmentDeferralEnd die col s = .next t) ∧
    (∀ die col s, ∃ t, execRealignmentPauseEnd die col s = .next t) ∧ (∀ l ok f s, ∃ t, execFlitArrival l ok f s = .next t) ∧
    (∀ l s, ∃ t, execLinkRetrain l s = .next t) ∧ (∀ l s, ∃ t, execLinkRetrainEnd l s = .next t) ∧
    (∀ die col x s, ∃ t, execColtempRefresh die col x s = .next t) ∧ (∀ x s, ∃ t, execRemoteAccessPerform x s = .next t) ∧
    (∀ size s, ∃ t, execCxlPortTraining size s = .next t) := by
  and_intros
  all_goals
    intros
    simp only [execInboundPostedWrite, execInboundPacketRelease, execInboundPacketAck, execInboundRead, execWallBusRealignment,
      execRealignmentDeferralEnd, execRealignmentPauseEnd, execFlitArrival, execLinkRetrain, execLinkRetrainEnd, execColtempRefresh,
      execRemoteAccessPerform, execCxlPortTraining]
    repeat' split
    all_goals exact ⟨_, rfl⟩

/-- The rows of copies and streams. -/
theorem engineRows_next :
    (∀ id k s, ∃ t, execPoolTransactionTimeout id k s = .next t) ∧ (∀ id k s, ∃ t, execCopyElementFault id k s = .next t) ∧
    (∀ id k s, ∃ t, execCopyElementReplay id k s = .next t) ∧ (∀ id s, ∃ t, execCopyComplete id s = .next t) ∧
    (∀ id s, ∃ t, execCopyFailure id s = .next t) ∧ (∀ id n s, ∃ t, execCopyByteReport id n s = .next t) ∧
    (∀ k n s, ∃ t, execStreamReadAhead k n s = .next t) ∧ (∀ k n s, ∃ t, execStreamDrainWrite k n s = .next t) := by
  and_intros
  all_goals
    intros
    simp only [execPoolTransactionTimeout, execCopyElementFault, execCopyElementReplay, execCopyComplete, execCopyFailure, execCopyByteReport,
      execStreamReadAhead, execStreamDrainWrite]
    repeat' split
    all_goals exact ⟨_, rfl⟩

/-- The rows of a request on the fabric. -/
theorem requestRows_next :
    (∀ id s, ∃ t, execWriteAck id s = .next t) ∧ (∀ id s, ∃ t, execLongResultLand id s = .next t) ∧
    (∀ id s, ∃ t, execGatherBufferFlush id s = .next t) ∧ (∀ id s, ∃ t, execTranslationWalkComplete id s = .next t) ∧
    (∀ id s, ∃ t, execRouteStaleResend id s = .next t) ∧ (∀ id s, ∃ t, execFullEmptyRequestArrival id s = .next t) := by
  and_intros
  all_goals
    intros
    simp only [execWriteAck, execLongResultLand, execGatherBufferFlush, execTranslationWalkComplete, execRouteStaleResend,
      execFullEmptyRequestArrival]
    repeat' split
    all_goals exact ⟨_, rfl⟩

/-- The rows of the issue stage and of the entries. -/
theorem stageRows_next :
    (∀ k s, ∃ t, execInstructionFetchComplete k s = .next t) ∧ (∀ n s, ∃ t, execContextSelect n s = .next t) ∧
    (∀ k s, ∃ t, execWaitcEnd k s = .next t) ∧ (∀ k s, ∃ t, execContextIdle k s = .next t) ∧
    (∀ k s, ∃ t, execFencehComplete k s = .next t) ∧ (∀ k s, ∃ t, execEventEntry k s = .next t) ∧
    (∀ k s, ∃ t, execTrapEntry k s = .next t) ∧ (∀ k s, ∃ t, execLateFaultDelivery k s = .next t) ∧
    (∀ n s, ∃ t, execServiceContextEntry n s = .next t) ∧ (∀ n s, ∃ t, execServiceContextReturn n s = .next t) ∧
    (∀ n s, ∃ t, execServiceDeadline n s = .next t) := by
  and_intros
  all_goals
    intros
    simp only [execInstructionFetchComplete, execContextSelect, execWaitcEnd, execContextIdle, execFencehComplete, execEventEntry, execTrapEntry,
      execLateFaultDelivery, execServiceContextEntry, execServiceContextReturn, execServiceDeadline]
    repeat' split
    all_goals exact ⟨_, rfl⟩

/-- The rows of the matrix engine. -/
theorem matrixRows_next :
    (∀ n s, ∃ t, execMatrixCommandStart n s = .next t) ∧ (∀ n s, ∃ t, execMatrixBoundary n s = .next t) ∧
    (∀ n s, ∃ t, execMatrixCommandComplete n s = .next t) ∧ (∀ id s, ∃ t, execMstComplete id s = .next t) ∧
    (∀ n s, ∃ t, execMatrixFetchFault n s = .next t) ∧ (∀ n id s, ∃ t, execMatrixPriorityAgeing n id s = .next t) ∧
    (∀ n s, ∃ t, execMstTileRead n s = .next t) := by
  and_intros
  all_goals
    intros
    simp only [execMatrixCommandStart, execMatrixBoundary, execMatrixCommandComplete, execMstComplete, execMatrixFetchFault,
      execMatrixPriorityAgeing, execMstTileRead]
    repeat' split
    all_goals exact ⟨_, rfl⟩

/-- The rows of hand-overs, racks and barriers. -/
theorem unitRows_next :
    (∀ stack s, ∃ t, execHandoverStopAndHold stack s = .next t) ∧ (∀ stack s, ∃ t, execHandoverComplete stack s = .next t) ∧
    (∀ id s, ∃ t, execBarrierArrival id s = .next t) ∧ (∀ id s, ∃ t, execBarvPhaseReturn id s = .next t) ∧
    (∀ id s, ∃ t, execRackControllerOperation id s = .next t) ∧ (∀ id s, ∃ t, execBarrierUnitRequest id s = .next t) := by
  and_intros
  all_goals
    intros
    simp only [execHandoverStopAndHold, execHandoverComplete, execBarrierArrival, execBarvPhaseReturn, execRackControllerOperation,
      execBarrierUnitRequest]
    repeat' split
    all_goals exact ⟨_, rfl⟩

/-- The rows of tasks. -/
theorem taskRows_next :
    (∀ id s, ∃ t, execCounterDecrement id s = .next t) ∧ (∀ n s, ∃ t, execTaskStart n s = .next t) ∧
    (∀ n i s, ∃ t, execTaskPriorityAgeing n i s = .next t) ∧ (∀ id s, ∃ t, execLaunchArrival id s = .next t) ∧
    (∀ m s, ∃ t, execAsendRemoteArrival m s = .next t) ∧ (∀ id s, ∃ t, execLaunchAcknowledgement id s = .next t) := by
  and_intros
  all_goals
    intros
    simp only [execCounterDecrement, execTaskStart, execTaskPriorityAgeing, execLaunchArrival, execAsendRemoteArrival, execLaunchAcknowledgement]
    repeat' split
    all_goals exact ⟨_, rfl⟩

/-- The rows of groups. -/
theorem groupRows_next :
    (∀ id s, ∃ t, execReadinessUpdate id s = .next t) ∧ (∀ id s, ∃ t, execGroupMessageSteer id s = .next t) ∧
    (∀ id s, ∃ t, execMemberCoreDelivery id s = .next t) ∧ (∀ id s, ∃ t, execGroupBounce id s = .next t) ∧
    (∀ id s, ∃ t, execRefreshAnswer id s = .next t) ∧ (∀ job id s, ∃ t, execParkRelease job id s = .next t) := by
  and_intros
  all_goals
    intros
    simp only [execReadinessUpdate, execGroupMessageSteer, execMemberCoreDelivery, execGroupBounce, execRefreshAnswer, execParkRelease]
    repeat' split
    all_goals exact ⟨_, rfl⟩

/-- The rows of errors and power. -/
theorem errorRows_next :
    (∀ e s, ∃ t, execScrubPass e s = .next t) ∧ (∀ job s, ∃ t, execMgmtDataError job s = .next t) ∧
    (∀ u s, ∃ t, execPowerStateEntry u s = .next t) ∧ (∀ u s, ∃ t, execPowerStateWake u s = .next t) ∧
    (∀ die layer s, ∃ t, execLayerEmergencyOff die layer s = .next t) ∧ (∀ n s, ∃ t, execServiceStoreReloadDone n s = .next t) := by
  and_intros
  all_goals
    intros
    simp only [execScrubPass, execMgmtDataError, execPowerStateEntry, execPowerStateWake, execLayerEmergencyOff, execServiceStoreReloadDone]
    repeat' split
    all_goals exact ⟨_, rfl⟩

/-- No instruction stops the part. -/
theorem exec_next (i : Instr) (s : State) : ∃ t, exec i s = .next t := by
  delta exec
  cases i with
  | ldi | cmp | cmpAnd | cmpi | pnot | pset | pclr | pfirst | pfroms | pcount | sels | mfs | mts | loop | loopi | brklp | waitc | trap
  | rft | yield | tend | fencel | fenceh | svc | svcNop | svcLog | svcProbe | svcTouch | bt | bf | bany | ball | j | call | chk | jr | ldb
  | ldbn | ldh | ldhn | ldw | ldwn | ldd | stb | sth | stw | std | lds | vld | vst | vlds | vldb | vstb | vgath | vscat | ldfe | ldfec
  | vldfe | vldfec | stf | vstf | ldacq | strel | cas | rkopen | rkpub | rktake | rkdrop | binit | barv | bwait | pref | vadd | vsub | vmul
  | vfma | vfms | vfnma | vmin | vmax | vabs | vneg | vcmp | vand | vor | vxor | vshl | vshr | vsra | vsel | vadds | vmuls | vfmas | vbcast
  | vext | vins | vperm | vslide | viota | vcvt | kunp | kunpq | klds | kldss | qpk | qpkq | qamax | qsts | frcp | frsq | fsqrt | fexp2
  | flog2 | fsin | fcos | ftanh | fsum | fmaxr | fminr | fscan | ewr | erd | copy | copyRack | bindIn | bindOut | unbind | mma | mmas
  | mzero | mld | mst | mstRack | mpri | spawn | tset | tdec | twait | gsend | ready | unready | asend | peel | ldiLong | cmpiLong
  | loopiLong | ldbLong | ldbnLong | ldhLong | ldhnLong | ldwLong | ldwnLong | lddLong | stbLong | sthLong | stwLong | stdLong | ldsLong
  | vldLong | vstLong | vldsLong | ldfeLong | ldfecLong | vldfeLong | vldfecLong | stfLong | vstfLong | prefLong | vaddsLong | vmulsLong
  | vfmasLong | vbcastLong | mproof =>
    dsimp only
    exact operate_next ..
  | add | sub | and | or | xor | andn | shl | shr | sra | rol | min | max | minn | maxn | addw | subw | mul | mulh | mulhn =>
    dsimp only
    exact alu2_next ..
  | clz | ctz | popc | bswap | addi | andi | ori | xori | shli | shri | srai | roli | addiLong | andiLong | oriLong | xoriLong | ldhi =>
    dsimp only
    exact alu1_next ..
  | pand | por | pxor | pandn =>
    dsimp only
    exact plog_next ..
  | atomAdd | atomMin | atomMax | atomMinn | atomMaxn | atomAnd | atomOr | atomXor | atomSwap =>
    dsimp only
    exact atom_next ..
  | vatomAdd | vatomAnd | vatomOr | vatomMax =>
    dsimp only
    exact vatom_next ..
  | loadImage | createJob | start | signal | preempt | resume | kill | copyIn | copyOut | setTolerance | queryPart | queryJob
  | queryBinding | queryClusterMap | queryAttestation | queryCertChain | queryErrorLog | peelRequest =>
    dsimp only
    exact command_next ..
  | handoverQueueDrain | handoverWriteback | handoverTlbInvalidate | handoverOwnerFlip | handoverHeldRequests =>
    dsimp only
    exact advance_next ..
  | nop | deviceReset | exposedResultLand | groupMessageAck | timerExpiry | serviceStoreReload => exact ⟨_, rfl⟩
  | queueNotification | pin | unpin | configWrite | hostCopyComplete | bootComplete | preemptStopTimeout | preemptImageWrite
  | killGraceExpiry | jobEnd =>
    simp only [hostRows_next]
  | inboundPostedWrite | inboundPacketRelease | inboundPacketAck | inboundRead | wallBusRealignment | realignmentDeferralEnd
  | realignmentPauseEnd | flitArrival | linkRetrain | linkRetrainEnd | coltempRefresh | remoteAccessPerform | cxlPortTraining =>
    simp only [linkRows_next]
  | poolTransactionTimeout | copyElementFault | copyElementReplay | copyComplete | copyFailure | copyByteReport | streamReadAhead
  | streamDrainWrite =>
    simp only [engineRows_next]
  | writeAck | longResultLand | gatherBufferFlush | translationWalkComplete | routeStaleResend | fullEmptyRequestArrival =>
    simp only [requestRows_next]
  | instructionFetchComplete | contextSelect | waitcEnd | contextIdle | fencehComplete | eventEntry | trapEntry | lateFaultDelivery
  | serviceContextEntry | serviceContextReturn | serviceDeadline =>
    simp only [stageRows_next]
  | matrixCommandStart | matrixBoundary | matrixCommandComplete | mstComplete | matrixFetchFault | matrixPriorityAgeing | mstTileRead =>
    simp only [matrixRows_next]
  | handoverStopAndHold | handoverComplete | barrierArrival | barvPhaseReturn | rackControllerOperation | barrierUnitRequest =>
    simp only [unitRows_next]
  | counterDecrement | taskStart | taskPriorityAgeing | launchArrival | asendRemoteArrival | launchAcknowledgement =>
    simp only [taskRows_next]
  | readinessUpdate | groupMessageSteer | memberCoreDelivery | groupBounce | refreshAnswer | parkRelease =>
    simp only [groupRows_next]
  | scrubPass | mgmtDataError | powerStateEntry | powerStateWake | layerEmergencyOff | serviceStoreReloadDone =>
    simp only [errorRows_next]

end Sys2Proof.Machine
end

section
/-! SUPPORT. No step stops but a turn of an unbound core, and what the lane, pack and speculative forms send. -/

namespace Sys2Proof.Machine

/-! ## A turn of an issue stage -/

theorem runOps_next (l : List Op) (s : State) : ∃ t, runOps exec l s = .next t := by
  induction l generalizing s with
  | nil => exact ⟨s, rfl⟩
  | cons x l ih =>
    obtain ⟨u, h⟩ := exec_next x.2 { s with cur := { s.cur with pos := x.1 } }
    obtain ⟨t, h'⟩ := ih u
    exact ⟨t, by rw [runOps, h]; exact h'⟩

theorem issueGo_next (s : State) (k : Nat) (b : Bundle) (taken : Option Nat) :
    ∃ t, issueGo exec s k b taken = .next t := by
  have within : ∃ u, (if b.slots.isEmpty then exec (.nop (if b.stop then 1 else 0)) (begun s k b.len (executing taken (opsOf b)))
      else runOps exec (testsOf (opsOf b) ++ mainOf (opsOf b)) (begun s k b.len (executing taken (opsOf b)))) = .next u := by
    split
    · exact exec_next ..
    · exact runOps_next ..
  obtain ⟨u, h⟩ := within
  obtain ⟨t, h'⟩ := runOps_next (postOf (opsOf b))
    (retire u b.stop ((executing taken (opsOf b)).flatMap (opWrites (ctxAt s k) taken)))
  exact ⟨{ t with cur := Issue.reset }, by simp only [issueGo, h, h']⟩

theorem issueTrap_next (s : State) (k : Nat) (f : FaultRec) : ∃ t, issueTrap s k f = .next t := exec_next (.trapEntry k) _

theorem issueBundle_next (s : State) (k : Nat) (b : Bundle) : ∃ t, issueBundle exec s k b = .next t := by
  simp only [issueBundle]
  repeat' split
  · exact ⟨_, rfl⟩
  · exact issueGo_next ..
  · exact ⟨_, rfl⟩
  · exact issueTrap_next ..
  · exact ⟨_, rfl⟩

theorem issueNext_next (s : State) (k : Nat) : ∃ t, issueNext exec s k = .next t := by
  unfold issueNext
  repeat' split
  all_goals simp only [issueTrap_next, issueBundle_next, Host.Outcome.next.injEq, exists_eq']

theorem moveCtx_next (s : State) (k : Nat) : ∃ t, moveCtx exec s k = .next t := by
  unfold moveCtx
  dsimp only
  repeat' split
  all_goals simp only [execExposedResultLand, stageRows_next, issueNext_next, Host.Outcome.next.injEq, exists_eq']

/-- An issue stage stops only where no job is bound to its core. -/
theorem issueStage_next {s : State} {n : Nat} {j : Job} (h : jobOfCore s n = some j) : ∃ t, issueStage exec n s = .next t := by
  simp only [issueStage, h]
  repeat' split
  all_goals simp only [stageRows_next, moveCtx_next, Host.Outcome.next.injEq, exists_eq']

theorem issueStage_unbound {s : State} {n : Nat} (h : jobOfCore s n = none) : issueStage exec n s = .fault (.unboundCore n) := by
  simp only [issueStage, h]

/-! ## The model's own schedule -/

/-- Every move of the list answers a next state in every state. -/
def AllGo (l : List Move) : Prop := ∀ m ∈ l, ∀ s, ∃ t, m s = .next t

theorem allGo_append {l m : List Move} (h : AllGo l) (g : AllGo m) : AllGo (l ++ m) :=
  fun x hx => (List.mem_append.mp hx).elim (h x) (g x)

theorem allGo_flatMap {α : Type} {f : α → List Move} (h : ∀ a, AllGo (f a)) (l : List α) : AllGo (l.flatMap f) := fun x hx =>
  let ⟨a, _, ha⟩ := List.mem_flatMap.mp hx
  h a x ha

theorem allGo_map {α : Type} {f : α → Move} (h : ∀ a s, ∃ t, f a s = .next t) (l : List α) : AllGo (l.map f) := fun _ hx =>
  let ⟨a, _, ha⟩ := List.mem_map.mp hx
  ha ▸ h a

theorem queueMoves_go (s : State) (q : Nat) : AllGo (queueMoves s q) := by
  unfold queueMoves
  repeat' split
  all_goals simp only [AllGo, List.mem_singleton, List.not_mem_nil, forall_eq, false_imp_iff, implies_true,
    Host.Outcome.next.injEq, exists_eq']
  all_goals exact fun _ => command_next ..

theorem reqMoves_go (r : Req) : AllGo (reqMoves r) := by
  simp [AllGo, reqMoves, requestRows_next, unitRows_next, taskRows_next, groupRows_next, linkRows_next, execGroupMessageAck]

theorem copyMoves_go (c : Copy) : AllGo (copyMoves c) := by
  unfold copyMoves
  refine allGo_append (allGo_append ?_ (allGo_map (fun _ _ => ?_) _)) ?_
  · simp [AllGo, engineRows_next, linkRows_next]
  · simp only [engineRows_next]
  · simp [AllGo, engineRows_next]

theorem coreMoves_go (s : State) (n : Nat) : AllGo (coreMoves s n) := by
  unfold coreMoves
  refine allGo_append (allGo_append (allGo_append ?_ (allGo_flatMap (fun _ => ?_) _)) (allGo_map (fun _ _ => ?_) _))
    (allGo_map (fun _ _ => ?_) _)
  · simp [AllGo, stageRows_next, taskRows_next, matrixRows_next]
  · simp [AllGo, linkRows_next, matrixRows_next]
  · simp only [matrixRows_next]
  · simp only [taskRows_next]

theorem ctxMoves_go (s : State) (k : Nat) : AllGo (ctxMoves s k) := by
  unfold ctxMoves
  refine allGo_append (allGo_append ?_ ?_) (allGo_flatMap (fun _ => ?_) _)
  · split <;> simp [AllGo, stageRows_next]
  · simp [AllGo, execTimerExpiry, stageRows_next]
  · simp [AllGo, engineRows_next]

theorem ghostMoves_go (r : Req) : AllGo (ghostMoves r) := by
  simp [AllGo, ghostMoves, requestRows_next]

theorem jobMoves_go (j : Job) : AllGo (jobMoves j) := by
  refine allGo_append ?_ (allGo_map (fun _ _ => ?_) _)
  · simp [AllGo, hostRows_next]
  · simp only [groupRows_next]

theorem messageMoves_go (m : Message) : AllGo (messageMoves m) := by
  simp [AllGo, messageMoves, groupRows_next, execGroupMessageAck]

theorem updateMoves_go (u : Update) : AllGo (updateMoves u) := by
  simp [AllGo, updateMoves, groupRows_next]

theorem handoverMoves_go (h : Handover) : AllGo (handoverMoves h) := by
  simp [AllGo, handoverMoves, unitRows_next, execHandoverQueueDrain, execHandoverWriteback, execHandoverTlbInvalidate,
    execHandoverOwnerFlip, execHandoverHeldRequests, advance_next]

theorem inboundMoves_go (s : State) : AllGo (inboundMoves s) := by
  refine allGo_append (allGo_flatMap (fun _ => ?_) _) (allGo_map (fun _ _ => ?_) _)
  · simp [AllGo, linkRows_next]
  · simp only [linkRows_next]

theorem columnMoves_go (s : State) (die col : Nat) : AllGo (columnMoves s die col) := by
  refine allGo_append ?_ ?_
  · simp [AllGo, linkRows_next]
  · split <;> simp [AllGo, errorRows_next]

theorem linkMoves_go (s : State) (l : Nat) : AllGo (linkMoves s l) := by
  unfold linkMoves
  split <;> simp [AllGo, linkRows_next]

theorem timerMoves_go (n : Nat) :
    AllGo [execTimerExpiry (4 * n), execTimerExpiry (4 * n + 1), execTimerExpiry (4 * n + 2), execTimerExpiry (4 * n + 3)] := by
  simp [AllGo, execTimerExpiry]

/-- Every step of the part but those of the issue stages. -/
theorem partMoves_go (s : State) : AllGo (partMoves s) := by
  unfold partMoves
  have boot : AllGo [execBootComplete true] := by simp [AllGo, hostRows_next]
  have timers := allGo_append boot (allGo_flatMap timerMoves_go (runningCores s))
  have queues := allGo_flatMap (queueMoves_go s) (s.queues.map (·.1))
  have hostCopies := allGo_map (fun h : HostCopy => exec_next (.hostCopyComplete h.id)) s.hostCopies
  have inbox := allGo_map (fun m : RemoteSend => exec_next (.asendRemoteArrival m)) s.inbox
  have cores := allGo_flatMap (coreMoves_go s) (runningCores s)
  have contexts := allGo_flatMap (fun n => allGo_flatMap (fun i => ctxMoves_go s (4 * n + i)) (List.range 4)) (runningCores s)
  have columns := allGo_flatMap (fun d => allGo_flatMap (fun c => columnMoves_go s d c) (List.range 25)) (List.range 4)
  have engines := allGo_append (allGo_append (allGo_append (allGo_append (allGo_append timers queues) (allGo_flatMap reqMoves_go s.reqs))
    (allGo_flatMap ghostMoves_go s.ghosts)) (allGo_flatMap copyMoves_go s.copies)) hostCopies
  have messages := allGo_append (allGo_append (allGo_append (allGo_append (allGo_append engines (allGo_flatMap messageMoves_go s.messages))
    (allGo_flatMap updateMoves_go s.updates)) (allGo_flatMap handoverMoves_go s.handovers)) inbox) (inboundMoves_go s)
  exact allGo_append (allGo_append (allGo_append (allGo_append (allGo_append messages cores) contexts)
    (allGo_flatMap jobMoves_go _)) (allGo_flatMap (linkMoves_go s) _)) columns

theorem firstMove_mem {s : State} {l : List Move} {a : Answer} (h : firstMove s l = some a) : ∃ m ∈ l, m s = a := by
  induction l with
  | nil => cases h
  | cons m l ih =>
    unfold firstMove at h
    split at h
    · exact ⟨m, List.mem_cons_self, Option.some.inj h⟩
    · obtain ⟨x, hx, e⟩ := ih h
      exact ⟨x, List.mem_cons_of_mem _ hx, e⟩

/-! ## A step -/

/-- The answer is a next state, or the stop of an issue turn of a core that no job is bound to. -/
def GoesOrUnbound (s : State) (a : Answer) : Prop :=
  (∃ t, a = .next t) ∨ ∃ n, a = .fault (.unboundCore n) ∧ jobOfCore s n = none

theorem issueStage_goes (s : State) (n : Nat) : GoesOrUnbound s (issueStage exec n s) := by
  cases h : jobOfCore s n with
  | none => exact .inr ⟨n, issueStage_unbound h, h⟩
  | some j => exact .inl (issueStage_next h)

theorem defaultTurn_goes (s : State) : GoesOrUnbound s (defaultTurn exec s) := by
  unfold defaultTurn
  split
  case h_1 a h =>
    obtain ⟨m, hm, rfl⟩ := firstMove_mem h
    exact .inl (partMoves_go s m hm s)
  case h_2 =>
    cases h : firstMove s (stageMoves exec s) with
    | none => exact .inl ⟨_, rfl⟩
    | some a =>
      obtain ⟨m, hm, rfl⟩ := firstMove_mem h
      obtain ⟨n, -, rfl⟩ := List.mem_map.mp hm
      exact issueStage_goes s n

theorem runTurn_goes (t : Turn) (s : State) : GoesOrUnbound s (runTurn exec t s) := by
  cases t with
  | row i =>
    unfold runTurn
    dsimp only
    split
    · exact .inl ⟨_, rfl⟩
    · exact .inl (exec_next i s)
  | issue n => exact issueStage_goes s n
  | pass c => exact .inl ⟨_, rfl⟩
  | hostWrite a l => exact .inl ⟨_, rfl⟩
  | hostMaps l => exact .inl ⟨_, rfl⟩

/-- What a step does beside its turn stops nothing. -/
theorem stepped_goes {s u : State} (hu : ∀ n, jobOfCore u n = jobOfCore s n) {a : Answer} (h : GoesOrUnbound u a) :
    GoesOrUnbound s (stepped s a) := by
  obtain ⟨t, rfl⟩ | ⟨n, rfl, hn⟩ := h
  · exact .inl ⟨_, rfl⟩
  · exact .inr ⟨n, rfl, hu n ▸ hn⟩

theorem step_goes (s : State) : GoesOrUnbound s (step s) := by
  unfold step
  split
  · exact stepped_goes (fun _ => rfl) (defaultTurn_goes s)
  · exact stepped_goes (u := { s with agenda := _ }) (fun _ => rfl) (runTurn_goes ..)

/-! ## Lane, pack and speculative forms -/

/-- An operation whose effect is one result sends it. -/
theorem sendsResult_of {i : Instr} {p : Tag} {dest : Item} {lat : Nat} {e : State → State} (he : ∀ s, exec i s = operate i p s e)
    (hr : ∀ s, ∃ v m df fl, e s = result s dest lat v m df fl) : SendsResult i p dest lat := fun s h =>
  let ⟨v, m, df, fl, hv⟩ := hr s
  ⟨_, v, m, df, fl, (he s).trans (operate_issues h e), hv ▸ sends_result ..⟩

/-- Lanes leave as one result, in the latency of their operation. -/
theorem laneResult_result {i : Instr} {d : VReg} {lat w : Nat} {sel : Nat → Bool} {f : Nat → Nat × Flags} (s : State)
    (hl : exposedLat s s.cur.key i = lat) : ∃ v m df fl, laneResult i d w sel f s = result s ⟨.vector, d⟩ lat v m df fl :=
  ⟨_, _, _, _, by rw [laneResult, hl, resultV]⟩

theorem special_sends {i : Instr} {p : Tag} {d : VReg} (major : Nat) (f : Val → Fun) (a : VReg) (t : Fin 4) (g : Fin 8)
    (he : ∀ s, exec i s = operate i p s (special i major f d a t g)) (hl : ∀ s, exposedLat s s.cur.key i = 8) :
    SendsResult i p ⟨.vector, d⟩ 8 :=
  sendsResult_of he fun s => laneResult_result s (hl s)

theorem spread_sends {i : Instr} {p : Tag} {d : VReg} (a : VReg) (t : Fin 4) (g : Fin 8) (f : BitVec 128 → VWord → Nat × Flags)
    (he : ∀ s, exec i s = operate i p s fun s => spread i d t (f (readP s g) (readV s a)) s)
    (hl : ∀ s, exposedLat s s.cur.key i = 6) : SendsResult i p ⟨.vector, d⟩ 6 :=
  sendsResult_of he fun s => laneResult_result s (hl s)

/-- Elements of a part widened leave as one result. -/
theorem widen_sends {i : Instr} {p : Tag} {d : VReg} {lat : Nat} (r t : Fin 4) (f : State → Nat → Nat × Flags)
    (he : ∀ s, exec i s = operate i p s fun s => widen i d r t (f s) s) (hl : ∀ s, exposedLat s s.cur.key i = lat) :
    SendsResult i p ⟨.vector, d⟩ lat :=
  sendsResult_of he fun s => laneResult_result s (hl s)

theorem narrow_sends {i : Instr} {p : Tag} {d : VReg} (a : VReg) (w : Nat) (r t : Fin 4) (f : State → Nat → Nat → Nat × Flags)
    (he : ∀ s, exec i s = operate i p s fun s => narrow i d w r t (f s) a s) : SendsResult i p ⟨.vector, d⟩ 3 :=
  sendsResult_of he fun _ => ⟨_, _, _, _, rfl⟩

theorem fscan_sends (d a : VReg) (t : Fin 4) (g : Fin 8) (p : Tag) : SendsResult (.fscan d a t g p) p ⟨.vector, d⟩ 6 :=
  sendsResult_of (e := fun s => laneResult (.fscan d a t g p) d (laneWidth t) (fun _ => true)
    (fun j => (scanTree t (readP s g) (readV s a))[j]?.getD (0, 0)) s) (fun _ => rfl) fun s => laneResult_result s rfl

theorem qamax_sends (e : CReg) (a : VReg) (r t : Fin 4) (c : Fin 16) (p : Tag) : SendsResult (.qamax e a r t c p) p ⟨.scale, e⟩ 3 := by
  intro s h
  have run : ∃ u, exec (.qamax e a r t c p) s = .next (afterOp (.qamax e a r t c p) s u) ∧
      ∃ v m df fl, u = result s ⟨.scale, e⟩ 3 v m df fl := by
    refine ⟨?u, ?run, ?sent⟩
    case run =>
      show execQamax e a r t c p s = _
      rw [execQamax, operate_issues h]
    case sent => exact ⟨_, _, _, _, rfl⟩
  obtain ⟨_, run, v, m, df, fl, rfl⟩ := run
  exact ⟨_, v, m, df, fl, run, sends_result ..⟩

theorem lanePackForms_send (d a : VReg) (e : CReg) (t : Fin 4) (g f : Fin 8) (r n u : Fin 4) (c : Fin 16) (p : Tag) :
    let v : Item := ⟨.vector, d⟩
    SendsResult (.frcp d a t g p) p v 8 ∧ SendsResult (.frsq d a t g p) p v 8 ∧ SendsResult (.fsqrt d a t g p) p v 8 ∧
    SendsResult (.fexp2 d a t g p) p v 8 ∧ SendsResult (.flog2 d a t g p) p v 8 ∧ SendsResult (.fsin d a t g p) p v 8 ∧
    SendsResult (.fcos d a t g p) p v 8 ∧ SendsResult (.ftanh d a t g p) p v 8 ∧ SendsResult (.fsum d a t g p) p v 6 ∧
    SendsResult (.fmaxr d a t g p) p v 6 ∧ SendsResult (.fminr d a t g p) p v 6 ∧ SendsResult (.fscan d a t g p) p v 6 ∧
    SendsResult (.kunp d a f r t p) p v 2 ∧ SendsResult (.kunpq d a r t c p) p v 3 ∧ SendsResult (.qpk d a f r t n u p) p v 3 ∧
    SendsResult (.qpkq d a r t c p) p v 3 ∧ SendsResult (.qamax e a r t c p) p ⟨.scale, e⟩ 3 :=
  ⟨special_sends 1 frcp a t g (fun _ => rfl) fun _ => rfl,
   special_sends 2 frsq a t g (fun _ => rfl) fun _ => rfl,
   special_sends 3 fsqrt a t g (fun _ => rfl) fun _ => rfl,
   special_sends 4 fexp2 a t g (fun _ => rfl) fun _ => rfl,
   special_sends 5 flog2 a t g (fun _ => rfl) fun _ => rfl,
   special_sends 6 fsin a t g (fun _ => rfl) fun _ => rfl,
   special_sends 7 fcos a t g (fun _ => rfl) fun _ => rfl,
   special_sends 8 ftanh a t g (fun _ => rfl) fun _ => rfl,
   spread_sends a t g (sumTree t) (fun _ => rfl) fun _ => rfl,
   spread_sends a t g (pickTree t true) (fun _ => rfl) fun _ => rfl,
   spread_sends a t g (pickTree t false) (fun _ => rfl) fun _ => rfl,
   fscan_sends d a t g p,
   widen_sends r t (fun s e => toLane t (packedVal f (packedAt (packedWidth f) (readV s a) e))) (fun _ => rfl) fun _ => rfl,
   widen_sends r t (fun s e => roundTo (laneFmt t) (q4nValue (packedAt 4 (readV s a) e) (blockScale (scVal (me s) c) e)
     (superScale (scVal (me s) c)))) (fun _ => rfl) fun _ => rfl,
   narrow_sends a (packedWidth f) r t (fun _ x _ => packVal f (anyLane t x) (n.val == 1) (u.val == 1)) fun _ => rfl,
   narrow_sends a 4 r t (fun s x e => q4nEncode (laneVal t x) (blockScale (scVal (me s) c) e) (superScale (scVal (me s) c))) fun _ => rfl,
   qamax_sends e a r t c p⟩

/-- Sending a request changes how far it has come, and not what it asks for. -/
theorem sendReq_op (s : State) (r : Req) : (sendReq s r).op = r.op := by
  unfold sendReq
  repeat' split
  all_goals rfl

/-- A request that is no release joins those outstanding, behind no other change. -/
theorem requests_send {i : Instr} {s : State} {x : Word} (h : isRelease i = false) :
    Requests i s (afterOp i s (send s (newReq s i x))) (sendReq s (newReq s i x)) := by
  have stays (r : Req) (hr : r.op = i) : emptied s r = s := by simp [emptied, hr, h]
  have kept : OnlyContext s (afterOp i s s) s.cur.key := afterOp_onlyContext i s (onlyContext_refl s _)
  have sent : send s (newReq s i x) = addReq s (sendReq s (newReq s i x)) := by rw [send, stays _ rfl]
  rw [sent]
  refine ⟨?_, ?_, afterOp_others i s fun _ _ => rfl, afterOp_memory i s (memoryKept_refl s),
    afterOp_cores i s ⟨fun _ => rfl, fun _ _ => rfl⟩, ?_, ?_, ?_, afterOp_part i s ⟨rfl, rfl, rfl, rfl, rfl, rfl, rfl, rfl, rfl, rfl, rfl⟩⟩
  · rw [stays _ (sendReq_op ..)]
    exact (afterOp_rest ..).2.2.2.1
  · exact afterOp_ctx ..
  · exact (afterOp_rest ..).2.2.2.2.1
  · exact (afterOp_rest ..).2.2.2.2.2.1
  · exact (afterOp_rest ..).2.2.2.2.2.2.1

theorem ownLoad_cases {P : State → Prop} {s : State} {x : Word} {o n : Nat} {land : State → Nat → State}
    {fail : State → Cause → Word → State} (hl : ∀ v, P (land s v)) (hf : ∀ c a, P (fail s c a)) : P (ownLoad s x o n land fail) := by
  unfold ownLoad
  dsimp only
  split
  · exact hf ..
  · exact hl _

/-- LDS lands zero or what its own slice holds, or leaves as a request. -/
theorem specLoadS_cases {P : State → Prop} {i : Instr} {d a : SReg} {x : Word} {s : State} (hr : ∀ v df, P (resultS s d 4 v df))
    (hq : P (send s (newReq s i x))) : P (specLoadS i d a x s) := by
  unfold specLoadS
  split
  · exact hr ..
  · split
    · exact ownLoad_cases (fun _ => hr ..) fun _ _ => hr ..
    · exact hq

theorem specLoadV_cases {P : State → Prop} {i : Instr} {d : VReg} {a : SReg} {x : Word} {s : State}
    (hr : ∀ v df, P (resultV s d 4 v (BitVec.allOnes 2048) df 0)) (hq : P (send s (newReq s i x))) : P (specLoadV i d a x s) := by
  unfold specLoadV
  split
  · exact hr ..
  · split
    · exact ownLoad_cases (fun _ => hr ..) fun _ _ => hr ..
    · exact hq

theorem specLoadS_sends {i : Instr} (p : Tag) (d a : SReg) (x : State → Word)
    (he : ∀ s, exec i s = operate i p s fun s => specLoadS i d a (x s) s) (hr : isRelease i = false)
    (hc : ∀ s, commits s s.cur.key i = false) (s : State) (h : Issues i p s) :
    ∃ t, exec i s = .next t ∧ ((∃ v df, SendsScalar i s t d 4 v df) ∨ ∃ r, Requests i s t r ∧ r.op = i) :=
  ⟨_, (he s).trans (operate_issues h _),
   specLoadS_cases (P := fun u => (∃ v df, SendsScalar i s (afterOp i s u) d 4 v df) ∨ ∃ r, Requests i s (afterOp i s u) r ∧ r.op = i)
     (fun v df => .inl ⟨v, df, sendsScalar_resultS _ _ _ _ _ _ (hc s)⟩) (.inr ⟨_, requests_send hr, sendReq_op ..⟩)⟩

theorem specLoadV_sends {i : Instr} (p : Tag) (d : VReg) (a : SReg) (x : State → Word)
    (he : ∀ s, exec i s = operate i p s fun s => specLoadV i d a (x s) s) (hr : isRelease i = false) (s : State) (h : Issues i p s) :
    ∃ t, exec i s = .next t ∧
      ((∃ v df, Sends i s t ⟨.vector, d⟩ 4 v (BitVec.allOnes 2048) df 0) ∨ ∃ r, Requests i s t r ∧ r.op = i) :=
  ⟨_, (he s).trans (operate_issues h _),
   specLoadV_cases (P := fun u => (∃ v df, Sends i s (afterOp i s u) ⟨.vector, d⟩ 4 v (BitVec.allOnes 2048) df 0) ∨
       ∃ r, Requests i s (afterOp i s u) r ∧ r.op = i)
     (fun v df => .inl ⟨v, df, sends_result ..⟩) (.inr ⟨_, requests_send hr, sendReq_op ..⟩)⟩

/-- Settles O57. Every row answers a next state (`exec_next`), so the schedule and the agenda stop only where an issue stage finds its
core unbound (`step_goes`); a speculative load is deferred, or reads its own slice, or leaves as a request. -/
theorem noInstructionStops : Obligations.NoInstructionStops := by
  refine ⟨exec_next, lanePackForms_send, fun d a e o m p => ⟨?_, ?_, ?_, ?_⟩, step_goes⟩
  · exact specLoadS_sends p d a (fun s => shortAddr s a 8 o) (fun _ => rfl) rfl
      fun _ => by simp only [commits, plainAccess, Bool.false_and]
  · exact specLoadS_sends p d a (fun s => longAddr s a m) (fun _ => rfl) rfl
      fun _ => by simp only [commits, plainAccess, Bool.false_and]
  · exact specLoadV_sends p e a (fun s => shortAddr s a 256 o) (fun _ => rfl) rfl
  · exact specLoadV_sends p e a (fun s => longAddr s a m) (fun _ => rfl) rfl

end Sys2Proof.Machine
end

section
/-! SUPPORT. The end of a job (03 R56): which records and which end code it leaves. -/

namespace Sys2Proof.Machine

/-! ## The end of a job (03 R56) -/

/-- The jobs, and the end code that HEALTH shows, are as before. -/
def EndKept (s t : State) : Prop := t.jobs = s.jobs ∧ t.health.jerrCode = s.health.jerrCode

theorem EndKept.refl (s : State) : EndKept s s := ⟨rfl, rfl⟩
theorem EndKept.trans {s t u : State} (h : EndKept s t) (g : EndKept t u) : EndKept s u := ⟨g.1.trans h.1, g.2.trans h.2⟩

theorem endKept_foldl {α : Type} {f : State → α → State} (h : ∀ s x, EndKept s (f s x)) (l : List α) (s : State) :
    EndKept s (l.foldl f s) := by
  induction l generalizing s with
  | nil => exact .refl s
  | cons x l ih => exact (h s x).trans (ih _)

theorem configChanged_health (s : State) (h : Health) : (configChanged s h).health = h := by
  unfold configChanged
  split
  · exact (by assumption : h = s.health).symm
  · rfl

theorem endKept_logEntry (s : State) (kind core ctx job : Nat) (a b : Word) : EndKept s (logEntry s kind core ctx job a b) := ⟨rfl, rfl⟩

theorem endKept_configChanged {s t : State} {h : Health} (e : EndKept s t) (g : h.jerrCode = s.health.jerrCode) :
    EndKept s (configChanged t h) := ⟨(configChanged_jobs ..).trans e.1, by rw [configChanged_health, g]⟩

/-- A change of HEALTH that keeps its end code, and its entry in the log. -/
theorem endKept_logged {s t : State} {h : Health} (e : EndKept s t) (g : h.jerrCode = s.health.jerrCode)
    (kind core ctx job : Nat) (a b : Word) : EndKept s (logEntry (configChanged t h) kind core ctx job a b) :=
  (endKept_configChanged e g).trans (endKept_logEntry ..)

theorem endKept_retireCore (s : State) (n : Nat) : EndKept s (retireCore s n) := by
  unfold retireCore loadColumn
  dsimp only
  generalize (if coreLayer n = 0 then n + 32 else n - 32) = other
  repeat' split
  · exact .refl s
  · exact .refl s
  all_goals
    refine endKept_logged ?_ ?_ ..
    · exact ⟨rfl, rfl⟩
    · rfl

theorem endKept_logProofs (s : State) (n : Nat) : EndKept s (logProofs s n) :=
  endKept_foldl (fun s x => by
    cases x with
    | proof k seed => exact endKept_logEntry ..
    | _ => exact .refl s) _ s

/-- Every job with this number has ended, and HEALTH shows the code. -/
def JobOver (id code : Nat) (s : State) : Prop := (∀ j ∈ s.jobs, j.id = id → j.status = .ended) ∧ s.health.jerrCode = code

theorem JobOver.of_kept {id code : Nat} {s t : State} (h : JobOver id code s) (k : EndKept s t) : JobOver id code t :=
  ⟨k.1 ▸ h.1, k.2.trans h.2⟩

/-- A record that has ended, put in the place of the job's, leaves it ended. -/
theorem JobOver.setJob {id code : Nat} {s : State} {j : Job} (h : JobOver id code s) (hj : j.id = id → j.status = .ended) :
    JobOver id code (setJob s j) := by
  refine ⟨fun x hx hi => ?_, h.2⟩
  obtain ⟨y, hy, rfl⟩ := List.mem_map.mp hx
  by_cases hy' : (y.id == j.id) = true
  · rw [if_pos hy'] at hi ⊢
    exact hj hi
  · rw [if_neg hy'] at hi ⊢
    exact h.1 y hy hi

theorem JobOver.foldl {α : Type} {id code : Nat} {f : State → α → State} (hf : ∀ s x, JobOver id code s → JobOver id code (f s x))
    (l : List α) {s : State} (h : JobOver id code s) : JobOver id code (l.foldl f s) := by
  induction l generalizing s with
  | nil => exact h
  | cons x l ih => exact ih (hf s x h)

theorem mem_of_jobAt {s : State} {id : Nat} {j : Job} (h : jobAt s id = some j) : j ∈ s.jobs ∧ j.id = id :=
  ⟨List.mem_of_find?_eq_some h, by simpa using List.find?_some h⟩

theorem JobOver.returnStack {id code : Nat} {s : State} (h : JobOver id code s) (stack : Nat) :
    JobOver id code (returnStack id s stack) := by
  have zeroed : JobOver id code (zeroStack s stack) := h.of_kept ⟨rfl, rfl⟩
  unfold Machine.returnStack
  dsimp only
  split
  · split
    · exact zeroed
    · next j hj =>
      obtain ⟨hm, hi⟩ := mem_of_jobAt hj
      exact zeroed.setJob fun _ => zeroed.1 j hm hi
  · exact h.of_kept ⟨rfl, rfl⟩

theorem endKept_abortCommands (s : State) (j : Job) : EndKept s (abortCommands s j) := by
  unfold abortCommands
  dsimp only
  have copies := endKept_foldl (f := fun s (h : HostCopy) => if h.job = j.id then complete s h.cmd stAborted j.id [] else s)
    (fun s h => by split <;> exact ⟨rfl, rfl⟩) s.hostCopies s
  refine copies.trans ?_
  generalize s.hostCopies.foldl _ s = t
  have handovers := endKept_foldl (f := fun s (h : Handover) => match h.source with
    | .host p => if h.job = j.id then complete s p stAborted j.id [] else s
    | _ => s) (fun s h => by repeat' split
                             all_goals exact ⟨rfl, rfl⟩) t.handovers t
  refine handovers.trans ?_
  split <;> exact ⟨rfl, rfl⟩

theorem endKept_retireMarked (s : State) : EndKept s (retireMarked s) := endKept_foldl endKept_retireCore _ s

/-- The end of a job: its things go, its record says so, its stacks return and marked cores are retired. -/
theorem releaseJob_eq (s : State) (j : Job) : ∃ (u : State) (e : Job), EndKept s u ∧ e.id = j.id ∧ e.status = .ended ∧
    releaseJob s j = retireMarked ((j.holds.map (·.1)).foldl (returnStack j.id) (setJob u e)) := by
  refine ⟨_, _, ?kept, ?id, ?status, rfl⟩
  case id => rfl
  case status => rfl
  case kept =>
    have proofs : EndKept s (endPackets (j.binding.foldl logProofs s) j) :=
      (endKept_foldl endKept_logProofs j.binding s).trans ⟨rfl, rfl⟩
    have logged := proofs.trans (endKept_foldl (f := logRefused j.id) (fun _ _ => ⟨rfl, rfl⟩) (refusedLaunches s j) _)
    refine logged.trans (EndKept.trans ?_ (endKept_foldl (f := releaseCore) (fun _ _ => ⟨rfl, rfl⟩) j.binding _))
    exact ⟨rfl, rfl⟩

/-- A job that is freed has ended; the end code stays. -/
theorem releaseJob_over (s : State) (j : Job) : JobOver j.id s.health.jerrCode (releaseJob s j) := by
  obtain ⟨u, e, kept, id, ended, run⟩ := releaseJob_eq s j
  rw [run]
  suffices recorded : JobOver j.id s.health.jerrCode (setJob u e) from
    (JobOver.foldl (fun _ stack h => h.returnStack stack) _ recorded).of_kept (endKept_retireMarked _)
  refine ⟨fun x hx hi => ?_, kept.2⟩
  obtain ⟨y, hy, rfl⟩ := List.mem_map.mp hx
  by_cases hy' : (y.id == e.id) = true
  · rw [if_pos hy']
    exact ended
  · rw [if_neg hy'] at hi
    exact absurd (hi.trans id.symm) (by simpa using hy')

/-- A job that the device ends is freed once HEALTH shows its end code. -/
theorem abortJob_eq {s : State} {id : Nat} {j : Job} (hj : jobAt s id = some j) (he : j.status ≠ .ended) (code : Nat) :
    ∃ u : State, u.health.jerrCode = code ∧ abortJob s id (some code) = releaseJob u j := by
  refine ⟨_, ?_, by rw [abortJob, hj]; exact if_neg he⟩
  refine (endKept_abortCommands _ _).2.trans ((endKept_foldl (f := fun s (x : Pending × Nat) => complete s x.1 stAborted id [])
    (fun _ _ => ⟨rfl, rfl⟩) _ _).2.trans ?_)
  exact congrArg Health.jerrCode (configChanged_health ..)

theorem abortJob_over {s : State} {id : Nat} {j : Job} (hj : jobAt s id = some j) (he : j.status ≠ .ended) (code : Nat) :
    JobOver id code (abortJob s id (some code)) := by
  obtain ⟨u, hu, run⟩ := abortJob_eq hj he code
  rw [run, ← hu, ← (mem_of_jobAt hj).2]
  exact releaseJob_over u j

/-- The job of core `n` ends as the device ends one. -/
theorem abortJob_endsJob (s : State) (n code : Nat) : EndsJob s (abortJob s ((coreAt s n).job.getD 0) (some code)) n code := by
  unfold EndsJob
  generalize (coreAt s n).job.getD 0 = id
  cases hj : jobAt s id with
  | none =>
    have stays : abortJob s id (some code) = s := by rw [abortJob, hj]
    rw [stays, hj]
    exact ⟨fun _ h => (Option.some_ne_none _ h.symm).elim, fun _ h => (Option.some_ne_none _ h.symm).elim⟩
  | some j =>
    by_cases he : j.status = .ended
    · have stays : abortJob s id (some code) = s := by
        rw [abortJob, hj]
        exact if_pos he
      rw [stays, hj]
      exact ⟨fun x h => Option.some.inj h ▸ he, fun x h hx => absurd (Option.some.inj h ▸ he) hx⟩
    · obtain ⟨ended, shown⟩ := abortJob_over hj he code
      exact ⟨fun x hx => ended x (mem_of_jobAt hx).1 (mem_of_jobAt hx).2, fun _ _ _ => shown⟩

end Sys2Proof.Machine
end

section
/-! SUPPORT. The SYS operations (06 R141-R147): the equation of each, the end of a task, and the entry that a TRAP makes. -/

namespace Sys2Proof.Machine

/-! ## YIELD and SVC (06 R144, R147) -/

theorem exec_yield {p : Tag} {s : State} (h : Issues (.yield p) p s) :
    let t := onCtx s s.cur.key fun c => { c with landing := true, yields := c.waitc != 0 }
    exec (.yield p) s = .next (if (ctxAt s s.cur.key).waitc = 0 then giveUpStage t s.cur.key else t) := by
  show execYield p s = _
  rw [execYield, operate_plain h rfl rfl]
  dsimp only
  rw [onCtx_cur, ctxAt_onCtx_same]

/-- A context that gives up the stage is last in the order of the selector. -/
theorem giveUpStage_last (s : State) (k : Nat) : (coreAt (giveUpStage s k) (k / 4)).last = Fin.ofNat 4 k := by
  rw [giveUpStage, leaveStage, coreAt_onCore_same]

theorem exec_svc_serves {i : Instr} {x : BitVec 12} {s : State} (he : exec i s = .next (svcEnter s x))
    (hw : (ctxAt s s.cur.key).waitc = 0) :
    exec i s = .next (serviceCall s s.cur.key x) := by rw [he, svcEnter, if_pos hw]

theorem exec_svc_waits {i : Instr} {x : BitVec 12} {s : State} (he : exec i s = .next (svcEnter s x))
    (hw : (ctxAt s s.cur.key).waitc ≠ 0) :
    exec i s = .next (onCtx s s.cur.key fun c => { c with svc := some x }) := by rw [he, svcEnter, if_neg hw]

/-- An operation that enters the service context does so now, or after the empty cycles beside it. -/
theorem svc_serves {i : Instr} {p : Tag} {s : State} {x : BitVec 12} (he : Issues i p s → exec i s = .next (svcEnter s x)) :
    let k := s.cur.key
    let c := ctxAt s k
    let core := coreAt s (k / 4)
    (Issues i p s → c.waitc = 0 → ∃ t, exec i s = .next t ∧
      ctxAt t k = { c with status := .serviced } ∧ coreAt t (k / 4) = { core with services := core.services ++ [.svc k x] } ∧
      OthersKept s t k ∧ MemoryKept s t ∧ WorkKept s t ∧ PartKept s t) ∧
    (Issues i p s → c.waitc ≠ 0 → ∃ t, exec i s = .next t ∧ ctxAt t k = { c with svc := some x } ∧ OnlyContext s t k) :=
  ⟨fun h hw => ⟨_, exec_svc_serves (he h) hw, ctxAt_serviceCall_same .., coreAt_serviceCall .., fun _ hq => ctxAt_serviceCall_ne _ _ hq,
    memoryKept_refl s, workKept_refl s, ⟨rfl, rfl, rfl, rfl, rfl, rfl, rfl, rfl, rfl, rfl, rfl⟩⟩,
   fun h hw => ⟨_, exec_svc_waits (he h) hw, ctxAt_onCtx_same .., onlyContext_onCtx ..⟩⟩

theorem exec_svc {code : BitVec 12} {p : Tag} {s : State} (h : Issues (.svc code p) p s) :
    exec (.svc code p) s = .next (svcEnter s code) := by
  show execSvc code p s = _
  rw [execSvc, operate_plain h rfl rfl]

theorem exec_svcNop {p : Tag} {s : State} (h : Issues (.svcNop p) p s) : exec (.svcNop p) s = .next (svcEnter s 0) := by
  show execSvcNop p s = _
  rw [execSvcNop, operate_plain h rfl rfl]

theorem exec_svcLog {p : Tag} {s : State} (h : Issues (.svcLog p) p s) : exec (.svcLog p) s = .next (svcEnter s 1) := by
  show execSvcLog p s = _
  rw [execSvcLog, operate_plain h rfl rfl]

theorem exec_svcProbe {p : Tag} {s : State} (h : Issues (.svcProbe p) p s) : exec (.svcProbe p) s = .next (svcEnter s 2) := by
  show execSvcProbe p s = _
  rw [execSvcProbe, operate_plain h rfl rfl]

theorem exec_svcTouch {p : Tag} {s : State} (h : Issues (.svcTouch p) p s) : exec (.svcTouch p) s = .next (svcEnter s 3) := by
  show execSvcTouch p s = _
  rw [execSvcTouch, operate_plain h rfl rfl]

/-! ## Fences (06 R146, 14 R303) -/

theorem exec_fencel {p : Tag} {s : State} (h : Issues (.fencel p) p s) : exec (.fencel p) s =
    .next (onCtx (flushGathered s (· == s.cur.key)) s.cur.key fun c => { c with fencel := s.nextId }) := by
  show execFencel p s = _
  rw [execFencel, operate_plain h rfl rfl]

/-- The fence that a FENCEH begins, beside one of its bundle that it widens. -/
def begunFence (s : State) (k : Nat) (sc : Fin 64) : Fence :=
  ⟨max (((ctxAt s k).fence.map (·.scope)).getD 0) sc, false, unperformed (flushGathered s (· == k)) (· == k), []⟩

theorem exec_fenceh {sc : Fin 64} {p : Tag} {s : State} (h : Issues (.fenceh sc p) p s) : exec (.fenceh sc p) s =
    .next (onCtx (flushGathered s (· == s.cur.key)) s.cur.key fun c => { c with fence := some (begunFence s s.cur.key sc) }) := by
  show execFenceh sc p s = _
  rw [execFenceh, operate_plain h rfl rfl]
  rfl

theorem flushGathered_own (s : State) (k : Nat) :
    (flushGathered s (· == k)).reqs = s.reqs.map fun r => if r.ctx = k ∧ r.heads then sendReq s r else r :=
  List.map_congr_left fun r _ => by simp

/-! ## TEND (06 R145) -/

theorem exec_tend {p : Tag} {s : State} (h : Issues (.tend p) p s) : exec (.tend p) s = .next (endTask s s.cur.key) := by
  show execTend p s = _
  rw [execTend, operate_plain h rfl rfl]

/-- A launch that enters a free entry changes the tables of the cores, the launches that wait and how far requests have come. -/
structure Offered (s t : State) : Prop where
  ctxs : t.ctxs = s.ctxs
  mem : t.mem = s.mem
  full : t.full = s.full
  bad : t.bad = s.bad
  reqs : ∀ r ∈ t.reqs, ∃ q ∈ s.reqs, r.ctx = q.ctx ∧ r.discard = q.discard

theorem Offered.refl (s : State) : Offered s s := ⟨rfl, rfl, rfl, rfl, fun r h => ⟨r, h, rfl, rfl⟩⟩

theorem Offered.trans {s t u : State} (h : Offered s t) (g : Offered t u) : Offered s u where
  ctxs := g.ctxs.trans h.ctxs
  mem := g.mem.trans h.mem
  full := g.full.trans h.full
  bad := g.bad.trans h.bad
  reqs r hr :=
    let ⟨q, hq, hc, hd⟩ := g.reqs r hr
    let ⟨x, hx, hc', hd'⟩ := h.reqs q hq
    ⟨x, hx, hc.trans hc', hd.trans hd'⟩

theorem offer_offered (s : State) (j : Job) (core n : Nat) : Offered s (offer s j core n) := by
  induction n generalizing s with
  | zero => exact .refl s
  | succ n ih =>
    unfold offer
    dsimp only
    split
    · exact .refl s
    · split
      · exact .refl s
      · refine Offered.trans ?_ (ih _)
        refine ⟨rfl, rfl, rfl, rfl, fun r hr => ?_⟩
        obtain ⟨q, hq, rfl⟩ := List.mem_map.mp hr
        refine ⟨q, hq, ?_⟩
        split <;> exact ⟨rfl, rfl⟩

theorem offerCore_offered (s : State) (n : Nat) : Offered s (offerCore s n) := by
  unfold offerCore
  split
  · exact offer_offered ..
  · exact .refl s

theorem offerCore_none {s : State} {n : Nat} (h : s.launches = []) : offerCore s n = s := by
  unfold offerCore
  split
  · simp [offer, h, takeLaunch]
  · rfl

/-- A context whose task has ended: it has no task and nothing in flight, and its registers stand. -/
theorem finishTask_ctx (s : State) (k : Nat) (entry : Task → Task) :
    let c := ctxAt s k
    let d := ctxAt (finishTask s k entry) k
    d.status = .ending ∧ d.task = none ∧ d.flights = [] ∧ d.loops = [] ∧ d.s = c.s ∧ d.v = c.v ∧ d.p = c.p := by
  dsimp only
  rw [finishTask, ctxAt_leaveStage, ctxAt_setCtx_same]
  exact ⟨rfl, rfl, rfl, rfl, rfl, rfl, rfl⟩

theorem ctxAt_finishTask_ne (s : State) {k q : Nat} (entry : Task → Task) (h : q ≠ k) : ctxAt (finishTask s k entry) q = ctxAt s q := by
  rw [finishTask, ctxAt_leaveStage, ctxAt_setCtx_ne _ _ h]
  rfl

/-- What a request of the context brings after its task's end is discarded. -/
theorem finishTask_discards {s : State} {k : Nat} {entry : Task → Task} {r : Req} (h : r ∈ (finishTask s k entry).reqs)
    (hk : r.ctx = k) : r.discard = true := by
  obtain ⟨q, -, hq⟩ := List.mem_filterMap.mp (show r ∈ (flushGathered s (· == k)).reqs.filterMap (endRequest k) from h)
  unfold endRequest at hq
  split at hq
  · next hne => exact absurd hk (Option.some.inj hq ▸ hne)
  · split at hq
    · cases hq
    · rw [← Option.some.inj hq]

theorem finishTask_entry {s : State} {k i : Nat} {entry : Task → Task} (ht : (ctxAt s k).task = some i) (hi : i < 64) :
    (coreAt (finishTask s k entry) (k / 4)).tasks[i]? = some (entry ((coreAt s (k / 4)).tasks[i]?.getD Task.reset)) := by
  have table : (coreAt (finishTask s k entry) (k / 4)).tasks =
      (coreAt s (k / 4)).tasks.setIfInBounds i (entry ((coreAt s (k / 4)).tasks[i]?.getD Task.reset)) := by
    rw [finishTask, leaveStage, coreAt_onCore_same, coreAt_setCtx, coreAt_onCore_same, ht]
    rfl
  rw [table]
  simp [hi]

theorem endTask_offers {s : State} {k : Nat} (h : handlerFault (ctxAt s k) = none) :
    endTask s k = offerCore (finishTask s k fun _ => Task.reset) (k / 4) := by rw [endTask, h]

theorem endTask_aborts {s : State} {k : Nat} {f : FaultRec} (h : handlerFault (ctxAt s k) = some f) :
    endTask s k = abortJob s ((coreAt s (k / 4)).job.getD 0) (some f.cause.code) := by rw [endTask, h]

/-! ## TRAP (06 R142, 21 R375) -/

theorem exec_trap {code : BitVec 12} {p : Tag} {s : State} (h : Issues (.trap code p) p s) : exec (.trap code p) s =
    .next (boundary (onCtx s s.cur.key fun c => { c with trap := some { faultNow s .trap 0 false with code := code } }) s.cur.key) := by
  show execTrap code p s = _
  rw [execTrap, operate_plain h rfl rfl]

/-- A context with no stream bound and no result due. -/
def Quiet (c : Ctx) : Prop := c.streams = Vector.replicate 8 none ∧ ∀ f ∈ c.flights, c.ccyc + 1 < f.land

theorem entryBlocked_quiet {s : State} {k : Nat} (h : Quiet (ctxAt s k)) : entryBlocked s k = false := by
  unfold entryBlocked
  rw [landDue_none h.2, h.1]
  split
  · rfl
  · simp [Vector.toList_replicate]

theorem drainStreams_none {s : State} {k : Nat} (h : (ctxAt s k).streams = Vector.replicate 8 none) : drainStreams s k = s := by
  have free (n : Nat) : ((ctxAt s k).streams[n]?).getD none = none := by
    rw [h, Vector.getElem?_replicate]
    split <;> rfl
  unfold drainStreams
  generalize [0, 1, 2, 3, 4, 5, 6, 7] = l
  refine List.foldl_fixed' (fun n => List.foldl_fixed' (fun _ => ?_) l) l
  rw [free]

theorem serveOne_ctxs (s : State) (r : Req) : (serveOne s r).ctxs = s.ctxs := by
  unfold serveOne
  dsimp only
  repeat' split
  all_goals rfl

theorem serveHeld_ctxs (s : State) : (serveHeld s).ctxs = s.ctxs := by
  unfold serveHeld
  generalize s.reqs = l
  induction l generalizing s with
  | nil => rfl
  | cons r l ih => exact (ih _).trans (serveOne_ctxs s r)

/-- What an entry reads of its context is not touched by what comes before it. -/
def EntryKept (c d : Ctx) : Prop := d.tvec = c.tvec ∧ d.held = c.held ∧ d.late = c.late ∧ d.h = c.h ∧ d.streams = c.streams

theorem EntryKept.refl (c : Ctx) : EntryKept c c := ⟨rfl, rfl, rfl, rfl, rfl⟩

theorem reissue_ctx (s : State) (k : Nat) : EntryKept (ctxAt s k) (ctxAt (reissue s k) k) ∧
    (ctxAt (reissue s k) k).flights = (ctxAt s k).flights ∧ (ctxAt (reissue s k) k).ccyc = (ctxAt s k).ccyc := by
  have cases : ctxAt (reissue s k) k = ctxAt s k ∨ ctxAt (reissue s k) k = { ctxAt s k with withdrawn := [] } := by
    unfold reissue
    dsimp only
    split
    · exact .inl rfl
    · exact .inr (look_put_same ..)
  obtain e | e := cases
  · rw [e]
    exact ⟨.refl _, rfl, rfl⟩
  · rw [e]
    exact ⟨.refl _, rfl, rfl⟩

theorem settleFlights_ctx {s : State} {k : Nat} (h : ∀ f ∈ (ctxAt s k).flights, (ctxAt s k).ccyc + 1 < f.land) :
    EntryKept (ctxAt s k) (ctxAt (settleFlights s k) k) := by
  rw [settleFlights, ctxAt_onCtx_same, ctxAt_onCtx_same, landDue_none h]
  exact .refl _

/-- Before the entry of a quiet context its exposed results are settled, and nothing that the entry reads changes. -/
theorem prepareEntry_ctx {s : State} {k : Nat} (h : Quiet (ctxAt s k)) : EntryKept (ctxAt s k) (ctxAt (prepareEntry s k) k) := by
  obtain ⟨hr, hf, hc⟩ := reissue_ctx s k
  have settled : EntryKept (ctxAt (reissue s k) k) (ctxAt (settleFlights (reissue s k) k) k) :=
    settleFlights_ctx (by rw [hf, hc]; exact h.2)
  have kept : EntryKept (ctxAt s k) (ctxAt (settleFlights (reissue s k) k) k) := by
    obtain ⟨a, b, c, d, e⟩ := hr
    obtain ⟨a', b', c', d', e'⟩ := settled
    exact ⟨a'.trans a, b'.trans b, c'.trans c, d'.trans d, e'.trans e⟩
  have idle : drainStreams (settleFlights (reissue s k) k) k = settleFlights (reissue s k) k :=
    drainStreams_none (kept.2.2.2.2.trans h.1)
  rw [prepareEntry, idle, ctxAt_of_ctxs (show (flushGathered _ _).ctxs = _ from serveHeld_ctxs _)]
  exact kept

/-- What an entry with this number, address and handler leaves of its context. -/
def Entered (c : Ctx) (cause : Nat) (addr handler : Word) : Prop :=
  c.pc = handler ∧ c.h = true ∧ c.en = false ∧ c.loops = [] ∧ c.taddr = addr ∧ c.tcause = BitVec.ofNat 25 cause

theorem ctxAt_enter (s : State) (k cause : Nat) (addr bundle handler : Word) (held : List FaultRec) :
    Entered (ctxAt (enter s k cause addr bundle handler held) k) cause addr handler := by
  unfold enter
  dsimp only
  split
  · rw [ctxAt_setJob, ctxAt_setCtx_same]
    exact ⟨rfl, rfl, rfl, rfl, rfl, rfl⟩
  · rw [ctxAt_setCtx_same]
    exact ⟨rfl, rfl, rfl, rfl, rfl, rfl⟩

theorem takeTrap_enters {s : State} {k : Nat} {f : FaultRec} {held : List FaultRec} (hu : f.cause ≠ .ue) (hf : f.inHandler = false)
    (hv : (ctxAt s k).tvec ≠ 0) : takeTrap s k f held = enter s k f.tcause f.addr f.bundle (ctxAt s k).tvec held := by
  rw [takeTrap, if_neg fun h => hu h.1, hf, if_neg Bool.false_ne_true, if_neg fun h => hu h.1, if_neg hv]

theorem takeCandidate_trap {s : State} {k : Nat} {f : FaultRec} (h : Quiet (ctxAt s k)) (hl : (ctxAt s k).late = [])
    (hd : (ctxAt s k).held.length ≤ 32) (hu : f.cause ≠ .ue) (hf : f.inHandler = false) (hv : (ctxAt s k).tvec ≠ 0) :
    Entered (ctxAt (takeCandidate s k (.trap f)) k) f.tcause f.addr (ctxAt s k).tvec := by
  obtain ⟨tvec, held, late, -, -⟩ := prepareEntry_ctx h
  have rest : leftHeld (ctxAt (prepareEntry s k) k) (.trap f) = (ctxAt s k).held := by
    simp [leftHeld, late, hl, held, recorded, holdAll]
  have room : (ctxAt s k).held[32]? = none := List.getElem?_eq_none (by omega)
  have cleared (u : State) (hu' : (ctxAt u k).tvec = (ctxAt s k).tvec) :
      Entered (ctxAt (takeTrap u k f (ctxAt s k).held) k) f.tcause f.addr (ctxAt s k).tvec := by
    rw [takeTrap_enters hu hf (fun h => hv (hu'.symm.trans h)), hu']
    exact ctxAt_enter ..
  unfold takeCandidate
  dsimp only
  rw [rest, room]
  refine cleared (onCtx (prepareEntry s k) k fun c => { c with held := [], late := [], trap := none }) ?_
  rw [ctxAt_onCtx_same]
  dsimp only
  exact tvec

theorem spoilBytes_ctxs (s : State) (l : List Nat) : (spoilBytes s l).ctxs = s.ctxs := by
  unfold spoilBytes
  split <;> rfl

theorem takeEntry_ctx (s : State) (k : Nat) (x : Candidate) : ctxAt (takeEntry s k x) k = ctxAt (takeCandidate s k x) k := by
  unfold takeEntry
  dsimp only
  split
  · exact ctxAt_of_ctxs (spoilBytes_ctxs ..) k
  · rfl

/-- A post-bundle trap of code that is no handler's is taken at the boundary where nothing comes before it. -/
theorem boundary_trap {s : State} {k : Nat} {f : FaultRec} (h : Quiet (ctxAt s k)) (hw : (ctxAt s k).waitc = 0)
    (hx : candidate (ctxAt s k) = some (.trap f)) (hl : (ctxAt s k).late = []) (hd : (ctxAt s k).held.length ≤ 32)
    (hu : f.cause ≠ .ue) (hf : f.inHandler = false) (hv : (ctxAt s k).tvec ≠ 0) :
    Entered (ctxAt (boundary s k) k) f.tcause f.addr (ctxAt s k).tvec := by
  have open' : ¬((ctxAt s k).waitc ≠ 0 ∨ entryBlocked s k = true) := by simp [hw, entryBlocked_quiet h]
  rw [boundary, if_neg open', hx]
  dsimp only
  rw [takeEntry_ctx]
  exact takeCandidate_trap h hl hd hu hf hv

theorem candidate_trap {c : Ctx} {f : FaultRec} (hf : c.fence = none) (hr : c.status = .running) (ha : c.afterRft = false)
    (hl : c.late = []) : candidate { c with trap := some f } = some (.trap f) := by
  simp [candidate, hf, hr, ha, hl, firstFault]

/-! ## The statement -/

/-- Settles O24: each operation leaves what its `exec_…` lemma says. A TRAP stands alone at its boundary, so it is the candidate that is
taken; a TEND that finds a handler's fault ends the job as `abortJob_endsJob` says. -/
theorem systemOperations : Obligations.SystemOperations := by
  intro code sc p s k c core serves sent
  refine ⟨fun h hh hv hf ha hl hr hw hs hn hd => ?_, fun h hw => ?_, fun h hw => ?_, fun f h hf => ?_, fun h hf => ?_, fun h => ?_,
    fun h => ?_, svc_serves exec_svc, svc_serves exec_svcNop, svc_serves exec_svcLog, svc_serves exec_svcProbe, svc_serves exec_svcTouch⟩
  · have entered := boundary_trap (s := onCtx s k fun c => { c with trap := some { faultNow s .trap 0 false with code := code } }) (k := k)
      (f := { faultNow s .trap 0 false with code := code })
    rw [ctxAt_onCtx_same] at entered
    obtain ⟨pc, inHandler, disabled, loops, addr, cause⟩ :=
      entered ⟨hs, hn⟩ hw (candidate_trap hf hr ha hl) hl hd (fun e => by cases e) hh hv
    exact ⟨_, exec_trap h, pc, inHandler, disabled, loops, addr, cause⟩
  · refine ⟨_, exec_yield h, ?_⟩
    rw [if_pos hw]
    refine ⟨?_, giveUpStage_last _ k, giveUpStage_holder _ k, fun q hq => ?_, memoryKept_refl s, workKept_refl s,
      ⟨rfl, rfl, rfl, rfl, rfl, rfl, rfl, rfl, rfl, rfl, rfl⟩⟩
    · rw [ctxAt_giveUpStage_same, ctxAt_onCtx_same, hw]
      rfl
    · rw [ctxAt_giveUpStage_ne _ hq, ctxAt_onCtx_ne _ _ hq]
  · refine ⟨_, exec_yield h, ?_⟩
    rw [if_neg hw]
    refine ⟨?_, onlyContext_onCtx ..⟩
    have waits : (c.waitc != 0) = true := by simpa using hw
    rw [ctxAt_onCtx_same, waits]
  · exact ⟨_, exec_tend h, endTask_aborts hf ▸ abortJob_endsJob ..⟩
  · obtain ⟨status, task, flights, loops, regs, vectors, preds⟩ := finishTask_ctx s k fun _ => Task.reset
    obtain ⟨ctxs, mem, full, bad, reqs⟩ := offerCore_offered (finishTask s k fun _ => Task.reset) (k / 4)
    refine ⟨_, exec_tend h, ?_⟩
    rw [endTask_offers hf, ctxAt_of_ctxs ctxs]
    refine ⟨status, task, flights, loops, regs, vectors, preds, memoryKept_of_eq mem full bad, fun q hq => ?_, fun r hr hk => ?_,
      fun i ht hi hl => ?_⟩
    · rw [ctxAt_of_ctxs ctxs, ctxAt_finishTask_ne _ _ hq]
    · obtain ⟨q, hq, hc, hd⟩ := reqs r hr
      exact hd.trans (finishTask_discards hq (hc.symm.trans hk))
    · rw [offerCore_none (show (finishTask s k fun _ => Task.reset).launches = [] from hl), finishTask_entry ht hi]
      rfl
  · exact ⟨_, exec_fencel h, flushGathered_own s k, ctxAt_onCtx_same .., fun q hq => ctxAt_onCtx_ne _ _ hq, memoryKept_refl s,
      ⟨fun _ => rfl, fun _ _ => rfl⟩, ⟨rfl, rfl, rfl, rfl, rfl, rfl, rfl, rfl, rfl, rfl, rfl⟩⟩
  · refine ⟨_, begunFence s k sc, exec_fenceh h, flushGathered_own s k, ctxAt_onCtx_same .., rfl, rfl, fun r hr hk hp hn => ?_,
      fun q hq => ctxAt_onCtx_ne _ _ hq, memoryKept_refl s, ⟨fun _ => rfl, fun _ _ => rfl⟩,
      ⟨rfl, rfl, rfl, rfl, rfl, rfl, rfl, rfl, rfl, rfl, rfl⟩⟩
    have flushed : r ∈ (flushGathered s (· == k)).reqs := by
      rw [flushGathered_own]
      exact hr
    exact mem_unperformed (covers := (· == k)) flushed (beq_iff_eq.mpr hk) hp hn

end Sys2Proof.Machine
end

section
/-! SUPPORT. The return of a response (06 R121, R111): where its value lands, and what a refused operation leaves. -/

namespace Sys2Proof.Machine

/-! ## Lanes of a masked write -/

theorem laneOf_lt (w : Nat) (x : VWord) (l : Nat) (hw : 0 < w) : laneOf w x l < 2 ^ w := by
  unfold laneOf bits
  rw [show w * l + (w - 1) + 1 - w * l = w by omega]
  exact Nat.mod_lt _ (Nat.two_pow_pos w)

theorem laneOf_testBit {w i : Nat} (x : VWord) (l : Nat) (hi : i < w) : (laneOf w x l).testBit i = x.getLsbD (w * l + i) := by
  unfold laneOf bits
  rw [show w * l + (w - 1) + 1 - w * l = w by omega, Nat.testBit_mod_two_pow, Nat.testBit_div_two_pow, BitVec.getLsbD, Nat.add_comm]
  simp [hi]

/-- A bit of the mask of selected lanes is set where its lane is selected. -/
theorem laneMask_getLsbD {w n l i : Nat} {sel : Nat → Bool} (hn : w * n ≤ 2048) (hl : l < n) (hi : i < w) :
    (laneMask w n sel).getLsbD (w * l + i) = sel l := by
  have lane : laneOf w (laneMask w n sel) l = if sel l then 2 ^ w - 1 else 0 := by
    rw [laneMask, laneOf_packLanes (by omega) (by simpa using hn)]
    have top : (2 ^ w - 1) % 2 ^ w = 2 ^ w - 1 := Nat.mod_eq_of_lt (Nat.sub_lt (Nat.two_pow_pos w) Nat.one_pos)
    cases h : sel l <;> simp [hl, h, top]
  rw [← laneOf_testBit _ _ hi, lane]
  cases sel l <;> simp [hi]

/-- A masked write of selected lanes changes those lanes, and keeps the others. -/
theorem laneOf_blend_laneMask {w n l : Nat} {sel : Nat → Bool} (x v : VWord) (hw : 0 < w) (hn : w * n ≤ 2048) (hl : l < n) :
    laneOf w (blend x v (laneMask w n sel)) l = if sel l then laneOf w v l else laneOf w x l := by
  refine Nat.eq_of_testBit_eq fun i => ?_
  by_cases hi : i < w
  · have room : w * l + i < 2048 := by
      have : w * l + w ≤ w * n := by
        calc w * l + w = w * (l + 1) := by ring
          _ ≤ w * n := Nat.mul_le_mul_left w hl
      omega
    have mask := laneMask_getLsbD (sel := sel) hn hl hi
    rw [BitVec.getLsbD_eq_getElem room] at mask
    rw [laneOf_testBit _ _ hi]
    cases hs : sel l <;> rw [hs] at mask <;> simp [blend, laneOf_testBit _ _ hi, mask, room]
  · have wide : 2 ^ w ≤ 2 ^ i := Nat.pow_le_pow_right Nat.two_pos (Nat.le_of_not_lt hi)
    have high (y : VWord) : (laneOf w y l).testBit i = false :=
      Nat.testBit_lt_two_pow (Nat.lt_of_lt_of_le (laneOf_lt w y l hw) wide)
    cases sel l <;> simp [high]

/-! ## A long result that lands (06 R121) -/

theorem supersede_none {clock : Nat} {c : Ctx} (h : c.flights = []) (id : Nat) (x : Item) :
    ∃ raised, supersede clock c id x = { c with raised := raised } := by
  refine ⟨c.raised.add clock 0 0, ?_⟩
  have keeps : c.fpstat ||| 0 = c.fpstat := by simp
  simp only [supersede, h, List.filter_nil, List.foldl_nil, raiseFlags, keeps]

/-- No request and no context but `k` has changed, nor has memory. -/
structure LandKept (s t : State) (k : Nat) : Prop where
  reqs : t.reqs = s.reqs
  others : OthersKept s t k
  memory : MemoryKept s t

theorem LandKept.trans {s t u : State} {k : Nat} (h : LandKept s t k) (g : LandKept t u k) : LandKept s u k where
  reqs := g.reqs.trans h.reqs
  others q hq := (g.others q hq).trans (h.others q hq)
  memory := MemoryKept.trans h.memory g.memory

theorem landKept_refl (s : State) (k : Nat) : LandKept s s k := ⟨rfl, fun _ _ => rfl, memoryKept_refl s⟩

theorem landKept_onCtx (s : State) (k : Nat) (f : Ctx → Ctx) : LandKept s (onCtx s k f) k :=
  ⟨rfl, othersKept_onCtx s k f, memoryKept_refl s⟩

theorem landScalar_eq {d : Nat} (hd : d ≠ 0) (s : State) (k id : Nat) (v : Word) (df : Bool) : landScalar s k id false d v df =
    onCtx (onCtx s k fun c => supersede s.clock c id ⟨.scalar, d⟩) k fun c =>
      { c with s := c.s.setIfInBounds d v, sdf := setDf c.sdf d df } := by
  rw [landScalar, if_neg hd]
  rfl

theorem landScalar_kept (s : State) (k id d : Nat) (v : Word) (df : Bool) : LandKept s (landScalar s k id false d v df) k := by
  by_cases hd : d = 0
  · rw [landScalar, if_pos hd]
    exact landKept_refl s k
  · rw [landScalar_eq hd]
    exact (landKept_onCtx ..).trans (landKept_onCtx ..)

theorem landVec_kept (s : State) (k id d : Nat) (v mask : VWord) (df : Bool) : LandKept s (landVec s k id d v mask df) k :=
  landKept_onCtx ..

theorem landScalar_ctx {s : State} {k d : Nat} (hf : (ctxAt s k).flights = []) (hd : d ≠ 0) (id : Nat) (v : Word) (df : Bool) :
    ∃ raised, ctxAt (landScalar s k id false d v df) k = { ctxAt s k with
      raised := raised, s := (ctxAt s k).s.setIfInBounds d v, sdf := setDf (ctxAt s k).sdf d df } := by
  obtain ⟨raised, h⟩ := supersede_none (clock := s.clock) hf id ⟨.scalar, d⟩
  refine ⟨raised, ?_⟩
  rw [landScalar_eq hd, ctxAt_onCtx_same, ctxAt_onCtx_same, h]

theorem landVec_ctx {s : State} {k d : Nat} (hf : (ctxAt s k).flights = []) (hu : streamOf (ctxAt s k) d = none) (id : Nat) (v mask : VWord)
    (df : Bool) : ∃ raised, ctxAt (landVec s k id d v mask df) k = { ctxAt s k with
      raised := raised, v := (ctxAt s k).v.setIfInBounds d (blend ((ctxAt s k).v[d]?.getD 0) v mask)
      vdf := setDf (ctxAt s k).vdf d df } := by
  obtain ⟨raised, h⟩ := supersede_none (clock := s.clock) hf id ⟨.vector, d⟩
  refine ⟨raised, ?_⟩
  rw [landVec, ctxAt_onCtx_same, h, landVector_unbound]
  exact hu

/-! ## The value of a response at its destination -/

theorem landValue_scalar {r : Req} {d : Nat} (hv : (usesOf Ctx.reset r.op).wv = []) (hs : (usesOf Ctx.reset r.op).ws = [d])
    (s : State) (df : Bool) (v : VWord) : landValue s r df v = landScalar s r.ctx r.id r.redirect d (loadedScalar r.op v.toNat) df := by
  unfold landValue
  dsimp only
  split
  · next h =>
    rw [h] at hv
    exact absurd hv (List.cons_ne_nil _ _)
  · rw [hv, hs]

theorem landValue_scalars {r : Req} {a b c : Nat} (hv : (usesOf Ctx.reset r.op).wv = []) (hs : (usesOf Ctx.reset r.op).ws = [a, b, c])
    (s : State) (df : Bool) (v : VWord) : landValue s r df v =
      landScalar (landScalar (landScalar s r.ctx r.id r.redirect a (v.setWidth 64) df) r.ctx r.id r.redirect b ((v >>> 64).setWidth 64) df)
        r.ctx r.id r.redirect c ((v >>> 128).setWidth 64) df := by
  unfold landValue
  dsimp only
  split
  · next h =>
    rw [h] at hv
    exact absurd hv (List.cons_ne_nil _ _)
  · rw [hv, hs]

theorem landValue_vector {r : Req} {d : Nat} {l : List Nat} (hv : (usesOf Ctx.reset r.op).wv = d :: l)
    (hg : ∀ a b c e w p, r.op ≠ .vgath a b c e w p)
    (s : State) (df : Bool) (v : VWord) : landValue s r df v = landVec s r.ctx r.id d v (BitVec.allOnes 2048) df := by
  unfold landValue
  dsimp only
  split
  · next h => exact (hg _ _ _ _ _ _ h).elim
  · rw [hv]

theorem landValue_gather {r : Req} {d : VReg} {a : SReg} {b : VReg} {g : Fin 8} {w : Fin 4} {p : Tag} (h : r.op = .vgath d a b g w p)
    (s : State) (df : Bool) (v : VWord) : landValue s r df v = landVec s r.ctx r.id d v
      (laneMask (8 * gatherBytes w) (256 / gatherBytes w) (selected (8 * gatherBytes w) r.guard)) (r.arg2 == 1) := by
  unfold landValue
  rw [h]
  rfl

/-! ## A response that arrives -/

/-- Request `r` is outstanding under number `id`, its response is on its way back, and nothing keeps it. -/
structure Arrives (s : State) (id : Nat) (r : Req) : Prop where
  found : reqAt s id = some r
  answered : r.open = false
  kept : r.discard = false
  plain : r.redirect = false
  fresh : r.faulted = false
  runs : answerPaused s r = false

/-- The state once the response of `r` is in: the route that it brings is cached, and the request is gone. -/
def answeredBy (s : State) (id : Nat) (r : Req) : State := dropReq (markRoute s r) id

theorem answeredBy_eq (s : State) (id : Nat) (r : Req) : ∃ routes, answeredBy s id r = { s with
    routes := routes, reqs := s.reqs.filter fun q => q.id != id } := by
  obtain ⟨routes, h⟩ := markRoute_eq s r
  exact ⟨routes, by rw [answeredBy, h, dropReq]⟩

/-- A state in which the contexts, the cores and memory are those of `s`. -/
structure SameParts (s t : State) : Prop where
  ctxs : t.ctxs = s.ctxs
  cores : t.cores = s.cores
  mem : t.mem = s.mem
  full : t.full = s.full
  bad : t.bad = s.bad

theorem answeredBy_same (s : State) (id : Nat) (r : Req) : SameParts s (answeredBy s id r) := by
  obtain ⟨routes, h⟩ := answeredBy_eq s id r
  rw [h]
  exact ⟨rfl, rfl, rfl, rfl, rfl⟩

theorem answeredBy_reqs (s : State) (id : Nat) (r : Req) : (answeredBy s id r).reqs = s.reqs.filter fun q => q.id != id := by
  obtain ⟨routes, h⟩ := answeredBy_eq s id r
  rw [h]

theorem SameParts.ctxAt {s t : State} (h : SameParts s t) (k : Nat) : Machine.ctxAt t k = Machine.ctxAt s k := ctxAt_of_ctxs h.ctxs k

section
variable {s : State} {id : Nat} {r : Req} (h : Arrives s id r) (hr : hasResult r.op = true)
include h hr

theorem exec_longResultLand_lands (hf : r.found = none) :
    exec (.longResultLand id) s = .next (landValue (answeredBy s id r) r false r.value) := by
  show execLongResultLand id s = _
  simp [execLongResultLand, h.found, hr, h.answered, h.fresh, h.runs, hf, h.kept, answeredBy]

theorem exec_longResultLand_speculative {x : Cause × Word} (hf : r.found = some x) (hs : isSpeculative r.op = true) :
    exec (.longResultLand id) s = .next (landValue (answeredBy s id r) r true 0) := by
  show execLongResultLand id s = _
  simp [execLongResultLand, h.found, hr, h.answered, h.fresh, h.runs, hf, hs, h.kept, answeredBy]

/-- A refused operation is a late fault; a plain load that its context still waits for stays, with its fault found. -/
theorem exec_longResultLand_faults {c : Cause} {a : Word} (hf : r.found = some (c, a)) (hs : isSpeculative r.op = false) :
    ∃ u load, exec (.longResultLand id) s = .next (lateFault u r.ctx (reqFault r c a load)) ∧ SameParts s u ∧
      ((ctxAt s r.ctx).h ≠ r.epoch.handler → load = none) := by
  obtain ⟨routes, hm⟩ := markRoute_eq s r
  by_cases hl : (isPlainLoad r.op && !intoS0 r.op && ((ctxAt (markRoute s r) r.ctx).h == r.epoch.handler)) = true
  · refine ⟨setReq (markRoute s r) { r with faulted := true }, some id, ?_,
      by rw [hm]; exact ⟨rfl, rfl, rfl, rfl, rfl⟩, fun hne => ?_⟩
    · show execLongResultLand id s = _
      simp only [execLongResultLand, h.found, hr, h.answered, h.fresh, h.runs, hf, hs, h.kept, hl, Bool.not_true, Bool.false_or,
        Bool.false_eq_true, if_false, if_true]
    · rw [Bool.and_eq_true, hm] at hl
      exact absurd (beq_iff_eq.mp hl.2) hne
  · refine ⟨answeredBy s id r, none, ?_, answeredBy_same s id r, fun _ => rfl⟩
    show execLongResultLand id s = _
    simp only [execLongResultLand, h.found, hr, h.answered, h.fresh, h.runs, hf, hs, h.kept, hl, Bool.not_true, Bool.false_or,
      Bool.false_eq_true, if_false]
    rfl

end

/-- A BARV is no memory request, nor an operation of a rack. -/
theorem not_isBarv_of_access {r : Req} (hm : isMemoryReq r = true ∨ isRackOp r.op = true) : isBarv r.op = false := by
  refine Bool.eq_false_iff.mpr fun hb => ?_
  unfold isBarv at hb
  split at hb
  · next hop => simp [isMemoryReq, isRackOp, reqAccess, feAccess, plainAccess, hop] at hm
  · cases hb

section
variable {s : State} {id : Nat} {r : Req} (h : Arrives s id r) (hr : hasResult r.op = false)
  (hm : isMemoryReq r = true ∨ isRackOp r.op = true)
include h hr hm

theorem exec_writeAck (hf : r.found = none) : exec (.writeAck id) s = .next (answeredBy s id r) := by
  have memory : (isMemoryReq r || isRackOp r.op) = true := by simpa using hm
  show execWriteAck id s = _
  simp [execWriteAck, h.found, hr, h.answered, not_isBarv_of_access hm, memory, h.runs, hf, answeredBy]

theorem exec_writeAck_faults {c : Cause} {a : Word} (hf : r.found = some (c, a)) :
    exec (.writeAck id) s = .next (lateFault (answeredBy s id r) r.ctx (reqFault r c a none)) := by
  have memory : (isMemoryReq r || isRackOp r.op) = true := by simpa using hm
  show execWriteAck id s = _
  simp [execWriteAck, h.found, hr, h.answered, not_isBarv_of_access hm, memory, h.runs, hf, h.kept, answeredBy]

end

/-- A context that has found a fault is woken, and no more. -/
theorem foundBy_eq (c : Ctx) : ∃ status, foundBy c = { c with status := status } := by
  unfold foundBy wake
  repeat' split
  all_goals exact ⟨_, rfl⟩

/-! ## A late fault found at a response (06 R111, 21 R382, R383) -/

section
variable {s u : State} {k : Nat} {f : FaultRec} (hu : SameParts s u) (hn : ¬(f.cause = .ue ∧ retriedTask s k = true))
include hu hn

theorem not_retried_of_same : ¬(f.cause = .ue ∧ retriedTask u k = true) := by
  have same : retriedTask u k = retriedTask s k := by
    unfold retriedTask coreAt
    rw [hu.ctxAt, hu.cores]
  rwa [same]

/-- A fault of the code that its context runs waits for its boundary. -/
theorem lateFault_found (he : (ctxAt s k).h = f.inHandler) :
    lateFault u k f = onCtx u k fun c => foundBy { c with late := c.late ++ [f] } := by
  have own : ((ctxAt u k).h && !f.inHandler) = false := by rw [hu.ctxAt, he]; simp
  rw [lateFault, if_neg (not_retried_of_same hu hn), own, if_neg Bool.false_ne_true]
  rfl

/-- A fault of interrupted code is held in the shadow of the handler that runs. -/
theorem lateFault_held (hh : (ctxAt s k).h = true) (he : f.inHandler = false)
    (hr : (ctxAt s k).heldSaved.length + (ctxAt s k).held.length < 32) :
    lateFault u k f = onCtx u k fun c => { c with held := insertFault { f with load := none } c.held } := by
  have shadow : ((ctxAt u k).h && !f.inHandler) = true := by rw [hu.ctxAt, hh, he]; rfl
  have room : ¬32 ≤ (ctxAt u k).heldSaved.length + (ctxAt u k).held.length := by rw [hu.ctxAt]; omega
  rw [lateFault, if_neg (not_retried_of_same hu hn), if_pos shadow, if_neg room]

end

/-! ## What a response leaves -/

/-- The request is gone; of its context the PC, the predicates, the engine registers and the flags are as before, and so are the other
contexts and memory. -/
def Ends (s t : State) (id k : Nat) : Prop :=
  t.reqs = (s.reqs.filter fun q => q.id != id) ∧ (ctxAt t k).pc = (ctxAt s k).pc ∧ (ctxAt t k).p = (ctxAt s k).p ∧
  (ctxAt t k).e = (ctxAt s k).e ∧ (ctxAt t k).fpstat = (ctxAt s k).fpstat ∧ OthersKept s t k ∧ MemoryKept s t

theorem ends_of {s t : State} {id k : Nat} {r : Req} {raised : Raised} {x : Vector Word 64} {xdf : BitVec 64}
    {v : Vector VWord 64} {vdf : BitVec 64}
    (hk : LandKept (answeredBy s id r) t k)
    (hc : ctxAt t k = { ctxAt (answeredBy s id r) k with raised := raised, s := x, sdf := xdf, v := v, vdf := vdf }) : Ends s t id k := by
  have same := answeredBy_same s id r
  rw [same.ctxAt] at hc
  refine ⟨hk.reqs.trans (answeredBy_reqs s id r), ?_, ?_, ?_, ?_, fun q hq => (hk.others q hq).trans (same.ctxAt q),
    MemoryKept.trans (memoryKept_of_eq same.mem same.full same.bad) hk.memory⟩
  all_goals rw [hc]

section
variable {s : State} {id : Nat} {r : Req} (hf : (ctxAt s r.ctx).flights = [])
include hf

/-- A scalar response that lands; toward s0 nothing is written. -/
theorem landScalar_ends (d : Nat) (n : Nat) (x : Word) (df : Bool) :
    let t := landScalar (answeredBy s id r) r.ctx n false d x df
    let c := ctxAt s r.ctx
    Ends s t id r.ctx ∧ (ctxAt t r.ctx).s = (if d = 0 then c.s else c.s.setIfInBounds d x) ∧
      (ctxAt t r.ctx).sdf = (if d = 0 then c.sdf else setDf c.sdf d df) ∧ (ctxAt t r.ctx).v = c.v ∧ (ctxAt t r.ctx).vdf = c.vdf := by
  intro t c
  have same := (answeredBy_same s id r).ctxAt r.ctx
  by_cases hd : d = 0
  · have stays : t = answeredBy s id r := if_pos hd
    rw [stays, if_pos hd, if_pos hd]
    refine ⟨ends_of (landKept_refl ..) rfl, ?_, ?_, ?_, ?_⟩
    all_goals rw [same]
  · obtain ⟨raised, h⟩ := landScalar_ctx (s := answeredBy s id r) (k := r.ctx) (by rw [same]; exact hf) hd n x df
    refine ⟨ends_of (landScalar_kept ..) h, ?_⟩
    rw [if_neg hd, if_neg hd, h, same]
    exact ⟨rfl, rfl, rfl, rfl⟩

/-- A vector response that lands in a register bound to no stream. -/
theorem landVec_ends {d : Nat} (hu : streamOf (ctxAt s r.ctx) d = none) (n : Nat) (v mask : VWord) (df : Bool) :
    let t := landVec (answeredBy s id r) r.ctx n d v mask df
    let c := ctxAt s r.ctx
    Ends s t id r.ctx ∧ (ctxAt t r.ctx).v = c.v.setIfInBounds d (blend (c.v[d]?.getD 0) v mask) ∧
      (ctxAt t r.ctx).vdf = setDf c.vdf d df ∧ (ctxAt t r.ctx).s = c.s ∧ (ctxAt t r.ctx).sdf = c.sdf := by
  intro t c
  have same := (answeredBy_same s id r).ctxAt r.ctx
  obtain ⟨raised, h⟩ := landVec_ctx (s := answeredBy s id r) (k := r.ctx) (by rw [same]; exact hf) (by rw [same]; exact hu) n v mask df
  refine ⟨ends_of (landVec_kept ..) h, ?_⟩
  rw [h, same]
  exact ⟨rfl, rfl, rfl, rfl⟩

/-- The three scalars of an RKTAKE. -/
theorem landScalars_ends {d : Nat} (hd : d ≠ 0) (n : Nat) (x y z : Word) (df : Bool) :
    let t := landScalar (landScalar (landScalar (answeredBy s id r) r.ctx n false d x df) r.ctx n false (d + 1) y df)
      r.ctx n false (d + 2) z df
    let c := ctxAt s r.ctx
    Ends s t id r.ctx ∧ (ctxAt t r.ctx).s = ((c.s.setIfInBounds d x).setIfInBounds (d + 1) y).setIfInBounds (d + 2) z ∧
      (ctxAt t r.ctx).v = c.v := by
  intro t c
  have same := (answeredBy_same s id r).ctxAt r.ctx
  obtain ⟨_, h1⟩ := landScalar_ctx (s := answeredBy s id r) (k := r.ctx) (by rw [same]; exact hf) hd n x df
  obtain ⟨_, h2⟩ := landScalar_ctx (d := d + 1) (by rw [h1, same]; exact hf) (Nat.succ_ne_zero _) n y df
  obtain ⟨_, h3⟩ := landScalar_ctx (d := d + 2) (by rw [h2, h1, same]; exact hf) (Nat.succ_ne_zero _) n z df
  rw [h2, h1] at h3
  refine ⟨ends_of (((landScalar_kept ..).trans (landScalar_kept ..)).trans (landScalar_kept ..)) h3, ?_⟩
  rw [show ctxAt t r.ctx = _ from h3, same]
  exact ⟨rfl, rfl⟩

end

/-- The lanes of a gather fill the register. -/
theorem gatherBytes_lanes (w : Fin 4) : 0 < 8 * gatherBytes w ∧ 8 * gatherBytes w * (256 / gatherBytes w) ≤ 2048 := by
  unfold gatherBytes
  split <;> simp

/-- Three registers in a row written, and no other. -/
theorem sVal_three {c c' : Ctx} {d : Nat} {x y z : Word}
    (hs : c'.s = ((c.s.setIfInBounds d x).setIfInBounds (d + 1) y).setIfInBounds (d + 2) z) (hd : d ≠ 0) (htop : d + 2 < 64) :
    sVal c' d = x ∧ sVal c' (d + 1) = y ∧ sVal c' (d + 2) = z ∧ ∀ n, n < d ∨ d + 2 < n → sVal c' n = sVal c n := by
  have first : d < 64 := by omega
  have second : d + 1 < 64 := by omega
  refine ⟨?_, ?_, ?_, fun n hn => ?_⟩
  · simp [sVal, hs, hd, first]
  · simp [sVal, hs, second]
  · simp [sVal, hs, htop]
  · have h0 : d ≠ n := by omega
    have h1 : d + 1 ≠ n := by omega
    have h2 : d + 2 ≠ n := by omega
    simp only [sVal, hs, Vector.getElem?_setIfInBounds, h0, h1, h2, if_false]

theorem blend_allOnes {w : Nat} (x v : BitVec w) : blend x v (BitVec.allOnes w) = v := by simp [blend]

/-- What a fault found at a response leaves: it waits for its boundary, or in the shadow of a handler. -/
theorem lateFault_leaves {s u : State} {r : Req} {x : Cause} {y : Word} {load : Option Nat} (same : SameParts s u)
    (hn : ¬(x = .ue ∧ retriedTask s r.ctx = true)) (hload : (ctxAt s r.ctx).h ≠ r.epoch.handler → load = none)
    (hc : (ctxAt s r.ctx).h = r.epoch.handler ∨
      (ctxAt s r.ctx).h = true ∧ (ctxAt s r.ctx).heldSaved.length + (ctxAt s r.ctx).held.length < 32) :
    let f := reqFault r x y load
    let t := lateFault u r.ctx f
    let c := ctxAt s r.ctx
    (ctxAt t r.ctx).s = c.s ∧ (ctxAt t r.ctx).v = c.v ∧ OthersKept s t r.ctx ∧ MemoryKept s t ∧
      (c.h = r.epoch.handler → (ctxAt t r.ctx).late = c.late ++ [f] ∧ (ctxAt t r.ctx).held = c.held) ∧
      (c.h = true → r.epoch.handler = false → c.heldSaved.length + c.held.length < 32 →
        (ctxAt t r.ctx).held = insertFault f c.held ∧ (ctxAt t r.ctx).late = c.late) := by
  intro f t c
  have rest (g : Ctx → Ctx) : OthersKept s (onCtx u r.ctx g) r.ctx ∧ MemoryKept s (onCtx u r.ctx g) :=
    ⟨fun q hq => (ctxAt_onCtx_ne _ _ hq).trans (same.ctxAt q), memoryKept_of_eq same.mem same.full same.bad⟩
  by_cases he : c.h = r.epoch.handler
  · have found : t = onCtx u r.ctx fun c => foundBy { c with late := c.late ++ [f] } := lateFault_found same hn he
    obtain ⟨status, hs⟩ := foundBy_eq { c with late := c.late ++ [f] }
    have left : ctxAt t r.ctx = { c with late := c.late ++ [f], status := status } := by
      rw [found, ctxAt_onCtx_same, same.ctxAt, hs]
    obtain ⟨others, memory⟩ := found ▸ rest _
    rw [left]
    exact ⟨rfl, rfl, others, memory, fun _ => ⟨rfl, rfl⟩, fun hh hr => Bool.noConfusion (hh.symm.trans (he.trans hr))⟩
  · obtain ⟨hh, room⟩ := hc.resolve_left he
    have interrupted : f.inHandler = false := Bool.eq_false_iff.mpr fun hr => he (hh.trans hr.symm)
    have found : t = onCtx u r.ctx fun c => { c with held := insertFault { f with load := none } c.held } :=
      lateFault_held same hn hh interrupted room
    have whole : { f with load := none } = f := by rw [show f = reqFault r x y none from congrArg _ (hload he)]; rfl
    have left : ctxAt t r.ctx = { c with held := insertFault f c.held } := by
      rw [found, ctxAt_onCtx_same, same.ctxAt, whole]
    obtain ⟨others, memory⟩ := found ▸ rest _
    rw [left]
    exact ⟨rfl, rfl, others, memory, fun h => absurd h he, fun _ _ _ => ⟨rfl, rfl⟩⟩

/-! ## The statement -/

/-- Settles O34: a response lands at the destination that its operation names, which each form's case says; a refused operation comes to
`lateFault`, and the acknowledgement of a write to the request's end alone. -/
theorem responsesReturn : Obligations.ResponsesReturn := by
  intro s id r d a b v u o m sc g z w rl p hr hd hre hfa hp hf c gone ends scalar vector whole
  have zero : d.val = 0 ↔ d = 0 := by rw [Fin.ext_iff]; rfl
  have arrives (hst : r.status = .performed ∨ r.status = .refused) : Arrives s id r :=
    ⟨hr, by rcases hst with h | h <;> simp [Req.open, h], hd, hre, hfa, hp⟩
  have scalarLands (x : Word) (df : Bool) (run : exec (.longResultLand id) s =
      .next (landScalar (answeredBy s id r) r.ctx r.id r.redirect d x df)) : scalar x df := by
    obtain ⟨e, hs, hsdf, hv⟩ := landScalar_ends hf d.val r.id x df
    simp only [zero] at hs hsdf
    rw [hre] at run
    exact ⟨_, ⟨run, e⟩, hs, hsdf, hv⟩
  have vectorLands (hu : streamOf c v = none) (x : VWord) (df : Bool) (run : exec (.longResultLand id) s =
      .next (landVec (answeredBy s id r) r.ctx r.id v x (BitVec.allOnes 2048) df)) : vector x df := by
    obtain ⟨e, hv, rest⟩ := landVec_ends hf hu r.id x (BitVec.allOnes 2048) df
    rw [blend_allOnes] at hv
    exact ⟨_, ⟨run, e⟩, hv, rest⟩
  refine ⟨fun hst hfo => ?_, fun x y hst hfo => ?_⟩
  · have arrives := arrives (.inl hst)
    have value (x : Word) (hv : (usesOf Ctx.reset r.op).wv = []) (hs : (usesOf Ctx.reset r.op).ws = [d.val])
        (hx : loadedScalar r.op r.value.toNat = x) : scalar x false := by
      have run := exec_longResultLand_lands arrives (by simp [hasResult, hs]) hfo
      rw [landValue_scalar hv hs, hx] at run
      exact scalarLands _ _ run
    have signed {n : Nat} (f : Nat → BitVec n) {x : BitVec n} (hx : f r.value.toNat = x)
        (h : (usesOf Ctx.reset r.op).wv = [] ∧ (usesOf Ctx.reset r.op).ws = [d.val] ∧ loadedScalar r.op = fun y => (f y).signExtend 64) :
        scalar (x.signExtend 64) false := by
      obtain ⟨hv, hs, hl⟩ := h
      exact value _ hv hs (by rw [hl, ← hx])
    refine ⟨?_, ?_, ?_, ?_, ?_, ?_, ?_⟩
    · rintro (h | h) <;> exact signed (BitVec.ofNat 8) (BitVec.ofNat_toNat ..) (by rw [h]; exact ⟨rfl, rfl, rfl⟩)
    · rintro (h | h) <;> exact signed (BitVec.ofNat 16) (BitVec.ofNat_toNat ..) (by rw [h]; exact ⟨rfl, rfl, rfl⟩)
    · rintro (h | h) <;> exact signed (BitVec.ofNat 32) (BitVec.ofNat_toNat ..) (by rw [h]; exact ⟨rfl, rfl, rfl⟩)
    · intro h
      have form : (usesOf Ctx.reset r.op).wv = [] ∧ (usesOf Ctx.reset r.op).ws = [d.val] ∧ loadedScalar r.op = BitVec.ofNat 64 := by
        rcases h with h | h | h | h | h | h | h | h | h | h | h | h | h | h | h | h | h | h | h | h | h | h | h | h | h | h | h <;>
          rw [h] <;> exact ⟨rfl, rfl, rfl⟩
      obtain ⟨hv, hs, hl⟩ := form
      exact value whole hv hs (by rw [hl]; exact BitVec.ofNat_toNat ..)
    · intro h hd0 htop
      have run := exec_longResultLand_lands arrives (by rw [h]; rfl) hfo
      rw [landValue_scalars (a := d.val) (b := d.val + 1) (c := d.val + 2) (by rw [h]; rfl) (by rw [h]; rfl), hre] at run
      have hd' : d.val ≠ 0 := fun e => hd0 (zero.mp e)
      obtain ⟨e, hs, hv⟩ := landScalars_ends hf hd' r.id whole ((r.value >>> 64).setWidth 64) ((r.value >>> 128).setWidth 64) false
      obtain ⟨first, second, third, others⟩ := sVal_three hs hd' htop
      exact ⟨_, ⟨run, e⟩, first, second, third, others, hv⟩
    · intro hu
      refine ⟨fun h => ?_, fun h => ?_⟩
      · have form : (usesOf Ctx.reset r.op).wv = [v.val] ∧ ∀ a b c e w p, r.op ≠ .vgath a b c e w p := by
          rcases h with h | h | h | h | h | h | h | h | h | h | h | h <;> rw [h] <;> exact ⟨rfl, fun _ _ _ _ _ _ => nofun⟩
        obtain ⟨hv, hg⟩ := form
        have run := exec_longResultLand_lands arrives (by simp [hasResult, hv]) hfo
        rw [landValue_vector hv hg] at run
        exact vectorLands hu _ _ run
      · have run := exec_longResultLand_lands arrives (by rw [h]; rfl) hfo
        rw [landValue_gather h] at run
        obtain ⟨e, hv, rest⟩ := landVec_ends hf hu r.id r.value
          (laneMask (8 * gatherBytes w) (256 / gatherBytes w) (selected (8 * gatherBytes w) r.guard)) (r.arg2 == 1)
        refine ⟨_, ⟨_, ⟨run, e⟩, hv, rest⟩, fun l hl => ?_⟩
        have old : vVal c v = c.v[v.val]?.getD 0 := by rw [vVal, hu]
        rw [laneOf_blend_laneMask _ _ (gatherBytes_lanes w).1 (gatherBytes_lanes w).2 hl, old]
    · intro hm hres
      refine ⟨_, ⟨exec_writeAck arrives hres hm hfo, ends_of (landKept_refl ..) rfl⟩, (answeredBy_same s id r).ctxAt r.ctx⟩
  · have arrives := arrives (.inr hst)
    refine ⟨fun h => ?_, fun hu h => ?_, fun hspec hue => ?_⟩
    · have form : (usesOf Ctx.reset r.op).wv = [] ∧ (usesOf Ctx.reset r.op).ws = [d.val] ∧ isSpeculative r.op = true ∧
          loadedScalar r.op = BitVec.ofNat 64 := by
        rcases h with h | h <;> rw [h] <;> exact ⟨rfl, rfl, rfl, rfl⟩
      obtain ⟨hv, hs, hspec, hl⟩ := form
      have run := exec_longResultLand_speculative arrives (by simp [hasResult, hs]) hfo hspec
      have zeroed : BitVec.ofNat 64 (0 : VWord).toNat = 0 := (BitVec.ofNat_toNat ..).trans (BitVec.setWidth_zero ..)
      rw [landValue_scalar hv hs, hl, zeroed] at run
      exact scalarLands 0 true run
    · have form : (usesOf Ctx.reset r.op).wv = [v.val] ∧ isSpeculative r.op = true ∧ ∀ a b c e w p, r.op ≠ .vgath a b c e w p := by
        rcases h with h | h <;> rw [h] <;> exact ⟨rfl, rfl, fun _ _ _ _ _ _ => nofun⟩
      obtain ⟨hv, hspec, hg⟩ := form
      have run := exec_longResultLand_speculative arrives (by simp [hasResult, hv]) hfo hspec
      rw [landValue_vector hv hg] at run
      exact vectorLands hu _ _ run
    · intro late hcase
      refine ⟨fun hres => ?_, fun hres hm => ?_⟩
      · obtain ⟨_, load, run, same, hload⟩ := exec_longResultLand_faults arrives hres hfo hspec
        exact ⟨_, reqFault r x y load, run, rfl, rfl, rfl, rfl, rfl, rfl, rfl, lateFault_leaves same hue hload hcase⟩
      · exact ⟨_, reqFault r x y none, exec_writeAck_faults arrives hres hm hfo, rfl, rfl, rfl, rfl, rfl, rfl, rfl,
          lateFault_leaves (answeredBy_same s id r) hue (fun _ => rfl) hcase⟩

end Sys2Proof.Machine
end

section
/-! SUPPORT. The scalar instructions (07 R148-R164): the functions of Table scalar-3 in the terms of arithmetic, what the shapes `alu1` and
`alu2` give, and the special registers read. -/

namespace Sys2Proof.Machine

/-! ## The functions of Table scalar-3 -/

theorem fRol_eq (x : Word) {k : Nat} (hk : k < 64) : fRol x k = x.rotateLeft k := by
  rw [BitVec.rotateLeft_eq_rotateLeftAux_of_lt hk, fRol]
  by_cases h : k = 0
  · subst h
    simp [BitVec.rotateLeftAux, BitVec.ushiftRight_eq_zero]
  · rw [if_neg h]; rfl

theorem fMin_eq (x y : Word) : fMin x y = if x.toInt < y.toInt then x else y := by
  simp only [fMin, BitVec.slt_iff_toInt_lt]

theorem fMax_eq (x y : Word) : fMax x y = if x.toInt < y.toInt then y else x := by
  simp only [fMax, BitVec.slt_iff_toInt_lt]

theorem fMinn_eq (x y : Word) : fMinn x y = if x.toNat < y.toNat then x else y := by
  simp only [fMinn, BitVec.lt_def]

theorem fMaxn_eq (x y : Word) : fMaxn x y = if x.toNat < y.toNat then y else x := by
  simp only [fMaxn, BitVec.lt_def]

theorem fAddw_eq (x y : Word) : fAddw x y = ((x + y).setWidth 32).signExtend 64 := by
  rw [fAddw, BitVec.setWidth_add x y (by omega)]

theorem fSubw_eq (x y : Word) : fSubw x y = ((x - y).setWidth 32).signExtend 64 := by
  have low : (x - y).setWidth 32 = x.setWidth 32 - y.setWidth 32 := by bv_omega
  rw [fSubw, low]

theorem mul_eq_ofInt (x y : Word) : x * y = BitVec.ofInt 64 (x.toInt * y.toInt) := by
  rw [BitVec.ofInt_mul, BitVec.ofInt_toInt, BitVec.ofInt_toInt]

/-- Bit `n` of a number below 2^(n+1) says whether it reaches 2^n. -/
theorem getLsbD_top {x : Word} {n : Nat} (h : x.toNat < 2 ^ (n + 1)) : x.getLsbD n = decide (2 ^ n ≤ x.toNat) := by
  have small : x.toNat / 2 ^ n < 2 := Nat.div_lt_of_lt_mul (by rw [Nat.pow_succ] at h; omega)
  rw [← BitVec.testBit_toNat, Nat.testBit_eq_decide_div_mod_eq, decide_eq_decide, Nat.mod_eq_of_lt small,
    ← Nat.one_mul (2 ^ n), ← Nat.le_div_iff_mul_le (Nat.two_pow_pos n), Nat.one_mul]
  omega

/-- Below 2^n the highest set bit is that of the logarithm. -/
theorem leadingZeros_eq (x : Word) {n : Nat} (h : x.toNat < 2 ^ n) :
    leadingZeros x n = if x = 0 then n else n - 1 - Nat.log2 x.toNat := by
  induction n with
  | zero => simp [leadingZeros, show x = 0 from BitVec.eq_of_toNat_eq (by simpa using h)]
  | succ n ih =>
    have top := getLsbD_top h
    by_cases hb : 2 ^ n ≤ x.toNat
    · have nonzero : x.toNat ≠ 0 := (Nat.two_pow_pos n).trans_le hb |>.ne'
      have log : Nat.log2 x.toNat = n := (Nat.log2_eq_iff nonzero).2 ⟨hb, h⟩
      have hx : x ≠ 0 := fun e => nonzero (by rw [e]; rfl)
      rw [leadingZeros, top, decide_eq_true hb, if_pos rfl, if_neg hx, log]
      omega
    · rw [leadingZeros, top, decide_eq_false hb, ih (Nat.not_le.1 hb)]
      by_cases hx : x = 0
      · simp [hx]
      · have nonzero : x.toNat ≠ 0 := fun e => hx (BitVec.eq_of_toNat_eq (by simpa using e))
        have log : Nat.log2 x.toNat < n := (Nat.log2_lt nonzero).2 (Nat.not_le.1 hb)
        simp only [hx, if_false, Bool.false_eq_true]
        omega

theorem fClz_eq (x : Word) : fClz x = BitVec.ofNat 64 (if x = 0 then 64 else 63 - Nat.log2 x.toNat) := by
  rw [fClz, leadingZeros_eq x x.isLt]

/-- From bit `i` on, the lowest set bit is the power of 2 in what stands there. -/
theorem trailingZeros_eq (x : Word) (n i : Nat) : trailingZeros x i n =
    if x.toNat / 2 ^ i % 2 ^ n = 0 then n else padicValNat 2 (x.toNat / 2 ^ i) := by
  induction n generalizing i with
  | zero => simp [trailingZeros, Nat.mod_one]
  | succ n ih =>
    have bit : x.getLsbD i = decide (x.toNat / 2 ^ i % 2 = 1) := by rw [← BitVec.testBit_toNat, Nat.testBit_eq_decide_div_mod_eq]
    have next : x.toNat / 2 ^ (i + 1) = x.toNat / 2 ^ i / 2 := by rw [Nat.pow_succ, Nat.div_div_eq_div_mul]
    rw [trailingZeros, bit, ih, next]
    generalize x.toNat / 2 ^ i = y
    rw [Nat.pow_succ, Nat.mul_comm, Nat.mod_mul]
    by_cases odd : y % 2 = 1
    · simp [odd, padicValNat.eq_zero_of_not_dvd (show ¬2 ∣ y by omega)]
    · have even : y = 2 * (y / 2) := by omega
      by_cases hz : y / 2 % 2 ^ n = 0
      · simp [hz, show y % 2 = 0 by omega]
      · have parity : y % 2 = 0 := by omega
        have half : y / 2 ≠ 0 := fun e => hz (by simp [e])
        have value : padicValNat 2 y = padicValNat 2 (y / 2) + 1 := by
          conv_lhs => rw [even]
          exact padicValNat_base_mul (by omega) half
        simp [parity, hz, value]

theorem fCtz_eq (x : Word) : fCtz x = BitVec.ofNat 64 (if x = 0 then 64 else padicValNat 2 x.toNat) := by
  rw [fCtz, trailingZeros_eq, Nat.pow_zero, Nat.div_one, Nat.mod_eq_of_lt x.isLt]
  simp only [← BitVec.toNat_inj, BitVec.toNat_zero, BitVec.ofNat_eq_ofNat]

theorem oneBits_eq {w : Nat} (x : BitVec w) (n : Nat) : oneBits x n = (List.range n).countP fun i => x.getLsbD i := by
  induction n with
  | zero => rfl
  | succ n ih => rw [oneBits, ih, List.range_succ, List.countP_append, List.countP_singleton]

theorem getElem?_leBytes (n v i : Nat) : (leBytes n v)[i]? = if i < n then some (BitVec.ofNat 8 (v / 256 ^ i)) else none := by
  induction n generalizing v i with
  | zero => simp [leBytes]
  | succ n ih =>
    cases i with
    | zero => simp [leBytes]
    | succ i => simp [leBytes, ih, Nat.pow_succ, Nat.mul_comm, Nat.div_div_eq_div_mul]

@[simp] theorem length_leBytes (n v : Nat) : (leBytes n v).length = n := by
  induction n generalizing v with
  | zero => rfl
  | succ n ih => rw [leBytes, List.length_cons, ih]

/-- Byte `i` of the number that a list of bytes makes. -/
theorem ofBytes_div_mod (l : List Byte) (i : Nat) : ofBytes l / 256 ^ i % 256 = (l[i]?.getD 0).toNat := by
  induction l generalizing i with
  | nil => simp [ofBytes]
  | cons b l ih =>
    have low : b.toNat < 256 := b.isLt
    cases i with
    | zero => simp [ofBytes]; omega
    | succ i =>
      have rest : (b.toNat + 256 * ofBytes l) / 256 = ofBytes l := by omega
      rw [ofBytes, Nat.pow_succ', ← Nat.div_div_eq_div_mul, rest, ih]
      rfl

theorem ofBytes_lt (l : List Byte) : ofBytes l < 256 ^ l.length := by
  induction l with
  | nil => simp [ofBytes]
  | cons b l ih =>
    have low : b.toNat < 256 := b.isLt
    rw [ofBytes, List.length_cons, Nat.pow_succ]
    omega

/-- Byte `i` of the reversed word is byte `7 - i` of the word. -/
theorem fBswap_byte (x : Word) {i : Nat} (hi : i < 8) : (fBswap x).extractLsb' (8 * i) 8 = x.extractLsb' (8 * (7 - i)) 8 := by
  have fits : ofBytes (leBytes 8 x.toNat).reverse < 2 ^ 64 := by
    simpa using ofBytes_lt (leBytes 8 x.toNat).reverse
  have mirror : (leBytes 8 x.toNat).reverse[i]? = some (BitVec.ofNat 8 (x.toNat / 256 ^ (7 - i))) := by
    rw [List.getElem?_reverse (by simpa using hi), getElem?_leBytes, length_leBytes, if_pos (by omega),
      show 8 - 1 - i = 7 - i by omega]
  have byte (k : Nat) : 2 ^ (8 * k) = 256 ^ k := Nat.pow_mul 2 8 k
  apply BitVec.eq_of_toNat_eq
  rw [BitVec.extractLsb'_toNat, BitVec.extractLsb'_toNat, fBswap, BitVec.toNat_ofNat, Nat.mod_eq_of_lt fits, Nat.shiftRight_eq_div_pow,
    Nat.shiftRight_eq_div_pow, byte, byte]
  exact (ofBytes_div_mod _ i).trans (by rw [mirror]; rfl)

/-- LDHI puts its immediate above the lower half. -/
theorem halves_eq_append (m : BitVec 32) (x : Word) : (m.setWidth 64 <<< 32) ||| (x &&& 0xFFFFFFFF) = m ++ x.setWidth 32 := by
  have lower : x &&& 0xFFFFFFFF = (x.setWidth 32).setWidth 64 := by
    apply BitVec.eq_of_toNat_eq
    rw [BitVec.toNat_and, BitVec.toNat_setWidth_of_le (by omega), BitVec.toNat_setWidth]
    exact Nat.and_two_pow_sub_one_eq_mod x.toNat 32
  rw [lower]
  apply BitVec.eq_of_getLsbD_eq
  intro i hi
  rw [BitVec.getLsbD_append]
  by_cases h : i < 32 <;> simp [h, hi]

/-! ## What the shapes give (07 R149, R152) -/

section
variable {i : Instr} {d a b : SReg} {p : Tag} {lat : Nat} (hc : ∀ s, commits s s.cur.key i = false)
include hc

theorem alu2_gives (f : Word → Word → Word) {v : State → Word} (he : ∀ s, exec i s = alu2 i d a b p lat f s)
    (hv : ∀ s, f (readS s a) (readS s b) = v s) : GivesScalar i p d lat v fun s => deferS s a || deferS s b :=
  gives_scalar (fun s => by rw [he, alu2]; simp only [hv]) hc

theorem alu1_gives (f : Word → Word) {v : State → Word} (he : ∀ s, exec i s = alu1 i d a p f s)
    (hv : ∀ s, f (readS s a) = v s) : GivesScalar i p d 1 v fun s => deferS s a :=
  gives_scalar (fun s => by rw [he, alu1]; simp only [hv]) hc

end

theorem amount_lt (y : Word) : amount y < 64 := Nat.mod_lt _ (by omega)

/-- Settles O1: each operation is of the shape `alu2` or `alu1`, with the function that its lemma above puts in arithmetic. -/
theorem aluResults : Obligations.AluResults := by
  intro d a b p df
  refine ⟨alu2_gives (fun _ => rfl) (· + ·) (fun _ => rfl) fun _ => rfl,
    alu2_gives (fun _ => rfl) (· - ·) (fun _ => rfl) fun _ => rfl,
    alu2_gives (fun _ => rfl) (· &&& ·) (fun _ => rfl) fun _ => rfl,
    alu2_gives (fun _ => rfl) (· ||| ·) (fun _ => rfl) fun _ => rfl,
    alu2_gives (fun _ => rfl) (· ^^^ ·) (fun _ => rfl) fun _ => rfl,
    alu2_gives (fun _ => rfl) (fun x y => x &&& ~~~y) (fun _ => rfl) fun _ => rfl,
    alu2_gives (fun _ => rfl) (fun x y => fShl x (amount y)) (fun _ => rfl) fun _ => rfl,
    alu2_gives (fun _ => rfl) (fun x y => fShr x (amount y)) (fun _ => rfl) fun _ => rfl,
    alu2_gives (fun _ => rfl) (fun x y => fSra x (amount y)) (fun _ => rfl) fun _ => rfl,
    alu2_gives (fun _ => rfl) (fun x y => fRol x (amount y)) (fun _ => rfl) fun s => fRol_eq _ (amount_lt (readS s b)),
    alu2_gives (fun _ => rfl) fMin (fun _ => rfl) fun _ => fMin_eq ..,
    alu2_gives (fun _ => rfl) fMax (fun _ => rfl) fun _ => fMax_eq ..,
    alu2_gives (fun _ => rfl) fMinn (fun _ => rfl) fun _ => fMinn_eq ..,
    alu2_gives (fun _ => rfl) fMaxn (fun _ => rfl) fun _ => fMaxn_eq ..,
    alu2_gives (fun _ => rfl) fAddw (fun _ => rfl) fun _ => fAddw_eq ..,
    alu2_gives (fun _ => rfl) fSubw (fun _ => rfl) fun _ => fSubw_eq ..,
    alu2_gives (fun _ => rfl) (· * ·) (fun _ => rfl) fun _ => mul_eq_ofInt ..,
    alu2_gives (fun _ => rfl) fMulh (fun _ => rfl) fun _ => rfl,
    alu2_gives (fun _ => rfl) fMulhn (fun _ => rfl) fun _ => rfl,
    alu1_gives (fun _ => rfl) fClz (fun _ => rfl) fun _ => fClz_eq _,
    alu1_gives (fun _ => rfl) fCtz (fun _ => rfl) fun _ => fCtz_eq _,
    alu1_gives (fun _ => rfl) fPopc (fun _ => rfl) fun _ => by rw [fPopc, oneBits_eq], fun s h => ?_⟩
  have reversed : GivesScalar (.bswap d a p) p d 1 (fun s => fBswap (readS s a)) fun s => deferS s a :=
    alu1_gives (fun _ => rfl) fBswap (fun _ => rfl) fun _ => rfl
  obtain ⟨t, run, sent⟩ := reversed s h
  exact ⟨t, _, run, sent, fun _ hi => fBswap_byte (readS s a) hi⟩

/-- Settles O2: the immediate forms are of the shape `alu1`; the rest send one scalar result each. -/
theorem countsAndImmediates : Obligations.CountsAndImmediates := by
  refine ⟨fun e q p => gives_scalar (fun s => ?_) fun _ => rfl, ?_⟩
  · show execPcount e q p s = _
    simp only [execPcount, oneBits_eq]
  intro d a b p i m n g df
  refine ⟨alu1_gives (fun _ => rfl) (· + ext11 i) (fun _ => rfl) fun _ => rfl,
    alu1_gives (fun _ => rfl) (· &&& ext11 i) (fun _ => rfl) fun _ => rfl,
    alu1_gives (fun _ => rfl) (· ||| ext11 i) (fun _ => rfl) fun _ => rfl,
    alu1_gives (fun _ => rfl) (· ^^^ ext11 i) (fun _ => rfl) fun _ => rfl,
    alu1_gives (fun _ => rfl) (· + ext32 m) (fun _ => rfl) fun _ => rfl,
    alu1_gives (fun _ => rfl) (· &&& ext32 m) (fun _ => rfl) fun _ => rfl,
    alu1_gives (fun _ => rfl) (· ||| ext32 m) (fun _ => rfl) fun _ => rfl,
    alu1_gives (fun _ => rfl) (· ^^^ ext32 m) (fun _ => rfl) fun _ => rfl,
    alu1_gives (fun _ => rfl) (fun x => fShl x n) (fun _ => rfl) fun _ => rfl,
    alu1_gives (fun _ => rfl) (fun x => fShr x n) (fun _ => rfl) fun _ => rfl,
    alu1_gives (fun _ => rfl) (fun x => fSra x n) (fun _ => rfl) fun _ => rfl,
    alu1_gives (fun _ => rfl) (fun x => fRol x n) (fun _ => rfl) fun _ => fRol_eq _ n.isLt,
    gives_scalar (fun _ => rfl) fun _ => rfl,
    gives_scalar (fun _ => rfl) fun _ => rfl,
    gives_scalar (fun s => ?_) fun _ => rfl, gives_scalar (fun s => ?_) fun _ => rfl⟩
  · show execLdhi d a p m s = _
    simp only [execLdhi, alu1, halves_eq_append]; rfl
  · show execSels d a b g p s = _
    rw [execSels]
    congr 1
    funext s
    split <;> rfl

/-! ## Special registers (07 R163, Table scalar-5) -/

/-- MFS gives the special register as it stands at issue. -/
theorem mfs_gives {d : SReg} {n : Fin 2048} {p : Tag} {v : State → Word} (hv : ∀ s, specialVal s s.cur.key n = v s) :
    GivesScalar (.mfs d n p) p d 1 v fun _ => false :=
  gives_scalar (fun s => by show execMfs d n p s = _; simp only [execMfs, hv]) fun _ => rfl

/-- Settles O3: MFS reads what `specialVal` holds under each number, and MTS sends its source. -/
theorem specialRegisterReads : Obligations.SpecialRegisterReads := by
  intro d a p reads
  refine ⟨mfs_gives fun _ => rfl, mfs_gives fun _ => rfl, mfs_gives fun _ => rfl, mfs_gives fun _ => rfl, mfs_gives fun _ => rfl,
    mfs_gives fun _ => rfl, mfs_gives fun _ => rfl, mfs_gives fun _ => rfl, mfs_gives fun _ => rfl, mfs_gives fun _ => rfl,
    mfs_gives fun _ => rfl, mfs_gives fun _ => rfl, mfs_gives fun _ => rfl, mfs_gives fun s => ?_, mfs_gives fun _ => rfl,
    mfs_gives fun _ => rfl, fun n s h => ?_⟩
  case refine_2 =>
    show ∃ t, execMts a n p s = .next t ∧ _
    exact ⟨_, operate_issues h _, sends_result ..⟩
  show BitVec.ofNat 64 (timerLeft s (ctxAt s s.cur.key)) = _
  rw [timerLeft]
  cases (ctxAt s s.cur.key).timerAt <;> rfl

/-! ## Predicates (07 R157-R160) -/

/-- The lowest set bit stands alone (07 R159). -/
theorem firstBit_getLsbD (x : BitVec 128) {i : Nat} (hi : i < 128) :
    (firstBit x).getLsbD i = true ↔ x.getLsbD i = true ∧ ∀ j, j < i → x.getLsbD j = false := by
  rw [firstBit, show ~~~x + 1 = -x from (BitVec.neg_eq_not_add x).symm, BitVec.getLsbD_and, BitVec.getLsbD_neg]
  cases hx : x.getLsbD i <;> simp [hi]

/-- The relation that a condition code names (07 R157). -/
def relation (c : Fin 8) (x y : Word) : Bool :=
  match c.val with
  | 0 => decide (x = y)
  | 1 => decide (x ≠ y)
  | 2 => decide (x.toInt < y.toInt)
  | 3 => decide (x.toInt ≤ y.toInt)
  | 4 => decide (x.toNat < y.toNat)
  | _ => decide (x.toNat ≤ y.toNat)

theorem condition_eq (c : Fin 8) (x y : Word) : condition c x y = relation c x y := by
  fin_cases c
  · exact beq_eq_decide x y
  · exact (congrArg not (beq_eq_decide x y)).trans decide_not.symm
  all_goals rfl

theorem plog_gives {i : Instr} {d a b : PReg} {p : Tag} (hc : ∀ s, commits s s.cur.key i = false)
    (f : BitVec 128 → BitVec 128 → BitVec 128) (he : ∀ s, exec i s = plog i d a b p f s) :
    GivesPred i p d 1 fun s => f (readP s a) (readP s b) := gives_pred he hc

/-- Settles O4: each form sends one predicate, the conditions are their relations (`condition_eq`), and PFIRST leaves the lowest set bit
alone (`firstBit_getLsbD`). -/
theorem predicateResults : Obligations.PredicateResults := by
  intro d x y a b p i m c hc holds all gives
  have cond (x y : Word) : condition c x y = holds x y := condition_eq c x y
  refine ⟨gives_pred (fun s => ?_) fun _ => rfl, gives_pred (fun s => ?_) fun _ => rfl, gives_pred (fun s => ?_) fun _ => rfl,
    gives_pred (fun s => ?_) fun _ => rfl, plog_gives (fun _ => rfl) (· &&& ·) fun _ => rfl,
    plog_gives (fun _ => rfl) (· ||| ·) fun _ => rfl, plog_gives (fun _ => rfl) (· ^^^ ·) fun _ => rfl,
    plog_gives (fun _ => rfl) (fun x y => x &&& ~~~y) fun _ => rfl, gives_pred (fun _ => rfl) fun _ => rfl,
    gives_pred (fun _ => rfl) fun _ => rfl, gives_pred (fun _ => rfl) fun _ => rfl, gives_pred (fun _ => rfl) fun _ => rfl,
    fun s h => ?_⟩
  · show execCmp d a b c p s = _
    simp only [execCmp, cond]; rfl
  · show execCmpAnd d a b c p s = _
    simp only [execCmpAnd, cond]; rfl
  · show execCmpi d a c i p s = _
    simp only [execCmpi, cond]; rfl
  · show execCmpiLong d a c p m s = _
    simp only [execCmpiLong, cond]; rfl
  · have first : GivesPred (.pfirst d x p) p d 1 fun s => firstBit (readP s x) := gives_pred (fun _ => rfl) fun _ => rfl
    obtain ⟨t, run, sent⟩ := first s h
    exact ⟨t, _, run, sent, fun _ hi => firstBit_getLsbD (readP s x) hi⟩

/-! ## Special registers written (07 R163-R166, Table scalar-5) -/

/-- The value of an MTS comes back from its flight. -/
theorem landFlight_special {clock n land order : Nat} {c : Ctx} {v : Word} :
    landFlight clock c ⟨⟨.special, n⟩, v.setWidth 2048, BitVec.allOnes 2048, false, 0, land, order⟩ = landSpecial clock c n v := by
  have back : (v.setWidth 2048).setWidth 64 = v := by simp
  simp [landFlight, back]

theorem raisedNow_eq (clock : Nat) (c : Ctx) : raisedNow clock c =
    (if c.raised.clock = clock then c.raised.events else 0, if c.raised.clock = clock then c.raised.flags else 0) := by
  unfold raisedNow
  split <;> rfl

theorem timerSet_eq (now : Nat) (frozen : Bool) (v : Word) : timerSet now frozen v.toNat =
    if v = 0 then none else some (if frozen then v.toNat else now + v.toNat) := by
  simp only [timerSet, ← BitVec.toNat_inj, BitVec.ofNat_eq_ofNat, BitVec.toNat_zero]

/-- A TIMER that has reached zero sets its event, whatever the MTS writes (07 R165). -/
theorem landSpecial_timer (clock : Nat) (c : Ctx) (v : Word) : landSpecial clock c 13 v =
    { (if timerDue (nsOf clock) c then expireTimer clock c else c) with
      timerAt := if v = 0 then none else some (if c.frozen then v.toNat else nsOf clock + v.toNat) } := by
  have frozen : (if timerDue (nsOf clock) c then expireTimer clock c else c).frozen = c.frozen := by split <;> rfl
  simp only [landSpecial, timerSet_eq, frozen]

/-- Settles O23: a special register is written as `landSpecial` says; each arm is that of Table scalar-5. -/
theorem specialRegisterWrites : Obligations.SpecialRegisterWrites := by
  intro s k v order land n c hf hl
  refine ⟨_, rfl, onlyContext_onCtx .., ?_⟩
  rw [ctxAt_onCtx_same, landDue_alone hf hl, landFlight_special]
  match n with
  | 5 => exact congrArg (fun x : BitVec 4 × BitVec 6 => { c with flights := [], fpstat := v.setWidth 6 ||| x.2 }) (raisedNow_eq ..)
  | 9 => exact congrArg (fun x : BitVec 4 × BitVec 6 => { c with
      flights := [], epend := (c.epend &&& ~~~v.setWidth 4 &&& 7) ||| (v.setWidth 4 &&& 8) ||| x.1 }) (raisedNow_eq ..)
  | 13 => exact landSpecial_timer ..
  | 0 | 1 | 2 | 3 | 4 | 6 | 7 | 8 | 10 | 11 | 12 => rfl
  | m + 14 => rfl

end Sys2Proof.Machine
end

section
/-! SUPPORT. The timer and the service context (07 R165, 21 R388-R390): what an expiry raises, what the service context takes and
answers, and that a forced return makes its log entry and frees the service context. -/

namespace Sys2Proof.Machine

/-! ## TIMER_EXPIRY (07 R165) -/

theorem wakeForEvent_eq (c : Ctx) : ∃ status, wakeForEvent c = { c with status := status } := by
  unfold wakeForEvent wake
  repeat' split
  all_goals exact ⟨_, rfl⟩

/-- TIMER has stopped and its event is pending; beside that a waiting context may have become READY. -/
theorem timerEvent_due {now : Nat} {c : Ctx} (h : timerDue now c = true) : ∃ raised status, timerEvent now c =
    { c with timerAt := none, epend := c.epend ||| 1, raised := raised, status := status } := by
  rw [timerEvent, if_pos h, raiseEvents]
  obtain ⟨status, woken⟩ := wakeForEvent_eq { c with
    timerAt := none, epend := c.epend ||| 1, raised := c.raised.add (clockAt (c.timerAt.getD 0)) 1 0 }
  exact ⟨_, status, woken⟩

/-! ## SERVICE_CONTEXT_ENTRY (06 R126, 21 R388) -/

theorem yieldStage_kept (s : State) (n : Nat) : MemoryKept s (yieldStage s n) ∧ WorkKept s (yieldStage s n) := by
  unfold yieldStage
  repeat' split
  all_goals exact ⟨memoryKept_refl s, workKept_refl s⟩

/-- The stage is the service context's, for the cause `x`. -/
def stageServes (s : State) (n : Nat) (x : ServiceCause) (l : List ServiceCause) : State :=
  onCore (yieldStage s n) n fun q => { q with services := l, service := some (x, s.clock) }

theorem stageServes_kept (s : State) (n : Nat) (x : ServiceCause) (l : List ServiceCause) :
    MemoryKept s (stageServes s n x l) ∧ WorkKept s (stageServes s n x l) := yieldStage_kept s n

/-- The oldest cause is taken; the mismatch of a PROOF is logged beside that. -/
theorem exec_serviceContextEntry {s : State} {n : Nat} {x : ServiceCause} {l : List ServiceCause} (hl : (coreAt s n).services = x :: l)
    (hf : (coreAt s n).service = none) (ho : (coreAt s n).storeOk = true) :
    ∃ log, exec (.serviceContextEntry n) s = .next { stageServes s n x l with log := log } := by
  show ∃ log, execServiceContextEntry n s = _
  simp only [execServiceContextEntry, hl, hf, ho, Bool.not_true, if_neg Bool.false_ne_true]
  cases x with
  | proof => exact ⟨_, rfl⟩
  | _ => exact ⟨_, rfl⟩

/-! ## The return (21 R389) -/

theorem exec_serviceContextReturn_early {s : State} {n t : Nat} {x : ServiceCause} (h : (coreAt s n).service = some (x, t))
    (early : s.clock < t + 20000) : exec (.serviceContextReturn n) s = .next (serviceReturn s n x true) := by
  show execServiceContextReturn n s = _
  simp only [execServiceContextReturn, h, if_neg (Nat.not_le.2 early)]

theorem exec_serviceContextReturn_late {s : State} {n t : Nat} {x : ServiceCause} (h : (coreAt s n).service = some (x, t))
    (late : t + 20000 ≤ s.clock) : exec (.serviceContextReturn n) s = .next (serviceExpired s n x) := by
  show execServiceContextReturn n s = _
  simp only [execServiceContextReturn, h, if_pos late]

theorem exec_serviceDeadline_late {s : State} {n t : Nat} {x : ServiceCause} (h : (coreAt s n).service = some (x, t))
    (late : t + 20000 ≤ s.clock) : exec (.serviceDeadline n) s = .next (serviceExpired s n x) := by
  show execServiceDeadline n s = _
  simp only [execServiceDeadline, h, if_neg (Nat.not_lt.2 late)]

/-- A count of empty cycles that resumes changes one context alone. -/
theorem resumeCount_eq (s : State) (n : Nat) : resumeCount s n = s ∨ ∃ k f, resumeCount s n = onCtx s k f := by
  unfold resumeCount
  repeat' split
  · exact .inr ⟨_, _, rfl⟩
  · exact .inl rfl
  · exact .inl rfl

theorem resumeCount_kept (s : State) (n : Nat) :
    (resumeCount s n).cores = s.cores ∧ (resumeCount s n).log = s.log ∧ MemoryKept s (resumeCount s n) := by
  obtain h | ⟨k, f, h⟩ := resumeCount_eq s n <;> rw [h] <;> exact ⟨rfl, rfl, memoryKept_refl s⟩

/-- Only a SERVICED context has its count resumed. -/
theorem ctxAt_resumeCount {s : State} {q : Nat} (h : (ctxAt s q).status ≠ .serviced) (n : Nat) :
    ctxAt (resumeCount s n) q = ctxAt s q := by
  unfold resumeCount
  split
  case h_2 => rfl
  case h_1 c holder =>
    split
    case isFalse => rfl
    case isTrue held =>
      refine ctxAt_onCtx_ne s _ fun e => ?_
      subst e
      simp [countHeld, holder, h] at held

/-- A SERVICED context that no cause holds any more is READY. -/
theorem serviced_ready {s : State} {k : Nat} (hn : (coreAt s (k / 4)).services = []) (hs : (ctxAt s k).status = .serviced)
    (hw : (ctxAt s k).waitc = 0) : serviced s k = setCtx s k { ctxAt s k with status := .ready } := by
  simp [serviced, hn, onCtx, hs, hw]

/-! ## What an SVC answers (06 R147, 21 R390, Table intr-7) -/

/-- The context with a value in s1. -/
def withS1 (c : Ctx) (v : Word) : Ctx := { c with s := c.s.setIfInBounds 1 v, sdf := setDf c.sdf 1 false }

theorem sVal_withS1 (c : Ctx) (v : Word) : sVal (withS1 c v) 1 = v := by simp [sVal, withS1]

/-- What the service context writes into a context for its SVC: an answer in s1, or the code, which is undefined, in TCAUSE. -/
def svcAnswer (j : Job) (code : BitVec 12) (c : Ctx) : Ctx :=
  match code.toNat with
  | 0 => c
  | 1 => withS1 c 0
  | 2 => withS1 c (BitVec.ofNat 64 (probeBits j (sVal c 1).toNat))
  | 3 => withS1 c (BitVec.ofNat 64 (touchCode j (sVal c 1).toNat))
  | _ => { c with tcause := BitVec.ofNat 25 (0x40 + 2 ^ 8 * code.toNat) }

theorem svcAnswer_status (j : Job) (code : BitVec 12) (c : Ctx) :
    (svcAnswer j code c).status = c.status ∧ (svcAnswer j code c).waitc = c.waitc := by
  unfold svcAnswer
  split <;> exact ⟨rfl, rfl⟩

theorem svcAnswer_undefined (j : Job) {code : BitVec 12} (h : 3 < code.toNat) (c : Ctx) :
    svcAnswer j code c = { c with tcause := BitVec.ofNat 25 (0x40 + 2 ^ 8 * code.toNat) } := by
  unfold svcAnswer
  split
  case h_5 => rfl
  all_goals omega

theorem svcEffect_undefined (s : State) (j : Job) (k : Nat) {code : BitVec 12} (h : 3 < code.toNat) :
    svcEffect s j k code = undefinedSvc s k code := by
  unfold svcEffect
  dsimp only
  split
  case h_5 => rfl
  all_goals omega

/-- The answer is in the context; the cores and memory are as before. -/
theorem svcEffect_kept (s : State) (j : Job) (k : Nat) (code : BitVec 12) :
    ctxAt (svcEffect s j k code) k = svcAnswer j code (ctxAt s k) ∧ (svcEffect s j k code).cores = s.cores ∧
      MemoryKept s (svcEffect s j k code) := by
  by_cases undef : 3 < code.toNat
  · rw [svcEffect_undefined s j k undef, svcAnswer_undefined j undef]
    exact ⟨ctxAt_onCtx_same .., rfl, memoryKept_refl s⟩
  · have cases : code.toNat = 0 ∨ code.toNat = 1 ∨ code.toNat = 2 ∨ code.toNat = 3 := by omega
    obtain h | h | h | h := cases <;> simp only [svcEffect, svcAnswer, h]
    · exact ⟨trivial, trivial, memoryKept_refl s⟩
    all_goals exact ⟨ctxAt_onCtx_same .., rfl, memoryKept_refl s⟩

theorem coreAt_of_cores {s t : State} (h : t.cores = s.cores) (n : Nat) : coreAt t n = coreAt s n := by rw [coreAt, coreAt, h]

/-- The return that resolves an SVC: its context has the answer and is READY, and the service context is free. -/
theorem serviceReturn_svc {s : State} {n q : Nat} {j : Job} {code : BitVec 12} (hl : (coreAt s n).services = [])
    (hj : jobOfCore s n = some j) (hq : q / 4 = n) (hs : (ctxAt s q).status = .serviced) (hw : (ctxAt s q).waitc = 0) :
    let t := serviceReturn s n (.svc q code) true
    ctxAt t q = { svcAnswer j code (ctxAt s q) with status := .ready } ∧ (coreAt t n).service = none ∧ MemoryKept s t := by
  intro t
  let freed := onCore s n fun c => { c with service := none }
  obtain ⟨answered, cores, memory⟩ := svcEffect_kept freed j q code
  obtain ⟨status, waitc⟩ := svcAnswer_status j code (ctxAt s q)
  have core : coreAt (svcEffect freed j q code) n = { coreAt s n with service := none } :=
    (coreAt_of_cores cores n).trans (coreAt_onCore_same ..)
  have answered : ctxAt (svcEffect freed j q code) q = svcAnswer j code (ctxAt s q) := answered
  have ready : serviced (svcEffect freed j q code) q =
      setCtx (svcEffect freed j q code) q { svcAnswer j code (ctxAt s q) with status := .ready } := by
    rw [serviced_ready (by rw [hq, core]; exact hl) (by rw [answered, status, hs]) (by rw [answered, waitc, hw]), answered]
  have job : jobOfCore freed n = some j := by
    rw [← hj, jobOfCore, jobOfCore, coreAt_onCore_same]; rfl
  have run : t = resumeCount (serviced (svcEffect freed j q code) q) n := by
    simp only [t, serviceReturn, serveCause, job, if_true, freed]
  rw [run, ready]
  obtain ⟨cores, -, kept⟩ := resumeCount_kept (setCtx (svcEffect freed j q code) q _) n
  refine ⟨?_, ?_, memory.trans kept⟩
  · rw [ctxAt_resumeCount (by simp), ctxAt_setCtx_same]
  · rw [coreAt_of_cores cores, coreAt_setCtx, core]

/-! ## The service context stays free through the end of a job (03 R56) -/

/-- The service context of core `n` serves no cause. -/
def ServiceFree (n : Nat) (s : State) : Prop := (coreAt s n).service = none

theorem ServiceFree.of_cores {n : Nat} {s t : State} (h : ServiceFree n s) (e : t.cores = s.cores) : ServiceFree n t := by
  rw [ServiceFree, coreAt_of_cores e]; exact h

theorem ServiceFree.onCore {n : Nat} {s : State} (h : ServiceFree n s) (m : Nat) {f : Core → Core}
    (hf : ∀ c, c.service = none → (f c).service = none) : ServiceFree n (onCore s m f) := by
  by_cases e : n = m
  · subst e
    rw [ServiceFree, coreAt_onCore_same]
    exact hf _ h
  · rw [ServiceFree, coreAt_onCore_ne s f e]
    exact h

theorem ServiceFree.foldl {α : Type} {n : Nat} {f : State → α → State} (hf : ∀ s x, ServiceFree n s → ServiceFree n (f s x))
    (l : List α) {s : State} (h : ServiceFree n s) : ServiceFree n (l.foldl f s) :=
  List.foldlRecOn l f h fun t ht x _ => hf t x ht

/-- A change of HEALTH and its entry in the log. -/
theorem ServiceFree.logged {n : Nat} {s : State} (h : ServiceFree n s) (g : Health) (kind core ctx job : Nat) (a b : Word) :
    ServiceFree n (logEntry (configChanged s g) kind core ctx job a b) := h.of_cores (configChanged_cores ..)

theorem ServiceFree.loadColumn {n : Nat} {s : State} (h : ServiceFree n s) (die col : Nat) : ServiceFree n (loadColumn s die col) := by
  unfold Machine.loadColumn
  dsimp only
  refine .onCore (.onCore h _ ?_) _ ?_ <;> exact fun _ => id

theorem ServiceFree.retireCore {n : Nat} {s : State} (h : ServiceFree n s) (m : Nat) : ServiceFree n (retireCore s m) := by
  unfold Machine.retireCore
  dsimp only
  generalize (if coreLayer m = 0 then m + 32 else m - 32) = other
  split
  · exact h
  · split
    · split
      · exact h
      · refine .logged (.loadColumn (.onCore (.onCore h m ?_) other ?_) ..) .. <;> exact fun _ => id
    · refine .logged (.onCore h m ?_) ..
      exact fun _ => id

theorem ServiceFree.releaseCore {n : Nat} {s : State} (h : ServiceFree n s) (m : Nat) : ServiceFree n (releaseCore s m) :=
  (h.onCore m (f := freeCore) fun _ _ => rfl).of_cores rfl

/-- Steps that leave the cores as they are, one after another. -/
theorem foldl_cores {α : Type} {f : State → α → State} (hf : ∀ s x, (f s x).cores = s.cores) (l : List α) (s : State) :
    (l.foldl f s).cores = s.cores :=
  List.foldlRecOn l f (motive := fun t : State => t.cores = s.cores) rfl fun t ht x _ => (hf t x).trans ht

theorem returnStack_cores (id : Nat) (s : State) (stack : Nat) : (returnStack id s stack).cores = s.cores := by
  unfold returnStack
  dsimp only
  repeat' split
  all_goals rfl

theorem logProofs_cores (s : State) (n : Nat) : (logProofs s n).cores = s.cores := by
  refine foldl_cores (fun s x => ?_) ..
  cases x <;> rfl

theorem abortCommands_cores (s : State) (j : Job) : (abortCommands s j).cores = s.cores := by
  unfold abortCommands
  dsimp only
  have copies := foldl_cores (f := fun s (h : HostCopy) => if h.job = j.id then complete s h.cmd stAborted j.id [] else s)
    (fun s h => by split <;> rfl) s.hostCopies s
  refine .trans ?_ copies
  generalize s.hostCopies.foldl _ s = t
  have handovers := foldl_cores (f := fun s (h : Handover) => match h.source with
    | .host p => if h.job = j.id then complete s p stAborted j.id [] else s
    | _ => s) (fun s h => by repeat' split
                             all_goals rfl) t.handovers t
  refine .trans ?_ handovers
  split <;> rfl

theorem ServiceFree.releaseJob {n : Nat} {s : State} (h : ServiceFree n s) (j : Job) : ServiceFree n (releaseJob s j) := by
  have logged : ((refusedLaunches s j).foldl (logRefused j.id) (endPackets (j.binding.foldl logProofs s) j)).cores = s.cores :=
    (foldl_cores (f := logRefused j.id) (fun _ _ => rfl) ..).trans (foldl_cores logProofs_cores j.binding s)
  unfold Machine.releaseJob
  dsimp only
  refine .foldl (fun _ m h => h.retireCore m) _ (.of_cores ?_ (foldl_cores (returnStack_cores j.id) ..))
  refine .of_cores (.foldl (fun _ m h => h.releaseCore m) j.binding (h.of_cores ?_)) rfl
  exact logged

theorem ServiceFree.abortJob {n : Nat} {s : State} (h : ServiceFree n s) (id : Nat) (code : Option Nat) :
    ServiceFree n (abortJob s id code) := by
  unfold Machine.abortJob
  split
  · exact h
  · split
    · exact h
    · next j hj he =>
      refine .releaseJob (h.of_cores ((abortCommands_cores ..).trans
        ((foldl_cores (f := fun s (x : Pending × Nat) => complete s x.1 stAborted id []) (fun _ _ => rfl) ..).trans ?_))) j
      cases code <;> cases j.start <;> simp

theorem ServiceFree.onCtx {n : Nat} {s : State} (h : ServiceFree n s) (k : Nat) (f : Ctx → Ctx) : ServiceFree n (onCtx s k f) := h

theorem ServiceFree.lateFault {n : Nat} {s : State} (h : ServiceFree n s) (k : Nat) (f : FaultRec) : ServiceFree n (lateFault s k f) := by
  unfold Machine.lateFault
  repeat' split
  · exact h.abortJob ..
  · exact h.abortJob ..
  · exact h
  · exact h

theorem ServiceFree.engineFault {n : Nat} {s : State} (h : ServiceFree n s) (k : Nat) (ended : Bool) (f : FaultRec) :
    ServiceFree n (engineFault s k ended f) := by
  unfold Machine.engineFault
  dsimp only
  split
  · have logged : ServiceFree n (logCtx s 4 k f.addr (BitVec.ofNat 64 f.cause.code)) := h.of_cores rfl
    exact logged.abortJob ..
  · exact h.lateFault ..

theorem ServiceFree.streamOutcome {n : Nat} {s : State} (h : ServiceFree n s) (j : Job) (k i : Nat) (st : Stream) :
    ServiceFree n (streamOutcome s j k i st) := by
  unfold Machine.streamOutcome
  split
  · exact h
  · split
    · split
      · exact h.engineFault ..
      · exact .lateFault (h.onCtx ..) ..
    · exact h

/-! ## A forced return (21 R389) -/

/-- What a forced return does for its cause is changes of contexts, requests and matrix commands, and the failure of a stream's
transfer: a property that these keep is kept. -/
theorem serveCause_forced {P : State → Prop} {s : State} {n : Nat} {x : ServiceCause} (hs : P s)
    (ctx : ∀ s k f, P s → P (onCtx s k f)) (req : ∀ s r, P s → P (setReq s r))
    (core : ∀ s f, (∀ c : Core, (f c).service = c.service) → P s → P (onCore s n f))
    (stream : ∀ k i order st j, x = .stream k i order → ((ctxAt s k).streams[i]?).getD none = some st → jobOfCore s n = some j →
      P (streamOutcome s j k i st)) : P (serveCause s n x false) := by
  have settled {t : State} (ht : P t) (k : Nat) : P (serviced t k) := by
    unfold serviced
    split
    · exact ht
    · exact ctx _ _ _ ht
  unfold serveCause
  cases hj : jobOfCore s n with
  | none => exact hs
  | some j =>
    have same : (jobAt s j.id).getD j = j := by
      obtain ⟨id, -, found⟩ := Option.bind_eq_some_iff.1 hj
      rw [(mem_of_jobAt found).2, found]; rfl
    simp only [Bool.false_eq_true, if_false, same]
    cases x with
    | walk id =>
      dsimp only
      split
      · exact hs
      · refine settled ?_ _
        unfold walkOutcome walkRefused
        repeat' split
        · exact req _ _ hs
        · exact hs
        · exact hs
    | fetch k =>
      dsimp only
      split
      · exact settled hs k
      · exact settled (ctx _ _ _ hs) k
    | stream k i order =>
      dsimp only
      split
      · next st hst =>
        split
        · exact settled (stream k i order st j rfl hst hj) k
        · exact settled hs k
      · exact settled hs k
    | element => dsimp only; split <;> exact hs
    | operand id =>
      have free : P (onCore s n fun q => { q with hold := false }) := core _ _ (fun _ => rfl) hs
      dsimp only
      split
      · exact free
      · unfold operandOutcome
        repeat' split
        · exact core _ _ (fun _ => rfl) free
        all_goals exact free
    | proof => exact hs
    | svc k code => exact settled (ctx _ _ _ hs) k

/-- A stream whose next transfer meets no fate is as it was. -/
theorem streamOutcome_fateless {s : State} {j : Job} {k i : Nat} {st : Stream} (h : nextFate s j st = none) :
    streamOutcome s j k i st = s := by
  rw [streamOutcome, h]

section
variable {s : State} {n : Nat} {x : ServiceCause}

/-- The state in which a forced return begins: its entry is logged, and the service context is free. -/
def expiring (s : State) (n : Nat) : State :=
  onCore (logEntry s 12 n 0xFFFF ((coreAt s n).job.getD 0) 0 0) n fun q => { q with service := none }

theorem serviceExpired_eq : serviceExpired s n x = resumeCount (serveCause (expiring s n) n x false) n := rfl

theorem jobOfCore_expiring : jobOfCore (expiring s n) n = jobOfCore s n := by
  rw [jobOfCore, jobOfCore, expiring, coreAt_onCore_same]; rfl

theorem serviceExpired_free : (coreAt (serviceExpired s n x) n).service = none := by
  rw [serviceExpired_eq, coreAt_of_cores (resumeCount_kept ..).1]
  have free : ServiceFree n (expiring s n) := by rw [ServiceFree, expiring, coreAt_onCore_same]
  exact serveCause_forced (P := ServiceFree n) free (fun _ _ _ h => h) (fun _ _ h => h)
    (fun _ _ hf h => h.onCore n fun c hc => (hf c).trans hc) fun k i _ st j _ _ _ => free.streamOutcome j k i st

/-- The entry stands last in the log, unless a stream's transfer fails. -/
theorem serviceExpired_logs (hx : match x with
    | .stream q i _ => ∀ st j, ((ctxAt s q).streams[i]?).getD none = some st → jobOfCore s n = some j → nextFate s j st = none
    | _ => True) : ∃ e ∈ (serviceExpired s n x).log, e.kind = 12 ∧ e.core = n := by
  have kept : (serviceExpired s n x).log = (expiring s n).log := by
    rw [serviceExpired_eq, (resumeCount_kept ..).2.1]
    refine serveCause_forced (P := fun t : State => t.log = (expiring s n).log) rfl (fun _ _ _ h => h) (fun _ _ h => h)
      (fun _ _ _ h => h) fun k i order st j e hst hj => ?_
    subst e
    have fateless : nextFate (expiring s n) j st = none := hx st j hst (jobOfCore_expiring ▸ hj)
    rw [streamOutcome_fateless fateless]
  rw [kept]
  exact ⟨⟨timeNow s, 12, n, 0xFFFF, (coreAt s n).job.getD 0, 0, 0⟩, List.mem_append_right _ (List.mem_singleton_self _), rfl, rfl⟩

end

/-! ## The statement -/

/-- Settles O31: the expiry of a TIMER is `timerEvent`, the entry takes the oldest cause, a return in time gives what `svcAnswer` says, and
a forced one frees the service context and makes its entry. -/
theorem timerAndServiceContext : Obligations.TimerAndServiceContext := by
  intro s k n c core
  refine ⟨fun d hd due running => ?_, fun x l hl hf ho => ?_, fun j q code since hx hl hj hq early hs hw => ?_,
    fun x since hx late => ?_⟩
  · obtain ⟨raised, status, expired⟩ := timerEvent_due (now := timeNow s) (c := c) (by simp [timerDue, running, hd, due])
    have ctx : ctxAt (onCtx s k (timerEvent (timeNow s))) k = _ := (ctxAt_onCtx_same ..).trans expired
    exact ⟨_, rfl, by rw [ctx], by rw [ctx], by rw [ctx], by rw [ctx], onlyContext_onCtx ..⟩
  · obtain ⟨log, run⟩ := exec_serviceContextEntry hl hf ho
    have core : coreAt (stageServes s n x l) n = _ := coreAt_onCore_same ..
    obtain ⟨memory, work⟩ := stageServes_kept s n x l
    exact ⟨_, run, congrArg Core.services core, congrArg Core.service core, memory, work⟩
  · obtain ⟨ctx, free, memory⟩ := serviceReturn_svc hl hj hq hs hw
    refine ⟨_, exec_serviceContextReturn_early hx early, free, by rw [ctx], memory, ?_, ?_, ?_, fun h => ?_⟩
    · rintro rfl
      rw [ctx]; exact sVal_withS1 ..
    · rintro rfl
      rw [ctx]; exact sVal_withS1 ..
    · rintro rfl
      rw [ctx]; exact sVal_withS1 ..
    · rw [ctx, svcAnswer_undefined j h]
      exact ⟨rfl, rfl⟩
  · exact ⟨_, exec_serviceDeadline_late hx late, exec_serviceContextReturn_late hx late, serviceExpired_free, serviceExpired_logs⟩

end Sys2Proof.Machine
end

section
/-! SUPPORT. The vector instructions (09 R191-R206): what the shapes of lane-wise operations give, the functions of Table vector-1 as the rules
state them, and the comparison of lanes. -/

namespace Sys2Proof.Machine

/-! ## What the shapes give (09 R192, R193) -/

/-- Lane-wise results are told apart by their lanes modulo the lane's width, and by their flags. -/
theorem GivesLanes.congr {i : Instr} {p : Tag} {d lat w : Nat} {sel : State → Nat → Bool} {f f' : State → Nat → Nat × Flags}
    (h : GivesLanes i p d lat w sel f) (hf : ∀ s j, (f s j).1 % 2 ^ w = (f' s j).1 % 2 ^ w ∧ (f s j).2 = (f' s j).2) :
    GivesLanes i p d lat w sel f' := fun s hs => by
  obtain ⟨t, v, run, sent, lane⟩ := h s hs
  simp only [fun j => (hf s j).2] at sent
  exact ⟨t, v, run, sent, fun j hj hsel => (lane j hj hsel).trans (hf s j).1⟩

section
variable {i : Instr} {p : Tag} {d : VReg} (a b : VReg) {t : Fin 4} {g : Fin 8} {lat : Nat} {v : State → Nat → Nat × Flags}
  (hl : ∀ s, exposedLat s s.cur.key i = lat)
include hl

theorem guarded_gives (he : ∀ s, exec i s = operate i p s fun s => guarded i d t g (v s) s) :
    GivesLanes i p d lat (laneWidth t) (fun s => selected (laneWidth t) (readP s g)) v :=
  gives_lanes he hl (laneWidth_cases t)

theorem lanes1_gives (f : State → Nat → Nat × Flags) (he : ∀ s, exec i s = operate i p s fun s => lanes1 i d a t g (f s) s)
    (hv : ∀ s j, f s (laneOf (laneWidth t) (readV s a) j) = v s j) :
    GivesLanes i p d lat (laneWidth t) (fun s => selected (laneWidth t) (readP s g)) v :=
  guarded_gives hl fun s => by rw [he]; simp only [lanes1, hv]

theorem lanes2_gives (f : State → Nat → Nat → Nat × Flags) (he : ∀ s, exec i s = operate i p s fun s => lanes2 i d a b t g (f s) s)
    (hv : ∀ s j, f s (laneOf (laneWidth t) (readV s a) j) (laneOf (laneWidth t) (readV s b) j) = v s j) :
    GivesLanes i p d lat (laneWidth t) (fun s => selected (laneWidth t) (readP s g)) v :=
  guarded_gives hl fun s => by rw [he]; simp only [lanes2, hv]

theorem lanes3_gives (f : Nat → Nat → Nat → Nat × Flags) (he : ∀ s, exec i s = operate i p s (lanes3 i d a b t g f))
    (hv : ∀ s j, f (laneOf (laneWidth t) (readV s a) j) (laneOf (laneWidth t) (readV s b) j) (laneOf (laneWidth t) (readV s d) j) = v s j) :
    GivesLanes i p d lat (laneWidth t) (fun s => selected (laneWidth t) (readP s g)) v :=
  guarded_gives hl fun s => by rw [he]; congr 1; funext s; simp only [lanes3, hv]

end

/-! ## Arithmetic on one lane (09 Table vector-1) -/

theorem laneWidth_s32 {t : Fin 4} (ht : t.val = 3) : laneWidth t = 32 := if_pos (.inr ht)

theorem laneWidth_pos (t : Fin 4) : 0 < laneWidth t := by rcases laneWidth_cases t with h | h <;> omega

theorem laneSub_eq (t : Fin 4) (x : Nat) {y : Nat} (hy : y < 2 ^ laneWidth t) : laneSub t x y =
    if t.val = 3 then ((x + (2 ^ 32 - y)) % 2 ^ 32, 0) else roundTo (laneFmt t) (Val.add (decodeFmt (laneFmt t) x) (decodeFmt (laneFmt t) y).neg) := by
  rw [laneSub]
  split
  · next ht =>
    rw [laneWidth_s32 ht] at hy
    rw [Nat.add_sub_assoc hy.le]
  · rfl

theorem lanePick_min (t : Fin 4) (x y : Nat) : lanePick t false x y =
    if t.val = 3 then (if signed 32 y < signed 32 x then y else x, 0)
    else roundTo (laneFmt t) (fmin (decodeFmt (laneFmt t) x) (decodeFmt (laneFmt t) y), flagIf ((decodeFmt (laneFmt t) x).isSnan || (decodeFmt (laneFmt t) y).isSnan) flagNV) := rfl

theorem lanePick_max (t : Fin 4) (x y : Nat) : lanePick t true x y =
    if t.val = 3 then (if signed 32 x < signed 32 y then y else x, 0)
    else roundTo (laneFmt t) (fmax (decodeFmt (laneFmt t) x) (decodeFmt (laneFmt t) y), flagIf ((decodeFmt (laneFmt t) x).isSnan || (decodeFmt (laneFmt t) y).isSnan) flagNV) := rfl

/-- The sign bit added modulo the lane's width is the sign bit inverted. -/
theorem flipSign_eq {w x : Nat} (hw : 0 < w) (hx : x < 2 ^ w) :
    (if 2 ^ (w - 1) ≤ x then x - 2 ^ (w - 1) else x + 2 ^ (w - 1)) = (x + 2 ^ (w - 1)) % 2 ^ w := by
  have twice : 2 ^ w = 2 ^ (w - 1) + 2 ^ (w - 1) := by rw [← Nat.two_mul, ← Nat.pow_succ', Nat.succ_eq_add_one, Nat.sub_add_cancel hw]
  rw [twice] at hx ⊢
  split
  · rw [Nat.mod_eq_sub_mod (by omega), Nat.mod_eq_of_lt (by omega)]
    omega
  · rw [Nat.mod_eq_of_lt (by omega)]

theorem laneSign_neg (t : Fin 4) {x : Nat} (hx : x < 2 ^ laneWidth t) : laneSign t false x =
    if t.val = 3 then (unsigned 32 (-signed 32 x), 0)
    else if (decodeFmt (laneFmt t) x).isNan then ((laneFmt t).canonical, flagIf (decodeFmt (laneFmt t) x).isSnan flagNV)
    else ((x + 2 ^ (laneWidth t - 1)) % 2 ^ laneWidth t, 0) := by
  rw [← flipSign_eq (laneWidth_pos t) hx]
  rfl

/-- Settles O5: each operation is of a shape of lanes with the function of Table vector-1. -/
theorem laneArithmetic : Obligations.LaneArithmetic := by
  intro d a b t g p lat F x y z val gives fused
  have lane (s : State) (r j : Nat) : laneOf (laneWidth t) (readV s r) j < 2 ^ laneWidth t := laneOf_lt _ _ _ (laneWidth_pos t)
  refine ⟨lanes2_gives a b (fun _ => rfl) (fun _ => laneAdd t) (fun _ => rfl) fun _ _ => rfl,
    lanes2_gives a b (fun _ => rfl) (fun _ => laneSub t) (fun _ => rfl) fun s j => laneSub_eq t _ (lane s b j),
    lanes2_gives a b (fun _ => rfl) (fun _ => laneMul t) (fun _ => rfl) fun _ _ => rfl,
    lanes2_gives a b (fun _ => rfl) (fun _ => lanePick t false) (fun _ => rfl) fun _ _ => lanePick_min ..,
    lanes2_gives a b (fun _ => rfl) (fun _ => lanePick t true) (fun _ => rfl) fun _ _ => lanePick_max ..,
    lanes1_gives a (fun _ => rfl) (fun _ => laneSign t true) (fun _ => rfl) fun _ _ => rfl,
    lanes1_gives a (fun _ => rfl) (fun _ => laneSign t false) (fun _ => rfl) fun s j => laneSign_neg t (lane s a j),
    fun ht => ⟨lanes3_gives a b (fun _ => rfl) (laneFma t false false) (fun _ => rfl) fun _ _ => (if_neg ht).symm,
      lanes3_gives a b (fun _ => rfl) (laneFma t true false) (fun _ => rfl) fun _ _ => (if_neg ht).symm,
      lanes3_gives a b (fun _ => rfl) (laneFma t false true) (fun _ => rfl) fun _ _ => (if_neg ht).symm⟩⟩

/-! ## Logic, selects and moves (09 R198, R199, R202-R205) -/

theorem laneCount_eq (t : Fin 4) : laneCount t = 2048 / laneWidth t := by
  rw [laneCount, laneWidth]
  split <;> rfl

/-- VSEL takes a lane of one source or of the other. -/
theorem laneOf_ite (w j : Nat) (c : Bool) (x y : VWord) : laneOf w (if c then x else y) j = if c then laneOf w x j else laneOf w y j := by
  cases c <;> rfl

/-- Settles O6: each operation is a lane-wise result, with its function and the lanes that it writes. -/
theorem laneLogicAndMoves : Obligations.LaneLogicAndMoves := by
  intro d a b k m t g p W x y sel gives
  have shape (f : Nat → Nat → Nat × Flags) {i : Instr} (he : ∀ s, exec i s = operate i p s (lanes2 i d a b t g f))
    (hl : ∀ s, exposedLat s s.cur.key i = 2) := lanes2_gives a b hl (fun _ => f) he fun _ _ => rfl
  refine ⟨shape (fun x y => (x &&& y, 0)) (fun _ => rfl) fun _ => rfl, shape (fun x y => (x ||| y, 0)) (fun _ => rfl) fun _ => rfl,
    shape (fun x y => (x ^^^ y, 0)) (fun _ => rfl) fun _ => rfl,
    (shape (fun x y => (x * 2 ^ (y % W) % 2 ^ W, 0)) (fun _ => rfl) fun _ => rfl).congr fun _ _ => ⟨Nat.mod_mod .., rfl⟩,
    shape (fun x y => (x / 2 ^ (y % W), 0)) (fun _ => rfl) fun _ => rfl,
    shape (fun x y => (shiftSigned W (y % W) x, 0)) (fun _ => rfl) fun _ => rfl,
    gives_lanes (fun s => ?_) (fun _ => rfl) (laneWidth_cases t),
    GivesLanes.congr (f := fun s _ => (broadcast t (readS s k).toNat, 0)) (gives_lanes (fun s => ?_) (fun _ => rfl) (laneWidth_cases t))
      fun _ _ => ⟨Nat.mod_mod .., rfl⟩,
    guarded_gives (fun _ => rfl) fun s => ?_, guarded_gives (fun _ => rfl) fun s => ?_, guarded_gives (fun _ => rfl) fun _ => rfl⟩
  · show execVsel d a b t g p s = _
    simp only [execVsel, laneOf_ite]
    rfl
  · show execVins d k m t p s = _
    simp only [execVins, laneIndex, laneCount_eq]
    rfl
  · show execVperm d a b t g p s = _
    simp only [execVperm, laneIndex, laneCount_eq]
    rfl
  · show execVslide d a k t g p s = _
    simp only [execVslide, laneCount_eq, Int.add_comm]
    rfl

/-! ## The scalar-operand and the long forms (09 R200) -/

/-- Settles O7: the second operand is the same in every lane, and the functions are those of the vector forms. -/
theorem laneScalarOperands : Obligations.LaneScalarOperands := by
  intro d a k t g p m W F lat x z val gives sum product fused low imm
  refine ⟨lanes1_gives a (fun _ => rfl) (fun s x => laneAdd t x (low s)) (fun _ => rfl) fun _ _ => rfl,
    lanes1_gives a (fun _ => rfl) (fun s x => laneMul t x (low s)) (fun _ => rfl) fun _ _ => rfl,
    guarded_gives (fun _ => rfl) fun _ => rfl,
    lanes1_gives a (fun _ => rfl) (fun _ x => laneAdd t x imm) (fun _ => rfl) fun _ _ => rfl,
    lanes1_gives a (fun _ => rfl) (fun _ x => laneMul t x imm) (fun _ => rfl) fun _ _ => rfl,
    guarded_gives (fun _ => rfl) fun _ => rfl,
    fun _ => ⟨lanes2_gives a d (fun _ => rfl) (fun s x z => laneFma t false false x (low s) z) (fun _ => rfl) fun _ _ => rfl,
      lanes2_gives a d (fun _ => rfl) (fun _ x z => laneFma t false false x imm z) (fun _ => rfl) fun _ _ => rfl⟩⟩

/-- An operation whose effect is one result sends it. -/
theorem sends_of_result {i : Instr} {p : Tag} {s : State} {dest : Item} {lat : Nat} {v m : State → VWord} {df : State → Bool}
    {fl : State → Flags} (h : Issues i p s) (he : exec i s = operate i p s fun s => result s dest lat (v s) (m s) (df s) (fl s)) :
    ∃ t, exec i s = .next t ∧ Sends i s t dest lat (v s) (m s) (df s) (fl s) :=
  ⟨_, he.trans (operate_issues h _), sends_result ..⟩

/-! ## Comparisons, extracts and conversions (09 R197, R201, R206) -/

/-- Bit `k` of packed lanes is bit `k % w` of lane `k / w`. -/
theorem packLanes_testBit {w : Nat} (hw : 0 < w) (l : List Nat) (k : Nat) :
    (packLanes w l).testBit k = (l[k / w]?.getD 0).testBit (k % w) := by
  have low : k % w < w := Nat.mod_lt _ hw
  calc (packLanes w l).testBit k = (packLanes w l / 2 ^ (w * (k / w)) % 2 ^ w).testBit (k % w) := by
        rw [Nat.testBit_mod_two_pow, Nat.testBit_div_two_pow, Nat.mod_add_div]
        simp [low]
    _ = (l[k / w]?.getD 0).testBit (k % w) := by
        rw [packLanes_div, Nat.testBit_mod_two_pow]
        simp [low]

/-- The bits of a lane of a predicate stand together. -/
theorem lanePred_getLsbD {w i : Nat} (hw : 16 ≤ w) (hi : i < 128) (l : List Bool) :
    (lanePred w l).getLsbD i = l[i / (w / 16)]?.getD false := by
  have pos : 0 < w / 16 := Nat.div_pos hw (by omega)
  have low : i % (w / 16) < w / 16 := Nat.mod_lt _ pos
  rw [lanePred, BitVec.getLsbD_ofNat, packLanes_testBit pos, List.getElem?_map]
  rcases l[i / (w / 16)]? with _ | _ | _ <;> simp [hi, low]

/-- Two patterns of 32 bits are one where their signed numbers are. -/
theorem signed_inj {x y : Nat} (hx : x < 2 ^ 32) (hy : y < 2 ^ 32) : signed 32 x = signed 32 y ↔ x = y := by
  unfold signed
  split <;> split <;> omega

/-- A comparison of lanes raises NV: with a NaN where it orders, with a signalling NaN where it does not. -/
def compareInvalid (t c : Fin 4) (x y : Nat) : Bool :=
  t.val != 3 && if c.val < 2 then (decodeFmt (laneFmt t) x).isSnan || (decodeFmt (laneFmt t) y).isSnan
    else (decodeFmt (laneFmt t) x).isNan || (decodeFmt (laneFmt t) y).isNan

theorem laneCompare_flags (t c : Fin 4) (x y : Nat) : (laneCompare t c x y).2 = flagIf (compareInvalid t c x y) flagNV := by
  by_cases ht : t.val = 3
  · simp [laneCompare, compareInvalid, ht, flagIf]
  · have float : (t.val != 3) = true := bne_iff_ne.2 ht
    fin_cases c <;> simp [laneCompare, compareInvalid, ht, float, laneVal]

theorem allFlags_cons (f : Flags) (l : List Flags) : allFlags (f :: l) = f ||| allFlags l := by
  have first : (0 : Flags) ||| f = f ||| 0 := BitVec.or_comm ..
  rw [allFlags, List.foldl_cons, first]
  exact List.foldl_assoc

/-- One flag of several results is raised where one of them raises it. -/
theorem allFlags_flagIf {α : Type} (l : List α) (b : α → Bool) (f : Flags) :
    allFlags (l.map fun x => flagIf (b x) f) = flagIf (l.any b) f := by
  induction l with
  | nil => rfl
  | cons x l ih =>
    rw [List.map_cons, allFlags_cons, ih, List.any_cons]
    cases b x <;> cases l.any b <;> simp [flagIf]

/-- In S32 the equality of two lanes is that of their patterns, and the order is that of their signed numbers (09 R197). -/
theorem laneCompare_s32 {t : Fin 4} (ht : t.val = 3) (c : Fin 4) {x y : Nat} (hx : x < 2 ^ laneWidth t) (hy : y < 2 ^ laneWidth t) :
    (laneCompare t c x y).1 = match c.val with
      | 0 => decide (x = y)
      | 1 => decide (x ≠ y)
      | 2 => decide (signed 32 x < signed 32 y)
      | _ => decide (signed 32 x ≤ signed 32 y) := by
  rw [laneWidth_s32 ht] at hx hy
  have same : (signed 32 x == signed 32 y) = decide (x = y) := by
    rw [beq_eq_decide, decide_eq_decide, signed_inj hx hy]
  rw [laneCompare, if_pos ht]
  fin_cases c
  · exact same
  · exact (congrArg not same).trans decide_not.symm
  all_goals rfl

theorem laneCompare_float {t : Fin 4} (ht : t.val ≠ 3) (c : Fin 4) (x y : Nat) :
    (laneCompare t c x y).1 = match c.val with
      | 0 => Val.eq (decodeFmt (laneFmt t) x) (decodeFmt (laneFmt t) y)
      | 1 => !Val.eq (decodeFmt (laneFmt t) x) (decodeFmt (laneFmt t) y)
      | 2 => Val.lt (decodeFmt (laneFmt t) x) (decodeFmt (laneFmt t) y)
      | _ => Val.le (decodeFmt (laneFmt t) x) (decodeFmt (laneFmt t) y) := by
  rw [laneCompare, if_neg ht]
  fin_cases c <;> rfl

theorem flagIf_nv {b : Bool} : (flagIf b flagNV = 0 ∨ flagIf b flagNV = flagNV) ∧ (flagIf b flagNV = flagNV ↔ b = true) := by
  cases b <;> decide

/-- What a VCMP answers for each lane. -/
def comparison (t c : Fin 4) (a b : VReg) (s : State) : List (Bool × Flags) :=
  (List.range (2048 / laneWidth t)).map fun j =>
    laneCompare t c (laneOf (laneWidth t) (readV s a) j) (laneOf (laneWidth t) (readV s b) j)

theorem comparison_flags (t c : Fin 4) (a b : VReg) (s : State) : allFlags ((comparison t c a b s).map (·.2)) =
    flagIf ((List.range (2048 / laneWidth t)).any fun j =>
      compareInvalid t c (laneOf (laneWidth t) (readV s a) j) (laneOf (laneWidth t) (readV s b) j)) flagNV := by
  rw [← allFlags_flagIf, comparison, List.map_map]
  exact congrArg allFlags (List.map_congr_left fun j _ => laneCompare_flags ..)

theorem comparison_getLsbD (t c : Fin 4) (a b : VReg) (s : State) {i : Nat} (hi : i < 128) :
    (lanePred (laneWidth t) ((comparison t c a b s).map (·.1))).getLsbD i =
      (laneCompare t c (laneOf (laneWidth t) (readV s a) (i / (laneWidth t / 16)))
        (laneOf (laneWidth t) (readV s b) (i / (laneWidth t / 16)))).1 := by
  have wide : 16 ≤ laneWidth t := by rcases laneWidth_cases t with h | h <;> omega
  have inside : i / (laneWidth t / 16) < 2048 / laneWidth t := by rcases laneWidth_cases t with h | h <;> rw [h] <;> omega
  rw [lanePred_getLsbD wide hi]
  simp [comparison, inside]

/-- VCMP sends the predicate of its comparison, and its flags. -/
theorem exec_vcmp (d : PReg) (a b : VReg) (t c : Fin 4) (p : Tag) (s : State) : exec (.vcmp d a b t c p) s =
    operate (.vcmp d a b t c p) p s fun s =>
      result s ⟨.pred, d⟩ 2 ((lanePred (laneWidth t) ((comparison t c a b s).map (·.1))).setWidth 2048) (BitVec.allOnes 2048) false
        (allFlags ((comparison t c a b s).map (·.2))) := rfl

/-- Settles O8: VCMP sends the answers of its lanes as one predicate (`comparison_getLsbD`) with NV where one of them is invalid; VEXT is a
scalar result, and VCVT a guarded lane-wise one. -/
theorem laneCompareExtractConvert : Obligations.LaneCompareExtractConvert := by
  intro d e v a b k t u c g p W x y val holds nv
  have lane (s : State) (r j : Nat) : laneOf W (readV s r) j < 2 ^ W := laneOf_lt _ _ _ (laneWidth_pos t)
  refine ⟨fun s h => ?_, gives_scalar (fun s => ?_) fun _ => rfl, guarded_gives (fun _ => rfl) fun s => ?_⟩
  · have answer (j : Nat) : (laneCompare t c (x s j) (y s j)).1 = holds s j := by
      by_cases ht : t.val = 3
      · exact (laneCompare_s32 ht c (lane s a j) (lane s b j)).trans (if_pos ht).symm
      · exact (laneCompare_float ht c _ _).trans (if_neg ht).symm
    have invalid (j : Nat) : compareInvalid t c (x s j) (y s j) = true ↔ nv s j := by simp [compareInvalid, nv, val]
    obtain ⟨t', run, sent⟩ := sends_of_result h (exec_vcmp d a b t c p s)
    refine ⟨t', _, _, run, sent, fun i hi => (comparison_getLsbD t c a b s hi).trans (answer _), ?_⟩
    rw [comparison_flags]
    refine ⟨flagIf_nv.1, flagIf_nv.2.trans ?_⟩
    rw [List.any_eq_true]
    simp only [List.mem_range]
    exact exists_congr fun j => and_congr_right fun _ => invalid j
  · show execVext e a k t p s = _
    simp only [execVext, laneIndex, laneCount_eq]
    rfl
  · show execVcvt v a t u g p s = _
    simp only [execVcvt, laneCount_eq]
    rfl

end Sys2Proof.Machine
end

section
/-! SUPPORT. The pack instructions (09 R207-R215): runs of elements in a register, and what narrowing and QAMAX write. -/

namespace Sys2Proof.Machine

/-! ## Runs of elements that stand above other bits (08 R168, 09 R207) -/

/-- A number that fits is its own pattern. -/
theorem toNat_ofNat_lt {n x : Nat} (hx : x < 2 ^ n) : (BitVec.ofNat n x).toNat = x :=
  (BitVec.toNat_ofNat ..).trans (Nat.mod_eq_of_lt hx)

theorem laneOf_ofNat {w x : Nat} (hw : 0 < w) (hx : x < 2 ^ 2048) (j : Nat) : laneOf w (BitVec.ofNat 2048 x) j = x / 2 ^ (w * j) % 2 ^ w := by
  have width : w * j + (w - 1) + 1 - w * j = w := by rw [Nat.add_assoc, Nat.sub_add_cancel hw, Nat.add_sub_cancel_left]
  rw [laneOf, bits, toNat_ofNat_lt hx, width]

/-- An element of a run that begins with element `q`. -/
theorem run_div_mod (w : Nat) (l : List Nat) (q j : Nat) :
    packLanes w l * 2 ^ (w * q) / 2 ^ (w * (q + j)) % 2 ^ w = l[j]?.getD 0 % 2 ^ w := by
  rw [Nat.mul_add, Nat.pow_add, Nat.mul_comm (2 ^ (w * q)), Nat.mul_div_mul_right _ _ (Nat.two_pow_pos _), packLanes_div]

theorem run_lt {w q n : Nat} {l : List Nat} (h : w * (q + l.length) ≤ n) : packLanes w l * 2 ^ (w * q) < 2 ^ n :=
  calc packLanes w l * 2 ^ (w * q) < 2 ^ (w * l.length) * 2 ^ (w * q) := Nat.mul_lt_mul_of_pos_right (packLanes_lt w l) (Nat.two_pow_pos _)
    _ = 2 ^ (w * (q + l.length)) := by rw [← Nat.pow_add, Nat.mul_add, Nat.add_comm]
    _ ≤ 2 ^ n := Nat.pow_le_pow_right (by omega) h

/-- The bits of a mask of `n` ones above `low` bits. -/
theorem ones_testBit (n low k : Nat) : ((2 ^ n - 1) * 2 ^ low).testBit k = decide (low ≤ k ∧ k < low + n) := by
  rw [Nat.testBit_mul_two_pow, Nat.testBit_two_pow_sub_one, ← Bool.decide_and, decide_eq_decide]
  omega

theorem ones_getLsbD {N n low : Nat} (h : low + n ≤ N) (k : Nat) :
    (BitVec.ofNat N ((2 ^ n - 1) * 2 ^ low)).getLsbD k = decide (low ≤ k ∧ k < low + n) := by
  rw [BitVec.getLsbD_ofNat, ones_testBit, ← Bool.decide_and, decide_eq_decide]
  omega

/-- The bits of a mask of `n` ones. -/
theorem lowOnes_getLsbD {N n : Nat} (h : n ≤ N) (k : Nat) : (BitVec.ofNat N (2 ^ n - 1)).getLsbD k = decide (k < n) := by
  rw [BitVec.getLsbD_ofNat, Nat.testBit_two_pow_sub_one, ← Bool.decide_and, decide_eq_decide]
  omega

theorem ones_lt {n low m : Nat} (h : low + n ≤ m) : (2 ^ n - 1) * 2 ^ low < 2 ^ m :=
  calc (2 ^ n - 1) * 2 ^ low < 2 ^ n * 2 ^ low := Nat.mul_lt_mul_of_pos_right (Nat.sub_one_lt (Nat.two_pow_pos n).ne') (Nat.two_pow_pos _)
    _ = 2 ^ (low + n) := by rw [← Nat.pow_add, Nat.add_comm]
    _ ≤ 2 ^ m := Nat.pow_le_pow_right (by omega) h

/-- What stands from bit `m` on leaves the bits below as they are. -/
theorem add_high_div_mod {a b m : Nat} (h : a + b ≤ m) (x y : Nat) : (x + y * 2 ^ m) / 2 ^ a % 2 ^ b = x / 2 ^ a % 2 ^ b := by
  obtain ⟨c, rfl⟩ := Nat.exists_eq_add_of_le h
  have split : y * 2 ^ (a + b + c) = y * 2 ^ c * 2 ^ b * 2 ^ a := by ring
  rw [split, Nat.add_mul_div_right _ _ (Nat.two_pow_pos a), Nat.add_mul_mod_self_right]

theorem add_high_lt {x y m n N : Nat} (h : n + m ≤ N) (hx : x < 2 ^ m) (hy : y < 2 ^ n) : x + y * 2 ^ m < 2 ^ N :=
  calc x + y * 2 ^ m < 2 ^ m + y * 2 ^ m := Nat.add_lt_add_right hx _
    _ = (y + 1) * 2 ^ m := by rw [Nat.add_comm, Nat.succ_mul]
    _ ≤ 2 ^ n * 2 ^ m := Nat.mul_le_mul_right _ hy
    _ = 2 ^ (n + m) := (Nat.pow_add ..).symm
    _ ≤ 2 ^ N := Nat.pow_le_pow_right Nat.two_pos h

/-! ## Narrowing (09 R213, R214) -/

/-- The elements of a part of a packed run are on their way, each with the value and the flags of its lane, and no bit beside them. -/
theorem narrow_gives {i : Instr} {p : Tag} {d a : VReg} {w : Nat} {r t : Fin 4} (f : State → Nat → Nat → Nat × Flags) {s : State}
    (hw : 0 < w) (fits : w * ((r.val + 1) * (2048 / laneWidth t)) ≤ 2048) (h : Issues i p s)
    (he : exec i s = operate i p s fun s => narrow i d w r t (f s) a s) :
    let N := 2048 / laneWidth t
    let y := fun j => f s (laneOf (laneWidth t) (readV s a) j) (r.val * N + j)
    ∃ t' v m, exec i s = .next t' ∧
      Sends i s t' ⟨.vector, d⟩ 3 v m (sourceDf s i) (allFlags ((List.range N).map fun j => (y j).2)) ∧
      (∀ k, k < 2048 → m.getLsbD k = decide (w * (r.val * N) ≤ k ∧ k < w * ((r.val + 1) * N))) ∧
      ∀ j, j < N → laneOf w v (r.val * N + j) = (y j).1 % 2 ^ w := by
  intro N y
  let l := (List.range N).map fun j => (y j).1
  have length : l.length = N := by simp [l]
  have low : w * r.val * N = w * (r.val * N) := Nat.mul_assoc ..
  have top : w * (r.val * N) + w * N = w * ((r.val + 1) * N) := by ring
  have sent : exec i s = .next (afterOp i s (result s ⟨.vector, d⟩ 3 (BitVec.ofNat 2048 (packLanes w l * 2 ^ (w * (r.val * N))))
      (BitVec.ofNat 2048 ((2 ^ (w * N) - 1) * 2 ^ (w * (r.val * N)))) (sourceDf s i) (allFlags ((List.range N).map fun j => (y j).2)))) := by
    rw [he, operate_issues h, ← low]
    simp only [narrow, resultV, laneCount_eq, List.map_map]
    rfl
  refine ⟨_, _, _, sent, sends_result .., fun k _ => ?_, fun j hj => ?_⟩
  · rw [ones_getLsbD (top ▸ fits), top]
  · have room : w * (r.val * N + l.length) ≤ 2048 := by rw [length, Nat.mul_add, top]; exact fits
    rw [laneOf_ofNat hw (run_lt room), run_div_mod]
    simp [l, hj]

/-! ## QAMAX (09 R215) -/

/-- What stands from bit `m` on beside what stands below. -/
theorem add_high_testBit {x m : Nat} (hx : x < 2 ^ m) (y k : Nat) :
    (x + y * 2 ^ m).testBit k = if k < m then x.testBit k else y.testBit (k - m) := by
  rw [Nat.add_comm, Nat.mul_comm, Nat.testBit_two_pow_mul_add _ hx]

/-- The scales of a part lie in the half of the register that it names. -/
theorem part_room (r t : Fin 4) : 8 * (r.val * (2048 / laneWidth t) % 128) + 8 * (2048 / laneWidth t) ≤ 1024 := by
  rcases laneWidth_cases t with h | h <;> rw [h] <;> omega

/-- What QAMAX finds for each lane. -/
def blockScales (t : Fin 4) (a : VReg) (c : Fin 16) (s : State) (j : Nat) : Nat × Flags :=
  qamaxOne (decodeFmt (laneFmt t) (laneOf (laneWidth t) (readV s a) j)) (superScale (scVal (me s) c))

theorem exec_qamax (e : CReg) (a : VReg) (r t : Fin 4) (c : Fin 16) (p : Tag) (s : State) :
    exec (.qamax e a r t c p) s = operate (.qamax e a r t c p) p s fun s =>
      let N := 2048 / laneWidth t
      let low := 8 * (r.val * N % 128)
      result s ⟨.scale, e⟩ 3
        (BitVec.ofNat 2048 (packLanes 8 ((List.range N).map fun j => (blockScales t a c s j).1) * 2 ^ low + (scVal (me s) c).ss.toNat * 2 ^ 1024))
        (BitVec.ofNat 2048 ((2 ^ (8 * N) - 1) * 2 ^ low + (2 ^ 32 - 1) * 2 ^ 1024)) false
        (allFlags ((List.range N).map fun j => (blockScales t a c s j).2)) := by
  show execQamax e a r t c p s = _
  simp only [execQamax, laneCount_eq, List.map_map]
  rfl

theorem packedWidth_eq : ∀ {f : Fin 8}, f.val ≠ 3 → packedWidth f = match f.val with | 2 => 6 | 5 => 4 | _ => 8 := by decide

theorem packedWidth_pos (f : Fin 8) : 0 < packedWidth f := by revert f; decide

/-- The value that QAMAX sends: a part of the block scales, each in 8 bits, and the super-scale. -/
theorem scaleValue_lanes {l : List Nat} {low : Nat} (room : 8 * (low + l.length) ≤ 1024) (ss : BitVec 32) :
    let v := BitVec.ofNat 2048 (packLanes 8 l * 2 ^ (8 * low) + ss.toNat * 2 ^ 1024)
    (∀ j, j < l.length → laneOf 8 v (low + j) = l[j]?.getD 0 % 2 ^ 8) ∧ bits v 1055 1024 = ss.toNat := by
  have run := run_lt room
  have fits := add_high_lt (N := 2048) (by decide) run ss.isLt
  have inside (j : Nat) (hj : j < l.length) : 8 * (low + j) + 8 ≤ 1024 := by omega
  refine ⟨fun j hj => ?_, ?_⟩
  · rw [laneOf_ofNat (Nat.zero_lt_succ 7) fits, add_high_div_mod (inside j hj), run_div_mod]
  · rw [bits, toNat_ofNat_lt fits, Nat.add_mul_div_right _ _ (Nat.two_pow_pos _), Nat.div_eq_of_lt run,
      Nat.zero_add]
    exact Nat.mod_eq_of_lt ss.isLt

/-- The bits that QAMAX writes: those of its part of the block scales, and the super-scale. -/
theorem scaleMask_getLsbD {low n k : Nat} (room : low + n ≤ 1024) (hk : k < 2048) :
    (BitVec.ofNat 2048 ((2 ^ n - 1) * 2 ^ low + (2 ^ 32 - 1) * 2 ^ 1024)).getLsbD k =
      decide ((low ≤ k ∧ k < low + n) ∨ (1024 ≤ k ∧ k < 1056)) := by
  rw [BitVec.getLsbD_ofNat, add_high_testBit (ones_lt room), ones_testBit, Nat.testBit_two_pow_sub_one, decide_eq_true hk, Bool.true_and]
  split <;> rw [decide_eq_decide] <;> omega

/-- Settles O9: KUNP and KUNPQ are lane-wise results of every lane, QPK and QPKQ write one run of elements (`narrow_gives`), and QAMAX writes
its part of the block scales and the super-scale (`scaleValue_lanes`, `scaleMask_getLsbD`). -/
theorem packedResults : Obligations.PackedResults := by
  intro d a e f r t n u c p _ hf W N width x s8 big narrows
  have w : packedWidth f = width := packedWidth_eq hf
  refine ⟨gives_lanes (fun s => ?_) (fun _ => rfl) (laneWidth_cases t), gives_lanes (fun s => ?_) (fun _ => rfl) (laneWidth_cases t),
    fun fits s h => ?_, fun fits s h => ?_, fun s h => ?_⟩
  · show execKunp d a f r t p s = _
    simp only [execKunp, widen, laneCount_eq, w]
    rfl
  · show execKunpq d a r t c p s = _
    simp only [execKunpq, widen, laneCount_eq]
    rfl
  · exact narrow_gives (fun _ y _ => packVal f (anyLane t y) (n.val == 1) (u.val == 1)) (w ▸ packedWidth_pos f) fits h (by rw [← w]; rfl)
  · exact narrow_gives (fun s y k => q4nEncode (laneVal t y) (blockScale (scVal (me s) c) k) (superScale (scVal (me s) c))) (by omega) fits h rfl
  · have room := part_room r t
    let l := (List.range N).map fun j => (blockScales t a c s j).1
    have length : l.length = N := by simp [l]
    obtain ⟨t', run, sent⟩ := sends_of_result h (exec_qamax e a r t c p s)
    obtain ⟨lanes, top⟩ := scaleValue_lanes (l := l) (low := r.val * N % 128) (by rw [length, Nat.mul_add]; exact room) (scVal (me s) c).ss
    refine ⟨t', _, _, run, sent, fun k hk => ?_, fun j hj => ?_, top⟩
    · rw [scaleMask_getLsbD room hk, Nat.mul_add]
    · exact (lanes j (length ▸ hj)).trans (by simp [l, hj]; rfl)

end Sys2Proof.Machine
end

section
/-! SUPPORT. Reductions (09 R218, 08 R187-R189): pairwise trees and prefix sums over the lanes of a register. -/

namespace Sys2Proof.Machine

/-! ## Pairwise trees and prefix sums over lanes (08 R187, R188) -/

/-- One level of a pairwise tree over a family of values. -/
def pairLevel {α : Type} (f : α → α → α) (y : Nat → α) (j : Nat) : α := f (y (2 * j)) (y (2 * j + 1))

theorem pairUp_range {α : Type} (f : α → α → α) (m : Nat) (y : Nat → α) :
    pairUp f ((List.range (2 * m)).map y) = (List.range m).map (pairLevel f y) := by
  induction m generalizing y with
  | zero => rfl
  | succ m ih =>
    have two : List.range (2 * (m + 1)) = 0 :: 1 :: (List.range (2 * m)).map (· + 2) := by
      rw [Nat.mul_succ, List.range_succ_eq_map, List.range_succ_eq_map, List.map_cons, List.map_map]
      rfl
    rw [two, List.map_cons, List.map_cons, List.map_map, pairUp, ih, List.range_succ_eq_map, List.map_cons, List.map_map]
    rfl

/-- The root of a pairwise tree. -/
theorem tree_range {α : Type} (f : α → α → α) (n : Nat) (y : Nat → α) :
    tree f n ((List.range (2 ^ n)).map y) = [(pairLevel f)^[n] y 0] := by
  induction n generalizing y with
  | zero => rfl
  | succ n ih => rw [tree, Nat.pow_succ', pairUp_range, ih, Function.iterate_succ_apply]

/-- One round of the doubling scheme over a family of values. -/
def scanLevel {α : Type} (f : α → α → α) (d : Nat) (y : Nat → α) (j : Nat) : α := if j < d then y j else f (y (j - d)) (y j)

theorem scanRound_range {α : Type} (f : α → α → α) (d n : Nat) (y : Nat → α) :
    scanRound f d ((List.range n).map y) = (List.range n).map (scanLevel f d y) := by
  rw [scanRound]
  refine List.ext_getElem ?_ fun j h h' => ?_
  · simp only [List.length_append, List.length_take, List.length_zipWith, List.length_drop, List.length_map, List.length_range]
    omega
  · have inside : j < n := by simpa using h'
    by_cases hj : j < d
    · rw [List.getElem_append_left (by simp; omega)]
      simp [scanLevel, hj]
    · have front : min d n = d := by omega
      have back : d + (j - d) = j := by omega
      rw [List.getElem_append_right (by simp; omega)]
      simp [scanLevel, hj, front, back]

/-- The rounds of the doubling scheme. -/
theorem scanRounds_range {α : Type} (f : α → α → α) (n : Nat) (ds : List Nat) (y : Nat → α) :
    ds.foldl (fun l d => scanRound f d l) ((List.range n).map y) = (List.range n).map (ds.foldl (fun y d => scanLevel f d y) y) := by
  induction ds generalizing y with
  | nil => rfl
  | cons d ds ih => rw [List.foldl_cons, scanRound_range, ih, List.foldl_cons]

/-! ## Reductions (09 R218) -/

theorem laneCount_pow (t : Fin 4) : laneCount t = 2 ^ treeDepth t := by
  rw [laneCount_eq, treeDepth]
  rcases laneWidth_cases t with h | h <;> rw [h] <;> rfl

/-- The sum of two FP32 codes, with the flags of both and of the addition. -/
theorem addFp32_eq (y z : Nat × Flags) : addFp32 y z =
    roundTo fp32 ((Val.add (decodeFmt fp32 y.1) (decodeFmt fp32 z.1)).1, y.2 ||| z.2 ||| (Val.add (decodeFmt fp32 y.1) (decodeFmt fp32 z.1)).2) := by
  rw [addFp32, roundTo, roundTo, BitVec.or_assoc (y.2 ||| z.2)]

/-- The greater or the lesser of two lanes, with the flags of both. -/
def pickFlags (t : Fin 4) (greater : Bool) (y z : Nat × Flags) : Nat × Flags :=
  ((lanePick t greater y.1 z.1).1, y.2 ||| z.2 ||| (lanePick t greater y.1 z.1).2)

theorem pickFlags_eq (t : Fin 4) (greater : Bool) (y z : Nat × Flags) : pickFlags t greater y z =
    if t.val = 3 then
      ((if greater then (if decide (signed 32 y.1 < signed 32 z.1) then z.1 else y.1)
        else if decide (signed 32 z.1 < signed 32 y.1) then z.1 else y.1), y.2 ||| z.2)
    else roundTo (laneFmt t)
      (if greater then fmax (decodeFmt (laneFmt t) y.1) (decodeFmt (laneFmt t) z.1) else fmin (decodeFmt (laneFmt t) y.1) (decodeFmt (laneFmt t) z.1),
        y.2 ||| z.2 ||| if (decodeFmt (laneFmt t) y.1).isSnan || (decodeFmt (laneFmt t) z.1).isSnan then flagNV else 0) := by
  rw [pickFlags, lanePick]
  split
  · simp only [decide_eq_true_eq, BitVec.ofNat_eq_ofNat, BitVec.or_zero]
  · simp only [roundTo, ← BitVec.or_assoc]
    rfl

/-- The lanes that enter a reduction. -/
theorem reduceLanes_eq (t : Fin 4) (q : BitVec 128) (x : VWord) (f : Bool → Nat → Nat × Flags) : reduceLanes t q x f =
    (List.range (2 ^ treeDepth t)).map fun j => f (selected (laneWidth t) q j) (laneOf (laneWidth t) x j) := by
  rw [reduceLanes, laneCount_pow]

theorem sumTree_eq (t : Fin 4) (q : BitVec 128) (x : VWord) : sumTree t q x =
    intoLane t ((pairLevel addFp32)^[treeDepth t] (fun j => sumLane t (selected (laneWidth t) q j) (laneOf (laneWidth t) x j)) 0) := by
  rw [sumTree, reduceLanes_eq, tree_range]
  rfl

theorem pickTree_eq (t : Fin 4) (greater : Bool) (q : BitVec 128) (x : VWord) : pickTree t greater q x =
    (pairLevel (pickFlags t greater))^[treeDepth t]
      (fun j => (if selected (laneWidth t) q j then laneOf (laneWidth t) x j else pickIdentity t greater, 0)) 0 := by
  have root := tree_range (pickFlags t greater) (treeDepth t)
    fun j => (if selected (laneWidth t) q j then laneOf (laneWidth t) x j else pickIdentity t greater, (0 : Flags))
  rw [pickTree, reduceLanes_eq]
  exact congrArg (fun l => (List.head? l).getD (0, 0)) root

/-- The prefix sums of the lanes, before they are rounded into the lane's type. -/
def prefixSums (t : Fin 4) (y : Nat → Nat × Flags) : Nat → Nat × Flags :=
  (List.range (treeDepth t)).foldl (fun y k => scanLevel addFp32 (2 ^ k) y) y

theorem scanTree_getElem? {t : Fin 4} {j : Nat} (hj : j < 2048 / laneWidth t) (q : BitVec 128) (x : VWord) :
    (scanTree t q x)[j]?.getD (0, 0) =
      intoLane t (prefixSums t (fun j => sumLane t (selected (laneWidth t) q j) (laneOf (laneWidth t) x j)) j) := by
  rw [← laneCount_eq, laneCount_pow] at hj
  rw [scanTree, reduceLanes_eq, scanRounds_range, List.foldl_map]
  simp [hj, prefixSums]

/-- Lanes past the register's end count for nothing. -/
theorem laneResult_congr {f f' : Nat → Nat × Flags} {w : Nat} (h : ∀ j, j < 2048 / w → f j = f' j) (i : Instr) (d : VReg) (sel : Nat → Bool)
    (s : State) : laneResult i d w sel f s = laneResult i d w sel f' s := by
  have same : ((List.range (2048 / w)).map fun j => if sel j then f j else (0, 0)) =
      (List.range (2048 / w)).map fun j => if sel j then f' j else (0, 0) :=
    List.map_congr_left fun j hj => by rw [h j (List.mem_range.1 hj)]
  simp only [laneResult, same]

/-- Settles O11: a reduction is the root of its tree written to every lane (`sumTree_eq`, `pickTree_eq`), FSCAN a lane-wise result of its
prefix sums (`scanTree_getElem?`). -/
theorem reductionLanes : Obligations.ReductionLanes := by
  intro d a t g p W F levels x sel gives level root single plus narrow prefixes pick enters
  have plus_eq : addFp32 = plus := funext fun y => funext fun z => addFp32_eq y z
  have pick_eq (greater : Bool) : pickFlags t greater = pick greater := funext fun y => funext fun z => pickFlags_eq t greater y z
  refine ⟨gives_lanes (fun s => ?_) (fun _ => rfl) (laneWidth_cases t), gives_lanes (fun s => ?_) (fun _ => rfl) (laneWidth_cases t),
    fun _ => ⟨gives_lanes (fun s => ?_) (fun _ => rfl) (laneWidth_cases t), gives_lanes (fun s => ?_) (fun _ => rfl) (laneWidth_cases t)⟩⟩
  · show execFmaxr d a t g p s = _
    simp only [execFmaxr, spread, pickTree_eq, pick_eq]
    rfl
  · show execFminr d a t g p s = _
    simp only [execFminr, spread, pickTree_eq, pick_eq]
    rfl
  · show execFsum d a t g p s = _
    simp only [execFsum, spread, sumTree_eq, plus_eq]
    rfl
  · show execFscan d a t g p s = _
    rw [execFscan]
    congr 1
    funext s
    refine laneResult_congr (fun j hj => ?_) ..
    rw [scanTree_getElem? hj, prefixSums, plus_eq]
    rfl

end Sys2Proof.Machine
end

section
/-! SUPPORT. Loads and stores of scale registers (09 R211, R216): what an operation leaves that finds a late fault, sends a request or writes
memory, and the outcome of a scale access. -/

namespace Sys2Proof.Machine

/-! ## Late faults, requests and stores of the operation now issuing -/

theorem foundBy_committed (c : Ctx) (b : Bool) : { foundBy c with committed := b } = foundBy { c with committed := b } := by
  unfold foundBy wake
  dsimp only
  split
  · split <;> rfl
  · rfl

theorem committed_foundBy (c : Ctx) : (foundBy c).committed = c.committed := by
  obtain ⟨status, h⟩ := foundBy_eq c
  rw [h]

/-- An operation whose effect is a late fault finds it. -/
theorem findsLate_lateNow {c : Cause} (hc : c ≠ .ue) (i : Instr) (s : State) (x : Word) : FindsLate i s (afterOp i s (lateNow s c x)) c x := by
  have found : lateNow s c x = onCtx s s.cur.key fun y => foundBy { y with late := y.late ++ [faultNow s c x true] } :=
    lateFault_found ⟨rfl, rfl, rfl, rfl, rfl⟩ (fun h => hc h.1) rfl
  rw [FindsLate, if_neg fun h => hc h.1]
  refine ⟨?_, afterOp_onlyContext i s (found ▸ onlyContext_onCtx ..)⟩
  rw [afterOp_ctx, found, ctxAt_onCtx_same, foundBy_committed, committed_foundBy]
  rfl

/-- An operation whose effect is one request more, of no release, leaves as that request. -/
theorem requests_addReq {i : Instr} {s : State} {r : Req} (h : isRelease r.op = false) : Requests i s (afterOp i s (addReq s r)) r := by
  have stays : emptied s r = s := by rw [emptied, h, if_neg Bool.false_ne_true]
  obtain ⟨_, _, _, reqs, jobs, copies, handovers, _⟩ := afterOp_rest i s (addReq s r)
  refine ⟨?_, afterOp_ctx .., afterOp_others i s fun _ _ => rfl, afterOp_memory i s (memoryKept_refl s),
    afterOp_cores i s ⟨fun _ => rfl, fun _ _ => rfl⟩, jobs, copies, handovers,
    afterOp_part i s ⟨rfl, rfl, rfl, rfl, rfl, rfl, rfl, rfl, rfl, rfl, rfl⟩⟩
  rw [stays, reqs]
  rfl

/-- An operation whose effect is a write of memory stores. -/
theorem stores_physWrite {i : Instr} {s : State} (hw : CanonicalMemory s) (pa n v : Nat) : Stores i s (afterOp i s (physWrite s pa n v)) pa n v := by
  obtain ⟨mem, full, bad, _⟩ := afterOp_rest i s (physWrite s pa n v)
  refine ⟨?_, fun a ha => ?_, afterOp_ctx .., full, bad, afterOp_others i s fun _ _ => rfl, afterOp_cores i s ⟨fun _ => rfl, fun _ _ => rfl⟩,
    afterOp_work i s (workKept_refl s), afterOp_part i s ⟨rfl, rfl, rfl, rfl, rfl, rfl, rfl, rfl, rfl, rfl, rfl⟩⟩
  · rw [mem]
    exact readLE_writeLE hw pa n v
  · rw [mem]
    exact readByte_writeLE_out s.mem v ha

/-! ## Accesses of scales (09 R211, R216) -/

/-- The outcome of a scale access. The definition is unfolded before it is applied: to compare its application with its body the kernel would
evaluate `ownOffset` down to the numeral of a window's address. -/
theorem scaleAccess_eq (s : State) (x : Word) (n align : Nat) (w : Bool) : scaleAccess s x n align w =
    (ownOffset s s.cur.key x n).elim (.error (.perm, x)) fun o =>
      (physFate (ownView s w) (slicePhys (s.cur.key / 4) o) x.toNat n align w).elim (.ok (slicePhys (s.cur.key / 4) o)) .error := by
  obtain ⟨f, hf⟩ : ∃ f, f = scaleAccess := ⟨_, rfl⟩
  rw [← hf, ownView]
  delta scaleAccess at hf
  subst hf
  beta_reduce
  generalize ownOffset s s.cur.key x n = q
  cases q with
  | none => rfl
  | some o =>
    simp only [Option.elim_some]
    generalize physFate (if w = true then s else asIssued s) (slicePhys (s.cur.key / 4) o) x.toNat n align w = e
    cases e <;> rfl

/-- What an access of scales does with its outcome: a late fault, or its effect at the physical address. -/
def onAccess (s : State) (effect : Nat → State) : Except (Cause × Word) Nat → State
  | .error (c, x) => lateNow s c x
  | .ok pa => effect pa

/-- Operation `i` is a scale access of `n` bytes at `x`. -/
def AccessesScale (i : Instr) (p : Tag) (x : State → Word) (n align : Nat) (w : Bool) (effect : State → Nat → State) : Prop :=
  ∀ s, Issues i p s → exec i s = .next (afterOp i s (onAccess s (effect s) (scaleAccess s (x s) n align w)))

section
variable {i : Instr} {p : Tag} {x : State → Word} {n align : Nat} {w : Bool} {effect : State → Nat → State}
  (ha : AccessesScale i p x n align w effect) {s : State} (h : Issues i p s)
include ha h

theorem AccessesScale.outside (ho : ownOffset s s.cur.key (x s) n = none) : ∃ t, exec i s = .next t ∧ FindsLate i s t .perm (x s) := by
  refine ⟨_, ha s h, ?_⟩
  rw [scaleAccess_eq, ho]
  exact findsLate_lateNow (by decide) ..

theorem AccessesScale.inside {o : Nat} (ho : ownOffset s s.cur.key (x s) n = some o)
    (hf : physFate (ownView s w) (slicePhys (s.cur.key / 4) o) (x s).toNat n align w = none) :
    exec i s = .next (afterOp i s (effect s (slicePhys (s.cur.key / 4) o))) := by
  rw [ha s h, scaleAccess_eq, ho, Option.elim_some, hf]
  rfl

end

section
variable (d : CReg) (a : SReg) (o : BitVec 11) (p : Tag)

theorem klds_accesses : AccessesScale (.klds d a o p) p (fun s => shortAddr s a 128 o) 128 1 false fun s pa =>
    result s ⟨.scale, d⟩ 4 (BitVec.ofNat 2048 (physRead (asIssued s) pa 128)) (BitVec.ofNat 2048 (2 ^ 1024 - 1)) false 0 := fun s h => by
  show execKlds d a o p s = _
  rw [execKlds, operate_issues h]
  generalize scaleAccess s (shortAddr s a 128 o) 128 1 false = r
  rcases r with ⟨c, y⟩ | pa <;> rfl

theorem kldss_accesses : AccessesScale (.kldss d a o p) p (fun s => shortAddr s a 4 o) 4 4 false fun s pa =>
    result s ⟨.scale, d⟩ 4 (BitVec.ofNat 2048 (physRead (asIssued s) pa 4 * 2 ^ 1024)) (BitVec.ofNat 2048 ((2 ^ 32 - 1) * 2 ^ 1024)) false 0 :=
  fun s h => by
  show execKldss d a o p s = _
  rw [execKldss, operate_issues h]
  generalize scaleAccess s (shortAddr s a 4 o) 4 4 false = r
  rcases r with ⟨c, y⟩ | pa <;> rfl

theorem qsts_accesses : AccessesScale (.qsts d a o p) p (fun s => shortAddr s a 128 o) 128 1 true fun s pa =>
    ownStore (.qsts d a o p) (shortAddr s a 128 o) 128 (scVal (me s) d).bs.toNat (physWrite · pa 128 (scVal (me s) d).bs.toNat) s :=
  fun s h => by
  show execQsts d a o p s = _
  rw [execQsts, operate_issues h]
  generalize scaleAccess s (shortAddr s a 128 o) 128 1 true = r
  rcases r with ⟨c, y⟩ | pa <;> rfl

end

/-- A number below `2 ^ m` in a wide enough pattern. -/
theorem ofNat_low {N m x : Nat} (h : m ≤ N) (hx : x < 2 ^ m) : (BitVec.ofNat N x).toNat % 2 ^ m = x := by
  rw [toNat_ofNat_lt (hx.trans_le (Nat.pow_le_pow_right Nat.two_pos h)), Nat.mod_eq_of_lt hx]

/-- A number that stands from bit `m` on in a wide enough pattern. -/
theorem ofNat_high {N n m x : Nat} (h : n + m ≤ N) (hx : x < 2 ^ n) : (BitVec.ofNat N (x * 2 ^ m)).toNat / 2 ^ m = x := by
  have fits := add_high_lt h (Nat.two_pow_pos m) hx
  rw [Nat.zero_add] at fits
  rw [toNat_ofNat_lt fits, Nat.mul_div_cancel _ (Nat.two_pow_pos m)]

/-- Settles O16: each operation does with its access what `AccessesScale` says, inside its own slice and outside. -/
theorem scaleLoadsAndStores : Obligations.ScaleLoadsAndStores := by
  intro d a o p wide narrow place
  refine ⟨?_, ?_, ?_, ?_, fun s => ⟨(klds_accesses d a o p).outside, (kldss_accesses d a o p).outside, (qsts_accesses d a o p).outside⟩⟩
  · rintro s _ h ⟨q, ho, rfl, hf⟩
    exact ⟨_, _, _, (klds_accesses d a o p).inside h ho hf, sends_result .., ofNat_low (by decide) (readLE_lt _ _ 128), lowOnes_getLsbD (by decide)⟩
  · rintro s _ h ⟨q, ho, rfl, hf⟩
    exact ⟨_, _, _, (kldss_accesses d a o p).inside h ho hf, sends_result .., ofNat_high (n := 32) (by decide) (readLE_lt _ _ 4), ones_getLsbD (by decide)⟩
  · rintro s _ h ⟨q, ho, rfl, hf⟩ late
    have run := (qsts_accesses d a o p).inside h ho hf
    rw [ownStore_request (x := shortAddr s a 128 o) late] at run
    exact ⟨_, _, run, requests_addReq rfl, ⟨rfl, rfl, rfl, rfl, rfl, rfl, rfl, rfl, rfl, rfl, rfl, rfl, rfl, rfl⟩, rfl⟩
  · rintro s _ hm h ⟨q, ho, rfl, hf⟩ late
    refine ⟨_, (qsts_accesses d a o p).inside h ho hf, ?_⟩
    rw [ownStore_write (x := shortAddr s a 128 o) late]
    exact stores_physWrite hm ..

end Sys2Proof.Machine
end

section

/-! SUPPORT. Special functions (09 R217, Table vector-4): a lane's result from its function's outcome, each function at its exact cases,
and the argument in fixed point against the rational number it stands for. -/

namespace Sys2Proof.Machine

/-! ## One lane of a special function (09 R217) -/

/-- A flag among others is there. -/
theorem or_and_absorb (f a : Flags) : (f ||| a) &&& f = f := by
  refine BitVec.eq_of_getLsbD_eq fun i _ => ?_
  rw [BitVec.getLsbD_and, BitVec.getLsbD_or, Bool.and_comm, Bool.and_or_distrib_left, Bool.and_self, Bool.or_eq_left_iff_imp]
  exact fun h => (Bool.and_eq_true_iff.1 h).1

section
variable {f : Val → Fun} {t : Fin 4} {x : Nat} (major : Nat)

/-- An exact result is rounded once into the lane; the 16-bit types raise UF of their own where FP32 alone raises NX. -/
theorem specialLane_exact {r : Val} {fl : Flags} (h : f (decodeFmt (laneFmt t) x) = .exact r fl) :
    ∃ c : Bool, specialLane major f t x =
        ((encodeFmt (laneFmt t) r false false).1, fl ||| (encodeFmt (laneFmt t) r false false).2 ||| flagIf c flagUF) ∧
      (c = true → fl = flagNX ∧ t.val ≠ 0) := by
  rw [specialLane, laneVal, h]
  refine ⟨_, rfl, fun hc => ?_⟩
  rw [Bool.and_eq_true, Bool.and_eq_true] at hc
  obtain ⟨⟨ht, hfl⟩, -⟩ := hc
  exact ⟨eq_of_beq hfl, bne_iff_ne.1 ht⟩

theorem specialLane_exact_plain {r : Val} {fl : Flags} (h : f (decodeFmt (laneFmt t) x) = .exact r fl) (hp : fl = flagNX → t.val = 0) :
    specialLane major f t x = ((encodeFmt (laneFmt t) r false false).1, fl ||| (encodeFmt (laneFmt t) r false false).2) := by
  obtain ⟨c, e, hc⟩ := specialLane_exact major h
  have off : c = false := Bool.eq_false_iff.2 fun on => (hc on).2 (hp (hc on).1)
  rw [e, off]
  exact congrArg _ BitVec.or_zero

/-- Between two FP32 numbers the result is one of the six, and is inexact. -/
theorem specialLane_near {neg : Bool} {m : Nat} {e : Int} (h : f (decodeFmt (laneFmt t) x) = .near neg m e) :
    (specialLane major f t x).2 &&& flagNX = flagNX ∧ ∃ o, o < 6 ∧ (specialLane major f t x).1 =
      (encodeFmt (laneFmt t) (if neg then (decodeFmt fp32 (nearCode m e o)).neg else decodeFmt fp32 (nearCode m e o)) false false).1 := by
  let arg := (encodeFmt fp32 (decodeFmt (laneFmt t) x).abs false false).1
  rw [specialLane, laneVal, h]
  refine ⟨?_, (Config.specialOffset major t.val (BitVec.ofNat 32 arg)).val, Fin.isLt _, rfl⟩
  dsimp only
  rw [BitVec.or_comm _ flagNX, BitVec.or_assoc, BitVec.or_assoc]
  exact or_and_absorb ..

end

/-! ## The rows of Table vector-4 -/

/-- Outcome `u` of a function is that of its row: a value that is rounded into the lane of type `t` with the code and the flags of the
row's. -/
def Follows (t : Fin 4) (u : Fun) (row : Option (Val × Flags)) : Prop :=
  ∀ r fl, row = some (r, fl) → ∃ v fl', u = .exact v fl' ∧ (fl' = flagNX → t.val = 0) ∧
    (encodeFmt (laneFmt t) v false false).1 = (encodeFmt (laneFmt t) r false false).1 ∧
    fl' ||| (encodeFmt (laneFmt t) v false false).2 = fl ||| (encodeFmt (laneFmt t) r false false).2

section
variable {t : Fin 4} {u : Fun}

theorem Follows.none : Follows t u none := fun _ _ h => nomatch h

theorem Follows.value {r : Val} {fl : Flags} (h : u = .exact r fl) (hp : fl = flagNX → t.val = 0) : Follows t u (some (r, fl)) := by
  rintro _ _ ⟨⟩
  exact ⟨r, fl, h, hp, rfl, rfl⟩

/-- A row that raises no NX of its own. -/
theorem Follows.exact {r : Val} {fl : Flags} (h : u = .exact r fl) (hp : fl ≠ flagNX) : Follows t u (some (r, fl)) :=
  .value h fun e => absurd e hp

theorem Follows.ite {c : Prop} [Decidable c] {a b : Option (Val × Flags)} (ha : c → Follows t u a) (hb : ¬c → Follows t u b) :
    Follows t u (if c then a else b) := by
  split
  · next h => exact ha h
  · next h => exact hb h

/-- A NaN gives the canonical NaN, with NV where it signals. -/
theorem Follows.nan {s : Bool} (h : u = .exact (.nan false) (flagIf s flagNV)) : Follows t u (some (.nan false, if s then flagNV else 0)) :=
  .exact h (by cases s <;> decide)

end

/-- A special function on the guarded lanes, for which the exact cases of its row are those of the model. -/
theorem special_gives {i : Instr} {p : Tag} {d : VReg} (a : VReg) {t : Fin 4} {g : Fin 8} (major : Nat) {f : Val → Fun}
    {row : Val → Option (Val × Flags)} (he : ∀ s, exec i s = operate i p s (special i major f d a t g))
    (hl : ∀ s, exposedLat s s.cur.key i = 8) (hrow : ∀ x, Follows t (f (decodeFmt (laneFmt t) x)) (row (decodeFmt (laneFmt t) x))) :
    let W := laneWidth t
    let N := 2048 / W
    let F := laneFmt t
    let sel := fun s : State => selected W (readP s g)
    let code := fun r : Val => (encodeFmt F r false false).1 % 2 ^ W
    ∀ s, Issues i p s →
      ∃ (t' : State) (v : VWord) (h : Nat → Flags), exec i s = .next t' ∧
      Sends i s t' ⟨.vector, d⟩ 8 v (laneMask W N (sel s)) (sourceDf s i)
        (allFlags ((List.range N).map fun j => if sel s j then h j else 0)) ∧
      ∀ j, j < N → sel s j = true →
        let z := decodeFmt F (laneOf W (readV s a) j)
        (∀ r fl, row z = some (r, fl) → laneOf W v j = code r ∧ h j = fl ||| (encodeFmt F r false false).2) ∧
        (∀ r fl, f z = .exact r fl → laneOf W v j = code r ∧ h j &&& fl = fl ∧ (fl ≠ flagNX → h j = fl ||| (encodeFmt F r false false).2)) ∧
        ∀ neg m e, f z = .near neg m e → h j &&& flagNX = flagNX ∧ ∃ o, o < 6 ∧
          let n := decodeFmt fp32 (nearCode m e o)
          laneOf W v j = code (if neg then n.neg else n) := by
  intro W N F sel code s hs
  let y := fun j => specialLane major f t (laneOf W (readV s a) j)
  have shape := lanes1_gives (v := fun s j => specialLane major f t (laneOf W (readV s a) j)) a hl (fun _ => specialLane major f t) he
    fun _ _ => rfl
  obtain ⟨t', v, run, sent, lane⟩ := shape s hs
  refine ⟨t', v, fun j => (y j).2, run, sent, fun j hj hsel => ⟨fun r fl h => ?_, fun r fl h => ?_, fun neg m e h => ?_⟩⟩
  · obtain ⟨r', fl', exact, plain, same, flags⟩ := hrow _ r fl h
    have e : y j = _ := specialLane_exact_plain major exact plain
    exact ⟨(lane j hj hsel).trans (congrArg (· % 2 ^ W) ((congrArg Prod.fst e).trans same)), (congrArg Prod.snd e).trans flags⟩
  · obtain ⟨c, e, -⟩ := specialLane_exact major h
    have absorbed := or_and_absorb fl ((encodeFmt F r false false).2 ||| flagIf c flagUF)
    rw [← BitVec.or_assoc] at absorbed
    exact ⟨(lane j hj hsel).trans (congrArg (·.1 % 2 ^ W) e), (congrArg (·.2 &&& fl) e).trans absorbed,
      fun hp => congrArg Prod.snd (specialLane_exact_plain major h fun e => absurd e hp)⟩
  · obtain ⟨inexact, o, ho, e⟩ := specialLane_near major h
    exact ⟨inexact, o, ho, (lane j hj hsel).trans (congrArg (· % 2 ^ W) e)⟩

/-! ## Reciprocals, roots and logarithms at their exact cases -/

theorem powerOf_power {m : Nat} (hp : m = 2 ^ Nat.log2 m) (e : Int) : powerOf m e = some (Nat.log2 m + e) := if_pos hp

/-- The even exponent that `evenExp` finds. -/
theorem evenExp_even (m : Nat) (e : Int) : (evenExp m e).2 % 2 = 0 := by
  unfold evenExp
  split
  · assumption
  · show (e - 1) % 2 = 0
    omega

theorem powerOf_evenExp {m : Nat} (hm : m ≠ 0) (hp : m = 2 ^ Nat.log2 m) (e : Int) :
    powerOf (evenExp m e).1 (evenExp m e).2 = some (Nat.log2 m + e) := by
  unfold evenExp
  split
  · exact powerOf_power hp e
  · have log : Nat.log2 (2 * m) = Nat.log2 m + 1 := Nat.log2_two_mul hm
    have twice : 2 * m = 2 ^ Nat.log2 (2 * m) := by rw [log, Nat.pow_succ, ← hp, Nat.mul_comm]
    show powerOf (2 * m) (e - 1) = _
    rw [powerOf_power twice, log]
    congr 1
    push_cast
    ring

theorem frcp_zero (b : Bool) (e : Int) : frcp (.fin b 0 e) = .exact (.inf b) flagDZ := rfl

theorem frcp_power {m : Nat} (hm : m ≠ 0) (hp : m = 2 ^ Nat.log2 m) (b : Bool) (e : Int) :
    frcp (.fin b m e) = .exact (.fin b 1 (-(Nat.log2 m + e))) 0 := by
  simp only [frcp, if_neg hm, powerOf_power hp, pow2]

theorem frsq_power {m : Nat} {e : Int} (hm : m ≠ 0) (hp : m = 2 ^ Nat.log2 m) (even : (Nat.log2 m + e) % 2 = 0) :
    frsq (.fin false m e) = .exact (.fin false 1 (-((Nat.log2 m + e) / 2))) 0 := by
  have power := powerOf_evenExp hm hp e
  simp only [frsq, if_neg hm, Bool.false_eq_true, if_false, power, if_pos even, pow2]

theorem frsq_negative {m : Nat} (hm : m ≠ 0) (e : Int) : frsq (.fin true m e) = .exact (.nan false) flagNV := if_neg hm

theorem fsqrt_negative {m : Nat} (hm : m ≠ 0) (e : Int) : fsqrt (.fin true m e) = .exact (.nan false) flagNV := if_neg hm

theorem fsqrt_positive {m : Nat} (hm : m ≠ 0) (e : Int) : fsqrt (.fin false m e) = .exact (sqrtVal m e) 0 := if_neg hm

theorem flog2_negative {m : Nat} (hm : m ≠ 0) (e : Int) : flog2 (.fin true m e) = .exact (.nan false) flagNV := if_neg hm

theorem flog2_power {m : Nat} (hm : m ≠ 0) (hp : m = 2 ^ Nat.log2 m) (e : Int) :
    flog2 (.fin false m e) = .exact (ofInt (Nat.log2 m + e)) 0 := by
  simp only [flog2, if_neg hm, Bool.false_eq_true, if_false, powerOf_power hp]

/-! ## The square root between its neighbours -/

/-- The even exponent leaves the value as it is. -/
theorem evenExp_value (m : Nat) (e : Int) : ((evenExp m e).1 : ℚ) * 2 ^ (evenExp m e).2 = m * (2 : ℚ) ^ e := by
  unfold evenExp
  split
  · rfl
  · show ((2 * m : Nat) : ℚ) * 2 ^ (e - 1) = _
    rw [zpow_sub_one₀ two_ne_zero]
    push_cast
    ring

theorem evenExp_ne_zero {m : Nat} (hm : m ≠ 0) (e : Int) : (evenExp m e).1 ≠ 0 := by
  unfold evenExp
  split
  · exact hm
  · exact Nat.mul_ne_zero two_ne_zero hm

theorem toRat_pos (m : Nat) (e : Int) : (Val.fin false m e).toRat = m * (2 : ℚ) ^ e := by
  simp [Val.toRat]

/-- The square of a root that is kept to 64 bits below the binary point of its even exponent. -/
theorem scaled_sq (q : ℚ) {d : Int} (hd : d % 2 = 0) : (q * (2 : ℚ) ^ (d / 2 - 64)) ^ 2 = q ^ 2 / 2 ^ 128 * 2 ^ d := by
  obtain ⟨h, rfl⟩ : ∃ h, d = 2 * h := ⟨d / 2, by omega⟩
  have half : 2 * h / 2 = h := by omega
  rw [half, mul_pow, ← zpow_natCast ((2 : ℚ) ^ (h - 64)), ← zpow_mul, show (h - 64) * ((2 : Nat) : Int) = 2 * h - 128 by push_cast; ring,
    zpow_sub₀ two_ne_zero]
  have big : (2 : ℚ) ^ (128 : Int) = 2 ^ 128 := zpow_ofNat 2 128
  rw [big]
  ring

theorem fsqrt_brackets {m : Nat} (hm : m ≠ 0) (e : Int) :
    (∃ r, fsqrt (.fin false m e) = .exact r 0 ∧ 0 < r.toRat ∧ r.toRat ^ 2 = (Val.fin false m e).toRat) ∨
      ∃ (q : Nat) (k : Int), 2 ^ 64 ≤ q ∧ fsqrt (.fin false m e) = .exact (.fin false (2 * q + 1) (k - 1)) 0 ∧
        ((q : ℚ) * (2 : ℚ) ^ k) ^ 2 < (Val.fin false m e).toRat ∧ (Val.fin false m e).toRat < (((q : ℚ) + 1) * (2 : ℚ) ^ k) ^ 2 := by
  have even := evenExp_even m e
  have nonzero := evenExp_ne_zero hm e
  rw [fsqrt_positive hm, toRat_pos, ← evenExp_value]
  unfold sqrtVal
  generalize evenExp m e = x at *
  obtain ⟨a, d⟩ := x
  dsimp only at *
  have pos : (0 : ℚ) < 2 ^ d := zpow_pos two_pos d
  have below : Nat.sqrt (a * 2 ^ 128) * Nat.sqrt (a * 2 ^ 128) ≤ a * 2 ^ 128 := Nat.sqrt_le _
  have above : a * 2 ^ 128 < (Nat.sqrt (a * 2 ^ 128) + 1) * (Nat.sqrt (a * 2 ^ 128) + 1) := Nat.lt_succ_sqrt _
  have wide : 2 ^ 64 ≤ Nat.sqrt (a * 2 ^ 128) := Nat.le_sqrt.2 (by
    calc 2 ^ 64 * 2 ^ 64 = 1 * 2 ^ 128 := by norm_num
      _ ≤ a * 2 ^ 128 := Nat.mul_le_mul_right _ (Nat.one_le_iff_ne_zero.2 nonzero))
  generalize Nat.sqrt (a * 2 ^ 128) = q at *
  split
  · next exact =>
    refine .inl ⟨_, rfl, ?_, ?_⟩
    · rw [toRat_pos]
      have : (0 : ℚ) < q := by exact_mod_cast Nat.lt_of_lt_of_le (by norm_num) wide
      positivity
    · rw [toRat_pos, scaled_sq _ even]
      have : (q : ℚ) ^ 2 = a * 2 ^ 128 := by rw [sq]; exact_mod_cast exact
      rw [this]
      field_simp
  · next inexact =>
    refine .inr ⟨q, d / 2 - 64, wide, ?_, ?_, ?_⟩
    · rw [show d / 2 - 64 - 1 = d / 2 - 65 by ring]
    · rw [scaled_sq _ even, mul_lt_mul_iff_left₀ pos, div_lt_iff₀ (by positivity), sq]
      exact_mod_cast lt_of_le_of_ne below inexact
    · rw [scaled_sq _ even, mul_lt_mul_iff_left₀ pos, lt_div_iff₀ (by positivity), sq]
      exact_mod_cast above

/-! ## Arguments in fixed point -/

/-- The magnitude with its sign. -/
theorem toRat_fin (b : Bool) (m : Nat) (e : Int) : (Val.fin b m e).toRat = ((if b then -(m : Int) else m : Int) : ℚ) * (2 : ℚ) ^ e := by
  cases b <;> simp [Val.toRat]

theorem toRat_neg (b : Bool) (m : Nat) (e : Int) :
    (Val.fin b m e).toRat = if b then -(Val.fin false m e).toRat else (Val.fin false m e).toRat := by
  cases b <;> simp [Val.toRat]

/-- A value in units of 2^-256. -/
theorem toRat_mul_one256 (b : Bool) (m : Nat) (e : Int) :
    (Val.fin b m e).toRat * (one256 : ℚ) = ((if b then -(m : Int) else m : Int) : ℚ) * (2 : ℚ) ^ (e + 256) := by
  have unit : (one256 : ℚ) = (2 : ℚ) ^ (256 : Int) := by
    rw [one256, Nat.cast_pow, Nat.cast_ofNat]
    exact (zpow_ofNat 2 256).symm
  rw [toRat_fin, unit, mul_assoc, ← zpow_add₀ two_ne_zero]

/-- The argument in fixed point is rounded down. -/
theorem fixed256_floor (b : Bool) (m : Nat) (e : Int) : fixed256 b m e = ⌊(Val.fin b m e).toRat * (one256 : ℚ)⌋ := by
  rw [toRat_mul_one256, fixed256]
  generalize (if b = true then -(m : Int) else (m : Int)) = y
  split
  · next h =>
    obtain ⟨k, hk⟩ := Int.eq_ofNat_of_zero_le (show 0 ≤ e + 256 by omega)
    have whole : (y : ℚ) * 2 ^ (e + 256) = ((y * 2 ^ k : Int) : ℚ) := by
      rw [hk, zpow_natCast]
      push_cast
      rfl
    rw [whole, Int.floor_intCast, hk, Int.toNat_natCast]
  · next h =>
    obtain ⟨k, hk⟩ := Int.eq_ofNat_of_zero_le (show 0 ≤ -256 - e by omega)
    have part : (y : ℚ) * 2 ^ (e + 256) = (y : ℚ) / ((2 ^ k : Nat) : ℚ) := by
      rw [show e + 256 = -(k : Int) by omega, zpow_neg, zpow_natCast, div_eq_mul_inv]
      push_cast
      rfl
    rw [part, Rat.floor_intCast_div_natCast, hk, Int.toNat_natCast]
    push_cast
    rfl

theorem one256_pos : 0 < one256 := Nat.two_pow_pos 256

/-- A multiple of the unit is reached in fixed point where it is reached. -/
theorem le_fixed256 {b : Bool} {m : Nat} {e k : Int} : k * one256 ≤ fixed256 b m e ↔ (k : ℚ) ≤ (Val.fin b m e).toRat := by
  have pos : (0 : ℚ) < one256 := by exact_mod_cast one256_pos
  rw [fixed256_floor, Int.le_floor]
  push_cast
  exact mul_le_mul_iff_left₀ pos

theorem fixed256_le {b : Bool} {m : Nat} {e k : Int} (h : (Val.fin b m e).toRat ≤ k) : fixed256 b m e ≤ k * one256 := by
  have pos : (0 : ℚ) < one256 := by exact_mod_cast one256_pos
  have scaled : (Val.fin b m e).toRat * (one256 : ℚ) ≤ ((k * one256 : Int) : ℚ) := by
    push_cast
    exact mul_le_mul_of_nonneg_right h pos.le
  rw [fixed256_floor]
  exact_mod_cast (Int.floor_le _).trans scaled

/-- A whole multiple of a part of the unit is exact in fixed point. -/
theorem fixed256_exact {b : Bool} {m : Nat} {e k : Int} {u : Nat} (hr : (Val.fin b m e).toRat * (one256 : ℚ) = ((k * u : Int) : ℚ)) :
    fixed256 b m e = k * u := by
  rw [fixed256_floor, hr, Int.floor_intCast]

/-! ## FEXP2 -/

theorem fexp2_zero (b : Bool) (e : Int) : fexp2 (.fin b 0 e) = .exact (.fin false 1 0) 0 := rfl

theorem fexp2_high {b : Bool} {m : Nat} {e : Int} (h : 128 ≤ (Val.fin b m e).toRat) :
    fexp2 (.fin b m e) = .exact (.fin false 1 2000) 0 := by
  have nonzero : m ≠ 0 := by
    rintro rfl
    norm_num [toRat_fin] at h
  have reached : 128 * (one256 : Int) ≤ fixed256 b m e := le_fixed256.2 (by exact_mod_cast h)
  simp only [fexp2, if_neg nonzero, if_pos reached, pow2]

theorem fexp2_low {b : Bool} {m : Nat} {e : Int} (h : (Val.fin b m e).toRat ≤ -150) :
    fexp2 (.fin b m e) = .exact (.fin false 1 (-2000)) 0 := by
  have nonzero : m ≠ 0 := by
    rintro rfl
    norm_num [toRat_fin] at h
  have under : ¬128 * (one256 : Int) ≤ fixed256 b m e := fun h' => by
    have := le_fixed256.1 h'
    push_cast at this
    linarith
  have reached : fixed256 b m e ≤ -150 * one256 := fixed256_le (by exact_mod_cast h)
  simp only [fexp2, if_neg nonzero, if_neg under, if_pos reached, pow2]

/-- An integer's magnitude is a multiple of the power that its exponent divides by. -/
theorem dvd_of_integer {b : Bool} {m : Nat} {e k : Int} (h : (Val.fin b m e).toRat = k) (he : e < 0) : m % 2 ^ (-e).toNat = 0 := by
  obtain ⟨n, hn⟩ := Int.eq_ofNat_of_zero_le (show 0 ≤ -e by omega)
  rw [toRat_fin, show e = -(n : Int) by omega, zpow_neg, zpow_natCast, ← div_eq_mul_inv, div_eq_iff (by positivity)] at h
  have whole : (if b then -(m : Int) else m) = k * 2 ^ n := by exact_mod_cast h
  have divides : (2 ^ n : Int) ∣ m := by
    cases b
    · exact ⟨k, by simpa [mul_comm] using whole⟩
    · exact ⟨-k, by simp only [if_true] at whole; linarith⟩
  rw [hn, Int.toNat_natCast]
  exact Nat.mod_eq_zero_of_dvd (by exact_mod_cast divides)

theorem fexp2_integer {b : Bool} {m : Nat} {e k : Int} (h : (Val.fin b m e).toRat = k) (high : k < 128) (low : -150 < k) :
    fexp2 (.fin b m e) = .exact (.fin false 1 k) 0 := by
  by_cases hm : m = 0
  · subst hm
    have zero : k = 0 := by
      have : (k : ℚ) = 0 := by rw [← h]; simp [Val.toRat]
      exact_mod_cast this
    rw [fexp2_zero, zero]
  have exact : fixed256 b m e = k * one256 := fixed256_exact (by rw [h]; push_cast; rfl)
  have pos : (0 : Int) < one256 := by exact_mod_cast one256_pos
  have under : ¬128 * (one256 : Int) ≤ k * one256 := fun h' => absurd (le_of_mul_le_mul_right h' pos) (by omega)
  have above : ¬k * (one256 : Int) ≤ -150 * one256 := fun h' => absurd (le_of_mul_le_mul_right h' pos) (by omega)
  have whole : 0 ≤ e ∨ m % 2 ^ (-e).toNat = 0 := (lt_or_ge e 0).symm.imp_right (dvd_of_integer h)
  simp only [fexp2, if_neg hm, exact, if_neg under, if_neg above, if_pos whole, pow2, Int.mul_ediv_cancel _ pos.ne']

/-! ## FSIN and FCOS -/

/-- Quarters of a turn. -/
theorem turnOf_quarters {m n : Nat} {e : Int} (h : 4 * (Val.fin false m e).toRat = n) : turnOf m e = n % 4 * quarter := by
  have turn : one256 = 4 * quarter := by decide
  have exact : fixed256 false m e = (n : Int) * quarter := fixed256_exact (by rw [turn]; push_cast; linear_combination (quarter : ℚ) * h)
  have wraps : ((n : Int) * quarter) % ((4 * quarter : Nat) : Int) = ((n % 4 * quarter : Nat) : Int) := by
    rw [← Nat.mul_mod_mul_right]
    push_cast
    rfl
  rw [turnOf, exact, turn, wraps, Int.toNat_natCast]

section
variable {b : Bool} {m : Nat} {e k : Int}

/-- The sign of a number of quarters is the argument's, and their number that of its magnitude. -/
theorem quarters_sign (h : 4 * (Val.fin b m e).toRat = k) :
    k = (if b then -(k.natAbs : Int) else k.natAbs) ∧ 4 * (Val.fin false m e).toRat = k.natAbs := by
  have nonneg : 0 ≤ (Val.fin false m e).toRat := by
    rw [toRat_pos]
    positivity
  rw [toRat_neg] at h
  cases b
  · have sign : 0 ≤ k := by
      have : (0 : ℚ) ≤ k := by rw [← h]; simpa using nonneg
      exact_mod_cast this
    have same : (k.natAbs : Int) = k := Int.natAbs_of_nonneg sign
    refine ⟨same.symm, h.trans ?_⟩
    rw [← Int.cast_natCast, same]
  · have sign : k ≤ 0 := by
      have : (k : ℚ) ≤ 0 := by rw [← h]; simpa using nonneg
      exact_mod_cast this
    have opposite : (k.natAbs : Int) = -k := Int.ofNat_natAbs_of_nonpos sign
    refine ⟨by rw [if_pos rfl, opposite, neg_neg], ?_⟩
    rw [← Int.cast_natCast (k.natAbs), opposite, Int.cast_neg, ← h, if_pos rfl]
    ring

theorem fsin_half (hm : m ≠ 0) (h : 4 * (Val.fin b m e).toRat = k) (even : k % 2 = 0) :
    fsin (.fin b m e) = .exact (.fin false 0 0) 0 := by
  have turn := turnOf_quarters (quarters_sign h).2
  have cases4 : k.natAbs % 4 = 0 ∨ k.natAbs % 4 = 2 := by omega
  have flat : turnOf m e = 0 ∨ turnOf m e = 2 * quarter := by
    rw [turn]
    exact cases4.imp (fun r => by rw [r, Nat.zero_mul]) fun r => by rw [r]
  simp only [fsin, if_neg hm, if_pos flat]

theorem fsin_first (hm : m ≠ 0) (h : turnOf m e = quarter) : fsin (.fin b m e) = .exact (.fin b 1 0) 0 := by
  have rising : ¬(quarter = 0 ∨ quarter = 2 * quarter) := by decide
  simp only [fsin, if_neg hm, h, if_neg rising, if_true, pow2]

theorem fsin_third (hm : m ≠ 0) (h : turnOf m e = 3 * quarter) : fsin (.fin b m e) = .exact (.fin (!b) 1 0) 0 := by
  have falling : ¬(3 * quarter = 0 ∨ 3 * quarter = 2 * quarter) := by decide
  have past : ¬3 * quarter = quarter := by decide
  simp only [fsin, if_neg hm, h, if_neg falling, if_neg past, if_true, pow2]

theorem fsin_peak (hm : m ≠ 0) (h : 4 * (Val.fin b m e).toRat = k) (odd : k % 2 = 1) :
    fsin (.fin b m e) = .exact (.fin (decide (k % 4 ≠ 1)) 1 0) 0 := by
  obtain ⟨sign, magnitude⟩ := quarters_sign h
  have turn := turnOf_quarters magnitude
  obtain first | third : k.natAbs % 4 = 1 ∨ k.natAbs % 4 = 3 := by omega
  · have same : decide (k % 4 ≠ 1) = b := by
      cases b
      · exact decide_eq_false (by rw [if_neg Bool.false_ne_true] at sign; omega)
      · exact decide_eq_true (by rw [if_pos rfl] at sign; omega)
    rw [same]
    exact fsin_first hm (by rw [turn, first, Nat.one_mul])
  · have opposite : decide (k % 4 ≠ 1) = !b := by
      cases b
      · exact decide_eq_true (by rw [if_neg Bool.false_ne_true] at sign; omega)
      · exact decide_eq_false (by rw [if_pos rfl] at sign; omega)
    rw [opposite]
    exact fsin_third hm (by rw [turn, third])

theorem fcos_whole (h : 4 * (Val.fin b m e).toRat = k) (whole : k % 4 = 0) : fcos (.fin b m e) = .exact (.fin false 1 0) 0 := by
  have turn := turnOf_quarters (quarters_sign h).2
  rw [show k.natAbs % 4 = 0 by omega, Nat.zero_mul] at turn
  simp only [fcos, turn, if_true, pow2]

theorem fcos_half (h : 4 * (Val.fin b m e).toRat = k) (half : k % 4 = 2) : fcos (.fin b m e) = .exact (.fin true 1 0) 0 := by
  have turn := turnOf_quarters (quarters_sign h).2
  rw [show k.natAbs % 4 = 2 by omega] at turn
  have start : ¬2 * quarter = 0 := by decide
  have level : ¬(2 * quarter = quarter ∨ 2 * quarter = 3 * quarter) := by decide
  simp only [fcos, turn, if_neg start, if_neg level, if_true, pow2]

theorem fcos_level (h : 4 * (Val.fin b m e).toRat = k) (odd : k % 2 = 1) : fcos (.fin b m e) = .exact (.fin false 0 0) 0 := by
  have turn := turnOf_quarters (quarters_sign h).2
  have cases4 : k.natAbs % 4 = 1 ∨ k.natAbs % 4 = 3 := by omega
  have level : turnOf m e = quarter ∨ turnOf m e = 3 * quarter := by
    rw [turn]
    exact cases4.imp (fun r => by rw [r, Nat.one_mul]) fun r => by rw [r]
  have start : ¬turnOf m e = 0 := by
    rcases level with r | r <;> rw [r] <;> decide
  simp only [fcos, if_neg start, if_pos level]

/-- A rational number whose multiple is an integer. -/
theorem integer_of_den {r : ℚ} (h : r.den = 1) : ∃ k : Int, r = k := ⟨r.num, ((Rat.den_eq_one_iff r).1 h).symm⟩

section
variable {r : ℚ} {k : Int}

theorem den_eq_one_iff_of_quarters (h : 4 * r = k) : r.den = 1 ↔ k % 4 = 0 := by
  rw [show r = (k : ℚ) / ((4 : Int) : ℚ) by push_cast; linear_combination h / 4, Rat.den_div_intCast_eq_one_iff k 4 (by decide)]
  exact Int.dvd_iff_emod_eq_zero

theorem den_two_mul_eq_one_iff_of_quarters (h : 4 * r = k) : (2 * r).den = 1 ↔ k % 2 = 0 := by
  rw [show 2 * r = (k : ℚ) / ((2 : Int) : ℚ) by push_cast; linear_combination h / 2, Rat.den_div_intCast_eq_one_iff k 2 (by decide)]
  exact Int.dvd_iff_emod_eq_zero

end

end

/-! ## FTANH in FP32 -/

/-- No FP32 number is finer than 2^-149. -/
theorem decodeFmt_fp32_exponent {x m : Nat} {b : Bool} {e : Int} (h : decodeFmt fp32 x = .fin b m e) : -149 ≤ e := by
  unfold decodeFmt at h
  dsimp only at h
  split at h
  · split at h <;> cases h
  · split at h
    · cases h
    · split at h
      · cases h
        decide
      · next hz =>
        cases h
        simp only [fp32] at hz ⊢
        omega

/-- An FP32 magnitude is exact in fixed point. -/
theorem fixed256_magnitude {m : Nat} {e : Int} (he : -149 ≤ e) :
    ((fixed256 false m e).toNat : ℚ) = (Val.fin false m e).toRat * (one256 : ℚ) := by
  obtain ⟨k, hk⟩ := Int.eq_ofNat_of_zero_le (show 0 ≤ e + 256 by omega)
  have whole : (Val.fin false m e).toRat * (one256 : ℚ) = ((m * 2 ^ k : Nat) : ℚ) := by
    rw [toRat_mul_one256, hk, zpow_natCast]
    push_cast
    rfl
  rw [fixed256_floor, whole, Int.floor_natCast, Int.toNat_natCast]

section
variable {b : Bool} {m : Nat} {e : Int}

theorem ftanh_limit (he : -149 ≤ e) (h : 91 / 10 ≤ (Val.fin false m e).toRat) : ftanh (.fin b m e) = .exact (.fin b 1 0) flagNX := by
  have nonzero : m ≠ 0 := by
    rintro rfl
    norm_num [toRat_pos] at h
  have pos : (0 : ℚ) < one256 := by exact_mod_cast one256_pos
  have reached : 91 * one256 ≤ 10 * (fixed256 false m e).toNat := by
    have : (91 : ℚ) * one256 ≤ 10 * ((fixed256 false m e).toNat : ℚ) := by
      rw [fixed256_magnitude he]
      calc (91 : ℚ) * one256 = 10 * (91 / 10 * one256) := by ring
        _ ≤ 10 * ((Val.fin false m e).toRat * one256) := by gcongr
    exact_mod_cast this
  simp only [ftanh, if_neg nonzero, if_pos reached, pow2]

theorem ftanh_small (he : -149 ≤ e) (hm : m ≠ 0) (h : (Val.fin false m e).toRat ≤ 1 / 2 ^ 13) :
    ftanh (.fin b m e) = .exact (.fin b m e) flagNX := by
  have pos : (0 : ℚ) < one256 := by exact_mod_cast one256_pos
  have part : (one256 : ℚ) = 2 ^ 13 * 2 ^ 243 := by norm_num
  have under : ¬91 * one256 ≤ 10 * (fixed256 false m e).toNat := fun h' => by
    have : (91 : ℚ) * one256 ≤ 10 * ((fixed256 false m e).toNat : ℚ) := by exact_mod_cast h'
    rw [fixed256_magnitude he, ← mul_assoc] at this
    linarith [le_of_mul_le_mul_right this pos]
  have reached : (fixed256 false m e).toNat ≤ 2 ^ 243 := by
    have : ((fixed256 false m e).toNat : ℚ) ≤ 2 ^ 243 := by
      rw [fixed256_magnitude he, part]
      calc _ ≤ 1 / 2 ^ 13 * ((2 : ℚ) ^ 13 * 2 ^ 243) := mul_le_mul_of_nonneg_right h (by positivity)
        _ = 2 ^ 243 := by norm_num
    exact_mod_cast this
  simp only [ftanh, if_neg hm, if_neg under, if_pos reached]

end

/-! ## The rows' finite arguments -/

/-- 2^2000 overflows every lane type, and 2^-2000 underflows it. -/
theorem encodeFmt_beyond : ∀ t : Fin 4,
    encodeFmt (laneFmt t) (.fin false 1 2000) false false = ((encodeFmt (laneFmt t) (.inf false) false false).1, flagOF ||| flagNX) ∧
    (encodeFmt (laneFmt t) (.inf false) false false).2 = 0 ∧
    encodeFmt (laneFmt t) (.fin false 1 (-2000)) false false = ((encodeFmt (laneFmt t) (.fin false 0 0) false false).1, flagUF ||| flagNX) ∧
    (encodeFmt (laneFmt t) (.fin false 0 0) false false).2 = 0 := by
  decide +kernel

section
variable {t : Fin 4} {u : Fun}

theorem Follows.overflow (h : u = .exact (.fin false 1 2000) 0) : Follows t u (some (.inf false, flagOF ||| flagNX)) := by
  rintro _ _ ⟨⟩
  obtain ⟨high, inf, -⟩ := encodeFmt_beyond t
  refine ⟨_, _, h, fun e => absurd e (by decide), by rw [high], ?_⟩
  rw [high, inf]
  exact BitVec.zero_or.trans BitVec.or_zero.symm

theorem Follows.underflow (h : u = .exact (.fin false 1 (-2000)) 0) : Follows t u (some (.fin false 0 0, flagUF ||| flagNX)) := by
  rintro _ _ ⟨⟩
  obtain ⟨-, -, low, zero⟩ := encodeFmt_beyond t
  refine ⟨_, _, h, fun e => absurd e (by decide), by rw [low], ?_⟩
  rw [low, zero]
  exact BitVec.zero_or.trans BitVec.or_zero.symm

variable (b : Bool) (m : Nat) (e : Int)

theorem frcp_follows : Follows t (frcp (.fin b m e)) (if m = 0 then some (.inf b, flagDZ)
    else if decide (m = 2 ^ Nat.log2 m) then some (.fin b 1 (-(Nat.log2 m + e)), 0) else none) :=
  .ite (fun hm => .exact (by rw [hm]; rfl) (by decide)) fun hm =>
    .ite (fun hp => .exact (frcp_power hm (of_decide_eq_true hp) b e) (by decide)) fun _ => .none

theorem frsq_follows : Follows t (frsq (.fin b m e)) (if m = 0 then some (.inf b, flagDZ) else if b then some (.nan false, flagNV)
    else if decide (m = 2 ^ Nat.log2 m) && (Nat.log2 m + e) % 2 == 0 then some (.fin false 1 (-((Nat.log2 m + e) / 2)), 0) else none) := by
  refine .ite (fun hm => .exact (by rw [hm]; rfl) (by decide)) fun hm => .ite (fun hb => ?_) fun hb => .ite (fun hp => ?_) fun _ => .none
  · exact hb ▸ .exact (frsq_negative hm e) (by decide)
  · obtain ⟨hpow, heven⟩ := Bool.and_eq_true_iff.1 hp
    obtain rfl := Bool.eq_false_iff.2 hb
    exact .exact (frsq_power hm (of_decide_eq_true hpow) (eq_of_beq heven)) (by decide)

theorem fsqrt_follows :
    Follows t (fsqrt (.fin b m e)) (if m = 0 then some (.fin b 0 0, 0) else if b then some (.nan false, flagNV) else none) :=
  .ite (fun hm => .exact (by rw [hm]; rfl) (by decide)) fun hm =>
    .ite (fun hb => hb ▸ .exact (fsqrt_negative hm e) (by decide)) fun _ => .none

theorem flog2_follows : Follows t (flog2 (.fin b m e)) (if m = 0 then some (.inf true, flagDZ) else if b then some (.nan false, flagNV)
    else if decide (m = 2 ^ Nat.log2 m) then some (ofInt (Nat.log2 m + e), 0) else none) := by
  refine .ite (fun hm => .exact (by rw [hm]; rfl) (by decide)) fun hm => .ite (fun hb => ?_) fun hb => .ite (fun hp => ?_) fun _ => .none
  · exact hb ▸ .exact (flog2_negative hm e) (by decide)
  · obtain rfl := Bool.eq_false_iff.2 hb
    exact .exact (flog2_power hm (of_decide_eq_true hp) e) (by decide)

theorem fexp2_follows : Follows t (fexp2 (.fin b m e)) (if 128 ≤ (Val.fin b m e).toRat then some (.inf false, flagOF ||| flagNX)
    else if (Val.fin b m e).toRat ≤ -150 then some (.fin false 0 0, flagUF ||| flagNX)
    else if (Val.fin b m e).toRat.den = 1 then some (.fin false 1 (Val.fin b m e).toRat.num, 0) else none) := by
  refine .ite (fun h => .overflow (fexp2_high h)) fun below => .ite (fun h => .underflow (fexp2_low h)) fun above =>
    .ite (fun h => ?_) fun _ => .none
  have whole : (Val.fin b m e).toRat = (Val.fin b m e).toRat.num := ((Rat.den_eq_one_iff _).1 h).symm
  rw [whole] at below above
  exact .exact (fexp2_integer whole (by exact_mod_cast not_le.1 below) (by exact_mod_cast not_le.1 above)) (by decide)

theorem fsin_follows : Follows t (fsin (.fin b m e)) (if m = 0 then some (.fin b 0 0, 0)
    else if (2 * (Val.fin b m e).toRat).den = 1 then some (.fin false 0 0, 0)
    else if (4 * (Val.fin b m e).toRat).den = 1 then some (.fin (decide (((Val.fin b m e).toRat - 1 / 4).den ≠ 1)) 1 0, 0) else none) := by
  refine .ite (fun hm => .exact (by rw [hm]; rfl) (by decide)) fun hm => .ite (fun h => ?_) fun half => .ite (fun h => ?_) fun _ => .none
  · obtain ⟨j, hj⟩ := integer_of_den h
    exact .exact (fsin_half (k := 2 * j) hm (by push_cast; linear_combination 2 * hj) (by omega)) (by decide)
  · obtain ⟨k, hk⟩ := integer_of_den h
    have odd : k % 2 = 1 := Int.emod_two_ne_zero.1 (mt (den_two_mul_eq_one_iff_of_quarters hk).2 half)
    have first : ((Val.fin b m e).toRat - 1 / 4).den = 1 ↔ k % 4 = 1 := by
      rw [den_eq_one_iff_of_quarters (k := k - 1) (by push_cast; linear_combination hk)]
      omega
    simp only [ne_eq, first]
    exact .exact (fsin_peak hm hk odd) (by decide)

theorem fcos_follows : Follows t (fcos (.fin b m e)) (if (Val.fin b m e).toRat.den = 1 then some (.fin false 1 0, 0)
    else if (2 * (Val.fin b m e).toRat).den = 1 then some (.fin true 1 0, 0)
    else if (4 * (Val.fin b m e).toRat).den = 1 then some (.fin false 0 0, 0) else none) := by
  refine .ite (fun h => ?_) fun whole => .ite (fun h => ?_) fun half => .ite (fun h => ?_) fun _ => .none
  · obtain ⟨j, hj⟩ := integer_of_den h
    exact .exact (fcos_whole (k := 4 * j) (by push_cast; linear_combination 4 * hj) (by omega)) (by decide)
  · obtain ⟨j, hj⟩ := integer_of_den h
    have quarters : 4 * (Val.fin b m e).toRat = (2 * j : Int) := by push_cast; linear_combination 2 * hj
    rw [den_eq_one_iff_of_quarters quarters] at whole
    exact .exact (fcos_half quarters (by omega)) (by decide)
  · obtain ⟨k, hk⟩ := integer_of_den h
    have odd : k % 2 = 1 := Int.emod_two_ne_zero.1 (mt (den_two_mul_eq_one_iff_of_quarters hk).2 half)
    exact .exact (fcos_level hk odd) (by decide)

/-- The limits of FTANH are of FP32 alone, whose exponents fixed point reaches. -/
theorem ftanh_follows (fine : t.val = 0 → -149 ≤ e) : Follows t (ftanh (.fin b m e)) (if m = 0 then some (.fin b 0 0, 0)
    else if t.val ≠ 0 then none else if 91 / 10 ≤ (Val.fin false m e).toRat then some (.fin b 1 0, flagNX)
    else if (Val.fin false m e).toRat ≤ 1 / 2 ^ 13 then some (.fin b m e, flagNX) else none) := by
  refine .ite (fun hm => .exact (by rw [hm]; rfl) (by decide)) fun hm => .ite (fun _ => .none) fun ht => ?_
  have single : t.val = 0 := not_not.1 ht
  exact .ite (fun high => .value (ftanh_limit (fine single) high) fun _ => single) fun _ =>
    .ite (fun low => .value (ftanh_small (fine single) hm low) fun _ => single) fun _ => .none

end

/-- Settles O10: a lane outside the rows is the model's bracketing (`special_gives`); each row's exact cases are those of its function. -/
theorem specialFunctionLanes : Obligations.SpecialFunctionLanes := by
  intro d a t g p _ W N F sel code gives invalid zero one quiet power rat
  have shape {i : Instr} (major : Nat) {f : Val → Fun} {row : Val → Option (Val × Flags)}
      (he : ∀ s, exec i s = operate i p s (special i major f d a t g)) (hl : ∀ s, exposedLat s s.cur.key i = 8)
      (hrow : ∀ x, Follows t (f (decodeFmt (laneFmt t) x)) (row (decodeFmt (laneFmt t) x))) : gives i f row :=
    special_gives a major he hl hrow
  clear_value gives -- the rows are then unified as they are written
  refine ⟨?_, ?_, ?_, fun _ _ hm => fsqrt_brackets hm _, ?_, ?_, ?_, ?_, ?_⟩
  · refine shape 1 (fun _ => rfl) (fun _ => rfl) fun x => ?_
    cases decodeFmt (laneFmt t) x with
    | nan s => exact .nan rfl
    | inf b => exact .exact rfl (by decide)
    | fin b m e => exact frcp_follows b m e
  · refine shape 2 (fun _ => rfl) (fun _ => rfl) fun x => ?_
    cases decodeFmt (laneFmt t) x with
    | nan s => exact .nan rfl
    | inf b => cases b <;> exact .exact rfl (by decide)
    | fin b m e => exact frsq_follows b m e
  · refine shape 3 (fun _ => rfl) (fun _ => rfl) fun x => ?_
    cases decodeFmt (laneFmt t) x with
    | nan s => exact .nan rfl
    | inf b => cases b <;> exact .exact rfl (by decide)
    | fin b m e => exact fsqrt_follows b m e
  · refine shape 4 (fun _ => rfl) (fun _ => rfl) fun x => ?_
    cases decodeFmt (laneFmt t) x with
    | nan s => exact .nan rfl
    | inf b => cases b <;> exact .exact rfl (by decide)
    | fin b m e => exact fexp2_follows b m e
  · refine shape 5 (fun _ => rfl) (fun _ => rfl) fun x => ?_
    cases decodeFmt (laneFmt t) x with
    | nan s => exact .nan rfl
    | inf b => cases b <;> exact .exact rfl (by decide)
    | fin b m e => exact flog2_follows b m e
  · refine shape 6 (fun _ => rfl) (fun _ => rfl) fun x => ?_
    cases decodeFmt (laneFmt t) x with
    | nan s => exact .nan rfl
    | inf b => exact .exact rfl (by decide)
    | fin b m e => exact fsin_follows b m e
  · refine shape 7 (fun _ => rfl) (fun _ => rfl) fun x => ?_
    cases decodeFmt (laneFmt t) x with
    | nan s => exact .nan rfl
    | inf b => exact .exact rfl (by decide)
    | fin b m e => exact fcos_follows b m e
  · refine shape 8 (fun _ => rfl) (fun _ => rfl) fun x => ?_
    cases h : decodeFmt (laneFmt t) x with
    | nan s => exact .nan rfl
    | inf b => exact .exact rfl (by decide)
    | fin b m e =>
      exact ftanh_follows b m e fun single => decodeFmt_fp32_exponent (x := x) (by rw [← h, Fin.ext (b := 0) single]; rfl)

end Sys2Proof.Machine

end

section
/-! SUPPORT. What leaves memory as it is: one lemma for each operation of the model that writes no byte, in the order of the model. -/

namespace Sys2Proof.Machine

theorem foldl_mem {α : Type} {op : State → α → State} (h : ∀ s a, (op s a).mem = s.mem) (l : List α) (s : State) :
    (l.foldl op s).mem = s.mem :=
  List.foldlRecOn l op (motive := fun t => t.mem = s.mem) rfl fun t ht a _ => (h t a).trans ht

@[simp] theorem mem_ite (c : Prop) [Decidable c] (a b : State) : (if c then a else b).mem = if c then a.mem else b.mem :=
  apply_ite State.mem c a b

/-! ## Accesses of the own slice (10 R226)

Each definition is unfolded before it is applied: to compare its application with its body the kernel would evaluate `ownOffset` down to
the numeral of a window's address. -/

section
variable (i : Instr) (x : Word) (s : State)

theorem loadS_eq (d : SReg) (n : Nat) : loadS i d x n s = (ownOffset s s.cur.key x n).elim (send s (newReq s i x)) fun o =>
    ownLoad s x o n (fun s v => resultS s d 4 (loadedScalar i v) false) lateNow := by
  obtain ⟨f, hf⟩ : ∃ f, f = loadS := ⟨_, rfl⟩
  rw [← hf]
  delta loadS at hf
  subst hf
  beta_reduce
  cases ownOffset s s.cur.key x n <;> rfl

theorem loadV_eq (d : VReg) : loadV i d x s = (ownOffset s s.cur.key x 256).elim (send s (newReq s i x)) fun o =>
    ownLoad s x o 256 (fun s v => resultV s d 4 (BitVec.ofNat 2048 v) (BitVec.allOnes 2048) false 0) lateNow := by
  obtain ⟨f, hf⟩ : ∃ f, f = loadV := ⟨_, rfl⟩
  rw [← hf]
  delta loadV at hf
  subst hf
  beta_reduce
  cases ownOffset s s.cur.key x 256 <;> rfl

theorem store_eq (n v : Nat) : store i x n v s = (ownOffset s s.cur.key x n).elim
    (addReq s (gathered s { newReq s i x with vec1 := BitVec.ofNat 2048 v, status := .gathered })) fun o =>
      (physFate s (slicePhys (s.cur.key / 4) o) x.toNat n n true).elim
        (ownStore i x n v (physWrite · (slicePhys (s.cur.key / 4) o) n v) s) fun e => lateNow s e.1 e.2 := by
  obtain ⟨f, hf⟩ : ∃ f, f = store := ⟨_, rfl⟩
  rw [← hf]
  delta store at hf
  subst hf
  beta_reduce
  generalize ownOffset s s.cur.key x n = q
  cases q with
  | none => rfl
  | some o =>
    simp only [Option.elim_some]
    cases physFate s (slicePhys (s.cur.key / 4) o) x.toNat n n true <;> rfl

theorem feLoad_eq : feLoad i x s = (ownOffset s s.cur.key x (feBytes i)).elim
    (addReq s { newReq s i x with status := if mayEnter s (newReq s i x) then .sent else .walking }) fun _ =>
      feArrive (addReq s { newReq s i x with status := .sent }) { newReq s i x with status := .sent } := by
  obtain ⟨f, hf⟩ : ∃ f, f = feLoad := ⟨_, rfl⟩
  rw [← hf]
  delta feLoad at hf
  subst hf
  beta_reduce
  cases ownOffset s s.cur.key x (feBytes i) <;> rfl

theorem feStore_eq (n v : Nat) : feStore i x n v s = (ownOffset s s.cur.key x n).elim
    (addReq s { newReq s i x with vec1 := BitVec.ofNat 2048 v, status := .gathered }) fun o =>
      (physFate s (slicePhys (s.cur.key / 4) o) x.toNat n n true).elim
        (ownStore i x n v (fun s => serveHeld (engineWrite s (slicePhys (s.cur.key / 4) o) n v)) s) fun e => lateNow s e.1 e.2 := by
  obtain ⟨f, hf⟩ : ∃ f, f = feStore := ⟨_, rfl⟩
  rw [← hf]
  delta feStore at hf
  subst hf
  beta_reduce
  generalize ownOffset s s.cur.key x n = q
  cases q with
  | none => rfl
  | some o =>
    simp only [Option.elim_some]
    cases physFate s (slicePhys (s.cur.key / 4) o) x.toNat n n true <;> rfl

end
section
variable (s : State)

/-! ## Storage, cores and jobs -/

@[simp] theorem takeClock_mem (n : Nat) : (takeClock s n).mem = s.mem := rfl
@[simp] theorem logCtx_mem (kind k : Nat) (a b : Word) : (logCtx s kind k a b).mem = s.mem := rfl

@[simp] theorem placeFlit_mem (f : Flit) : (placeFlit s f).mem = s.mem := by
  unfold placeFlit
  split <;> simp

@[simp] theorem launchFlit_mem (part : Nat) (b : FlitBody) : (launchFlit s part b).mem = s.mem := by simp [launchFlit]
@[simp] theorem wakeStack_mem (stack : Nat) : (wakeStack s stack).mem = s.mem := rfl
@[simp] theorem ungate_mem (n : Nat) : (ungate s n).mem = s.mem := rfl
@[simp] theorem wakeSlice_mem (n : Nat) : (wakeSlice s n).mem = s.mem := (wakeSlice_kept s n).2.1
@[simp] theorem cached_mem (write : Bool) (l : List Nat) : (cached s write l).mem = s.mem := (cached_kept s write l).2.1
@[simp] theorem setCounterAt_mem (now n c v : Nat) : (setCounterAt s now n c v).mem = s.mem := by simp [setCounterAt]
@[simp] theorem setCounter_mem (n c v : Nat) : (setCounter s n c v).mem = s.mem := by simp [setCounter]
@[simp] theorem decrement_mem (n c amount : Nat) : (decrement s n c amount).mem = s.mem := by simp [decrement]

@[simp] theorem offer_mem (j : Job) (core n : Nat) : (offer s j core n).mem = s.mem := by
  induction n generalizing s with
  | zero => rfl
  | succ n ih =>
    rw [offer]
    dsimp only
    split
    · rfl
    · split
      · rfl
      · exact ih _

@[simp] theorem offerCore_mem (n : Nat) : (offerCore s n).mem = s.mem := by
  unfold offerCore
  split <;> simp

@[simp] theorem loadColumn_mem (die col : Nat) : (loadColumn s die col).mem = s.mem := rfl
@[simp] theorem retireCore_mem (n : Nat) : (retireCore s n).mem = s.mem := by simp [retireCore]
@[simp] theorem retireMarked_mem : (retireMarked s).mem = s.mem := by simp [retireMarked, foldl_mem]
@[simp] theorem logProof_mem (n k : Nat) (seed : Word) : (logProof s n k seed).mem = s.mem := rfl
@[simp] theorem logProofs_mem (n : Nat) : (logProofs s n).mem = s.mem := foldl_mem (fun _ _ => by split <;> rfl) _ s

@[simp] theorem abortCommands_mem (j : Job) : (abortCommands s j).mem = s.mem := by
  unfold abortCommands
  dsimp only
  split
  · rw [complete_mem]
    refine (foldl_mem (fun _ _ => ?_) _ _).trans (foldl_mem (fun _ _ => by simp) _ s)
    split <;> simp
  · refine (foldl_mem (fun _ _ => ?_) _ _).trans (foldl_mem (fun _ _ => by simp) _ s)
    split <;> simp

@[simp] theorem endPackets_mem (j : Job) : (endPackets s j).mem = s.mem := rfl
@[simp] theorem logRefused_mem (job : Nat) (l : Launch) : (logRefused job s l).mem = s.mem := rfl

/-! ## Results -/

@[simp] theorem result_mem (dest : Item) (lat : Nat) (value mask : VWord) (df : Bool) (flags : BitVec 6) :
    (result s dest lat value mask df flags).mem = s.mem :=
  rfl

@[simp] theorem resultS_mem (d lat : Nat) (v : Word) (df : Bool) : (resultS s d lat v df).mem = s.mem := by simp [resultS]
@[simp] theorem resultP_mem (d lat : Nat) (v : BitVec 128) : (resultP s d lat v).mem = s.mem := by simp [resultP]
@[simp] theorem resultV_mem (d lat : Nat) (v mask : VWord) (df : Bool) (flags : BitVec 6) : (resultV s d lat v mask df flags).mem = s.mem := rfl

/-! ## Caches, routes and pending work -/

@[simp] theorem cacheRoute_mem (core job vpage die : Nat) : (cacheRoute s core job vpage die).mem = s.mem := rfl
@[simp] theorem markPage_mem (core job vpage die : Nat) : (markPage s core job vpage die).mem = s.mem := rfl
@[simp] theorem markRoute_mem (r : Req) : (markRoute s r).mem = s.mem := foldl_mem (fun t _ => markPage_mem t ..) _ s
@[simp] theorem touchRoutes_mem (j : Job) (n : Nat) (l : List Nat) : (touchRoutes s j n l).mem = s.mem := (touchRoutes_kept s j n l).2.1
@[simp] theorem sendPrefetch_mem (x : Prefetch) : (sendPrefetch s x).mem = s.mem := (sendPrefetch_kept s x).2.1
@[simp] theorem prefetchesReached_mem : (prefetchesReached s).mem = s.mem := (prefetchesReached_kept s).2.1
@[simp] theorem flushGathered_mem (covers : Nat → Bool) : (flushGathered s covers).mem = s.mem := rfl

@[simp] theorem serveOne_mem (r : Req) : (serveOne s r).mem = s.mem := by
  unfold serveOne
  dsimp only
  repeat' split
  all_goals simp

@[simp] theorem serveHeld_mem : (serveHeld s).mem = s.mem := by simp [serveHeld, foldl_mem]
@[simp] theorem streamTouch_mem (j : Job) (n : Nat) (st : Stream) (pos : Nat) : (streamTouch s j n st pos).mem = s.mem := by simp [streamTouch]

@[simp] theorem poisonTouch_mem (j : Job) (n : Nat) (st : Stream) (pos : Nat) (e : Cause × Word) :
    (poisonTouch s j n st pos e).mem = s.mem := by simp [poisonTouch]

@[simp] theorem settleFlights_mem (k : Nat) : (settleFlights s k).mem = s.mem := rfl
@[simp] theorem withdraw_mem (k : Nat) : (withdraw s k).mem = s.mem := rfl
@[simp] theorem reissue_mem (k : Nat) : (reissue s k).mem = s.mem := by simp [reissue]
@[simp] theorem leaveStage_mem (k : Nat) : (leaveStage s k).mem = s.mem := rfl
@[simp] theorem stopCtx_mem (k : Nat) : (stopCtx s k).mem = s.mem := by simp [stopCtx]
@[simp] theorem stopReady_mem (j : Job) : (stopReady s j).mem = s.mem := by simp [stopReady, foldl_mem]
@[simp] theorem finishTask_mem (k : Nat) (entry : Task → Task) : (finishTask s k entry).mem = s.mem := rfl

@[simp] theorem noteTimers_mem : (noteTimers s).mem = s.mem := by
  unfold noteTimers
  split
  · exact foldl_mem (fun t k => onCtx_mem t k _) _ s
  · rfl

@[simp] theorem dropLoad_mem (f : FaultRec) : (dropLoad s f).mem = s.mem := by
  unfold dropLoad
  split <;> simp

@[simp] theorem returnFromTrap_mem (k : Nat) : (returnFromTrap s k).mem = s.mem := rfl

/-! ## Issue -/

@[simp] theorem waiting_mem (k : Nat) : (waiting s k).mem = s.mem := by simp [waiting]
@[simp] theorem afterOp_mem (i : Instr) (t : State) : (afterOp i s t).mem = t.mem := (afterOp_rest i s t).1

@[simp] theorem fetchTouch_mem (n : Nat) (a : Word) (len : Nat) : (fetchTouch s n a len).mem = s.mem := by
  unfold fetchTouch
  repeat' split
  all_goals simp

@[simp] theorem cacheBundle_mem (n : Nat) (a : Word) (len : Nat) : (cacheBundle s n a len).mem = s.mem := by simp [cacheBundle]
@[simp] theorem retire_mem (stop : Bool) (written : List Item) : (retire s stop written).mem = s.mem := by simp [retire]

/-! ## Service calls and waits -/

@[simp] theorem giveUpStage_mem (k : Nat) : (giveUpStage s k).mem = s.mem := rfl
@[simp] theorem serviceCall_mem (k : Nat) (code : BitVec 12) : (serviceCall s k code).mem = s.mem := rfl
@[simp] theorem svcEnter_mem (code : BitVec 12) : (svcEnter s code).mem = s.mem := by simp [svcEnter]

@[simp] theorem waitOver_mem (k : Nat) : (waitOver s k).mem = s.mem := by
  unfold waitOver
  dsimp only
  split <;> simp

/-! ## Branches -/

@[simp] theorem branch_mem (hit : Bool) (target : Word) (link : Bool) : (branch s hit target link).mem = s.mem := by simp [branch]
@[simp] theorem emptyCycle_mem (k : Nat) : (emptyCycle s k).mem = s.mem := by simp [emptyCycle]

/-! ## Requests -/

@[simp] theorem addReq_mem (r : Req) : (addReq s r).mem = s.mem := rfl
@[simp] theorem emptied_mem (r : Req) : (emptied s r).mem = s.mem := by simp [emptied]
@[simp] theorem send_mem (r : Req) : (send s r).mem = s.mem := by simp [send]
@[simp] theorem sendUnit_mem (r : Req) : (sendUnit s r).mem = s.mem := by simp [sendUnit]

@[simp] theorem specLoadS_mem (i : Instr) (d a : SReg) (x : Word) : (specLoadS i d a x s).mem = s.mem :=
  specLoadS_cases (P := fun t => t.mem = s.mem) (fun _ _ => by simp) (by simp)

@[simp] theorem specLoadV_mem (i : Instr) (d : VReg) (a : SReg) (x : Word) : (specLoadV i d a x s).mem = s.mem :=
  specLoadV_cases (P := fun t => t.mem = s.mem) (fun _ _ => by simp) (by simp)

@[simp] theorem feArrive_mem (r : Req) : (feArrive s r).mem = s.mem := by
  unfold feArrive
  split <;> simp

@[simp] theorem feLoad_mem (i : Instr) (x : Word) : (feLoad i x s).mem = s.mem := by
  rw [feLoad_eq]
  cases ownOffset s s.cur.key x (feBytes i) <;> simp

@[simp] theorem prefetch_mem (a : SReg) (x : Word) : (prefetch s a x).mem = s.mem := by
  unfold prefetch
  split <;> simp

/-! ## Racks and barriers -/

@[simp] theorem answerReq_mem (r : Req) (v : VWord) : (answerReq s r v).mem = s.mem := rfl
@[simp] theorem refuseReq_mem (r : Req) (c : Cause) (a : Word) : (refuseReq s r c a).mem = s.mem := rfl

@[simp] theorem rackPerform_mem (r : Req) : (rackPerform s r).mem = s.mem := by
  unfold rackPerform
  dsimp only
  repeat' split
  all_goals simp

@[simp] theorem setBarriers_mem (k : Nat) (bs : List Barrier) : (setBarriers s k bs).mem = s.mem := by
  unfold setBarriers
  split <;> simp

@[simp] theorem tookBarriers_mem (k : Nat) (x : Barriers) : (tookBarriers s k x).mem = s.mem :=
  (foldl_mem (fun t _ => logCtx_mem t ..) _ _).trans (setBarriers_mem s k x.1)

/-! ## Walks and landings -/

@[simp] theorem toService_mem (k : Nat) (x : ServiceCause) : (toService s k x).mem = s.mem := rfl

@[simp] theorem walkPage_mem (j : Job) (core : Nat) (vpage : Nat) : (walkPage j core s vpage).mem = s.mem := by
  unfold walkPage
  split <;> simp

@[simp] theorem routed_mem (j : Job) (r : Req) : (routed s j r).mem = s.mem := by simp [routed, foldl_mem]

@[simp] theorem walkRefused_mem (j : Job) (r : Req) : (walkRefused s j r).mem = s.mem := by
  unfold walkRefused
  split <;> simp

@[simp] theorem setGhost_mem (r : Req) : (setGhost s r).mem = s.mem := rfl
@[simp] theorem dropGhost_mem (id : Nat) : (dropGhost s id).mem = s.mem := rfl

@[simp] theorem wrote_mem (r : Req) : (wrote s r).mem = s.mem := by
  obtain ⟨reqs, h⟩ := wrote_eq s r
  rw [h]

@[simp] theorem wakeTarget_mem (r : Req) : (wakeTarget s r).mem = s.mem := by
  unfold wakeTarget
  split <;> simp

@[simp] theorem landVec_mem (k id d : Nat) (v mask : VWord) (df : Bool) : (landVec s k id d v mask df).mem = s.mem := onCtx_mem ..
@[simp] theorem ghostReads_mem (j : Job) (r : Req) : (ghostReads s j r).mem = s.mem := by simp [ghostReads, foldl_mem]

@[simp] theorem ghostLand_mem (r : Req) : (ghostLand s r).mem = s.mem := by
  unfold ghostLand
  split <;> simp

/-! ## The issue stage -/

@[simp] theorem giveStage_mem (n : Nat) (c : Fin 4) : (giveStage s n c).mem = s.mem := by
  unfold giveStage
  dsimp only
  repeat' split
  all_goals simp

@[simp] theorem bundleComes_mem (j : Job) (k : Nat) : (bundleComes s j k).mem = s.mem := by
  unfold bundleComes
  split <;> simp

/-! ## Copies and streams -/

@[simp] theorem addCopy_mem (c : Copy) : (addCopy s c).mem = s.mem := rfl

@[simp] theorem elementTouch_mem (c : Copy) (dst : Bool) (k : Nat) : (elementTouch s c dst k).mem = s.mem := by
  unfold elementTouch
  split <;> simp

@[simp] theorem sendPieces_mem (part off id k : Nat) (data : List Byte) : (sendPieces s part off id k data).mem = s.mem := by
  simp [sendPieces, foldl_mem]

@[simp] theorem askPeer_mem (c : Copy) (k : Nat) : (askPeer s c k).mem = s.mem := by simp [askPeer]

@[simp] theorem reportBytes_mem (k b n : Nat) : (reportBytes s k b n).mem = s.mem := by
  unfold reportBytes
  split <;> simp

@[simp] theorem endTarget_mem (k cmd : Nat) (rack : Option (Nat × Nat)) (ok : Bool) : (endTarget s k cmd rack ok).mem = s.mem := by
  unfold endTarget
  split <;> simp

@[simp] theorem commitTask_mem (k : Nat) (ended : Bool) : (commitTask s k ended).mem = s.mem := by simp [commitTask]
@[simp] theorem unbindNow_mem (n : Nat) : (unbindNow s n).mem = s.mem := by simp [unbindNow]
@[simp] theorem streamService_mem (k n : Nat) (st : Stream) : (streamService s k n st).mem = s.mem := by simp [streamService]

/-! ## Vector results -/

@[simp] theorem laneResult_mem (i : Instr) (d : VReg) (w : Nat) (sel : Nat → Bool) (f : Nat → Nat × Flags) :
    (laneResult i d w sel f s).mem = s.mem := rfl

@[simp] theorem guarded_mem (i : Instr) (d : VReg) (t : Fin 4) (g : Fin 8) (f : Nat → Nat × Flags) : (guarded i d t g f s).mem = s.mem := rfl

@[simp] theorem lanes2_mem (i : Instr) (d a b : VReg) (t : Fin 4) (g : Fin 8) (f : Nat → Nat → Nat × Flags) :
    (lanes2 i d a b t g f s).mem = s.mem := rfl

@[simp] theorem lanes3_mem (i : Instr) (d a b : VReg) (t : Fin 4) (g : Fin 8) (f : Nat → Nat → Nat → Nat × Flags) :
    (lanes3 i d a b t g f s).mem = s.mem :=
  rfl

@[simp] theorem lanes1_mem (i : Instr) (d a : VReg) (t : Fin 4) (g : Fin 8) (f : Nat → Nat × Flags) : (lanes1 i d a t g f s).mem = s.mem := rfl

/-! ## Pack results -/

@[simp] theorem widen_mem (i : Instr) (d : VReg) (part t : Fin 4) (f : Nat → Nat × Flags) : (widen i d part t f s).mem = s.mem := rfl

@[simp] theorem narrow_mem (i : Instr) (d : VReg) (w : Nat) (part t : Fin 4) (f : Nat → Nat → Nat × Flags) (a : VReg) :
    (narrow i d w part t f a s).mem = s.mem :=
  rfl

/-! ## Matrix commands -/

@[simp] theorem setCmd_mem (n : Nat) (m : MatrixCmd) : (setCmd s n m).mem = s.mem := rfl
@[simp] theorem dropCmd_mem (n id : Nat) : (dropCmd s n id).mem = s.mem := rfl

@[simp] theorem enqueue_mem (op : Instr) (t : Fin 16) (layout : Vector Word 8) (a b : Word) (ss : BitVec 32) (banks : BitVec 32) (rack : Option
    (Nat × Nat)) (counter : Option Nat) :
    (enqueue s op t layout a b ss banks rack counter).mem = s.mem :=
  rfl

@[simp] theorem matrixTouch_mem (j : Job) (n : Nat) (write : Bool) (rows : List (Nat × Nat)) : (matrixTouch s j n write rows).mem = s.mem := by
  simp [matrixTouch]

@[simp] theorem rowsTouch_mem (j : Job) (n : Nat) (m : MatrixCmd) (e : Cause × Word) : (rowsTouch s j n m e).mem = s.mem := by simp [rowsTouch]

/-! ## Tasks -/

@[simp] theorem launchAt_mem (j : Job) (core : Nat) (t : Task) (req : Option Nat) : (launchAt s j core t req).mem = s.mem := by simp [launchAt]
@[simp] theorem asendLeaves_mem (r : Req) (sender : Nat) : (asendLeaves s r sender).mem = s.mem := by simp [asendLeaves, foldl_mem]

@[simp] theorem remoteArrive_mem (m : RemoteSend) : (remoteArrive s m).mem = s.mem := by
  unfold remoteArrive
  dsimp only
  repeat' split
  all_goals simp

/-! ## Groups -/

@[simp] theorem setGroup_mem (job id : Nat) (g : Group) : (setGroup s job id g).mem = s.mem := by
  unfold setGroup
  split <;> simp

@[simp] theorem sendUpdate_mem (job id core : Nat) (d : Int) : (sendUpdate s job id core d).mem = s.mem := rfl
@[simp] theorem setMessage_mem (m : Message) : (setMessage s m).mem = s.mem := rfl
@[simp] theorem dropMessage_mem (id : Nat) : (dropMessage s id).mem = s.mem := rfl
@[simp] theorem answerSender_mem (id : Nat) (ok : Bool) (a : Word) : (answerSender s id ok a).mem = s.mem := rfl

/-! ## Hand-overs -/

@[simp] theorem noteReached_mem : (noteReached s).mem = s.mem := rfl
@[simp] theorem queueHandover_mem (stack job die : Nat) (src : HandoverSource) : (queueHandover s stack job die src).mem = s.mem := rfl
@[simp] theorem setHandover_mem (old new : Handover) : (setHandover s old new).mem = s.mem := rfl
@[simp] theorem dropHandovers_mem (old : Handover) : (dropHandovers s old).mem = s.mem := rfl

@[simp] theorem peelDone_mem (src : HandoverSource) : (peelDone s src).mem = s.mem := by
  unfold peelDone
  split <;> simp

/-! ## Traps and the service context -/

@[simp] theorem yieldStage_mem (n : Nat) : (yieldStage s n).mem = s.mem := by
  unfold yieldStage
  split <;> simp

@[simp] theorem makeResident_mem (j : Job) (l : List Nat) : (makeResident s j l).mem = s.mem := rfl
@[simp] theorem serviced_mem (k : Nat) : (serviced s k).mem = s.mem := by simp [serviced]

@[simp] theorem resumeCount_mem (n : Nat) : (resumeCount s n).mem = s.mem := by
  unfold resumeCount
  split <;> simp

@[simp] theorem setS1_mem (k : Nat) (v : Word) : (setS1 s k v).mem = s.mem := rfl
@[simp] theorem undefinedSvc_mem (k : Nat) (code : BitVec 12) : (undefinedSvc s k code).mem = s.mem := rfl

@[simp] theorem svcEffect_mem (j : Job) (k : Nat) (code : BitVec 12) : (svcEffect s j k code).mem = s.mem := by
  unfold svcEffect
  split <;> simp

@[simp] theorem walkOutcome_mem (j : Job) (r : Req) : (walkOutcome s j r).mem = s.mem := by simp [walkOutcome]

@[simp] theorem operandOutcome_mem (n id : Nat) : (operandOutcome s n id).mem = s.mem := by
  unfold operandOutcome
  repeat' split
  all_goals rfl

/-! ## Links -/

@[simp] theorem postWrite_mem (r off : Nat) (data : List (Option Byte)) (ro : Bool) (reply : Option (Nat × Nat × Nat × Nat)) :
    (postWrite s r off data ro reply).mem = s.mem :=
  rfl

@[simp] theorem messageFlit_mem (part : BitVec 12) (last : Bool) (l : Vector Word 4) : (messageFlit s part last l).mem = s.mem := by
  unfold messageFlit
  split <;> simp

@[simp] theorem pieceAcked_mem (x : Copy) (k i : Nat) : (pieceAcked s x k i).mem = s.mem := by simp [pieceAcked]

@[simp] theorem deliverFlit_mem (f : Flit) : (deliverFlit s f).mem = s.mem := by
  unfold deliverFlit
  dsimp only
  repeat' split
  all_goals simp

@[simp] theorem deliverInOrder_mem (src : BitVec 12) (n : Nat) : (deliverInOrder s src n).mem = s.mem := by
  induction n generalizing s with
  | zero => rfl
  | succ n ih =>
    rw [deliverInOrder]
    split <;> simp [ih]

@[simp] theorem orderedFlit_mem (f : Flit) : (orderedFlit s f).mem = s.mem := by simp [orderedFlit]
@[simp] theorem bulkFlit_mem (f : Flit) : (bulkFlit s f).mem = s.mem := by simp [bulkFlit]
@[simp] theorem receiveFlit_mem (f : Flit) : (receiveFlit s f).mem = s.mem := by simp [receiveFlit]

/-! ## The inbound window -/

@[simp] theorem setPacket_mem (p : Packet) : (setPacket s p).mem = s.mem := rfl
@[simp] theorem dropPacket_mem (id : Nat) : (dropPacket s id).mem = s.mem := rfl

@[simp] theorem packetDone_mem (p : Packet) : (packetDone s p).mem = s.mem := by
  unfold packetDone
  split <;> simp

@[simp] theorem readTouch_mem (x n : Nat) : (readTouch s x n).mem = s.mem := by simp [readTouch]

@[simp] theorem answerPart_mem (part c k : Nat) (d : Option (List Byte)) : (answerPart s part c k d).mem = s.mem := by
  cases d with
  | none => exact launchFlit_mem ..
  | some l => exact foldl_mem (fun t _ => launchFlit_mem t ..) _ s

@[simp] theorem logRead_mem (x n : Nat) : (logRead s x n).mem = s.mem := by
  unfold logRead
  split <;> simp

/-! ## The loader -/

@[simp] theorem wakeFor_mem (n : Nat) : (wakeFor s n).mem = s.mem := rfl
@[simp] theorem setOwner_mem (x : Nat × Bool) : (setOwner s x).mem = s.mem := rfl

/-! ## The host -/

@[simp] theorem setQueue_mem (q : Nat) (x : Queue) : (setQueue s q x).mem = s.mem := rfl
@[simp] theorem popRing_mem (q : Nat) : (popRing s q).mem = s.mem := rfl
@[simp] theorem returnUnused_mem (p : Pending) : (returnUnused s p).mem = s.mem := rfl
@[simp] theorem takeBad_mem (q : Nat) (c : Chain) : (takeBad s q c).mem = s.mem := by simp [takeBad]

@[simp] theorem takeBads_mem (q n : Nat) : (takeBads s q n).mem = s.mem := by
  induction n generalizing s with
  | zero => rfl
  | succ n ih => unfold takeBads; split <;> simp [ih]

@[simp] theorem consumed_mem (c : Chain) : (consumed s c).mem = s.mem := by simp [consumed]

@[simp] theorem takeSlot_mem (q : Nat) : (takeSlot s q).mem = s.mem := by
  unfold takeSlot
  dsimp only
  repeat' split
  all_goals simp

@[simp] theorem hostDecrement_mem (j : Job) (core c : Nat) : (hostDecrement s j core c).mem = s.mem := by simp [hostDecrement]
@[simp] theorem answerQuery_mem (p : Pending) (job : Nat) (l : List Byte) : (answerQuery s p job l).mem = s.mem := rfl

@[simp] theorem queryOf_mem (p : Pending) (f : Job → List Byte) : (queryOf p s f).mem = s.mem := by
  unfold queryOf
  dsimp only
  repeat' split
  all_goals simp

/-! ## Pre-emption -/

@[simp] theorem noteStops_mem : (noteStops s).mem = s.mem := by simp [noteStops, foldl_mem]
@[simp] theorem noteDirty_mem (t : State) : (noteDirty s t).mem = t.mem := foldl_mem (fun u n => onCore_mem u n _) _ t

@[simp] theorem sendRoom_mem (j : Job) : (sendRoom s j).mem = s.mem := by
  refine foldl_mem (fun u i => ?_) _ s
  split
  · exact foldl_mem (fun _ _ => by simp) _ u
  · rfl

@[simp] theorem reissueEnding_mem (k : Nat) : (reissueEnding s k).mem = s.mem := by simp [reissueEnding]

/-! ## Errors -/

@[simp] theorem markCore_mem (n : Nat) : (markCore s n).mem = s.mem := by simp [markCore]
@[simp] theorem logCorrected_mem (core : Option Nat) (array : Nat) : (logCorrected s core array).mem = s.mem := by simp [logCorrected]

@[simp] theorem correctedError_mem (core : Option Nat) (array : Nat) : (correctedError s core array).mem = s.mem := by
  unfold correctedError
  split <;> simp

@[simp] theorem uncorrectable_mem (n : Nat) : (uncorrectable s n).mem = s.mem := by simp [uncorrectable]
@[simp] theorem fetchAgain_mem (n a : Nat) : (fetchAgain s n a).mem = s.mem := rfl

@[simp] theorem loseCounts_mem (j : Job) (group : Nat) (n : Node) : (loseCounts s j group n).mem = s.mem := by
  unfold loseCounts
  split <;> simp

@[simp] theorem unwatch_mem (l : List PowerUnit) : (unwatch s l).mem = s.mem := rfl

/-! ## Special functions and reductions -/

@[simp] theorem special_mem (i : Instr) (major : Nat) (f : Val → Fun) (d a : VReg) (t : Fin 4) (g : Fin 8) :
    (special i major f d a t g s).mem = s.mem :=
  rfl

@[simp] theorem spread_mem (i : Instr) (d : VReg) (t : Fin 4) (r : Nat × Flags) : (spread i d t r s).mem = s.mem := rfl

/-! ## The schedule -/

@[simp] theorem begun_mem (k len : Nat) (ex : List Op) : (begun s k len ex).mem = s.mem := rfl
@[simp] theorem heldBundle_mem (k : Nat) : (heldBundle s k).mem = s.mem := by simp [heldBundle]

end

end Sys2Proof.Machine
end

section
/-! SUPPORT. Memory in its canonical form (log entry 4): one lemma for each operation of the model that writes memory, or may. -/

namespace Sys2Proof.Machine

/-! ## Memory written byte by byte -/

theorem wfMemory_foldl_writeByte {α : Type} {m : List Host.Cell} (hw : wfMemory m = true) (place : α → Nat) (byte : α → Byte) (l : List α) :
    wfMemory (l.foldl (fun m x => writeByte m (place x) (byte x)) m) = true :=
  List.foldlRecOn l _ (motive := fun m => wfMemory m = true) hw fun _ hm _ _ => wfMemory_writeByte hm _ _

theorem wfMemory_applyPatches {m : List Host.Cell} (hw : wfMemory m = true) (base : Nat) (l : List Patch) :
    wfMemory (applyPatches m base l) = true :=
  List.foldlRecOn l _ (motive := fun m => wfMemory m = true) hw fun _ hm _ _ => wfMemory_writeLE hm _ _ _

@[simp] theorem wfMemory_ite (c : Prop) [Decidable c] (m m' : List Host.Cell) :
    wfMemory (if c then m else m') = if c then wfMemory m else wfMemory m' :=
  apply_ite wfMemory c m m'

/-- Operations that keep the canonical form, one after another. -/
theorem wfMemory_foldl' {α : Type} {op : State → α → State} (h : ∀ s a t, t = op s a → wfMemory s.mem = true → wfMemory t.mem = true)
    (l : List α) {s : State} (hs : wfMemory s.mem = true) : wfMemory (l.foldl op s).mem = true :=
  List.foldlRecOn l op (motive := fun t => wfMemory t.mem = true) hs fun t ht a _ => h t a _ rfl ht

theorem wfMemory_foldl {α : Type} {op : State → α → State} (h : ∀ s a, wfMemory s.mem = true → wfMemory (op s a).mem = true) (l : List α)
    {s : State} (hs : wfMemory s.mem = true) : wfMemory (l.foldl op s).mem = true :=
  List.foldlRecOn l op (motive := fun t => wfMemory t.mem = true) hs fun t ht a _ => h t a ht

/-! ## Definitions restated by their cases -/

theorem messageAck_cases (s : State) (id : Nat) : ∃ t : State, t.mem = s.mem ∧
    (messageAck s id = t ∨ messageAck s id = dropReq t id ∨
      ∃ k f, messageAck s id = orphanFault (dropReq t id) k f ∨ messageAck s id = lateFault (dropReq t id) k f) := by
  unfold messageAck
  dsimp only
  generalize Option.any _ _ = bound
  generalize ht : (if bound = true then answerSender (dropMessage s id) id true 0 else s) = t
  refine ⟨t, by rw [← ht]; split <;> simp, ?_⟩
  split
  · exact .inl rfl
  · split
    · split
      · exact .inl rfl
      · split
        · exact .inr (.inl rfl)
        · split
          · exact .inr (.inr ⟨_, _, .inl rfl⟩)
          · exact .inr (.inr ⟨_, _, .inr rfl⟩)
    · exact .inl rfl

theorem refill_eq (s : State) (j : Job) (g : Group) : refill s j g =
    bif parkWaits s j || decide (64 ≤ g.fifo.length) then (s, g)
    else ((g.area.take (64 - g.fifo.length)).foldl (fun s m => cached s false (slotBytes j m.slot)) s,
      { g with fifo := g.fifo ++ g.area.take (64 - g.fifo.length), area := g.area.drop (64 - g.fifo.length) }) := by
  obtain ⟨f, hf⟩ : ∃ f, f = refill := ⟨_, rfl⟩
  rw [← hf]
  delta refill at hf
  subst hf
  beta_reduce
  cases (parkWaits s j || decide (64 ≤ g.fifo.length)) <;> rfl

theorem parkMessage_eq (s : State) (j : Job) (g : Group) (m : Message) : ∃ m' : Nat → Message, parkMessage s j g m =
    if m.released then setGroup (dropMessage s m.id) m.job m.group { g with fifo := g.fifo.map fun x => if x.id = m.id then m' m.slot else x }
    else if g.fifo.length < 64 ∧ g.area.isEmpty then
      answerSender (setGroup (dropMessage s m.id) m.job m.group { g with fifo := g.fifo ++ [m' m.slot] }) m.id true 0
    else if parkWaits s j then setMessage s { m with place := g.root, returned := none }
    else (freeParkSlot j).elim (answerSender (dropMessage s m.id) m.id false (BitVec.ofNat 64 m.group)) fun i =>
      answerSender (parkWrite (setGroup (dropMessage s m.id) m.job m.group { g with area := g.area ++ [m' i] }) j (m' i)) m.id true 0 := by
  refine ⟨fun i => { m with parked := true, released := false, returned := none, bounces := 0, place := g.root, slot := i }, ?_⟩
  obtain ⟨f, hf⟩ : ∃ f, f = parkMessage := ⟨_, rfl⟩
  rw [← hf]
  delta parkMessage at hf
  subst hf
  beta_reduce
  generalize freeParkSlot j = q
  cases q <;> rfl

theorem parkWrite_eq (s : State) (j : Job) (m : Message) :
    parkWrite s j m = cached (physWrite s (slotPhys j m.slot) 128 m.bytes) true (slotBytes j m.slot) := rfl

theorem parkWrite_mem (s : State) (j : Job) (m : Message) : (parkWrite s j m).mem = (physWrite s (slotPhys j m.slot) 128 m.bytes).mem := by
  rw [parkWrite_eq, cached_mem]

theorem placeSect_eq (j : Job) (m : Image) (s : State) (x : Sect) : placeSect j m s x =
    if x.kind = 3 then
      markFull (placeBytes s (slicePhys (j.binding[x.core]?.getD 0) x.addr) (m.host + x.foff) x.fsize x.msize)
        (slicePhys (j.binding[x.core]?.getD 0) x.addr) x.msize
    else (List.range ((x.msize + 65535) / 65536)).foldl (fun s i => (pageOf j (x.addr + 65536 * i)).elim s fun p =>
      placeBytes s (pagePhys p (x.addr + 65536 * i)) (m.host + x.foff + 65536 * i) (min 65536 (x.fsize - 65536 * i)) 65536) s := by
  obtain ⟨f, hf⟩ : ∃ f, f = placeSect := ⟨_, rfl⟩
  rw [← hf]
  delta placeSect at hf
  subst hf
  beta_reduce
  congr 2
  funext s i
  generalize pageOf j (x.addr + 65536 * i) = q
  cases q <;> rfl

section
variable {s : State} (h : wfMemory s.mem = true)
include h

/-! ## Writes, the end of a job and late faults -/

@[simp] theorem wfMemory_physWrite (pa n v : Nat) : wfMemory (physWrite s pa n v).mem = true := wfMemory_writeLE h ..

@[simp] theorem wfMemory_engineWrite (pa n v : Nat) : wfMemory (engineWrite s pa n v).mem = true := by simp [engineWrite, h]

@[simp] theorem wfMemory_releaseCore (n : Nat) : wfMemory (releaseCore s n).mem = true := wfMemory_clearRange h ..

@[simp] theorem wfMemory_zeroStack (stack : Nat) : wfMemory (zeroStack s stack).mem = true := wfMemory_clearRange h ..

@[simp] theorem wfMemory_returnStack (id stack : Nat) : wfMemory (returnStack id s stack).mem = true := by
  unfold returnStack
  dsimp only
  split
  · split <;> simp [h]
  · exact h

@[simp] theorem wfMemory_releaseJob (j : Job) : wfMemory (releaseJob s j).mem = true := by
  have told : (List.foldl (logRefused j.id) (endPackets (j.binding.foldl logProofs s) j) (refusedLaunches s j)).mem = s.mem := by
    rw [foldl_mem (logRefused_mem · j.id), endPackets_mem, foldl_mem logProofs_mem]
  unfold releaseJob
  rw [retireMarked_mem]
  refine wfMemory_foldl (fun _ _ ht => wfMemory_returnStack ht ..) _ ?_
  rw [setJob_mem]
  refine wfMemory_foldl (fun _ _ ht => wfMemory_releaseCore ht _) _ ?_
  exact told ▸ h

@[simp] theorem wfMemory_abortJob (id : Nat) (code : Option Nat) : wfMemory (abortJob s id code).mem = true := by
  unfold abortJob
  split
  · exact h
  · split
    · exact h
    · apply wfMemory_releaseJob
      rw [abortCommands_mem, foldl_mem (fun _ _ => complete_mem ..)]
      repeat' split
      all_goals simp [h]

@[simp] theorem wfMemory_lateFault (k : Nat) (f : FaultRec) : wfMemory (lateFault s k f).mem = true := by simp [lateFault, h]

@[simp] theorem wfMemory_lateNow (c : Cause) (a : Word) : wfMemory (lateNow s c a).mem = true := wfMemory_lateFault h ..

/-! ## Streams drained and entries -/

@[simp] theorem wfMemory_scatterBytesAt (v : Nat) (l : List Nat) : wfMemory (scatterBytesAt s v l).mem = true := by
  induction l generalizing s v with
  | nil => exact h
  | cons a l ih => exact ih (by simp [h]) _

theorem wfMemory_streamWrite {j : Job} {st : Stream} {pos : Nat} {v : VWord} {t : State} (ht : streamWrite s j st pos v = .ok t) :
    wfMemory t.mem = true := by
  unfold streamWrite at ht
  split at ht
  · cases ht
  · cases ht
    exact wfMemory_scatterBytesAt (by exact h) ..

@[simp] theorem wfMemory_drainOne (k n : Nat) : wfMemory (drainOne s k n).mem = true := by
  unfold drainOne
  split
  · split
    · split <;> simp [h]
    · split
      · simp [h]
      · next hw => simp [wfMemory_streamWrite h hw]
  · exact h

@[simp] theorem wfMemory_drainStreams (k : Nat) : wfMemory (drainStreams s k).mem = true := by
  refine wfMemory_foldl (fun _ n hs => wfMemory_foldl (fun _ _ ht => ?_) _ hs) _ h
  split
  · simp [ht]
  · exact ht

@[simp] theorem wfMemory_prepareEntry (k : Nat) : wfMemory (prepareEntry s k).mem = true := by simp [prepareEntry, h]

@[simp] theorem wfMemory_enter (k cause : Nat) (addr bundle handler : Word) (held : List FaultRec) :
    wfMemory (enter s k cause addr bundle handler held).mem = true := by
  unfold enter
  dsimp only
  split <;> simp [wfMemory_applyPatches, h]

@[simp] theorem wfMemory_scramble (pa n : Nat) : wfMemory (scramble s pa n).mem = true := by
  induction n generalizing s pa with
  | zero => exact h
  | succ n ih => exact ih (by simp [h]) _

@[simp] theorem wfMemory_unstage (n : Nat) (m : MatrixCmd) : wfMemory (unstage s n m).mem = true := by
  unfold unstage
  split
  · exact wfMemory_foldl (fun _ _ ht => wfMemory_scramble ht ..) _ h
  · exact h

@[simp] theorem wfMemory_abandonCommands (k : Nat) : wfMemory (abandonCommands s k).mem = true := by
  unfold abandonCommands
  dsimp only
  split
  · rw [setJob_mem]
    refine wfMemory_foldl (fun _ _ ht => wfMemory_unstage ht ..) _ ?_
    rw [foldl_mem (fun _ _ => setTile_mem ..)]
    exact h
  · refine wfMemory_foldl (fun _ _ ht => wfMemory_unstage ht ..) _ ?_
    rw [foldl_mem (fun _ _ => setTile_mem ..)]
    exact h

@[simp] theorem wfMemory_replayTask (k : Nat) : wfMemory (replayTask s k).mem = true := by simp [replayTask, h]

@[simp] theorem wfMemory_takeTrap (k : Nat) (f : FaultRec) (held : List FaultRec) : wfMemory (takeTrap s k f held).mem = true := by
  simp [takeTrap, h]

@[simp] theorem wfMemory_takeEvent (k : Nat) (held : List FaultRec) : wfMemory (takeEvent s k held).mem = true := by simp [takeEvent, h]

@[simp] theorem wfMemory_takeCandidate (k : Nat) (x : Candidate) : wfMemory (takeCandidate s k x).mem = true := by
  unfold takeCandidate
  dsimp only
  split
  · simp [h]
  · cases x <;> simp [h]

@[simp] theorem wfMemory_spoilBytes (l : List Nat) : wfMemory (spoilBytes s l).mem = true := by
  unfold spoilBytes
  split
  · exact h
  · exact wfMemory_foldl_writeByte h ..

@[simp] theorem wfMemory_takeEntry (k : Nat) (x : Candidate) : wfMemory (takeEntry s k x).mem = true := by simp [takeEntry, h]

@[simp] theorem wfMemory_boundary (k : Nat) : wfMemory (boundary s k).mem = true := by
  unfold boundary
  split
  · exact h
  · split <;> simp [h]

@[simp] theorem wfMemory_notIssued (k : Nat) (v : Verdict) : wfMemory (notIssued s k v).mem = true := by
  cases v <;> simp [notIssued, h]

@[simp] theorem wfMemory_endTask (k : Nat) : wfMemory (endTask s k).mem = true := by
  unfold endTask
  split <;> simp [h]

/-! ## Loads and stores at issue -/

@[simp] theorem wfMemory_loadS (i : Instr) (d : SReg) (x : Word) (n : Nat) : wfMemory (loadS i d x n s).mem = true := by
  rw [loadS_eq]
  cases ownOffset s s.cur.key x n with
  | none => rw [Option.elim_none, send_mem]; exact h
  | some o =>
    rw [Option.elim_some]
    refine ownLoad_cases (P := fun t => wfMemory t.mem = true) (fun _ => ?_) fun _ _ => wfMemory_lateNow h ..
    rw [resultS_mem]
    exact h

@[simp] theorem wfMemory_loadV (i : Instr) (d : VReg) (x : Word) : wfMemory (loadV i d x s).mem = true := by
  rw [loadV_eq]
  cases ownOffset s s.cur.key x 256 with
  | none => rw [Option.elim_none, send_mem]; exact h
  | some o =>
    rw [Option.elim_some]
    refine ownLoad_cases (P := fun t => wfMemory t.mem = true) (fun _ => ?_) fun _ _ => wfMemory_lateNow h ..
    rw [resultV_mem]
    exact h

theorem wfMemory_ownStore {write : State → State} (hw : wfMemory (write s).mem = true) (i : Instr) (x : Word) (n v : Nat) :
    wfMemory (ownStore i x n v write s).mem = true := by
  unfold ownStore
  split
  · exact h
  · exact hw

@[simp] theorem wfMemory_store (i : Instr) (x : Word) (n v : Nat) : wfMemory (store i x n v s).mem = true := by
  rw [store_eq]
  cases ownOffset s s.cur.key x n with
  | none => exact h
  | some o =>
    rw [Option.elim_some]
    cases physFate s (slicePhys (s.cur.key / 4) o) x.toNat n n true with
    | none =>
      rw [Option.elim_none]
      cases late : meetsLate s x.toNat n with
      | true => rw [ownStore_request late]; exact h
      | false => rw [ownStore_write late]; exact wfMemory_physWrite h ..
    | some e => exact wfMemory_lateNow h ..

@[simp] theorem wfMemory_feStore (i : Instr) (x : Word) (n v : Nat) : wfMemory (feStore i x n v s).mem = true := by
  rw [feStore_eq]
  cases ownOffset s s.cur.key x n with
  | none => exact h
  | some o =>
    rw [Option.elim_some]
    cases physFate s (slicePhys (s.cur.key / 4) o) x.toNat n n true with
    | none =>
      rw [Option.elim_none]
      cases late : meetsLate s x.toNat n with
      | true => rw [ownStore_request late]; exact h
      | false => rw [ownStore_write late, serveHeld_mem]; exact wfMemory_engineWrite h ..
    | some e => exact wfMemory_lateNow h ..

@[simp] theorem wfMemory_scatterLanes (j : Job) (base : Word) (off data : VWord) (z : Nat) (l : List Nat) :
    wfMemory (scatterLanes s j base off data z l).mem = true := by
  refine wfMemory_foldl (fun _ _ ht => ?_) _ h
  split
  · exact wfMemory_physWrite ht ..
  · exact ht

theorem wfMemory_openTarget {go : State → Nat × Nat → Word → State} (hg : ∀ t x y, wfMemory t.mem = true → wfMemory (go t x y).mem = true)
    (x : Word) (lo hi : Int) (counter : Option Nat) : wfMemory (openTarget s x lo hi counter go).mem = true := by
  unfold openTarget
  dsimp only
  repeat' split
  all_goals simp [h, hg]

@[simp] theorem wfMemory_bindStream (e : Fin 16) (a : SReg) (n : Nat) (out : Bool) : wfMemory (bindStream s e a n out).mem = true := by
  simp [bindStream, h]

/-! ## Requests performed and answered -/

@[simp] theorem wfMemory_scatterWrite (j : Job) (r : Req) (z : Nat) : wfMemory (scatterWrite s j r z).mem = true :=
  wfMemory_foldl (fun _ _ ht => wfMemory_physWrite ht ..) _ h

theorem wfMemory_vatomLanes (j : Job) (r : Req) (n v : Nat) : wfMemory (vatomLanes j r n (s, v)).1.mem = true := by
  induction n with
  | zero => exact h
  | succ n ih => exact wfMemory_physWrite ih ..

@[simp] theorem wfMemory_effectReq (j : Job) (r : Req) : wfMemory (effectReq s j r).mem = true := by
  unfold effectReq
  dsimp only
  repeat' split
  all_goals simp [h, wfMemory_vatomLanes]

@[simp] theorem wfMemory_performOne (j : Job) (r : Req) : wfMemory (performOne s j r).mem = true := by
  unfold performOne
  split
  · exact h
  · split
    · exact h
    · rw [foldl_mem (fun _ _ => cached_mem ..)]
      exact wfMemory_effectReq h ..

@[simp] theorem wfMemory_performReq (j : Job) (r : Req) : wfMemory (performReq s j r).mem = true := by
  unfold performReq
  split
  · exact wfMemory_performOne h ..
  · exact wfMemory_performOne h ..
  · refine wfMemory_foldl (fun _ _ ht => wfMemory_performOne ht ..) _ ?_
    split
    · rw [cached_mem]
      exact h
    · exact h

theorem wfMemory_unitStep {act : State} (ha : wfMemory act.mem = true) (j : Job) (r : Req) : wfMemory (unitStep s j r act).mem = true := by
  simp [unitStep, h, ha]

@[simp] theorem wfMemory_arriveReq (id : Nat) : wfMemory (arriveReq s id).mem = true := by
  unfold arriveReq
  split
  · exact h
  · split
    · exact h
    · split
      · exact h
      · exact wfMemory_unitStep h (by simp [h]) ..

@[simp] theorem wfMemory_orphanFault (k : Nat) (f : FaultRec) : wfMemory (orphanFault s k f).mem = true := by simp [orphanFault, h]

@[simp] theorem wfMemory_landScalar (k id : Nat) (redirect : Bool) (d : Nat) (v : Word) (df : Bool) :
    wfMemory (landScalar s k id redirect d v df).mem = true := by
  simp [landScalar, h]

@[simp] theorem wfMemory_landValue (r : Req) (df : Bool) (v : VWord) : wfMemory (landValue s r df v).mem = true := by
  unfold landValue
  dsimp only
  split
  · simp [h]
  · split
    · simp [h]
    · exact wfMemory_landScalar (wfMemory_landScalar (wfMemory_landScalar h ..) ..) ..
    · exact wfMemory_landScalar h ..
    · exact h

@[simp] theorem wfMemory_messageAck (id : Nat) : wfMemory (messageAck s id).mem = true := by
  obtain ⟨t, hm, same | dropped | ⟨k, f, orphan | late⟩⟩ := messageAck_cases s id
  · rw [same, hm]
    exact h
  · rw [dropped, dropReq_mem, hm]
    exact h
  · rw [orphan]
    exact wfMemory_orphanFault (hm ▸ h) ..
  · rw [late]
    exact wfMemory_lateFault (hm ▸ h) ..

/-! ## Copies, streams and the matrix engine -/

@[simp] theorem wfMemory_putBytes (l : List (Option Nat)) (b : List Byte) : wfMemory (putBytes s l b).mem = true := by
  fun_induction putBytes with
  | case1 s pa l b bs ih => exact ih (by simp [h])
  | case2 s l b bs ih => exact ih h
  | case3 => exact h

@[simp] theorem wfMemory_deliverElement (c : Copy) (k : Nat) (data : List Byte) (dst : List (Option Nat)) :
    wfMemory (deliverElement s c k data dst).mem = true := by
  unfold deliverElement
  dsimp only
  repeat' split
  all_goals simp [h]

@[simp] theorem wfMemory_moveElement (c : Copy) (k : Nat) (src dst : List (Option Nat)) (data : List Byte) :
    wfMemory (moveElement s c k src dst data).mem = true := by
  unfold moveElement
  dsimp only
  repeat' split
  all_goals simp [h]

@[simp] theorem wfMemory_landInHost (c : Copy) (k : Nat) : wfMemory (landInHost s c k).mem = true := by
  unfold landInHost
  repeat' split
  all_goals simp [h]

@[simp] theorem wfMemory_elementPerform (id k : Nat) : wfMemory (elementPerform s id k).mem = true := by
  unfold elementPerform
  repeat' split
  all_goals simp [h]

@[simp] theorem wfMemory_engineFault (k : Nat) (ended : Bool) (f : FaultRec) : wfMemory (engineFault s k ended f).mem = true := by
  simp [engineFault, h]

@[simp] theorem wfMemory_streamOutcome (j : Job) (k n : Nat) (st : Stream) : wfMemory (streamOutcome s j k n st).mem = true := by
  unfold streamOutcome
  split <;> simp [h]

@[simp] theorem wfMemory_cmdFault (m : MatrixCmd) (e : Cause × Word) : wfMemory (cmdFault s m e).mem = true := by simp [cmdFault, h]

@[simp] theorem wfMemory_leaveEngine (n : Nat) (m : MatrixCmd) : wfMemory (leaveEngine s n m).mem = true := by simp [leaveEngine, h]

@[simp] theorem wfMemory_readScale (j : Job) (n : Nat) (m : MatrixCmd) : wfMemory (readScale s j n m).1.mem = true := by
  unfold readScale
  repeat' split
  all_goals simp [h]

@[simp] theorem wfMemory_mstWriteRow (n : Nat) (m : MatrixCmd) : wfMemory (mstWriteRow s n m).mem = true := by
  unfold mstWriteRow
  dsimp only
  repeat' split
  all_goals simp [h]

@[simp] theorem wfMemory_commandElement (id k : Nat) : wfMemory (commandElement s id k).mem = true := by
  unfold commandElement
  repeat' split
  all_goals simp [h]

/-! ## Groups, hand-overs and the service context -/

@[simp] theorem wfMemory_parkWrite (j : Job) (m : Message) : wfMemory (parkWrite s j m).mem = true :=
  (congrArg wfMemory (parkWrite_mem s j m)).trans (wfMemory_physWrite h _ _ _)

@[simp] theorem wfMemory_refill (j : Job) (g : Group) : wfMemory (refill s j g).1.mem = true := by
  have eq := refill_eq s j g
  generalize refill s j g = t at eq ⊢
  cases hw : parkWaits s j || decide (64 ≤ g.fifo.length) with
  | true =>
    rw [hw, cond_true] at eq
    rw [eq]
    exact h
  | false =>
    rw [hw, cond_false] at eq
    rw [eq]
    refine wfMemory_foldl' (fun u m v hv hu => ?_) _ h
    beta_reduce at hv
    rw [hv, cached_mem]
    exact hu

@[simp] theorem wfMemory_parkMessage (j : Job) (g : Group) (m : Message) : wfMemory (parkMessage s j g m).mem = true := by
  obtain ⟨m', eq⟩ := parkMessage_eq s j g m
  generalize parkMessage s j g m = t at eq ⊢
  generalize freeParkSlot j = slot at eq
  split at eq
  · rw [eq, setGroup_mem, dropMessage_mem]
    exact h
  · split at eq
    · rw [eq, answerSender_mem, setGroup_mem, dropMessage_mem]
      exact h
    · split at eq
      · rw [eq, setMessage_mem]
        exact h
      · cases slot with
        | none =>
          rw [eq, Option.elim_none, answerSender_mem, dropMessage_mem]
          exact h
        | some i =>
          rw [eq, Option.elim_some, answerSender_mem]
          refine wfMemory_parkWrite ?_ ..
          rw [setGroup_mem, dropMessage_mem]
          exact h

@[simp] theorem wfMemory_steer (j : Job) (g : Group) (m : Message) : wfMemory (steer s j g m).mem = true := by
  unfold steer
  repeat' split
  all_goals simp [h]

@[simp] theorem wfMemory_handoverEnd (x : Handover) (drain : Nat) : wfMemory (handoverEnd s x drain).mem = true := by
  unfold handoverEnd
  dsimp only
  repeat' split
  all_goals simp [h]

@[simp] theorem wfMemory_performHeld (stack die id : Nat) : wfMemory (performHeld stack die s id).mem = true := by
  unfold performHeld
  repeat' split
  all_goals simp [h]

@[simp] theorem wfMemory_performAllHeld (stack die n : Nat) (l : List Nat) : wfMemory (performAllHeld stack die n l s).mem = true := by
  induction n generalizing s l with
  | zero => exact h
  | succ n ih =>
    rw [performAllHeld]
    split
    · exact ih (wfMemory_performHeld h ..) _
    · exact h

@[simp] theorem wfMemory_serveCause (n : Nat) (x : ServiceCause) (resolve : Bool) : wfMemory (serveCause s n x resolve).mem = true := by
  unfold serveCause
  dsimp only
  repeat' split
  all_goals simp [h]

@[simp] theorem wfMemory_serviceReturn (n : Nat) (x : ServiceCause) (resolve : Bool) : wfMemory (serviceReturn s n x resolve).mem = true := by
  simp [serviceReturn, h]

@[simp] theorem wfMemory_serviceExpired (n : Nat) (x : ServiceCause) : wfMemory (serviceExpired s n x).mem = true := by
  simp [serviceExpired, h]

/-! ## Layers that lose their slices, and packets of the inbound window -/

@[simp] theorem wfMemory_loseSlices (die layer : Nat) : wfMemory (loseSlices s die layer).mem = true :=
  wfMemory_foldl (fun _ _ ht => wfMemory_clearRange ht ..) _ h

@[simp] theorem wfMemory_emergencyOff (die layer : Nat) : wfMemory (emergencyOff s die layer).mem = true := by simp [emergencyOff, h]

@[simp] theorem wfMemory_enterPower (u : PowerUnit) : wfMemory (enterPower s u).mem = true := by
  cases u <;> simp [enterPower, h]

@[simp] theorem wfMemory_writePacket (p : Packet) : wfMemory (writePacket s p).mem = true := by
  unfold writePacket
  split <;> simp [h]

@[simp] theorem wfMemory_packetPerform (id : Nat) : wfMemory (packetPerform s id).mem = true := by
  unfold packetPerform
  split <;> simp [h]

/-! ## Images loaded, saved and restored -/

@[simp] theorem wfMemory_placeBytes (dst src n z : Nat) : wfMemory (placeBytes s dst src n z).mem = true := by simp [placeBytes, h]

@[simp] theorem wfMemory_placeSect (j : Job) (m : Image) (x : Sect) : wfMemory (placeSect j m s x).mem = true := by
  rw [placeSect_eq]
  split
  · rw [markFull_mem]
    exact wfMemory_placeBytes h ..
  · refine wfMemory_foldl (fun u i hu => ?_) _ h
    cases pageOf j (x.addr + 65536 * i) with
    | none => exact hu
    | some p => exact wfMemory_placeBytes hu ..

@[simp] theorem wfMemory_pokeAt (j : Job) (a v n : Nat) : wfMemory (pokeAt j s a v n).mem = true := by
  induction n generalizing s a v with
  | zero => exact h
  | succ n ih => exact ih (wfMemory_writeByte h ..) ..

@[simp] theorem wfMemory_applyReloc (j : Job) (m : Image) (r : Reloc) : wfMemory (applyReloc j m s r).mem = true := by
  simp [applyReloc, h]

@[simp] theorem wfMemory_placeJob (m : Image) (j : Job) : wfMemory (placeJob s m j).mem = true := by
  unfold placeJob
  refine wfMemory_foldl (fun _ _ ht => wfMemory_applyReloc ht ..) _ (wfMemory_foldl (fun _ _ ht => wfMemory_placeSect ht ..) _ ?_)
  rw [foldl_mem setOwner_mem, foldl_mem (fun _ _ => setCore_mem ..)]
  exact wfMemory_foldl (fun _ _ ht => by simp [ht]) _ h

theorem wfMemory_moveHostBytes (j : Job) (into : Bool) (a d len n i : Nat) : wfMemory (moveHostBytes j into a d len n s i).1.mem = true := by
  induction n generalizing s i with
  | zero => exact h
  | succ n ih =>
    rw [moveHostBytes]
    dsimp only
    split
    · split
      · split
        · exact h
        · exact ih (by simp [h]) _
      · split
        · exact h
        · exact ih (by simp [h]) _
    · exact h

@[simp] theorem wfMemory_putCells (j : Job) (host : Bool) (a n : Nat) (l : List (Nat × Byte)) : wfMemory (putCells j host a n l s).mem = true := by
  refine wfMemory_foldl (fun _ _ ht => ?_) _ h
  dsimp only
  split
  · exact ht
  · rw [cached_mem]
    exact wfMemory_foldl_writeByte (wfMemory_clearRange ht ..) ..

@[simp] theorem wfMemory_putOpen (j : Job) (host : Bool) (a n : Nat) : wfMemory (putOpen j host a n s).mem = true := by simp [putOpen, h]

@[simp] theorem wfMemory_putPatches (j : Job) (host : Bool) (a : Nat) (l : List Patch) : wfMemory (putPatches j host a l s).mem = true :=
  wfMemory_foldl (fun _ _ ht => wfMemory_putCells ht ..) _ h

@[simp] theorem wfMemory_putCtx (j : Job) (host : Bool) (a k : Nat) (c : Ctx) (left : DirtyUnit → Bool) :
    wfMemory (putCtx j host a k c left s).mem = true := by
  exact wfMemory_putOpen (wfMemory_putPatches (wfMemory_putCells h ..) ..) ..

@[simp] theorem wfMemory_putCore (j : Job) (host : Bool) (a n : Nat) (x : SavedCore) (incr : Bool) :
    wfMemory (putCore j host a n x incr s).mem = true := by
  unfold putCore
  dsimp only
  refine wfMemory_foldl (fun _ _ ht => ?_) _ ?_
  · split <;> simp [ht]
  · refine wfMemory_putPatches (wfMemory_putOpen ?_ ..) ..
    exact wfMemory_foldl (fun _ _ ht => by simp [ht]) _ (wfMemory_foldl (fun _ _ ht => by simp [ht]) _ h)

@[simp] theorem wfMemory_putImage (j : Job) (host : Bool) (a : Nat) (l : List SavedCore) (incr : Bool) :
    wfMemory (putImage j host a l incr s).mem = true := by
  unfold putImage
  dsimp only
  refine wfMemory_foldl (fun _ _ ht => by simp [ht]) _ (wfMemory_putPatches (wfMemory_putOpen ?_ ..) ..)
  exact wfMemory_foldl (fun _ _ ht => by simp [ht]) _ (by simp [h])

@[simp] theorem wfMemory_parkSteered (m : Message) : wfMemory (parkSteered s m).mem = true := by
  unfold parkSteered
  split <;> simp [h]

@[simp] theorem wfMemory_ackGsends (j : Job) : wfMemory (ackGsends s j).mem = true :=
  wfMemory_foldl (fun _ _ ht => wfMemory_messageAck ht _) _ h

@[simp] theorem wfMemory_restoreCore (j : Job) (n i : Nat) (x : SavedCore) : wfMemory (restoreCore j s n i x).mem = true := by
  unfold restoreCore
  refine wfMemory_foldl_writeByte ?_ ..
  dsimp only
  rw [foldl_mem, foldl_mem]
  · simp [h]
  · intro _ _
    split <;> simp
  · intro _ _
    split <;> simp

/-! ## What every step does beside its turn -/

@[simp] theorem wfMemory_noteIdle : wfMemory (noteIdle s).mem = true := by
  have woken : wfMemory (List.foldl ungate s ((s.cores.filter fun x => x.2.gated && !coreIdle s x.1).map (·.1))).mem = true := by
    rw [foldl_mem ungate_mem]
    exact h
  unfold noteIdle
  dsimp only
  split
  · split <;> exact woken
  · exact wfMemory_foldl (fun _ _ ht => wfMemory_enterPower ht _) _ woken

theorem wfMemory_noteStep (t : State) : wfMemory (noteStep t s).mem = true := by simp [noteStep, h]

end

end Sys2Proof.Machine
end

section
/-! SUPPORT. Every row keeps the canonical form of memory: one lemma for each part of the machine, and the sum of them over the instructions. -/

namespace Sys2Proof.Machine

/-! ## Answers -/

/-- Where an answer gives a state, that state's memory has its canonical form. -/
@[irreducible] def AnswersCanonical (a : Answer) : Prop := ∀ t, a = .next t → wfMemory t.mem = true

@[simp] theorem answersCanonical_next (t : State) : AnswersCanonical (.next t) ↔ wfMemory t.mem = true := by simp [AnswersCanonical]

@[simp] theorem answersCanonical_fault (f : Fault) : AnswersCanonical (.fault f) := by simp [AnswersCanonical]

@[simp] theorem answersCanonical_refused (r : Refusal) : AnswersCanonical (.refused r) := by simp [AnswersCanonical]

theorem wfMemory_of_eq {s t : State} (ht : t = s) (h : wfMemory s.mem = true) : wfMemory t.mem = true := ht ▸ h

section
variable {s : State} (h : wfMemory s.mem = true)
include h

/-- A slot operation keeps the canonical form when its effect does. -/
theorem operate_canonical {i : Instr} {p : Tag} {effect : State → State} (he : ∀ t, t = effect s → wfMemory t.mem = true) :
    AnswersCanonical (operate i p s effect) := by
  unfold operate
  split
  · exact (answersCanonical_next _).2 h
  · split
    · rw [answersCanonical_next, afterOp_mem]
      exact he _ rfl
    · split
      · rw [answersCanonical_next, afterOp_mem]
        exact he _ rfl
      · exact (answersCanonical_next _).2 (wfMemory_notIssued h ..)

/-- A command keeps it when what it does with its descriptor chain does. -/
theorem command_canonical {i : CommandKind} {q : Nat} {c : Chain} {f : Pending → State → State}
    (hf : ∀ p t u, wfMemory t.mem = true → u = f p t → wfMemory u.mem = true) : AnswersCanonical (command i q c s f) := by
  unfold command
  dsimp only
  repeat' split
  any_goals simp [h]
  refine hf _ _ _ ?_ rfl
  simp [h]

theorem advance_canonical {stack n : Nat} {f : State → Handover → State}
    (hf : ∀ t x, wfMemory t.mem = true → wfMemory (f t x).mem = true) : AnswersCanonical (advance s stack n f) := by
  unfold advance
  split
  · split
    · exact (answersCanonical_next _).2 (hf _ _ (by simp [h]))
    · exact (answersCanonical_next _).2 h
  · exact (answersCanonical_next _).2 h

theorem wfMemory_withJob {p : Pending} {anyQueue : Bool} {states : List JobStatus} {f : Job → State}
    (hf : ∀ j t, t = f j → wfMemory t.mem = true) : wfMemory (withJob p s anyQueue states f).mem = true := by
  unfold withJob
  dsimp only
  repeat' split
  any_goals simp [h]
  exact hf _ _ rfl

theorem wfMemory_guardBody {ok : Bool} {p : Pending} {f : State} (hf : wfMemory f.mem = true) : wfMemory (guardBody ok p s f).mem = true := by
  unfold guardBody
  split
  · exact hf
  · simp [h]

theorem wfMemory_hostCopy (p : Pending) (into : Bool) : wfMemory (hostCopy p s into).mem = true := by
  refine wfMemory_guardBody h (wfMemory_withJob h fun j t ht => ?_)
  subst ht
  dsimp only
  repeat' split
  all_goals simp [h]

/-! ## The rows that are no slot operations, by the part of the machine that they belong to -/

/-- The rows of the host side and of pre-emption. -/
theorem hostRows_canonical :
    (∀ q, AnswersCanonical (execQueueNotification q s)) ∧ (∀ q, AnswersCanonical (execPin q s)) ∧
    (∀ q, AnswersCanonical (execUnpin q s)) ∧ (∀ w, AnswersCanonical (execConfigWrite w s)) ∧
    (∀ job, AnswersCanonical (execPreemptStopTimeout job s)) ∧ (∀ job, AnswersCanonical (execKillGraceExpiry job s)) := by
  and_intros
  all_goals
    intros
    simp only [execQueueNotification, execPin, execUnpin, execConfigWrite, execPreemptStopTimeout, execKillGraceExpiry]
    repeat' split
    all_goals simp [h, foldl_mem]

/-- The rows of the inbound window, the links and the columns. -/
theorem linkRows_canonical :
    (∀ r off data ro, AnswersCanonical (execInboundPostedWrite r off data ro s)) ∧ (∀ id, AnswersCanonical (execInboundPacketRelease id s)) ∧
    (∀ id, AnswersCanonical (execInboundPacketAck id s)) ∧ (∀ r off len tag, AnswersCanonical (execInboundRead r off len tag s)) ∧
    (∀ die col, AnswersCanonical (execWallBusRealignment die col s)) ∧ (∀ die col, AnswersCanonical (execRealignmentDeferralEnd die col s)) ∧
    (∀ die col, AnswersCanonical (execRealignmentPauseEnd die col s)) ∧ (∀ l ok f, AnswersCanonical (execFlitArrival l ok f s)) ∧
    (∀ l, AnswersCanonical (execLinkRetrain l s)) ∧ (∀ l, AnswersCanonical (execLinkRetrainEnd l s)) ∧
    (∀ die col x, AnswersCanonical (execColtempRefresh die col x s)) ∧ (∀ x, AnswersCanonical (execRemoteAccessPerform x s)) ∧
    (∀ size, AnswersCanonical (execCxlPortTraining size s)) := by
  and_intros
  all_goals
    intros
    simp only [execInboundPostedWrite, execInboundPacketRelease, execInboundPacketAck, execInboundRead, execWallBusRealignment,
      execRealignmentDeferralEnd, execRealignmentPauseEnd, execFlitArrival, execLinkRetrain, execLinkRetrainEnd, execColtempRefresh,
      execRemoteAccessPerform, execCxlPortTraining]
    repeat' split
    all_goals simp [h, foldl_mem]

/-- The rows of copies and streams. -/
theorem engineRows_canonical :
    (∀ id k, AnswersCanonical (execPoolTransactionTimeout id k s)) ∧ (∀ id k, AnswersCanonical (execCopyElementFault id k s)) ∧
    (∀ id k, AnswersCanonical (execCopyElementReplay id k s)) ∧ (∀ id, AnswersCanonical (execCopyComplete id s)) ∧
    (∀ id, AnswersCanonical (execCopyFailure id s)) ∧ (∀ id n, AnswersCanonical (execCopyByteReport id n s)) ∧
    (∀ k n, AnswersCanonical (execStreamReadAhead k n s)) ∧ (∀ k n, AnswersCanonical (execStreamDrainWrite k n s)) := by
  and_intros
  all_goals
    intros
    simp only [execPoolTransactionTimeout, execCopyElementFault, execCopyElementReplay, execCopyComplete, execCopyFailure, execCopyByteReport,
      execStreamReadAhead, execStreamDrainWrite]
    repeat' split
    all_goals simp [h]

/-- The rows of a request on the fabric. -/
theorem requestRows_canonical :
    (∀ id, AnswersCanonical (execWriteAck id s)) ∧ (∀ id, AnswersCanonical (execLongResultLand id s)) ∧
    (∀ id, AnswersCanonical (execGatherBufferFlush id s)) ∧ (∀ id, AnswersCanonical (execTranslationWalkComplete id s)) ∧
    (∀ id, AnswersCanonical (execRouteStaleResend id s)) ∧ (∀ id, AnswersCanonical (execFullEmptyRequestArrival id s)) := by
  and_intros
  all_goals
    intros
    simp only [execWriteAck, execLongResultLand, execGatherBufferFlush, execTranslationWalkComplete, execRouteStaleResend,
      execFullEmptyRequestArrival]
    repeat' split
    all_goals simp [h]

/-- The rows of the issue stage and of the entries. -/
theorem stageRows_canonical :
    (∀ k, AnswersCanonical (execInstructionFetchComplete k s)) ∧ (∀ n, AnswersCanonical (execContextSelect n s)) ∧
    (∀ k, AnswersCanonical (execWaitcEnd k s)) ∧ (∀ k, AnswersCanonical (execContextIdle k s)) ∧
    (∀ k, AnswersCanonical (execFencehComplete k s)) ∧ (∀ k, AnswersCanonical (execEventEntry k s)) ∧
    (∀ k, AnswersCanonical (execTrapEntry k s)) ∧ (∀ k, AnswersCanonical (execLateFaultDelivery k s)) ∧
    (∀ n, AnswersCanonical (execServiceContextEntry n s)) ∧ (∀ n, AnswersCanonical (execServiceContextReturn n s)) ∧
    (∀ n, AnswersCanonical (execServiceDeadline n s)) := by
  and_intros
  all_goals
    intros
    simp only [execInstructionFetchComplete, execContextSelect, execWaitcEnd, execContextIdle, execFencehComplete, execEventEntry, execTrapEntry,
      execLateFaultDelivery, execServiceContextEntry, execServiceContextReturn, execServiceDeadline]
    repeat' split
    all_goals simp [h]

/-- The rows of the matrix engine. -/
theorem matrixRows_canonical :
    (∀ n, AnswersCanonical (execMatrixCommandStart n s)) ∧ (∀ n, AnswersCanonical (execMatrixBoundary n s)) ∧
    (∀ n, AnswersCanonical (execMatrixCommandComplete n s)) ∧ (∀ id, AnswersCanonical (execMstComplete id s)) ∧
    (∀ n, AnswersCanonical (execMatrixFetchFault n s)) ∧ (∀ n id, AnswersCanonical (execMatrixPriorityAgeing n id s)) ∧
    (∀ n, AnswersCanonical (execMstTileRead n s)) := by
  and_intros
  all_goals
    intros
    simp only [execMatrixCommandStart, execMatrixBoundary, execMatrixCommandComplete, execMstComplete, execMatrixFetchFault,
      execMatrixPriorityAgeing, execMstTileRead]
    repeat' split
    all_goals simp [h]

/-- The rows of hand-overs, racks and barriers. -/
theorem unitRows_canonical :
    (∀ stack, AnswersCanonical (execHandoverStopAndHold stack s)) ∧ (∀ stack, AnswersCanonical (execHandoverComplete stack s)) ∧
    (∀ id, AnswersCanonical (execBarrierArrival id s)) ∧ (∀ id, AnswersCanonical (execBarvPhaseReturn id s)) ∧
    (∀ id, AnswersCanonical (execRackControllerOperation id s)) ∧ (∀ id, AnswersCanonical (execBarrierUnitRequest id s)) := by
  and_intros
  all_goals
    intros
    simp only [execHandoverStopAndHold, execHandoverComplete, execBarrierArrival, execBarvPhaseReturn, execRackControllerOperation,
      execBarrierUnitRequest]
    repeat' split
    all_goals simp [h, wfMemory_unitStep, wfMemory_writeLE]

/-- The rows of tasks. -/
theorem taskRows_canonical :
    (∀ id, AnswersCanonical (execCounterDecrement id s)) ∧ (∀ n, AnswersCanonical (execTaskStart n s)) ∧
    (∀ n i, AnswersCanonical (execTaskPriorityAgeing n i s)) ∧ (∀ id, AnswersCanonical (execLaunchArrival id s)) ∧
    (∀ m, AnswersCanonical (execAsendRemoteArrival m s)) ∧ (∀ id, AnswersCanonical (execLaunchAcknowledgement id s)) := by
  and_intros
  all_goals
    intros
    simp only [execCounterDecrement, execTaskStart, execTaskPriorityAgeing, execLaunchArrival, execAsendRemoteArrival, execLaunchAcknowledgement]
    repeat' split
    all_goals simp [h, wfMemory_unitStep]

/-- The rows of groups. -/
theorem groupRows_canonical :
    (∀ id, AnswersCanonical (execReadinessUpdate id s)) ∧ (∀ id, AnswersCanonical (execGroupMessageSteer id s)) ∧
    (∀ id, AnswersCanonical (execMemberCoreDelivery id s)) ∧ (∀ id, AnswersCanonical (execGroupBounce id s)) ∧
    (∀ id, AnswersCanonical (execRefreshAnswer id s)) ∧ (∀ job id, AnswersCanonical (execParkRelease job id s)) ∧
    (∀ id, AnswersCanonical (execGroupMessageAck id s)) := by
  and_intros
  all_goals
    intros
    simp only [execReadinessUpdate, execGroupMessageSteer, execMemberCoreDelivery, execGroupBounce, execRefreshAnswer, execParkRelease,
      execGroupMessageAck]
    repeat' split
    all_goals simp [h, wfMemory_unitStep]

/-- The rows of errors and power. -/
theorem errorRows_canonical :
    (∀ e, AnswersCanonical (execScrubPass e s)) ∧
    (∀ u, AnswersCanonical (execPowerStateEntry u s)) ∧ (∀ u, AnswersCanonical (execPowerStateWake u s)) ∧
    (∀ die layer, AnswersCanonical (execLayerEmergencyOff die layer s)) ∧ (∀ n, AnswersCanonical (execServiceStoreReload n s)) ∧
    (∀ n, AnswersCanonical (execServiceStoreReloadDone n s)) := by
  and_intros
  all_goals
    intros
    simp only [execScrubPass, execPowerStateEntry, execPowerStateWake, execLayerEmergencyOff, execServiceStoreReload,
      execServiceStoreReloadDone]
    repeat' split
    all_goals simp [h]

end

section
variable {s : State} (h : wfMemory s.mem = true)
include h

/-! ## The commands of the host, and the rows that write an image or an error's end -/

theorem execLoadImage_canonical (q : Nat) (c : Chain) : AnswersCanonical (execLoadImage q c s) :=
  command_canonical h fun p t u ht hu => hu ▸ wfMemory_guardBody ht (by
    repeat' split
    all_goals simp [ht])

theorem execCreateJob_canonical (q : Nat) (c : Chain) : AnswersCanonical (execCreateJob q c s) := by
  refine command_canonical h fun p t u ht hu => ?_
  subst hu
  dsimp only
  split
  · simp [ht]
  · have hc : wfMemory (consumed t c).mem = true := by simp [ht]
    refine wfMemory_guardBody hc ?_
    repeat' split
    all_goals simp [ht]

theorem execStart_canonical (q : Nat) (c : Chain) : AnswersCanonical (execStart q c s) := by
  refine command_canonical h fun p t u ht hu => hu ▸ wfMemory_withJob ht fun j v hv => ?_
  rw [hv, foldl_mem fun _ _ => onCore_mem .., setJob_mem]
  exact ht

theorem execSignal_canonical (q : Nat) (c : Chain) : AnswersCanonical (execSignal q c s) := by
  refine command_canonical h fun p t u ht hu => hu ▸ wfMemory_withJob ht fun j v hv => ?_
  dsimp only at hv
  split at hv
  · rw [hv, complete_mem, foldl_mem fun _ _ => onCtx_mem ..]
    exact ht
  · rw [hv]
    exact wfMemory_guardBody ht (by simp [ht])

theorem execKill_canonical (q : Nat) (c : Chain) : AnswersCanonical (execKill q c s) := by
  refine command_canonical h fun p t u ht hu => hu ▸ wfMemory_guardBody ht (wfMemory_withJob ht fun j v hv => ?_)
  split at hv
  · rw [hv, foldl_mem fun _ _ => onCtx_mem .., setJob_mem]
    exact ht
  · simp [hv, ht]

theorem execPreempt_canonical (q : Nat) (c : Chain) : AnswersCanonical (execPreempt q c s) := by
  refine command_canonical h fun p t u ht hu => hu ▸ wfMemory_withJob ht fun j v hv => ?_
  dsimp only at hv
  split at hv
  · rw [hv, complete_mem]
    exact ht
  · split at hv
    · rw [hv, complete_mem]
      exact ht
    · rw [hv, stopReady_mem, setJob_mem]
      exact ht

omit h in
theorem resumed_mem (r : State) (m n id : Nat) (j : Job) (ctxs cores : List Nat) (owed : List (Nat × Nat)) (p : Pending) (l : List Byte) :
    (complete ((List.range n).foldl (fun s i => offer s j i 64) (sendRoom (owed.foldl (fun s x => decrement s (cores[x.1]?.getD 0) x.2 1)
      (ctxs.foldl reissueEnding { r with nextId := m })) j)) p stOk id l).mem = r.mem := by
  rw [complete_mem, foldl_mem fun _ _ => offer_mem .., sendRoom_mem, foldl_mem fun _ _ => decrement_mem .., foldl_mem reissueEnding_mem]

theorem execResume_canonical (q : Nat) (c : Chain) : AnswersCanonical (execResume q c s) := by
  refine command_canonical h fun p t u ht hu => hu ▸ wfMemory_withJob ht fun j v hv => ?_
  dsimp only at hv
  split at hv
  · simp [hv, ht]
  · split at hv
    · simp [hv, ht]
    · split at hv
      · simp [hv, ht]
      · rw [hv, resumed_mem]
        refine wfMemory_foldl' (fun r i w hw hr => ?_) _ ?_
        · beta_reduce at hw
          split at hw
          · exact hw ▸ wfMemory_restoreCore hr ..
          · exact hw ▸ hr
        · rw [setJob_mem, foldl_mem wakeFor_mem, cached_mem]
          exact ht

/-- The commands that copy, set or answer. -/
theorem queryRows_canonical :
    (∀ q c, AnswersCanonical (execCopyIn q c s)) ∧ (∀ q c, AnswersCanonical (execCopyOut q c s)) ∧
    (∀ q c, AnswersCanonical (execSetTolerance q c s)) ∧ (∀ q c, AnswersCanonical (execPeelRequest q c s)) ∧
    (∀ q c, AnswersCanonical (execQueryPart q c s)) ∧ (∀ q c, AnswersCanonical (execQueryJob q c s)) ∧
    (∀ q c, AnswersCanonical (execQueryBinding q c s)) ∧ (∀ q c, AnswersCanonical (execQueryClusterMap q c s)) ∧
    (∀ q c, AnswersCanonical (execQueryAttestation q c s)) ∧ (∀ q c, AnswersCanonical (execQueryCertChain q c s)) ∧
    (∀ q c, AnswersCanonical (execQueryErrorLog q c s)) := by
  and_intros
  all_goals
    intros
    refine command_canonical h fun p t u ht hu => ?_
    subst hu
  · exact wfMemory_hostCopy ht ..
  · exact wfMemory_hostCopy ht ..
  · exact wfMemory_guardBody ht (by simp [ht])
  · refine wfMemory_guardBody ht (wfMemory_withJob ht fun j v hv => ?_)
    subst hv
    dsimp only
    split <;> simp [ht]
  · exact wfMemory_guardBody ht (by simp [ht])
  · simp [ht]
  · simp [ht]
  · exact wfMemory_guardBody ht (by simp [ht])
  · exact wfMemory_guardBody ht (by simp [ht])
  · exact wfMemory_guardBody ht (by simp [ht])
  · exact wfMemory_guardBody ht (by simp [ht])

theorem execHostCopyComplete_canonical (id : Nat) : AnswersCanonical (execHostCopyComplete id s) := by
  unfold execHostCopyComplete
  split
  · simp [h]
  · split
    · simp [h]
    · dsimp only
      split
      · simp [h]
      · have moved := fun j into a d len (t : State) (ht : wfMemory t.mem = true) => wfMemory_moveHostBytes ht j into a d len len 0
        rw [answersCanonical_next, complete_mem]
        split <;> simp [moved, h]

theorem execMgmtDataError_canonical (job : Option Nat) : AnswersCanonical (execMgmtDataError job s) := by
  cases job with
  | some id => simp [execMgmtDataError, h]
  | none =>
    simp only [execMgmtDataError, answersCanonical_next, configChanged_mem]
    exact wfMemory_foldl (fun _ _ ht => wfMemory_abortJob ht ..) _ (by simp [h])

theorem execDeviceReset_canonical : AnswersCanonical (execDeviceReset s) := by
  simp only [execDeviceReset, answersCanonical_next]
  exact wfMemory_filter h _

theorem execBootComplete_canonical (ok : Bool) : AnswersCanonical (execBootComplete ok s) := by
  unfold execBootComplete
  split
  · exact (answersCanonical_next _).2 h
  · split
    · rw [answersCanonical_next, configChanged_mem, foldl_mem fun _ _ => onCore_mem ..]
      exact h
    · simp [h]

theorem execJobEnd_canonical (job : Nat) : AnswersCanonical (execJobEnd job s) := by
  unfold execJobEnd
  split
  · exact (answersCanonical_next _).2 h
  · split
    · simp [h]
    · split
      · refine (answersCanonical_next _).2 (wfMemory_releaseJob ?_ _)
        rw [abortCommands_mem, foldl_mem fun _ _ => complete_mem ..]
        split <;> simp [h]
      · exact (answersCanonical_next _).2 h

theorem wfMemory_parkedMessages (job : Nat) (j : Job) : wfMemory
    (noteDirty ((s.messages.filter fun m => m.job == job).foldl parkSteered s)
      (ackGsends ((s.messages.filter fun m => m.job == job).foldl parkSteered s) j)).mem = true := by
  rw [noteDirty_mem]
  exact wfMemory_ackGsends (wfMemory_foldl (fun _ _ ht => wfMemory_parkSteered ht _) _ h) _

theorem execPreemptImageWrite_canonical (job : Nat) : AnswersCanonical (execPreemptImageWrite job s) := by
  unfold execPreemptImageWrite
  split
  · exact (answersCanonical_next _).2 h
  · next j _ =>
    split
    · exact (answersCanonical_next _).2 h
    · have hs : wfMemory (stopReady s j).mem = true := by simp [h]
      dsimp only
      split
      · exact (answersCanonical_next _).2 hs
      · have hp := wfMemory_parkedMessages hs job j
        generalize noteDirty _ _ = u at hp ⊢
        split
        · exact (answersCanonical_next _).2 hp
        · split
          · exact (answersCanonical_next _).2 (wfMemory_abortJob hp ..)
          · rw [answersCanonical_next, retireMarked_mem, complete_mem, setJob_mem]
            exact wfMemory_foldl (fun _ _ ht => wfMemory_releaseCore ht _) _ (wfMemory_putImage hp ..)

end

section
variable {s : State} (h : wfMemory s.mem = true)
include h

/-! ## Slot operations -/

/-- An operation whose effect leaves memory as it is. -/
theorem operate_keeps {i : Instr} {p : Tag} {effect : State → State} (he : ∀ t, t = effect s → t.mem = s.mem) :
    AnswersCanonical (operate i p s effect) :=
  operate_canonical h fun t ht => he t ht ▸ h

theorem alu2_canonical (i : Instr) (d a b : SReg) (p : Tag) (lat : Nat) (f : Word → Word → Word) : AnswersCanonical (alu2 i d a b p lat f s) :=
  operate_keeps h fun _ ht => ht ▸ resultS_mem ..

theorem alu1_canonical (i : Instr) (d a : SReg) (p : Tag) (f : Word → Word) : AnswersCanonical (alu1 i d a p f s) :=
  operate_keeps h fun _ ht => ht ▸ resultS_mem ..

theorem plog_canonical (i : Instr) (d a b : PReg) (p : Tag) (f : BitVec 128 → BitVec 128 → BitVec 128) :
    AnswersCanonical (plog i d a b p f s) :=
  operate_keeps h fun _ ht => ht ▸ resultP_mem ..

theorem atom_canonical (i : Instr) (a b : SReg) (p : Tag) : AnswersCanonical (atom i a b p s) :=
  operate_keeps h fun _ ht => ht ▸ send_mem ..

theorem vatom_canonical (i : Instr) (d : VReg) (a : SReg) (b : VReg) (p : Tag) : AnswersCanonical (vatom i d a b p s) :=
  operate_keeps h fun _ ht => by rw [ht, addReq_mem, emptied_mem]

theorem execVstb_canonical (d : VReg) (b : Fin 32) (x : SReg) (o : Fin 64) (p : Tag) : AnswersCanonical (execVstb d b x o p s) := by
  refine operate_canonical h fun t ht => ?_
  dsimp only at ht
  split at ht
  · exact ht ▸ wfMemory_lateNow h ..
  · exact ht ▸ wfMemory_ownStore h (wfMemory_physWrite h ..) ..

theorem execVldb_canonical (d : VReg) (b : Fin 32) (x : SReg) (o : Fin 64) (p : Tag) : AnswersCanonical (execVldb d b x o p s) := by
  refine operate_canonical h fun t ht => ht ▸ ?_
  refine ownLoad_cases (P := fun t => wfMemory t.mem = true) (fun _ => ?_) fun _ _ => wfMemory_lateNow h ..
  rw [resultV_mem]
  exact h

theorem execVscat_canonical (d : VReg) (a : SReg) (b : VReg) (g : Fin 8) (w : Fin 4) (p : Tag) :
    AnswersCanonical (execVscat d a b g w p s) := by
  refine operate_canonical h fun t ht => ?_
  dsimp only at ht
  split at ht
  · exact ht ▸ wfMemory_lateNow h ..
  · split at ht
    · rw [ht, addReq_mem]
      exact h
    · exact ht ▸ wfMemory_lateNow h ..
    · split at ht
      · exact ht ▸ wfMemory_scatterLanes h ..
      · rw [ht, addReq_mem]
        exact h

/-- The loads and stores of block scales. -/
theorem scaleRows_canonical :
    (∀ d a o p, AnswersCanonical (execKlds d a o p s)) ∧ (∀ d a o p, AnswersCanonical (execKldss d a o p s)) ∧
    (∀ d a o p, AnswersCanonical (execQsts d a o p s)) := by
  refine ⟨fun d a o p => operate_canonical h fun t ht => ?_, fun d a o p => operate_canonical h fun t ht => ?_,
    fun d a o p => operate_canonical h fun t ht => ?_⟩
  · split at ht
    · exact ht ▸ wfMemory_lateNow h ..
    · rw [ht, result_mem]
      exact h
  · split at ht
    · exact ht ▸ wfMemory_lateNow h ..
    · rw [ht, result_mem]
      exact h
  · split at ht
    · exact ht ▸ wfMemory_lateNow h ..
    · exact ht ▸ wfMemory_ownStore h (wfMemory_physWrite h ..) ..

theorem execCopyRack_canonical (e : Fin 16) (a b : SReg) (c : Fin 64) (p : Tag) : AnswersCanonical (execCopyRack e a b c p s) := by
  refine operate_canonical h fun t ht => ?_
  dsimp only at ht
  split at ht
  · exact ht ▸ wfMemory_lateNow h ..
  · split at ht
    · exact ht ▸ wfMemory_lateNow h ..
    · refine ht ▸ wfMemory_openTarget h (fun u _ _ hu => ?_) ..
      rw [addCopy_mem]
      exact hu

theorem execMstRack_canonical (e : Fin 16) (a b : SReg) (t : Fin 16) (p : Tag) : AnswersCanonical (execMstRack e a b t p s) := by
  refine operate_canonical h fun v hv => ?_
  dsimp only at hv
  split at hv
  · exact hv ▸ wfMemory_lateNow h ..
  · split at hv
    · exact hv ▸ wfMemory_lateNow h ..
    · split at hv
      · exact hv ▸ wfMemory_lateNow h ..
      · refine hv ▸ wfMemory_openTarget h (fun u _ _ hu => ?_) ..
        split <;> simp [hu]

theorem exec_canonical (i : Instr) : AnswersCanonical (exec i s) := by
  delta exec
  cases i with
  | ldi | cmp | cmpAnd | cmpi | pnot | pset | pclr | pfirst | pfroms | pcount | mfs | mts | loopi | brklp | waitc | fencel | fenceh
  | rft | svc | svcNop | svcLog | svcProbe | svcTouch | bt | bf | bany | ball | j | call | chk | jr
  | vadd | vsub | vmul | vfma | vfms | vfnma | vmin | vmax | vabs | vneg | vcmp | vand | vor | vxor | vshl | vshr | vsra | vsel | vadds | vmuls
  | vfmas | vbcast | vext | vins | vperm | vslide | viota | vcvt | kunp | kunpq | qpk | qpkq | frcp | frsq | fsqrt | fexp2
  | flog2 | fsin | fcos | ftanh | fsum | fmaxr | fminr | fscan | ewr | erd | unbind | mpri | twait
  | ldiLong | cmpiLong | loopiLong | vaddsLong | vmulsLong | vfmasLong | vbcastLong =>
    dsimp only
    exact operate_keeps h fun t ht => by simp [ht]
  | qamax =>
    dsimp only
    exact operate_keeps h fun t ht => ht ▸ result_mem ..
  | rkopen | rkpub | rktake | rkdrop =>
    dsimp only
    exact operate_keeps h fun t ht => ht ▸ sendUnit_mem ..
  | loop | yield | copy | bwait | mma | mmas | mld | mst | ready | unready | peel =>
    dsimp only
    refine operate_canonical h fun t ht => ?_
    dsimp only at ht
    repeat' split at ht
    all_goals simp [ht, h]
  | sels | binit | barv | mzero | mproof | spawn | tset | tdec | gsend | asend =>
    dsimp only
    refine operate_canonical h fun t ht => ?_
    repeat' split at ht
    all_goals simp [ht, h]
  | add | sub | and | or | xor | andn | shl | shr | sra | rol | min | max | minn | maxn | addw | subw | mul | mulh | mulhn =>
    dsimp only
    exact alu2_canonical h ..
  | clz | ctz | popc | bswap | addi | andi | ori | xori | shli | shri | srai | roli | addiLong | andiLong | oriLong | xoriLong | ldhi =>
    dsimp only
    exact alu1_canonical h ..
  | pand | por | pxor | pandn =>
    dsimp only
    exact plog_canonical h ..
  | trap | tend | bindIn | bindOut =>
    dsimp only
    exact operate_canonical h fun t ht => wfMemory_of_eq ht (by simp [h])
  | ldb | ldbn | ldh | ldhn | ldw | ldwn | ldd | ldbLong | ldbnLong | ldhLong | ldhnLong | ldwLong | ldwnLong | lddLong =>
    dsimp only
    exact operate_canonical h fun t ht => ht ▸ wfMemory_loadS h ..
  | vld | vldLong =>
    dsimp only
    exact operate_canonical h fun t ht => ht ▸ wfMemory_loadV h ..
  | stb | sth | stw | std | stbLong | sthLong | stwLong | stdLong | vst | vstLong =>
    dsimp only
    exact operate_canonical h fun t ht => ht ▸ wfMemory_store h ..
  | lds | ldsLong =>
    dsimp only
    exact operate_keeps h fun t ht => ht ▸ specLoadS_mem ..
  | vlds | vldsLong =>
    dsimp only
    exact operate_keeps h fun t ht => ht ▸ specLoadV_mem ..
  | vldb =>
    dsimp only
    exact execVldb_canonical h ..
  | vstb =>
    dsimp only
    exact execVstb_canonical h ..
  | vgath =>
    dsimp only
    exact operate_keeps h fun t ht => ht ▸ addReq_mem ..
  | vscat =>
    dsimp only
    exact execVscat_canonical h ..
  | klds | kldss | qsts => simp only [scaleRows_canonical h]
  | ldfe | ldfec | vldfe | vldfec | ldfeLong | ldfecLong | vldfeLong | vldfecLong =>
    dsimp only
    exact operate_keeps h fun t ht => ht ▸ feLoad_mem ..
  | stf | vstf | stfLong | vstfLong =>
    dsimp only
    exact operate_canonical h fun t ht => ht ▸ wfMemory_feStore h ..
  | pref | prefLong =>
    dsimp only
    exact operate_keeps h fun t ht => ht ▸ prefetch_mem ..
  | ldacq | strel | cas =>
    dsimp only
    exact operate_keeps h fun t ht => ht ▸ send_mem ..
  | atomAdd | atomMin | atomMax | atomMinn | atomMaxn | atomAnd | atomOr | atomXor | atomSwap =>
    dsimp only
    exact atom_canonical h ..
  | vatomAdd | vatomAnd | vatomOr | vatomMax =>
    dsimp only
    exact vatom_canonical h ..
  | copyRack =>
    dsimp only
    exact execCopyRack_canonical h ..
  | mstRack =>
    dsimp only
    exact execMstRack_canonical h ..
  | nop | exposedResultLand | timerExpiry => exact (answersCanonical_next _).2 h
  | loadImage =>
    dsimp only
    exact execLoadImage_canonical h ..
  | createJob =>
    dsimp only
    exact execCreateJob_canonical h ..
  | start =>
    dsimp only
    exact execStart_canonical h ..
  | signal =>
    dsimp only
    exact execSignal_canonical h ..
  | kill =>
    dsimp only
    exact execKill_canonical h ..
  | preempt =>
    dsimp only
    exact execPreempt_canonical h ..
  | resume =>
    dsimp only
    exact execResume_canonical h ..
  | copyIn | copyOut | setTolerance | queryPart | queryJob | queryBinding | queryClusterMap | queryAttestation | queryCertChain
  | queryErrorLog | peelRequest => simp only [queryRows_canonical h]
  | hostCopyComplete =>
    dsimp only
    exact execHostCopyComplete_canonical h ..
  | bootComplete =>
    dsimp only
    exact execBootComplete_canonical h ..
  | jobEnd =>
    dsimp only
    exact execJobEnd_canonical h ..
  | preemptImageWrite =>
    dsimp only
    exact execPreemptImageWrite_canonical h ..
  | deviceReset => exact execDeviceReset_canonical h
  | mgmtDataError =>
    dsimp only
    exact execMgmtDataError_canonical h ..
  | queueNotification | pin | unpin | configWrite | preemptStopTimeout | killGraceExpiry => simp only [hostRows_canonical h]
  | inboundPostedWrite | inboundPacketRelease | inboundPacketAck | inboundRead | wallBusRealignment | realignmentDeferralEnd
  | realignmentPauseEnd | flitArrival | linkRetrain | linkRetrainEnd | coltempRefresh | remoteAccessPerform | cxlPortTraining =>
    simp only [linkRows_canonical h]
  | poolTransactionTimeout | copyElementFault | copyElementReplay | copyComplete | copyFailure | copyByteReport | streamReadAhead
  | streamDrainWrite =>
    simp only [engineRows_canonical h]
  | writeAck | longResultLand | gatherBufferFlush | translationWalkComplete | routeStaleResend | fullEmptyRequestArrival =>
    simp only [requestRows_canonical h]
  | instructionFetchComplete | contextSelect | waitcEnd | contextIdle | fencehComplete | eventEntry | trapEntry | lateFaultDelivery
  | serviceContextEntry | serviceContextReturn | serviceDeadline =>
    simp only [stageRows_canonical h]
  | matrixCommandStart | matrixBoundary | matrixCommandComplete | mstComplete | matrixFetchFault | matrixPriorityAgeing | mstTileRead =>
    simp only [matrixRows_canonical h]
  | handoverQueueDrain | handoverWriteback | handoverTlbInvalidate | handoverOwnerFlip =>
    dsimp only
    exact advance_canonical h fun _ _ hu => hu
  | handoverHeldRequests =>
    dsimp only
    exact advance_canonical h fun u x hu => wfMemory_performAllHeld (s := { u with ghosts := u.ghosts.map (ghostToward u _ x.toDie) }) hu ..
  | handoverStopAndHold | handoverComplete | barrierArrival | barvPhaseReturn | rackControllerOperation | barrierUnitRequest =>
    simp only [unitRows_canonical h]
  | counterDecrement | taskStart | taskPriorityAgeing | launchArrival | asendRemoteArrival | launchAcknowledgement =>
    simp only [taskRows_canonical h]
  | readinessUpdate | groupMessageSteer | memberCoreDelivery | groupBounce | refreshAnswer | parkRelease | groupMessageAck =>
    simp only [groupRows_canonical h]
  | scrubPass | powerStateEntry | powerStateWake | layerEmergencyOff | serviceStoreReload | serviceStoreReloadDone =>
    simp only [errorRows_canonical h]
end

end Sys2Proof.Machine
end

section
/-! SUPPORT. Every step keeps the canonical form of memory, and the state after reset has it. -/

namespace Sys2Proof.Machine

/-! ## A turn of an issue stage -/

theorem runOps_canonical (l : List Op) {s : State} (h : wfMemory s.mem = true) : AnswersCanonical (runOps exec l s) := by
  induction l generalizing s with
  | nil => exact (answersCanonical_next s).2 h
  | cons x l ih =>
    obtain ⟨u, hu⟩ := exec_next x.2 { s with cur := { s.cur with pos := x.1 } }
    have at' : wfMemory ({ s with cur := { s.cur with pos := x.1 } } : State).mem = true := h
    have ran := exec_canonical at' x.2
    rw [hu, answersCanonical_next] at ran
    rw [runOps, hu]
    exact ih ran

section
variable {s : State} (h : wfMemory s.mem = true)
include h

theorem issueGo_canonical (k : Nat) (b : Bundle) (taken : Option Nat) : AnswersCanonical (issueGo exec s k b taken) := by
  have hs (ex : List Op) : wfMemory (begun s k b.len ex).mem = true := by
    rw [begun_mem]
    exact h
  have within (ex l : List Op) : AnswersCanonical (if b.slots.isEmpty then exec (.nop (if b.stop then 1 else 0)) (begun s k b.len ex)
      else runOps exec l (begun s k b.len ex)) := by
    split
    · exact exec_canonical (hs ex) _
    · exact runOps_canonical l (hs ex)
  unfold issueGo
  dsimp only
  split
  · next t ht =>
    have ran := within (executing taken (opsOf b)) (testsOf (opsOf b) ++ mainOf (opsOf b))
    rw [ht, answersCanonical_next] at ran
    have after : wfMemory (retire t b.stop ((executing taken (opsOf b)).flatMap (opWrites (ctxAt s k) taken))).mem = true := by
      rw [retire_mem]
      exact ran
    split
    · next u hu =>
      have done := runOps_canonical (postOf (opsOf b)) after
      rw [hu, answersCanonical_next] at done
      exact (answersCanonical_next _).2 done
    · exact runOps_canonical _ after
  · exact within ..

theorem issueTrap_canonical (k : Nat) (f : FaultRec) : AnswersCanonical (issueTrap s k f) := by
  have at' : wfMemory (onCtx s k fun c => { c with trap := some f }).mem = true := by
    rw [onCtx_mem]
    exact h
  exact exec_canonical at' (.trapEntry k)

theorem issueBundle_canonical (k : Nat) (b : Bundle) : AnswersCanonical (issueBundle exec s k b) := by
  simp only [issueBundle]
  repeat' split
  · simp [h]
  · exact issueGo_canonical h ..
  · simp [h]
  · exact issueTrap_canonical h ..
  · simp [h]

theorem issueNext_canonical (k : Nat) : AnswersCanonical (issueNext exec s k) := by
  unfold issueNext
  repeat' split
  all_goals simp [h, issueTrap_canonical, issueBundle_canonical]

theorem moveCtx_canonical (k : Nat) : AnswersCanonical (moveCtx exec s k) := by
  unfold moveCtx
  dsimp only
  repeat' split
  all_goals simp [h, execExposedResultLand, stageRows_canonical, issueNext_canonical]

theorem issueStage_canonical (n : Nat) : AnswersCanonical (issueStage exec n s) := by
  simp only [issueStage]
  repeat' split
  all_goals simp [h, stageRows_canonical, moveCtx_canonical]

end

/-! ## The model's own schedule: every move is a row, or takes the chains that no queue can serve -/

/-- Every move of the list keeps the canonical form. -/
def AllKeep (l : List Move) : Prop := ∀ m ∈ l, ∀ s, wfMemory s.mem = true → AnswersCanonical (m s)

theorem allKeep_row {m : Move} (i : Instr) (hm : ∀ s, m s = exec i s) : AllKeep [m] := by
  intro x hx s hs
  rw [List.mem_singleton.mp hx, hm]
  exact exec_canonical hs i

theorem allKeep_append {l m : List Move} (h : AllKeep l) (g : AllKeep m) : AllKeep (l ++ m) :=
  fun x hx => (List.mem_append.mp hx).elim (h x) (g x)

theorem allKeep_flatMap {α : Type} {f : α → List Move} (h : ∀ a, AllKeep (f a)) (l : List α) : AllKeep (l.flatMap f) := fun x hx =>
  let ⟨a, _, ha⟩ := List.mem_flatMap.mp hx
  h a x ha

theorem allKeep_map {α : Type} {f : α → Move} (i : α → Instr) (hi : ∀ a s, f a s = exec (i a) s) (l : List α) : AllKeep (l.map f) := by
  intro x hx s hs
  obtain ⟨a, -, rfl⟩ := List.mem_map.mp hx
  rw [hi]
  exact exec_canonical hs _

theorem queueMoves_keep (s : State) (q : Nat) : AllKeep (queueMoves s q) := by
  unfold queueMoves
  split
  · simp [AllKeep]
  · next c _ =>
    split
    · simp +contextual [AllKeep]
    · exact allKeep_row (.loadImage q c) fun _ => rfl
    · exact allKeep_row (.createJob q c) fun _ => rfl
    · exact allKeep_row (.start q c) fun _ => rfl
    · exact allKeep_row (.signal q c) fun _ => rfl
    · exact allKeep_row (.preempt q c) fun _ => rfl
    · exact allKeep_row (.resume q c) fun _ => rfl
    · exact allKeep_row (.kill q c) fun _ => rfl
    · exact allKeep_row (.copyIn q c) fun _ => rfl
    · exact allKeep_row (.copyOut q c) fun _ => rfl
    · exact allKeep_row (.setTolerance q c) fun _ => rfl
    · exact allKeep_row (.queryPart q c) fun _ => rfl
    · exact allKeep_row (.queryJob q c) fun _ => rfl
    · exact allKeep_row (.queryBinding q c) fun _ => rfl
    · exact allKeep_row (.queryClusterMap q c) fun _ => rfl
    · exact allKeep_row (.queryAttestation q c) fun _ => rfl
    · exact allKeep_row (.queryCertChain q c) fun _ => rfl
    · exact allKeep_row (.queryErrorLog q c) fun _ => rfl
    · exact allKeep_row (.peelRequest q c) fun _ => rfl

theorem reqMoves_keep (r : Req) : AllKeep (reqMoves r) := by
  simp +contextual [AllKeep, reqMoves, requestRows_canonical, unitRows_canonical, taskRows_canonical, groupRows_canonical,
    linkRows_canonical]

theorem copyMoves_keep (c : Copy) : AllKeep (copyMoves c) := by
  unfold copyMoves
  refine allKeep_append (allKeep_append ?_ (allKeep_map (fun x : Nat × Bool => .copyElementReplay c.id x.1) (fun _ _ => rfl) _)) ?_
  · simp +contextual [AllKeep, engineRows_canonical, linkRows_canonical]
  · simp +contextual [AllKeep, engineRows_canonical]

theorem coreMoves_keep (s : State) (n : Nat) : AllKeep (coreMoves s n) := by
  unfold coreMoves
  refine allKeep_append (allKeep_append (allKeep_append ?_ (allKeep_flatMap (fun _ => ?_) _))
    (allKeep_map (fun m : MatrixCmd => .matrixPriorityAgeing n m.id) (fun _ _ => rfl) _))
    (allKeep_map (fun i : Nat => .taskPriorityAgeing n i) (fun _ _ => rfl) _)
  · simp +contextual [AllKeep, stageRows_canonical, taskRows_canonical, matrixRows_canonical]
  · simp +contextual [AllKeep, linkRows_canonical, matrixRows_canonical]

theorem ctxMoves_keep (s : State) (k : Nat) : AllKeep (ctxMoves s k) := by
  unfold ctxMoves
  refine allKeep_append (allKeep_append ?_ ?_) (allKeep_flatMap (fun _ => ?_) _)
  · split <;> simp +contextual [AllKeep, stageRows_canonical]
  · simp +contextual [AllKeep, execTimerExpiry, stageRows_canonical]
  · simp +contextual [AllKeep, engineRows_canonical]

theorem ghostMoves_keep (r : Req) : AllKeep (ghostMoves r) := by
  simp +contextual [AllKeep, ghostMoves, requestRows_canonical]

theorem jobMoves_keep (j : Job) : AllKeep (jobMoves j) := by
  refine allKeep_append ?_ (allKeep_map (fun g : Nat => .parkRelease j.id g) (fun _ _ => rfl) _)
  simp +contextual [AllKeep, hostRows_canonical, execJobEnd_canonical, execPreemptImageWrite_canonical]

theorem messageMoves_keep (m : Message) : AllKeep (messageMoves m) := by
  simp +contextual [AllKeep, messageMoves, groupRows_canonical]

theorem updateMoves_keep (u : Update) : AllKeep (updateMoves u) := by
  simp +contextual [AllKeep, updateMoves, groupRows_canonical]

theorem handoverMoves_keep (x : Handover) : AllKeep (handoverMoves x) := by
  have drain := allKeep_row (.handoverQueueDrain x.stack) fun _ => rfl
  have writeback := allKeep_row (.handoverWriteback x.stack) fun _ => rfl
  have tlb := allKeep_row (.handoverTlbInvalidate x.stack) fun _ => rfl
  have flip := allKeep_row (.handoverOwnerFlip x.stack) fun _ => rfl
  have held := allKeep_row (.handoverHeldRequests x.stack) fun _ => rfl
  have start := allKeep_row (.handoverStopAndHold x.stack) fun _ => rfl
  have complete := allKeep_row (.handoverComplete x.stack) fun _ => rfl
  exact allKeep_append start (allKeep_append drain (allKeep_append writeback (allKeep_append tlb (allKeep_append flip
    (allKeep_append held complete)))))

theorem inboundMoves_keep (s : State) : AllKeep (inboundMoves s) := by
  refine allKeep_append (allKeep_flatMap (fun _ => ?_) _)
    (allKeep_map (fun r : InboundRead => .inboundRead r.requester r.offset r.len r.tag) (fun _ _ => rfl) _)
  simp +contextual [AllKeep, linkRows_canonical]

theorem columnMoves_keep (s : State) (die col : Nat) : AllKeep (columnMoves s die col) := by
  refine allKeep_append ?_ ?_
  · simp +contextual [AllKeep, linkRows_canonical]
  · split <;> simp +contextual [AllKeep, errorRows_canonical]

theorem linkMoves_keep (s : State) (l : Nat) : AllKeep (linkMoves s l) := by
  unfold linkMoves
  split <;> simp +contextual [AllKeep, linkRows_canonical]

theorem timerMoves_keep (n : Nat) :
    AllKeep [execTimerExpiry (4 * n), execTimerExpiry (4 * n + 1), execTimerExpiry (4 * n + 2), execTimerExpiry (4 * n + 3)] := by
  simp +contextual [AllKeep, execTimerExpiry]

/-- Every step of the part but those of the issue stages. -/
theorem partMoves_keep (s : State) : AllKeep (partMoves s) := by
  unfold partMoves
  have boot := allKeep_row (.bootComplete true) fun _ => rfl
  have timers := allKeep_append boot (allKeep_flatMap timerMoves_keep (runningCores s))
  have queues := allKeep_flatMap (queueMoves_keep s) (s.queues.map (·.1))
  have hostCopies := allKeep_map (fun h : HostCopy => .hostCopyComplete h.id) (fun _ _ => rfl) s.hostCopies
  have inbox := allKeep_map (fun m : RemoteSend => .asendRemoteArrival m) (fun _ _ => rfl) s.inbox
  have cores := allKeep_flatMap (coreMoves_keep s) (runningCores s)
  have contexts := allKeep_flatMap (fun n => allKeep_flatMap (fun i => ctxMoves_keep s (4 * n + i)) (List.range 4)) (runningCores s)
  have columns := allKeep_flatMap (fun d => allKeep_flatMap (fun c => columnMoves_keep s d c) (List.range 25)) (List.range 4)
  have engines := allKeep_append (allKeep_append (allKeep_append (allKeep_append (allKeep_append timers queues)
    (allKeep_flatMap reqMoves_keep s.reqs)) (allKeep_flatMap ghostMoves_keep s.ghosts)) (allKeep_flatMap copyMoves_keep s.copies)) hostCopies
  have messages := allKeep_append (allKeep_append (allKeep_append (allKeep_append (allKeep_append engines
    (allKeep_flatMap messageMoves_keep s.messages)) (allKeep_flatMap updateMoves_keep s.updates))
    (allKeep_flatMap handoverMoves_keep s.handovers)) inbox) (inboundMoves_keep s)
  exact allKeep_append (allKeep_append (allKeep_append (allKeep_append (allKeep_append messages cores) contexts)
    (allKeep_flatMap jobMoves_keep _)) (allKeep_flatMap (linkMoves_keep s) _)) columns

/-! ## A step -/

section
variable {s : State} (h : wfMemory s.mem = true)
include h

theorem defaultTurn_canonical : AnswersCanonical (defaultTurn exec s) := by
  unfold defaultTurn
  split
  case h_1 a ha =>
    obtain ⟨m, hm, rfl⟩ := firstMove_mem ha
    exact partMoves_keep s m hm s h
  case h_2 =>
    cases ha : firstMove s (stageMoves exec s) with
    | none => exact (answersCanonical_next _).2 h
    | some a =>
      obtain ⟨m, hm, rfl⟩ := firstMove_mem ha
      obtain ⟨n, -, rfl⟩ := List.mem_map.mp hm
      exact issueStage_canonical h n

theorem runTurn_canonical (t : Turn) : AnswersCanonical (runTurn exec t s) := by
  cases t with
  | row i =>
    unfold runTurn
    dsimp only
    split
    · exact (answersCanonical_next _).2 h
    · exact exec_canonical h i
  | issue n => exact issueStage_canonical h n
  | pass c => exact (answersCanonical_next _).2 h
  | hostWrite a l => exact (answersCanonical_next _).2 (wfMemory_writeMasked h ..)
  | hostMaps l => exact (answersCanonical_next _).2 h

omit h in
/-- What a step does beside its turn keeps the form too. -/
theorem stepped_canonical {a : Answer} (ha : AnswersCanonical a) : AnswersCanonical (stepped s a) := by
  cases a with
  | next t => exact (answersCanonical_next _).2 (wfMemory_noteStep ((answersCanonical_next t).1 ha) s)
  | fault f => exact ha
  | refused r => exact ha

theorem step_canonical : AnswersCanonical (step s) := by
  unfold step
  split
  · exact stepped_canonical (defaultTurn_canonical h)
  · next t l _ => exact stepped_canonical (runTurn_canonical (s := { s with agenda := l }) h t)

end

/-- Settles O58: every turn keeps memory's canonical form, and so does what a step does beside its turn. -/
theorem stepKeepsMemoryCanonical : Obligations.StepKeepsMemoryCanonical := by
  intro s t hs ht
  have kept := step_canonical hs
  rw [ht, answersCanonical_next] at kept
  exact kept

/-- Settles O59, by evaluation of the reset state. -/
theorem resetMemoryCanonical : Obligations.ResetMemoryCanonical := rfl

end Sys2Proof.Machine
end

section
/-! SUPPORT. The loads and stores of the own slice and of elsewhere (10 R224-R230). -/

namespace Sys2Proof.Machine

/-! ## Requests and late faults of the operation now issuing -/

/-- Any late fault: a UE of a task that is retried ends the job (23 R405). -/
theorem findsLate_fault (i : Instr) (s : State) (c : Cause) (x : Word) : FindsLate i s (afterOp i s (lateNow s c x)) c x := by
  by_cases ends : c = .ue ∧ retriedTask s s.cur.key = true
  · rw [FindsLate, if_pos ends]
    have aborts : lateNow s c x = abortJob s ((coreAt s (s.cur.key / 4)).job.getD 0) (some 0x84) := if_pos ends
    obtain ⟨pops, after⟩ := afterOp_eq i s (lateNow s c x)
    obtain ⟨ended, coded⟩ := abortJob_endsJob s (s.cur.key / 4) 0x84
    rw [← aborts] at ended coded
    rw [after]
    cases commits s s.cur.key i <;> exact ⟨ended, coded⟩
  · have found : lateNow s c x = onCtx s s.cur.key fun y => foundBy { y with late := y.late ++ [faultNow s c x true] } :=
      lateFault_found ⟨rfl, rfl, rfl, rfl, rfl⟩ ends rfl
    rw [FindsLate, if_neg ends]
    refine ⟨?_, afterOp_onlyContext i s (found ▸ onlyContext_onCtx ..)⟩
    rw [afterOp_ctx, found, ctxAt_onCtx_same, foundBy_committed, committed_foundBy]
    rfl

/-- What a request carries is neither its status nor the way it takes. -/
theorem sendReq_eq (s : State) (r : Req) : ∃ status ways left, sendReq s r = { r with status := status, ways := ways, left := left } := by
  unfold sendReq
  repeat' split
  all_goals exact ⟨_, _, _, rfl⟩

/-- A gathered store is the store, in the line of another perhaps. -/
theorem gathered_eq (s : State) (r : Req) : ∃ line, gathered s r = { r with line := line } := by
  unfold gathered
  repeat' split
  all_goals exact ⟨_, rfl⟩

theorem carries_sendReq (s : State) (i : Instr) (x : Word) : Carries s (sendReq s (newReq s i x)) i x 0 0 0 0 := by
  obtain ⟨status, ways, left, h⟩ := sendReq_eq s (newReq s i x)
  rw [h]
  exact ⟨rfl, rfl, rfl, rfl, rfl, rfl, rfl, rfl, rfl, rfl, rfl, rfl, rfl, rfl⟩

/-! ## An access of the own slice -/

theorem ownView_write (s : State) : ownView s true = s := if_pos rfl

theorem ownLoad_lands {s : State} {x : Word} {o n : Nat} (h : physFate (asIssued s) (slicePhys (s.cur.key / 4) o) x.toNat n n false = none)
    (land : State → Nat → State) (fail : State → Cause → Word → State) :
    ownLoad s x o n land fail = land s (readLE (asIssued s).mem (slicePhys (s.cur.key / 4) o) n) := by
  simp only [ownLoad, h, physRead]

theorem ownLoad_fails {s : State} {x : Word} {o n : Nat} {c : Cause} {a : Word}
    (h : physFate (asIssued s) (slicePhys (s.cur.key / 4) o) x.toNat n n false = some (c, a))
    (land : State → Nat → State) (fail : State → Cause → Word → State) : ownLoad s x o n land fail = fail s c a := by
  simp only [ownLoad, h]

section
variable {i : Instr} {p : Tag} {n : Nat} {x : State → Word}

/-- A load of a scalar: what lands, where it faults, and how it leaves the core. -/
theorem loadsScalar_loadS {d : SReg} {ext : Nat → Word} (hx : loadedScalar i = ext)
    (he : ∀ s, exec i s = operate i p s fun s => loadS i d (x s) n s) (hc : ∀ s, commits s s.cur.key i = false)
    (hr : isRelease i = false) : LoadsScalar i p d n x ext := by
  subst hx
  refine ⟨fun s pa h ⟨o, ho, hpa, hf⟩ => ?_, fun s c a h ⟨o, ho, hf⟩ => ?_, fun s h ho => ?_⟩
  all_goals have run : exec i s = .next (afterOp i s (loadS i d (x s) n s)) := (he s).trans (operate_issues h _)
  · subst hpa
    rw [loadS_eq, ho, Option.elim_some, ownLoad_lands hf] at run
    exact ⟨_, run, sendsScalar_resultS _ _ _ _ _ _ (hc s)⟩
  · rw [loadS_eq, ho, Option.elim_some, ownLoad_fails hf] at run
    exact ⟨_, run, findsLate_fault ..⟩
  · rw [loadS_eq, ho, Option.elim_none] at run
    exact ⟨_, _, run, requests_send hr, carries_sendReq ..⟩

theorem loadsVector_loadV {d : VReg} (he : ∀ s, exec i s = operate i p s fun s => loadV i d (x s) s) (hr : isRelease i = false) :
    LoadsVector i p d x := by
  refine ⟨fun s pa h ⟨o, ho, hpa, hf⟩ => ?_, fun s c a h ⟨o, ho, hf⟩ => ?_, fun s h ho => ?_⟩
  all_goals have run : exec i s = .next (afterOp i s (loadV i d (x s) s)) := (he s).trans (operate_issues h _)
  · subst hpa
    rw [loadV_eq, ho, Option.elim_some, ownLoad_lands hf] at run
    exact ⟨_, run, sends_result ..⟩
  · rw [loadV_eq, ho, Option.elim_some, ownLoad_fails hf] at run
    exact ⟨_, run, findsLate_fault ..⟩
  · rw [loadV_eq, ho, Option.elim_none] at run
    exact ⟨_, _, run, requests_send hr, carries_sendReq ..⟩

/-- A store: into the own slice, behind what reads those bytes in its bundle, or away. -/
theorem storesOrSends_store {v : State → Nat} (he : ∀ s, exec i s = operate i p s fun s => store i (x s) n (v s) s)
    (hr : isRelease i = false) : StoresOrSends i p n x v := by
  refine ⟨fun s pa hm h ⟨o, ho, hpa, hf⟩ late => ?_, fun s pa h ⟨o, ho, hpa, hf⟩ late => ?_, fun s c a h ⟨o, ho, hf⟩ => ?_,
    fun s h ho => ?_⟩
  all_goals have run : exec i s = .next (afterOp i s (store i (x s) n (v s) s)) := (he s).trans (operate_issues h _)
  · subst hpa
    rw [ownView_write] at hf
    rw [store_eq, ho, Option.elim_some, hf, Option.elim_none, ownStore_write late] at run
    exact ⟨_, run, stores_physWrite hm ..⟩
  · subst hpa
    rw [ownView_write] at hf
    rw [store_eq, ho, Option.elim_some, hf, Option.elim_none, ownStore_request late] at run
    exact ⟨_, _, run, requests_addReq hr, ⟨rfl, rfl, rfl, rfl, rfl, rfl, rfl, rfl, rfl, rfl, rfl, rfl, rfl, rfl⟩, rfl⟩
  · rw [ownView_write] at hf
    rw [store_eq, ho, Option.elim_some, hf, Option.elim_some] at run
    exact ⟨_, run, findsLate_fault ..⟩
  · rw [store_eq, ho, Option.elim_none] at run
    obtain ⟨line, hl⟩ := gathered_eq s { newReq s i (x s) with vec1 := BitVec.ofNat 2048 (v s), status := .gathered }
    rw [hl] at run
    exact ⟨_, _, run, requests_addReq hr, ⟨rfl, rfl, rfl, rfl, rfl, rfl, rfl, rfl, rfl, rfl, rfl, rfl, rfl, rfl⟩, rfl⟩

end

/-- Settles O12: every scalar load is `loadS` at its address, with its size and extension. -/
theorem scalarLoads : Obligations.ScalarLoads := by
  intro d a o m p short long b h w u
  refine ⟨?_, ?_, ?_, ?_, ?_, ?_, ?_, ?_, ?_, ?_, ?_, ?_, ?_, ?_⟩
  all_goals
    refine loadsScalar_loadS rfl (fun _ => rfl) (fun _ => ?_) rfl
    simp only [commits, plainAccess, Bool.false_and]

/-- Settles O13: every scalar store is one store of the own slice, or the request of one. -/
theorem scalarStores : Obligations.ScalarStores := by
  intro d a o m p short long v
  refine ⟨?_, ?_, ?_, ?_, ?_, ?_, ?_, ?_⟩
  all_goals exact storesOrSends_store (fun _ => rfl) rfl

/-! ## Banks (10 R230) -/

/-- The offset of a bank's unit in its slice, as R230 writes it. -/
def unitOffset (s : State) (b : Fin 32) (a : SReg) (u : Fin 64) : Nat := 131072 * b.val + 256 * (readS s a + BitVec.ofNat 64 u.val).toNat

/-- The address of a bank's unit in the window of the slice. -/
def unitAddr (s : State) (b : Fin 32) (a : SReg) (u : Fin 64) : Word :=
  BitVec.ofNat 64 (windowAddr (coreAt s (s.cur.key / 4)).logical (unitOffset s b a u))

theorem bankAddr_eq (s : State) (b : Fin 32) (a : SReg) (u : Fin 64) : bankAddr s b a u = (unitAddr s b a u, unitOffset s b a u) := by
  unfold bankAddr unitAddr unitOffset
  rw [Nat.mul_comm b.val]

theorem unitAddr_toNat (s : State) (b : Fin 32) (a : SReg) (u : Fin 64) :
    (unitAddr s b a u).toNat = windowAddr (coreAt s (s.cur.key / 4)).logical (unitOffset s b a u) % 2 ^ 64 := BitVec.toNat_ofNat ..

/-- The fate that an access of a bank's unit meets. -/
def unitFate (s : State) (b : Fin 32) (a : SReg) (u : Fin 64) (write : Bool) : Option (Cause × Word) :=
  physFate (ownView s write) (slicePhys (s.cur.key / 4) (unitOffset s b a u))
    (windowAddr (coreAt s (s.cur.key / 4)).logical (unitOffset s b a u) % 2 ^ 64) 256 256 write

section
variable (d : VReg) (b : Fin 32) (a : SReg) (u : Fin 64) (p : Tag) {s : State}

theorem vldb_runs (h : Issues (.vldb d b a u p) p s) : exec (.vldb d b a u p) s = .next (afterOp (.vldb d b a u p) s
    (ownLoad s (unitAddr s b a u) (unitOffset s b a u) 256
      (fun s v => resultV s d 4 (BitVec.ofNat 2048 v) (BitVec.allOnes 2048) false 0) lateNow)) := by
  show execVldb d b a u p s = _
  rw [execVldb, operate_issues h, bankAddr_eq]

theorem vstb_runs (h : Issues (.vstb d b a u p) p s) : exec (.vstb d b a u p) s = .next (afterOp (.vstb d b a u p) s
    ((unitFate s b a u true).elim
      (ownStore (.vstb d b a u p) (unitAddr s b a u) 256 (readV s d).toNat
        (physWrite · (slicePhys (s.cur.key / 4) (unitOffset s b a u)) 256 (readV s d).toNat) s) fun e => lateNow s e.1 e.2)) := by
  have addr : unitAddr s b a u = (bankAddr s b a u).1 := by rw [bankAddr_eq]
  have offset : unitOffset s b a u = (bankAddr s b a u).2 := by rw [bankAddr_eq]
  rw [unitFate, ownView_write, ← unitAddr_toNat, addr, offset]
  show execVstb d b a u p s = _
  rw [execVstb, operate_issues h]
  generalize bankAddr s b a u = q
  dsimp only
  generalize physFate s (slicePhys (s.cur.key / 4) q.2) q.1.toNat 256 256 true = e
  cases e <;> rfl

end

/-- Settles O14: the bank forms are accesses of the own slice at the unit they name. -/
theorem vectorLoadsAndStores : Obligations.VectorLoadsAndStores := by
  intro d a o m b u p short long v off inBank fate
  refine ⟨loadsVector_loadV (fun _ => rfl) rfl, loadsVector_loadV (fun _ => rfl) rfl, storesOrSends_store (fun _ => rfl) rfl,
    storesOrSends_store (fun _ => rfl) rfl, fun s h _ hf => ?_, fun s hm h _ (hf : unitFate s b a u true = none)
      (late : meetsLate s (unitAddr s b a u).toNat 256 = false) => ?_,
    fun s h _ (hf : unitFate s b a u true = none) (late : meetsLate s (unitAddr s b a u).toNat 256 = true) => ?_,
    fun s c x _ => ⟨fun h hf => ?_, fun h (hf : unitFate s b a u true = some (c, x)) => ?_⟩⟩
  · have run := vldb_runs d b a u p h
    rw [ownLoad_lands (by rw [unitAddr_toNat]; exact hf)] at run
    exact ⟨_, run, sends_result ..⟩
  · have run := vstb_runs d b a u p h
    rw [hf, Option.elim_none, ownStore_write late] at run
    exact ⟨_, run, stores_physWrite hm ..⟩
  · have run := vstb_runs d b a u p h
    rw [hf, Option.elim_none, ownStore_request late] at run
    exact ⟨_, _, run, requests_addReq rfl, ⟨rfl, rfl, rfl, rfl, rfl, rfl, rfl, rfl, rfl, rfl, rfl, rfl, rfl, rfl⟩, rfl⟩
  · have run := vldb_runs d b a u p h
    rw [ownLoad_fails (c := c) (a := x) (by rw [unitAddr_toNat]; exact hf)] at run
    exact ⟨_, run, findsLate_fault ..⟩
  · have run := vstb_runs d b a u p h
    rw [hf, Option.elim_some] at run
    exact ⟨_, run, findsLate_fault ..⟩

/-! ## Speculative loads (10 R229) -/

section
variable (i : Instr) (a : SReg) (x : Word) (s : State)

theorem specLoadS_eq (d : SReg) : specLoadS i d a x s = bif deferS s a then resultS s d 4 0 true
    else (ownOffset s s.cur.key x 8).elim (send s (newReq s i x)) fun o =>
      ownLoad s x o 8 (fun s v => resultS s d 4 (BitVec.ofNat 64 v) false) fun s _ _ => resultS s d 4 0 true := by
  obtain ⟨f, hf⟩ : ∃ f, f = specLoadS := ⟨_, rfl⟩
  rw [← hf]
  delta specLoadS at hf
  subst hf
  beta_reduce
  cases deferS s a <;> cases ownOffset s s.cur.key x 8 <;> rfl

theorem specLoadV_eq (d : VReg) : specLoadV i d a x s = bif deferS s a then resultV s d 4 0 (BitVec.allOnes 2048) true 0
    else (ownOffset s s.cur.key x 256).elim (send s (newReq s i x)) fun o =>
      ownLoad s x o 256 (fun s v => resultV s d 4 (BitVec.ofNat 2048 v) (BitVec.allOnes 2048) false 0)
        fun s _ _ => resultV s d 4 0 (BitVec.allOnes 2048) true 0 := by
  obtain ⟨f, hf⟩ : ∃ f, f = specLoadV := ⟨_, rfl⟩
  rw [← hf]
  delta specLoadV at hf
  subst hf
  beta_reduce
  cases deferS s a <;> cases ownOffset s s.cur.key x 256 <;> rfl

end

/-- Where a speculative load fails it gives `fail`, whatever the fate. -/
theorem speculative_fails {s : State} {a : SReg} {x : Word} {n : Nat} {away zero : State} {land : State → Nat → State}
    {fail : State → Cause → Word → State} (hz : ∀ c y, fail s c y = zero)
    (h : deferS s a = true ∨ ∃ c y, OwnFate s x n false c y) :
    (bif deferS s a then zero else (ownOffset s s.cur.key x n).elim away fun o => ownLoad s x o n land fail) = zero := by
  obtain hd | ⟨c, y, o, ho, hf⟩ := h
  · rw [hd, cond_true]
  · rw [ho, Option.elim_some, ownLoad_fails hf, hz, Bool.cond_self]

/-- Settles O15: a deferred base and a fate give the same zero, a place gives its bytes, elsewhere the load leaves. -/
theorem speculativeLoads : Obligations.SpeculativeLoads := by
  intro d a e o m p scalar vector
  have scalarForm {i : Instr} {x : State → Word} (he : ∀ s, exec i s = operate i p s fun s => specLoadS i d a (x s) s)
      (hc : ∀ s, commits s s.cur.key i = false) (hr : isRelease i = false) : scalar i x := by
    refine ⟨fun s h fails => ?_, fun s pa h hd ⟨o, ho, hpa, hf⟩ => ?_, fun s h hd ho => ?_⟩
    all_goals
      have run : exec i s = .next (afterOp i s (specLoadS i d a (x s) s)) := (he s).trans (operate_issues h _)
      rw [specLoadS_eq] at run
    · rw [speculative_fails (fail := fun s _ _ => resultS s d 4 0 true) (fun _ _ => rfl) fails] at run
      exact ⟨_, run, sendsScalar_resultS _ _ _ _ _ _ (hc s)⟩
    · subst hpa
      rw [hd, cond_false, ho, Option.elim_some, ownLoad_lands hf] at run
      exact ⟨_, run, sendsScalar_resultS _ _ _ _ _ _ (hc s)⟩
    · rw [hd, cond_false, ho, Option.elim_none] at run
      exact ⟨_, _, run, requests_send hr, carries_sendReq ..⟩
  have vectorForm {i : Instr} {x : State → Word} (he : ∀ s, exec i s = operate i p s fun s => specLoadV i e a (x s) s)
      (hr : isRelease i = false) : vector i x := by
    refine ⟨fun s h fails => ?_, fun s pa h hd ⟨o, ho, hpa, hf⟩ => ?_, fun s h hd ho => ?_⟩
    all_goals
      have run : exec i s = .next (afterOp i s (specLoadV i e a (x s) s)) := (he s).trans (operate_issues h _)
      rw [specLoadV_eq] at run
    · rw [speculative_fails (fail := fun s _ _ => resultV s e 4 0 (BitVec.allOnes 2048) true 0) (fun _ _ => rfl) fails] at run
      exact ⟨_, run, sends_result ..⟩
    · subst hpa
      rw [hd, cond_false, ho, Option.elim_some, ownLoad_lands hf] at run
      exact ⟨_, run, sends_result ..⟩
    · rw [hd, cond_false, ho, Option.elim_none] at run
      exact ⟨_, _, run, requests_send hr, carries_sendReq ..⟩
  refine ⟨scalarForm (fun _ => rfl) (fun _ => ?_) rfl, scalarForm (fun _ => rfl) (fun _ => ?_) rfl, vectorForm (fun _ => rfl) rfl,
    vectorForm (fun _ => rfl) rfl⟩
  all_goals simp only [commits, plainAccess, Bool.false_and]

end Sys2Proof.Machine
end

section
/-! SUPPORT. Gather and scatter (10 R231). -/

namespace Sys2Proof.Machine

/-! ## What a gather finds in the own slice (10 R231) -/

/-- Lane `i` lies in the own slice, at offset `o`. -/
def LaneAt (s : State) (base : Word) (off : VWord) (z i o : Nat) : Prop :=
  ownOffset s s.cur.key (BitVec.ofNat 64 (laneAddr base off z i)) z = some o

/-- The fate of a lane at offset `o` of the own slice, as the bundle issues. -/
def laneFate (s : State) (base : Word) (off : VWord) (z i o : Nat) : Option (Cause × Word) :=
  physFate (asIssued s) (slicePhys (s.cur.key / 4) o) (laneAddr base off z i) z z false

section
variable {s : State} {base : Word} {off : VWord} {z i o : Nat}

theorem ownLaneRead_eq (h : LaneAt s base off z i o) : ownLaneRead s base off z i =
    (laneFate s base off z i o).elim (.ok (readLE (asIssued s).mem (slicePhys (s.cur.key / 4) o) z)) .error := by
  obtain ⟨f, hf⟩ : ∃ f, f = ownLaneRead := ⟨_, rfl⟩
  rw [← hf, laneFate]
  delta ownLaneRead at hf
  subst hf
  beta_reduce
  dsimp only
  unfold LaneAt at h
  rw [h, Option.getD_some]
  generalize slicePhys (s.cur.key / 4) o = pa
  generalize physFate (asIssued s) pa (laneAddr base off z i) z z false = e
  cases e <;> rfl

theorem ownLane_iff : ownLane s s.cur.key base off z i = true ↔ ∃ o, LaneAt s base off z i o := Option.isSome_iff_exists

theorem ownLanesFate_none {l : List Nat} :
    ownLanesFate s base off z l = none ↔ ∀ i ∈ l, ∀ o, LaneAt s base off z i o → laneFate s base off z i o = none := by
  unfold ownLanesFate
  rw [List.findSome?_eq_none_iff]
  refine ⟨fun h i hi o ho => ?_, fun h i hi => ?_⟩
  · have found := h i (List.mem_filter.mpr ⟨hi, ownLane_iff.mpr ⟨o, ho⟩⟩)
    rw [ownLaneRead_eq ho] at found
    cases hf : laneFate s base off z i o with
    | none => rfl
    | some e =>
      rw [hf] at found
      cases found
  · obtain ⟨hi, own⟩ := List.mem_filter.mp hi
    obtain ⟨o, ho⟩ := ownLane_iff.mp own
    rw [ownLaneRead_eq ho, h i hi o ho]
    rfl

/-- The fate that a gather keeps is that of its lowest lane that fails. -/
theorem ownLanesFate_some {l : List Nat} (sorted : l.Pairwise (· < ·)) {e : Cause × Word} (h : ownLanesFate s base off z l = some (i, e)) :
    i ∈ l ∧ (∃ o, LaneAt s base off z i o ∧ laneFate s base off z i o = some e) ∧
      ∀ k ∈ l, k < i → ∀ o, LaneAt s base off z k o → laneFate s base off z k o = none := by
  unfold ownLanesFate at h
  obtain ⟨before, m, after, hl, hm, hb⟩ := List.findSome?_eq_some_iff.mp h
  have mem : m ∈ l.filter (ownLane s s.cur.key base off z) := by
    rw [hl]
    exact List.mem_append_right _ List.mem_cons_self
  obtain ⟨hml, own⟩ := List.mem_filter.mp mem
  obtain ⟨o, ho⟩ := ownLane_iff.mp own
  rw [ownLaneRead_eq ho] at hm
  cases hf : laneFate s base off z m o with
  | none =>
    rw [hf] at hm
    cases hm
  | some e' =>
    rw [hf] at hm
    obtain ⟨rfl, rfl⟩ := Prod.mk.inj (Option.some.inj hm)
    refine ⟨hml, ⟨o, ho, hf⟩, fun k hk lower o ho => ?_⟩
    have first : k ∈ before := by
      have hk' : k ∈ l.filter (ownLane s s.cur.key base off z) := List.mem_filter.mpr ⟨hk, ownLane_iff.mpr ⟨o, ho⟩⟩
      have pairs := sorted.filter (ownLane s s.cur.key base off z)
      rw [hl] at hk' pairs
      obtain hk' | hk' := List.mem_append.mp hk'
      · exact hk'
      · obtain rfl | hk' := List.mem_cons.mp hk'
        · exact (lt_irrefl _ lower).elim
        · have later := (List.pairwise_cons.mp (List.pairwise_append.mp pairs).2.1).1 k hk'
          exact (lt_asymm lower later).elim
    have found := hb k first
    rw [ownLaneRead_eq ho] at found
    cases hf : laneFate s base off z k o with
    | none => rfl
    | some e =>
      rw [hf] at found
      cases found

end

theorem guardLanes_sorted (z : Nat) (g : BitVec 128) : (guardLanes z g).Pairwise (· < ·) := List.pairwise_lt_range.filter _

theorem mem_guardLanes {z l : Nat} {g : BitVec 128} : l ∈ guardLanes z g ↔ l < 256 / z ∧ selected (8 * z) g l = true := by
  simp [guardLanes]

/-- A lane that finds its bytes holds them in its place. -/
theorem laneOf_ownLanes {s : State} {base : Word} {off : VWord} {w : Fin 4} {i o : Nat} {l : List Nat} (hi : i < 256 / gatherBytes w)
    (hl : i ∈ l) (ho : LaneAt s base off (gatherBytes w) i o) (hf : laneFate s base off (gatherBytes w) i o = none) :
    laneOf (8 * gatherBytes w) (ownLanes s base off (gatherBytes w) l) i =
      readLE (asIssued s).mem (slicePhys (s.cur.key / 4) o) (gatherBytes w) := by
  obtain ⟨pos, fits⟩ := gatherBytes_lanes w
  have chosen : (l.contains i && ownLane s s.cur.key base off (gatherBytes w) i) = true := by
    rw [Bool.and_eq_true]
    exact ⟨List.contains_iff_mem.mpr hl, ownLane_iff.mpr ⟨o, ho⟩⟩
  unfold ownLanes
  rw [laneOf_packLanes pos (by rwa [List.length_map, List.length_range]), List.getElem?_map, List.getElem?_range hi,
    Option.map_some, Option.getD_some, if_pos chosen, ownLaneRead_eq ho, hf]
  exact Nat.mod_eq_of_lt (readLE_lt ..)

/-! ## What a scatter writes (10 R231) -/

/-- The lanes written change memory and poison marks alone. -/
theorem scatterLanes_kept (s : State) (j : Job) (base : Word) (off data : VWord) (z : Nat) (l : List Nat) :
    (scatterLanes s j base off data z l).full = s.full ∧ (scatterLanes s j base off data z l).reqs = s.reqs ∧
    ∀ k, ctxAt (scatterLanes s j base off data z l) k = ctxAt s k := by
  refine List.foldlRecOn l _ (motive := fun t => t.full = s.full ∧ t.reqs = s.reqs ∧ ∀ k, ctxAt t k = ctxAt s k)
    ⟨rfl, rfl, fun _ => rfl⟩ fun t ht i _ => ?_
  split
  · exact ht
  · exact ht

theorem scatterLanes_snoc (s : State) (j : Job) (base : Word) (off data : VWord) (z i : Nat) (l : List Nat) :
    scatterLanes s j base off data z (l ++ [i]) = scatterLanes (scatterLanes s j base off data z l) j base off data z [i] :=
  List.foldl_append ..

theorem translate_of_access {s : State} {j : Job} {a n align pa : Nat} {w : Bool} (h : access s j a n align w = .ok pa) :
    translate j a w = .ok pa := by
  unfold access at h
  split at h
  · cases h
  · split at h
    · cases h
    · next q hq =>
      split at h
      · cases h
      · rw [hq, Except.ok.inj h]

/-- A lane that is written: its bytes and no other. -/
theorem scatterLanes_single {s : State} (hm : CanonicalMemory s) {j : Job} {base : Word} {off data : VWord} {z i pa : Nat}
    (pos : 0 < z) (h : translate j (laneAddr base off z i) true = .ok pa) :
    OnlyBytes s.mem (scatterLanes s j base off data z [i]).mem pa z ∧
    readLE (scatterLanes s j base off data z [i]).mem pa z = laneOf (8 * z) data i := by
  have written : scatterLanes s j base off data z [i] = physWrite s pa z (laneOf (8 * z) data i) := by
    simp only [scatterLanes, List.foldl_cons, List.foldl_nil, h, laneOf]
  rw [written]
  exact ⟨fun x hx => readByte_writeLE_out s.mem _ hx,
    (readLE_writeLE hm ..).trans (Nat.mod_eq_of_lt (laneOf_lt _ _ _ (by omega)))⟩

/-! ## A gather and a scatter at issue (10 R231) -/

theorem gatherReq_found (s : State) (i : Instr) (base : Word) (off : VWord) (g : BitVec 128) (z : Nat) (df : Bool) :
    (gatherReq s i base off g z df).found = (ownLanesFate s base off z (guardLanes z g)).map (·.2) := rfl

/-- A gather that finds a fate in the own slice names the lane it was found for. -/
theorem gatherReq_fate {s : State} {i : Instr} {base : Word} {off : VWord} {g : BitVec 128} {z : Nat} {df : Bool} {e : Cause × Word}
    (h : (gatherReq s i base off g z df).found = some e) :
    ∃ l ∈ guardLanes z g, (gatherReq s i base off g z df).arg1 = BitVec.ofNat 64 l ∧
      (∃ o, LaneAt s base off z l o ∧ laneFate s base off z l o = some e) ∧
      ∀ k ∈ guardLanes z g, k < l → ∀ o, LaneAt s base off z k o → laneFate s base off z k o = none := by
  rw [gatherReq_found] at h
  obtain ⟨⟨l, e'⟩, fate, rfl⟩ := Option.map_eq_some_iff.mp h
  obtain ⟨mem, found, before⟩ := ownLanesFate_some (guardLanes_sorted z g) fate
  refine ⟨l, mem, ?_, found, before⟩
  simp only [gatherReq, fate, Option.map_some, Option.getD_some]

theorem operate_effect {i : Instr} {p : Tag} {s : State} {o : Host.Outcome State Fault Refusal} {e : State → State} (h : Issues i p s)
    (ho : o = operate i p s e) : ∃ t, t = e s ∧ o = .next (afterOp i s t) := ⟨_, rfl, ho.trans (operate_issues h e)⟩

/-- The request that a scatter leaves as. -/
def scatterReq (s : State) (i : Instr) (base : Word) (off data : VWord) (z : Nat) (ls : List Nat) : Req :=
  { newReq s i base with vec1 := off, vec2 := data, guard := guardOf z ls }

/-- What the pages of the lanes of a scatter and the bytes there are found to be. -/
def scatterWalks (j : Job) (base : Word) (off : VWord) (z : Nat) (ls : List Nat) : Option (Cause × Word) :=
  (ls.map fun l => (laneAddr base off z l, z, true)).findSome? (walkFate j)

/-- Every lane lies in the own slice, apart from what a synchronising access of its bundle meets. -/
def lanesAtOnce (s : State) (base : Word) (off : VWord) (z : Nat) (ls : List Nat) : Bool :=
  ls.all (laneOwn s base off z) && !(ls.any fun l => meetsLate s (laneAddr base off z l) z)

section
variable {d : VReg} {a : SReg} {b : VReg} {g : Fin 8} {w : Fin 4} {p : Tag} {s : State} {j : Job}

/-- What a scatter comes to, by what its lanes meet. -/
theorem vscat_effect (h : Issues (.vscat d a b g w p) p s) (hj : jobOfCtx s s.cur.key = some j) {z : Nat} {base : Word} {off : VWord}
    {ls : List Nat} (hz : gatherBytes w = z) (hb : readS s a = base) (ho : readV s b = off) (hl : guardLanes z (readP s g) = ls) :
    ∃ t, exec (.vscat d a b g w p) s = .next (afterOp (.vscat d a b g w p) s t) ∧
      (scatterWalks j base off z ls ≠ none → t = addReq s (scatterReq s (.vscat d a b g w p) base off (readV s d) z ls)) ∧
      (scatterWalks j base off z ls = none →
        (∀ c x, scatterFate s j base off z true ls = some (c, x) → t = lateNow s c x) ∧
        (scatterFate s j base off z true ls = none →
          (lanesAtOnce s base off z ls = true → t = scatterLanes s j base off (readV s d) z ls) ∧
          (lanesAtOnce s base off z ls = false → t = addReq s (scatterReq s (.vscat d a b g w p) base off (readV s d) z ls)))) := by
  subst hz hb ho hl
  obtain ⟨t, ht, run⟩ := operate_effect h (execVscat.eq_def d a b g w p s)
  refine ⟨t, run, ?_⟩
  clear run
  dsimp only at ht
  rw [hj] at ht
  dsimp only at ht
  unfold scatterWalks lanesAtOnce
  generalize List.findSome? _ _ = walks at ht ⊢
  generalize scatterFate _ _ _ _ _ _ _ = fate at ht ⊢
  generalize (_ && _) = own at ht ⊢
  match walks, fate, own with
  | some _, _, _ => exact ⟨fun _ => ht, nofun⟩
  | none, some (c, x), _ => exact ⟨fun h => (h rfl).elim, fun _ => ⟨fun _ _ h => by cases h; exact ht, nofun⟩⟩
  | none, none, true => exact ⟨fun h => (h rfl).elim, fun _ => ⟨nofun, fun _ => ⟨fun _ => ht, nofun⟩⟩⟩
  | none, none, false => exact ⟨fun h => (h rfl).elim, fun _ => ⟨nofun, fun _ => ⟨nofun, fun _ => ht⟩⟩⟩

end

theorem scatterFate_none {s : State} {j : Job} {base : Word} {off : VWord} {z : Nat} {ls : List Nat} {q : Nat → Nat}
    (h : ∀ l ∈ ls, access s j (laneAddr base off z l) z z true = .ok (q l)) : scatterFate s j base off z true ls = none := by
  induction ls with
  | nil => rfl
  | cons i ls ih =>
    simp only [scatterFate, h i List.mem_cons_self]
    exact ih fun l hl => h l (List.mem_cons_of_mem _ hl)

theorem lanesAtOnce_iff {s : State} {base : Word} {off : VWord} {z : Nat} {ls : List Nat} : lanesAtOnce s base off z ls = true ↔
    ∀ l ∈ ls, laneOwn s base off z l = true ∧ meetsLate s (laneAddr base off z l) z = false := by
  simp only [lanesAtOnce, Bool.and_eq_true, List.all_eq_true, Bool.not_eq_true', List.any_eq_false, Bool.not_eq_true]
  exact ⟨fun h l hl => ⟨h.1 l hl, h.2 l hl⟩, fun h => ⟨fun l hl => (h l hl).1, fun l hl => (h l hl).2⟩⟩

/-- The state with the guarded lanes below `k` written. -/
def lanesWritten (s : State) (j : Job) (base : Word) (off data : VWord) (z : Nat) (g : BitVec 128) (k : Nat) : State :=
  scatterLanes s j base off data z ((List.range k).filter (selected (8 * z) g))

theorem lanesWritten_succ (s : State) (j : Job) (base : Word) (off data : VWord) (z : Nat) (g : BitVec 128) (k : Nat) :
    lanesWritten s j base off data z g (k + 1) =
      if selected (8 * z) g k = true then scatterLanes (lanesWritten s j base off data z g k) j base off data z [k]
      else lanesWritten s j base off data z g k := by
  unfold lanesWritten
  rw [List.range_succ, List.filter_append, List.filter_singleton]
  cases selected (8 * z) g k with
  | true => exact scatterLanes_snoc ..
  | false => exact congrArg _ (List.append_nil _)

theorem lanesWritten_step {s : State} (hm : CanonicalMemory s) {j : Job} {base : Word} {off data : VWord} {z : Nat} {g : BitVec 128}
    {q : Nat → Nat} (pos : 0 < z) (h : ∀ l ∈ guardLanes z g, access s j (laneAddr base off z l) z z true = .ok (q l))
    {l : Nat} (hl : l < 256 / z) :
    if l ∈ guardLanes z g then
      OnlyBytes (lanesWritten s j base off data z g l).mem (lanesWritten s j base off data z g (l + 1)).mem (q l) z ∧
      readLE (lanesWritten s j base off data z g (l + 1)).mem (q l) z = laneOf (8 * z) data l
    else (lanesWritten s j base off data z g (l + 1)).mem = (lanesWritten s j base off data z g l).mem := by
  rw [lanesWritten_succ]
  by_cases chosen : selected (8 * z) g l = true
  · have mem : l ∈ guardLanes z g := mem_guardLanes.mpr ⟨hl, chosen⟩
    rw [if_pos mem, if_pos chosen]
    exact scatterLanes_single (wfMemory_scatterLanes hm ..) pos (translate_of_access (h l mem))
  · rw [if_neg fun mem => chosen (mem_guardLanes.mp mem).2, if_neg chosen]

/-- Settles O17: the lanes of a scatter are written one by one, `lanesWritten` says what stands after each. -/
theorem gatherAndScatter : Obligations.GatherAndScatter := by
  unfold Obligations.GatherAndScatter
  intro d a b g w p
  have pos : 0 < gatherBytes w := Nat.pos_of_mul_pos_left (gatherBytes_lanes w).1
  refine ⟨fun s h => ?_, fun s j q h hm hj walks lanes => ?_, fun s j h hj whole => ?_, fun s j c x h hj walks fate => ?_⟩
  · obtain ⟨t, ht, run⟩ := operate_effect h (execVgath.eq_def d a b g w p s)
    subst ht
    refine ⟨_, _, run, requests_addReq rfl, rfl, rfl, rfl, ?_, ?_, fun e he => gatherReq_fate he, rfl, ?_⟩
    · exact fun l hl o ho hf => laneOf_ownLanes (mem_guardLanes.mp hl).1 hl ho hf
    · exact Option.map_eq_none_iff.trans ownLanesFate_none
    · show (if _ then (1 : Word) else 0) = 1 ↔ _
      split
      · next df => exact iff_of_true rfl df
      · next df => exact iff_of_false (by decide) df
  · obtain ⟨t, run, -, effect⟩ := vscat_effect h hj rfl rfl rfl rfl
    have written := ((effect walks).2 (scatterFate_none fun l hl => (lanes l hl).2.2)).1
      (lanesAtOnce_iff.mpr fun l hl => ⟨(lanes l hl).1, (lanes l hl).2.1⟩)
    obtain ⟨full, reqs, others⟩ := scatterLanes_kept s j (readS s a) (readV s b) (readV s d) (gatherBytes w)
      (guardLanes (gatherBytes w) (readP s g))
    rw [← written] at full reqs others
    obtain ⟨mem, full', -, reqs', -⟩ := afterOp_rest (.vscat d a b g w p) s t
    refine ⟨_, fun k => (lanesWritten s j (readS s a) (readV s b) (readV s d) (gatherBytes w) (readP s g) k).mem, run, rfl, ?_,
      fun l hl => lanesWritten_step hm pos (fun l hl => (lanes l hl).2.2) hl, full'.trans full, reqs'.trans reqs,
      afterOp_others _ s fun k _ => others k⟩
    exact (mem.trans (congrArg State.mem written)).symm
  · obtain ⟨t, run, walked, effect⟩ := vscat_effect h hj rfl rfl rfl rfl
    have leaves : t = addReq s (scatterReq s (.vscat d a b g w p) (readS s a) (readV s b) (readV s d) (gatherBytes w)
        (guardLanes (gatherBytes w) (readP s g))) := by
      by_cases walks : scatterWalks j (readS s a) (readV s b) (gatherBytes w) (guardLanes (gatherBytes w) (readP s g)) = none
      · obtain walks' | ⟨⟨l, hl, away⟩, fate⟩ := whole
        · exact absurd walks walks'
        · refine ((effect walks).2 fate).2 (Bool.eq_false_iff.mpr fun once => ?_)
          obtain ⟨own, alone⟩ := lanesAtOnce_iff.mp once l hl
          obtain away | away := away
          · exact Bool.false_ne_true (away.symm.trans own)
          · exact Bool.false_ne_true (alone.symm.trans away)
      · exact walked walks
    rw [leaves] at run
    exact ⟨_, _, run, requests_addReq rfl, rfl, rfl, rfl, rfl, rfl, rfl, rfl, rfl, rfl, rfl, rfl, rfl, rfl, rfl, rfl⟩
  · obtain ⟨t, run, -, effect⟩ := vscat_effect h hj rfl rfl rfl rfl
    rw [(effect walks).1 c x fate] at run
    exact ⟨_, run, findsLate_fault ..⟩

end Sys2Proof.Machine
end

section
/-! SUPPORT. Full/empty loads and stores and prefetch (10 R232-R237). -/

namespace Sys2Proof.Machine

/-! ## Serving the requests held at a slice (10 R232, R233) -/

section
variable {s : State} {r : Req} {pa : Nat}

/-- A request that is not held is not served. -/
theorem serveOne_idle (h : r.status ≠ .held) : serveOne s r = s := by
  unfold serveOne
  split
  · rfl
  · exact if_neg fun held => h (eq_of_beq (Bool.and_eq_true_iff.mp held).1)

/-- A request of which a granule is empty stays held. -/
theorem serveOne_waits (hw : windowPhys s (r.ctx / 4) r.addr = some pa)
    (empty : ¬ includesAll s.full (pa / 16) (granules pa (feBytes r.op)) = true) : serveOne s r = s := by
  unfold serveOne
  rw [hw]
  exact if_neg fun held => empty (Bool.and_eq_true_iff.mp held).2

/-- The request with the bytes it reads. -/
def servedReq (s : State) (r : Req) (pa : Nat) : Req :=
  { r with status := .performed, value := BitVec.ofNat 2048 (readLE s.mem pa (feBytes r.op)) }

/-- A held request whose granules are full and clean is performed, and a C form clears them. -/
theorem serveOne_serves (hw : windowPhys s (r.ctx / 4) r.addr = some pa) (held : r.status = .held)
    (full : includesAll s.full (pa / 16) (granules pa (feBytes r.op)) = true) (clean : poisonedAt s.bad pa (feBytes r.op) = none) :
    serveOne s r = { setReq s (servedReq s r pa) with
      full := if feClears r.op then exclude s.full (pa / 16) (pa / 16 + granules pa (feBytes r.op)) else s.full } := by
  unfold serveOne
  rw [hw]
  dsimp only
  rw [if_pos (Bool.and_eq_true_iff.mpr ⟨beq_iff_eq.mpr held, full⟩), clean]
  dsimp only
  cases feClears r.op <;> rfl

theorem foldl_serveOne_idle {l : List Req} (h : ∀ q ∈ l, q.status ≠ .held) : l.foldl serveOne s = s :=
  List.foldlRecOn l serveOne (motive := (· = s)) rfl fun _ ht q hq => ht ▸ serveOne_idle (h q hq)

theorem serveHeld_idle (h : ∀ q ∈ s.reqs, q.status ≠ .held) : serveHeld s = s := foldl_serveOne_idle h

/-- Where the last request alone is held, it alone is served. -/
theorem serveHeld_last {l : List Req} (hl : s.reqs = l ++ [r]) (h : ∀ q ∈ l, q.status ≠ .held) : serveHeld s = serveOne s r := by
  rw [serveHeld, hl, List.foldl_append, foldl_serveOne_idle h]
  rfl

theorem setReq_last {l : List Req} {r' : Req} (hl : s.reqs = l ++ [r]) (fresh : ∀ q ∈ l, (q.id != r.id) = true) (same : r'.id = r.id) :
    (setReq s r').reqs = l ++ [r'] := by
  have others : l.map (fun x => if x.id == r.id then r' else x) = l :=
    (List.map_congr_left fun q hq => if_neg fun eq => bne_iff_ne.mp (fresh q hq) (eq_of_beq eq)).trans (List.map_id' l)
  simp only [setReq, same, hl, List.map_append, others, List.map_cons, List.map_nil, beq_self_eq_true, if_true]

/-! ## A full/empty load at issue (10 R232, R233) -/

/-- The request stands last among those at its slice, held. -/
def heldLast (s : State) (r : Req) : State :=
  { s with reqs := (s.reqs.filter fun q => q.id != r.id) ++ [{ r with status := .held }] }

theorem feArrive_holds (hw : windowPhys s (r.ctx / 4) r.addr = some pa) (aligned : r.addr.toNat % feBytes r.op = 0)
    (on : sliceOff s pa = false) (kept : r.discard = false) : feArrive s r = serveHeld (heldLast s r) := by
  unfold feArrive
  rw [hw]
  dsimp only
  rw [if_neg (not_not_intro aligned), on, if_neg Bool.false_ne_true]
  exact if_neg fun drop => Bool.false_ne_true (kept.symm.trans drop)

/-- Nothing but the request that has just been added goes when it is held. -/
theorem heldLast_addReq (s : State) (r : Req) :
    (heldLast (addReq s r) r).reqs = (s.reqs.filter fun q => q.id != r.id) ++ [{ r with status := .held }] := by
  simp [heldLast, addReq]

end

/-- What a full/empty load does at issue: it travels, or it is served in its own slice, or held there (10 R232-R234). -/
def LoadsFullEmpty (i : Instr) (p : Tag) (n : Nat) (clears : Bool) (addr : State → Word) : Prop :=
  (∀ s, Issues i p s → ownOffset s s.cur.key (addr s) n = none → ∃ t r, exec i s = .next t ∧ Requests i s t r ∧
    Carries s r i (addr s) 0 0 0 0 ∧ r.status = if mayEnter s r then .sent else .walking) ∧
  ∀ s o' pa, Issues i p s → ownOffset s s.cur.key (addr s) n = some o' → windowPhys s (s.cur.key / 4) (addr s) = some pa →
    (addr s).toNat % n = 0 → sliceOff s pa = false → poisonedAt s.bad pa n = none → (∀ q ∈ s.reqs, q.status ≠ .held) →
    ∃ t r, exec i s = .next t ∧ t.reqs = s.reqs.filter (fun q => q.id != s.nextId) ++ [r] ∧ r.op = i ∧ r.addr = addr s ∧
      t.mem = s.mem ∧ ctxAt t s.cur.key = ctxAt s s.cur.key ∧
      if includesAll s.full (pa / 16) (granules pa n) then
        r.status = .performed ∧ r.value = BitVec.ofNat 2048 (readLE s.mem pa n) ∧
        t.full = if clears then exclude s.full (pa / 16) (pa / 16 + granules pa n) else s.full
      else r.status = .held ∧ t.full = s.full

theorem loadsFullEmpty_feLoad {i : Instr} {p : Tag} {n : Nat} {clears : Bool} {addr : State → Word} (hn : feBytes i = n)
    (hcl : feClears i = clears) (he : ∀ s, exec i s = operate i p s fun s => feLoad i (addr s) s)
    (hc : ∀ s, commits s s.cur.key i = false) (hr : isRelease i = false) : LoadsFullEmpty i p n clears addr := by
  subst hn hcl
  refine ⟨fun s h ho => ?_, fun s o pa h ho hw aligned on clean free => ?_⟩
  all_goals have run : exec i s = .next (afterOp i s (feLoad i (addr s) s)) := (he s).trans (operate_issues h _)
  · rw [feLoad_eq, ho, Option.elim_none] at run
    exact ⟨_, _, run, requests_addReq hr, ⟨rfl, rfl, rfl, rfl, rfl, rfl, rfl, rfl, rfl, rfl, rfl, rfl, rfl, rfl⟩, rfl⟩
  · rw [feLoad_eq, ho, Option.elim_some] at run
    obtain ⟨r, hreq, op, adr, number, ctx, kept⟩ : ∃ r : Req, r = { newReq s i (addr s) with status := .sent } ∧ r.op = i ∧
        r.addr = addr s ∧ r.id = s.nextId ∧ r.ctx = s.cur.key ∧ r.discard = false := ⟨_, rfl, rfl, rfl, rfl, rfl, rfl⟩
    have place : windowPhys s (r.ctx / 4) r.addr = some pa := by rw [ctx, adr]; exact hw
    have last := heldLast_addReq s r
    have others : (s.reqs.filter fun q => q.id != r.id) = s.reqs.filter fun q => q.id != s.nextId := by rw [number]
    rw [← op] at aligned clean
    rw [← adr] at aligned
    rw [← hreq, feArrive_holds (s := addReq s r) place aligned on kept,
      serveHeld_last last fun q hq => free q (List.mem_filter.mp hq).1] at run
    obtain ⟨pops, after⟩ := afterOp_uncommitted (hc s) (serveOne (heldLast (addReq s r) r) { r with status := .held })
    rw [after] at run
    by_cases full : includesAll s.full (pa / 16) (granules pa (feBytes i)) = true
    · have full' := full
      rw [← op] at full'
      rw [serveOne_serves (s := heldLast (addReq s r) r) (r := { r with status := .held }) place rfl full' clean] at run
      have reqs := setReq_last (r' := servedReq (heldLast (addReq s r) r) { r with status := .held } pa) last
        (fun q hq => (List.mem_filter.mp hq).2) rfl
      refine ⟨_, _, run, reqs.trans (congrArg (· ++ _) others), op, adr, rfl, rfl, (if_pos full).mpr ⟨rfl, ?_, ?_⟩⟩
      · rw [← op]
        rfl
      · rw [← op]
        rfl
    · have empty := full
      rw [← op] at empty
      rw [serveOne_waits (s := heldLast (addReq s r) r) (r := { r with status := .held }) place empty] at run
      exact ⟨_, { r with status := .held }, run, last.trans (congrArg (· ++ _) others), op, adr, rfl, rfl, (if_neg full).mpr ⟨rfl, rfl⟩⟩

/-! ## A full/empty store at issue (10 R235) -/

theorem engineWrite_mem (s : State) (pa n v : Nat) : (engineWrite s pa n v).mem = writeLE s.mem pa n v := by
  unfold engineWrite markFull
  split <;> rfl

theorem engineWrite_reqs (s : State) (pa n v : Nat) : (engineWrite s pa n v).reqs = s.reqs := by
  unfold engineWrite markFull
  split <;> rfl

theorem engineWrite_full {s : State} {pa : Nat} (h : inSlice pa = true) (n v : Nat) :
    (engineWrite s pa n v).full = includeFrom s.full (pa / 16) (granules pa n) := by
  rw [engineWrite, markFull, if_pos h]
  rfl

/-- What a full/empty store does at issue: it writes and fills its granules, or leaves as a request, or finds a fault (10 R235). -/
def StoresFullEmpty (i : Instr) (p : Tag) (n : Nat) (addr : State → Word) (v : State → Nat) : Prop :=
  (∀ s pa, CanonicalMemory s → Issues i p s → OwnPlace s (addr s) n true pa → inSlice pa = true →
    meetsLate s (addr s).toNat n = false → ∃ t, exec i s = .next t ∧ readLE t.mem pa n = v s % 2 ^ (8 * n) ∧
      (∀ x, x < pa ∨ pa + n ≤ x → readByte t.mem x = readByte s.mem x) ∧
      ((∀ q ∈ s.reqs, q.status ≠ .held) → t.full = includeFrom s.full (pa / 16) (granules pa n) ∧ t.reqs = s.reqs)) ∧
  (∀ s pa, Issues i p s → OwnPlace s (addr s) n true pa → meetsLate s (addr s).toNat n = true → SendsStore i s (addr s) (v s) .sent) ∧
  (∀ s c x, Issues i p s → OwnFate s (addr s) n true c x → ∃ t, exec i s = .next t ∧ FindsLate i s t c x) ∧
  ∀ s, Issues i p s → ownOffset s s.cur.key (addr s) n = none → SendsStore i s (addr s) (v s) .gathered

theorem storesFullEmpty_feStore {i : Instr} {p : Tag} {n : Nat} {addr : State → Word} {v : State → Nat}
    (he : ∀ s, exec i s = operate i p s fun s => feStore i (addr s) n (v s) s) (hr : isRelease i = false) :
    StoresFullEmpty i p n addr v := by
  refine ⟨fun s pa hm h ⟨o, ho, hpa, hf⟩ slice late => ?_, fun s pa h ⟨o, ho, hpa, hf⟩ late => ?_, fun s c a h ⟨o, ho, hf⟩ => ?_,
    fun s h ho => ?_⟩
  all_goals have run : exec i s = .next (afterOp i s (feStore i (addr s) n (v s) s)) := (he s).trans (operate_issues h _)
  · rw [ownView_write, hpa] at hf
    rw [feStore_eq, ho, Option.elim_some, hf, Option.elim_none, ownStore_write late, ← hpa] at run
    obtain ⟨mem, full, -, reqs, -⟩ := afterOp_rest i s (serveHeld (engineWrite s pa n (v s)))
    rw [serveHeld_mem, engineWrite_mem] at mem
    refine ⟨_, run, ?_, fun x hx => ?_, fun free => ?_⟩
    · rw [mem]
      exact readLE_writeLE hm ..
    · rw [mem]
      exact readByte_writeLE_out s.mem _ hx
    · have idle : serveHeld (engineWrite s pa n (v s)) = engineWrite s pa n (v s) :=
        serveHeld_idle fun q hq => free q (engineWrite_reqs s pa n (v s) ▸ hq)
      rw [full, reqs, idle]
      exact ⟨engineWrite_full slice .., engineWrite_reqs ..⟩
  · rw [ownView_write, hpa] at hf
    rw [feStore_eq, ho, Option.elim_some, hf, Option.elim_none, ownStore_request late] at run
    exact ⟨_, _, run, requests_addReq hr, ⟨rfl, rfl, rfl, rfl, rfl, rfl, rfl, rfl, rfl, rfl, rfl, rfl, rfl, rfl⟩, rfl⟩
  · rw [ownView_write] at hf
    rw [feStore_eq, ho, Option.elim_some, hf, Option.elim_some] at run
    exact ⟨_, run, findsLate_fault ..⟩
  · rw [feStore_eq, ho, Option.elim_none] at run
    exact ⟨_, _, run, requests_addReq hr, ⟨rfl, rfl, rfl, rfl, rfl, rfl, rfl, rfl, rfl, rfl, rfl, rfl, rfl, rfl⟩, rfl⟩

/-! ## What an access does to the caches (13 R279, R281) -/

/-- The lines held, what waits to be written back, the stacks asleep, what counts as idle and the cached translations may differ. -/
def CachesTouched (s t : State) : Prop :=
  ∃ lines writeQueue stacksAsleep idle routes,
    t = { s with lines := lines, writeQueue := writeQueue, stacksAsleep := stacksAsleep, idle := idle, routes := routes }

namespace CachesTouched

theorem refl (s : State) : CachesTouched s s := ⟨_, _, _, _, _, rfl⟩

theorem trans {s t u : State} : CachesTouched s t → CachesTouched t u → CachesTouched s u := by
  rintro ⟨_, _, _, _, _, rfl⟩ ⟨_, _, _, _, _, rfl⟩
  exact ⟨_, _, _, _, _, rfl⟩

/-- Touches, one after another. -/
theorem foldl {α : Type} {op : State → α → State} (h : ∀ s a, CachesTouched s (op s a)) (l : List α) (s : State) :
    CachesTouched s (l.foldl op s) :=
  List.foldlRecOn l op (motive := CachesTouched s) (refl s) fun t ht a _ => ht.trans (h t a)

end CachesTouched

theorem evicted_touched (s : State) (line : Nat) : CachesTouched s (evicted s line) := by
  unfold evicted
  dsimp only
  repeat' split
  all_goals exact ⟨_, _, _, _, _, rfl⟩

theorem touchLine_touched (write : Bool) (l : List Nat) (s : State) (line : Nat) : CachesTouched s (touchLine write l s line) := by
  refine .trans ?_ (evicted_touched _ line)
  split <;> exact ⟨_, _, _, _, _, rfl⟩

theorem touchPage_touched (j : Job) (n : Nat) (s : State) (vpage : Nat) : CachesTouched s (touchPage j n s vpage) := by
  unfold touchPage
  dsimp only
  repeat' split
  all_goals exact ⟨_, _, _, _, _, rfl⟩

theorem touchRoutes_touched (s : State) (j : Job) (n : Nat) (l : List Nat) : CachesTouched s (touchRoutes s j n l) :=
  .foldl (touchPage_touched j n) _ s

theorem touchRoutes_lines (s : State) (j : Job) (n : Nat) (l : List Nat) : (touchRoutes s j n l).lines = s.lines := by
  refine List.foldlRecOn _ _ (motive := fun t : State => t.lines = s.lines) rfl fun t ht vpage _ => Eq.trans ?_ ht
  unfold touchPage
  dsimp only
  repeat' split
  all_goals rfl

/-- An access to a stack touches its one line, and no slice. -/
theorem cached_stack {pa : Nat} (h : inStack pa = true) (s : State) (write : Bool) :
    cached s write [pa] = touchLine write [pa] s (pa / 256) := by
  have off : inSlice pa = false := by
    simp only [inStack, Bool.and_eq_true, decide_eq_true_eq] at h
    simp only [inSlice, decide_eq_false_iff_not]
    omega
  simp [cached, h, off, include1]

/-- A line in front of the others of its slice is not the one that leaves. -/
theorem mem_evicted {s : State} {line : Nat} {dirty : Bool} {rest : List (Nat × Bool)} (h : s.lines = (line, dirty) :: rest)
    (others : ∀ x ∈ rest, x.1 ≠ line) : (line, dirty) ∈ (evicted s line).lines := by
  have mem : (line, dirty) ∈ s.lines := h ▸ List.mem_cons_self
  unfold evicted
  dsimp only
  split
  · exact mem
  · split
    · exact mem
    · next crowded =>
      split
      · next x hx =>
        have leaves : x ≠ (line, dirty) := by
          have front : s.lines.filter (fun y => sameSlice s y.1 line) = (line, dirty) :: rest.filter fun y => sameSlice s y.1 line := by
            rw [h, List.filter_cons_of_pos]
            simp [sameSlice]
          rw [front] at hx crowded
          have more : (rest.filter fun y => sameSlice s y.1 line) ≠ [] := fun none' => by simp [none'] at crowded
          rw [List.getLast?_cons_of_ne_nil more] at hx
          intro same
          exact others x (List.mem_filter.mp (List.mem_of_getLast? hx)).1 (congrArg Prod.fst same)
        have stays : (line, dirty) ∈ s.lines.erase x := (List.mem_erase_of_ne leaves.symm).mpr mem
        split <;> exact stays
      · exact mem

theorem mem_touchLine (write : Bool) (l : List Nat) (s : State) (line : Nat) : ∃ dirty, (line, dirty) ∈ (touchLine write l s line).lines :=
  ⟨_, mem_evicted rfl fun _ hx => bne_iff_ne.mp (List.mem_filter.mp hx).2⟩

/-! ## PREF (10 R237) -/

theorem prefetchLine_touched (s : State) (x : Prefetch) : CachesTouched s (prefetchLine s x) := by
  unfold prefetchLine
  split
  · exact .refl s
  · split
    · exact .refl s
    · split
      · exact .refl s
      · next pa _ held =>
        have stack : inStack pa = true := by
          simp only [Bool.or_eq_true, Bool.not_eq_true', not_or, Bool.not_eq_false] at held
          exact held.1.2
        rw [cached_stack stack]
        exact (touchLine_touched ..).trans (touchRoutes_touched ..)

theorem sendPrefetch_touched (s : State) (x : Prefetch) : ∃ q, CachesTouched { s with prefetches := q } (sendPrefetch s x) := by
  unfold sendPrefetch
  split
  · exact ⟨_, .refl _⟩
  · obtain ⟨lines, queue, asleep, idle, routes, h⟩ := prefetchLine_touched s x
    exact ⟨s.prefetches, lines, queue, asleep, idle, routes, h⟩

theorem prefetchLine_prefetches (s : State) (x : Prefetch) : (prefetchLine s x).prefetches = s.prefetches := by
  obtain ⟨_, _, _, _, _, h⟩ := prefetchLine_touched s x
  rw [h]

theorem prefetch_touched (s : State) (a : SReg) (x : Word) : ∃ q, CachesTouched { s with prefetches := q } (prefetch s a x) := by
  unfold prefetch
  split
  · exact ⟨_, .refl s⟩
  · split
    · exact ⟨_, .refl s⟩
    · exact sendPrefetch_touched ..

/-- A prefetch with a deferred base is not sent. -/
theorem prefetch_deferred {s : State} {a : SReg} (h : deferS s a = true) (x : Word) : prefetch s a x = s := by
  unfold prefetch
  split
  · rfl
  · exact if_pos h

theorem prefetch_sends {s : State} {a : SReg} {j : Job} (hj : jobOfCtx s s.cur.key = some j) (h : deferS s a = false) (x : Word) :
    prefetch s a x = sendPrefetch s ⟨s.cur.key / 4, j.id, x.toNat⟩ := by
  unfold prefetch
  rw [hj]
  exact if_neg (by rw [h]; exact Bool.false_ne_true)

section
variable {s : State} {x : Prefetch} {j : Job} {pa : Nat}

theorem prefetchPlace_some (hj : jobOfCore s x.core = some j) (ha : access s j x.addr 1 1 false = .ok pa) : prefetchPlace s x = some pa := by
  simp only [prefetchPlace, hj, Option.bind_some, ha]

/-- A prefetch of the stacks puts its line among those held. -/
theorem prefetchLine_holds (hj : jobOfCore s x.core = some j) (ha : access s j x.addr 1 1 false = .ok pa) (job : j.id = x.job)
    (stack : inStack pa = true) (calm : handing s (physStack pa) 1 5 = false) : ∃ dirty, (pa / 256, dirty) ∈ (prefetchLine s x).lines := by
  unfold prefetchLine
  rw [hj]
  dsimp only
  rw [ha]
  dsimp only
  rw [if_neg (by simp [job, stack, calm]), touchRoutes_lines, cached_stack stack]
  exact mem_touchLine ..

end

/-- What a prefetch does at issue: nothing but to the caches, and what waits before a pause (10 R237, 04 R78). -/
def Fetches (i : Instr) (p : Tag) (a : SReg) (x : State → Word) : Prop :=
  ∀ s, Issues i p s → ∃ t, exec i s = .next t ∧ t.ctxs = s.ctxs ∧
    MemoryKept s t ∧ CoresKept s t ∧ WorkKept s { t with prefetches := s.prefetches } ∧ PartKept s { t with routes := s.routes } ∧
    (deferS s a = true → t.lines = s.lines ∧ t.routes = s.routes ∧ t.prefetches = s.prefetches) ∧
    ∀ j pa, jobOfCtx s s.cur.key = some j → access s j (x s).toNat 1 1 false = .ok pa → deferS s a = false →
      if touchPaused s (s.cur.key / 4) pa = true then
        t.prefetches = s.prefetches ++ [⟨s.cur.key / 4, j.id, (x s).toNat⟩] ∧ t.lines = s.lines ∧ t.routes = s.routes
      else t.prefetches = s.prefetches ∧
        (inStack pa = true → handing s (physStack pa) 1 5 = false → ∃ dirty, (pa / 256, dirty) ∈ t.lines)

theorem fetches_prefetch {i : Instr} {p : Tag} {a : SReg} {x : State → Word}
    (he : ∀ s, exec i s = operate i p s fun s => prefetch s a (x s)) (hc : ∀ s, commits s s.cur.key i = false) : Fetches i p a x := by
  intro s h
  have run : exec i s = .next (afterOp i s (prefetch s a (x s))) := (he s).trans (operate_issues h _)
  obtain ⟨pops, after⟩ := afterOp_uncommitted (hc s) (prefetch s a (x s))
  rw [after] at run
  obtain ⟨q, lines, queue, asleep, idle, routes, touched⟩ := prefetch_touched s a (x s)
  refine ⟨_, run, ?_, ?_, ?_, ?_, ?_, fun deferred => ?_, fun j pa hj ha sent => ?_⟩
  · rw [touched]
  · rw [touched]
    exact memoryKept_refl s
  · rw [touched]
    exact ⟨fun _ => rfl, fun _ _ => rfl⟩
  · rw [touched]
    exact workKept_refl s
  · rw [touched]
    exact ⟨rfl, rfl, rfl, rfl, rfl, rfl, rfl, rfl, rfl, rfl, rfl⟩
  · rw [prefetch_deferred deferred]
    exact ⟨rfl, rfl, rfl⟩
  · have sends := prefetch_sends hj sent (x s)
    have place : prefetchPlace s ⟨s.cur.key / 4, j.id, (x s).toNat⟩ = some pa := prefetchPlace_some hj ha
    by_cases paused : touchPaused s (s.cur.key / 4) pa = true
    · refine (if_pos paused).mpr ?_
      rw [sends, sendPrefetch_waits place paused]
      exact ⟨rfl, rfl, rfl⟩
    · refine (if_neg paused).mpr ?_
      rw [sends, sendPrefetch_reaches place (Bool.eq_false_iff.mpr paused)]
      exact ⟨prefetchLine_prefetches .., fun stack calm => prefetchLine_holds hj ha rfl stack calm⟩

/-- Settles O18: a load is `feLoad`, a store `feStore` and PREF `prefetch`, each at its address. -/
theorem fullEmptyAndPrefetch : Obligations.FullEmptyAndPrefetch := by
  refine ⟨fun d a e o m p => ⟨?_, ?_, ?_, ?_, ?_, ?_, ?_, ?_⟩, fun d a e o m p => ⟨?_, ?_, ?_, ?_, ?_⟩⟩
  iterate 8 exact loadsFullEmpty_feLoad rfl rfl (fun _ => rfl) (fun _ => rfl) rfl
  iterate 4 exact storesFullEmpty_feStore (fun _ => rfl) rfl
  exact ⟨fetches_prefetch (fun _ => rfl) fun _ => rfl, fetches_prefetch (fun _ => rfl) fun _ => rfl⟩

end Sys2Proof.Machine
end

section
/-! SUPPORT. The engine operations at issue (10 R238-R248). -/

namespace Sys2Proof.Machine

/-! ## A job replaced, and a counter decremented (17 R339) -/

section
variable {s : State} {j j' : Job} {k : Nat}

theorem jobAt_id {id : Nat} (h : jobAt s id = some j) : j.id = id := eq_of_beq (List.find?_some (p := fun x : Job => x.id == id) h)

/-- What replaces another of the same number is found in its place. -/
theorem find?_replaced {α : Type} {number : α → Nat} {l : List α} {x y : α} (h : l.find? (fun a => number a == number y) = some x) :
    (l.map fun a => if number a == number y then y else a).find? (fun a => number a == number y) = some y := by
  have keeps : ((fun a => number a == number y) ∘ fun a => if number a == number y then y else a) = fun a => number a == number y := by
    funext a
    by_cases ha : number a = number y <;> simp [ha]
  rw [List.find?_map, keeps, h, Option.map_some, if_pos (List.find?_some (p := fun a => number a == number y) h)]

theorem jobAt_setJob_same (h : jobAt s j'.id = some j) : jobAt (setJob s j') j'.id = some j' := find?_replaced (number := Job.id) h

theorem jobAt_setJob_ne {id : Nat} (h : id ≠ j'.id) : jobAt (setJob s j') id = jobAt s id := by
  have keeps : ((fun x : Job => x.id == id) ∘ fun x => if x.id == j'.id then j' else x) = fun x => x.id == id := by
    funext x
    by_cases hx : x.id = j'.id <;> simp [hx]
  unfold jobAt
  rw [setJob, List.find?_map, keeps]
  cases hf : s.jobs.find? fun x => x.id == id with
  | none => rfl
  | some x =>
    have number : x.id = id := eq_of_beq (List.find?_some (p := fun x : Job => x.id == id) hf)
    have other : ¬ (x.id == j'.id) = true := fun eq => h (number.symm.trans (eq_of_beq eq))
    rw [Option.map_some, if_neg other]

theorem jobOfCtx_setJob (h : jobOfCtx s k = some j) (same : j'.id = j.id) : jobOfCtx (setJob s j') k = some j' := by
  unfold jobOfCtx jobOfCore at h ⊢
  obtain ⟨id, hid, found⟩ := Option.bind_eq_some_iff.mp h
  rw [coreAt_setJob, hid, Option.bind_some]
  have number : id = j'.id := (jobAt_id found).symm.trans same.symm
  rw [number] at found ⊢
  exact jobAt_setJob_same found

/-- A decrement changes its core's counters, which may release tasks there, and the log. -/
theorem decrement_changes (s : State) (n c amount : Nat) :
    ∃ cores log tasks, decrement s n c amount = { s with cores := cores, log := log } ∧
      coreAt (decrement s n c amount) n = { coreAt s n with
        counters := (coreAt s n).counters.setIfInBounds c (((coreAt s n).counters[c]?).getD 0 - amount), tasks := tasks } := by
  have set : ∀ v, ∃ cores tasks, setCounter s n c v = { s with cores := cores } ∧ coreAt (setCounter s n c v) n =
      { coreAt s n with counters := (coreAt s n).counters.setIfInBounds c v, tasks := tasks } := fun v => by
    unfold setCounter setCounterAt
    dsimp only
    split
    · exact ⟨_, _, rfl, by rw [coreAt_onCore_same, coreAt_onCore_same]⟩
    · exact ⟨_, _, rfl, by rw [coreAt_onCore_same]⟩
  obtain ⟨cores, tasks, eq, core⟩ := set (((coreAt s n).counters[c]?).getD 0 - amount)
  unfold decrement
  dsimp only
  split
  · exact ⟨cores, _, tasks, by rw [eq]; rfl, core⟩
  · exact ⟨cores, s.log, tasks, eq, core⟩

theorem jobOfCore_decrement (s : State) (n c amount : Nat) : jobOfCore (decrement s n c amount) n = jobOfCore s n := by
  obtain ⟨cores, log, tasks, eq, core⟩ := decrement_changes s n c amount
  unfold jobOfCore
  rw [core, eq]
  rfl

end

/-! ## Opening a tray (10 R244, 15 R330) -/

section
variable {r r' : Rack} {command : Option Nat} {tr : Nat}

/-- The rack whose writer gives up the tray it has open. -/
def abandoned (r : Rack) : Rack :=
  { r with trays := r.trays.map (fun t => if t.opened then { t with opened := false, draining := r.command.isSome } else t), command := none }

theorem openTray_some (h : openTray r command = (r', some tr)) :
    trayWhere Tray.isFree (abandoned r) = some tr ∧
      r' = { onTray (abandoned r) tr (fun x => { x with opened := true }) with command := command } := by
  unfold openTray at h
  dsimp only at h
  split at h
  · next t ht =>
    obtain ⟨rfl, same⟩ := Prod.mk.inj h
    cases same
    exact ⟨ht, rfl⟩
  · cases (Prod.mk.inj h).2

/-- The tray opened belongs to the command that opens it, where the rack has it. -/
theorem openTray_opens (h : openTray r command = (r', some tr)) :
    r'.command = command ∧ (r'.trays[tr]?).map (·.opened) = some true ∧ trayAddr r' tr = r.base + BitVec.ofNat 64 (tr * r.size) := by
  obtain ⟨free, rfl⟩ := openTray_some h
  refine ⟨rfl, ?_, rfl⟩
  have found := List.find?_some free
  show (((abandoned r).trays.modify tr fun x => { x with opened := true })[tr]?).map (·.opened) = some true
  rw [List.getElem?_modify_eq]
  cases ht : (abandoned r).trays[tr]? with
  | none =>
    rw [ht] at found
    cases found
  | some t => rfl

theorem openTray_drops (h : openTray r command = (r', none)) : r'.drops = min 65535 (r.drops + 1) := by
  unfold openTray at h
  dsimp only at h
  split at h
  · cases (Prod.mk.inj h).2
  · obtain ⟨rfl, -⟩ := Prod.mk.inj h
    rfl

end

section
variable {s : State} {x : Word} {lo hi : Int} {counter : Option Nat} {go : State → Nat × Nat → Word → State} {j : Job} {id : Nat} {r r' : Rack}

theorem openTarget_outside (ht : rackTarget s s.cur.key x = some (j, id, r)) (outside : lo < 0 ∨ (r.size : Int) ≤ hi) :
    openTarget s x lo hi counter go = lateNow s .perm 0 := by
  unfold openTarget
  rw [ht]
  exact if_pos outside

/-- The job with rack `id` as `r'` has become. -/
def withRack (j : Job) (id : Nat) (r' : Rack) : Job := { j with racks := j.racks.set id r' }

theorem openTarget_opens {tr : Nat} (ht : rackTarget s s.cur.key x = some (j, id, r)) (hlo : 0 ≤ lo) (hhi : hi < r.size)
    (ho : openTray r (some s.nextId) = (r', some tr)) :
    openTarget s x lo hi counter go = go (setJob s (withRack j id r')) (id, tr) (trayAddr r' tr) := by
  unfold openTarget
  rw [ht]
  dsimp only
  rw [if_neg (by omega), ho]
  rfl

theorem openTarget_drops {c : Nat} (ht : rackTarget s s.cur.key x = some (j, id, r)) (hlo : 0 ≤ lo) (hhi : hi < r.size)
    (ho : openTray r (some s.nextId) = (r', none)) :
    openTarget s x lo hi (some c) go = decrement (setJob s (withRack j id r')) (s.cur.key / 4) c 1 := by
  unfold openTarget
  rw [ht]
  dsimp only
  rw [if_neg (by omega), ho]
  rfl

theorem rackTarget_job {k : Nat} (ht : rackTarget s k x = some (j, id, r)) : jobOfCtx s k = some j := by
  unfold rackTarget at ht
  split at ht
  · cases ht
  · next hj =>
    split at ht
    · split at ht
      · cases ht
        exact hj
      · cases ht
    · cases ht

end

/-! ## COPY at issue (10 R240, R244) -/

/-- A copy added, whatever becomes of the jobs. -/
theorem addsCopy_addCopy (i : Instr) (s : State) (jobs : List Job) (c : Copy) :
    AddsCopy i s (afterOp i s (addCopy { s with jobs := jobs } c)) c := by
  obtain ⟨-, -, -, reqs, -, copies, handovers, -⟩ := afterOp_rest i s (addCopy { s with jobs := jobs } c)
  exact ⟨copies, afterOp_ctx .., afterOp_others i s fun _ _ => rfl, afterOp_memory i s (memoryKept_refl s),
    afterOp_cores i s ⟨fun _ => rfl, fun _ _ => rfl⟩, reqs, handovers,
    afterOp_part i s ⟨rfl, rfl, rfl, rfl, rfl, rfl, rfl, rfl, rfl, rfl, rfl⟩⟩

section
variable {e : Fin 16} {a b : SReg} {c : Fin 64} {p : Tag} {s : State}

theorem copy_legal (h : Issues (.copy e a b c p) p s) (ok : patternOk (eAll (me s) e) = true) : ∃ banks,
    exec (.copy e a b c p) s = .next (afterOp (.copy e a b c p) s (addCopy s (newCopy s (eAll (me s) e) (readS s a) (readS s b) c
      (longRange (readS s a) || longRange (readS s b)) banks none))) := by
  obtain ⟨t, ht, run⟩ := operate_effect h (execCopy.eq_def e a b c p s)
  dsimp only at ht
  rw [ok, Bool.not_true, if_neg Bool.false_ne_true] at ht
  subst ht
  exact ⟨_, run⟩

theorem copy_illegal (h : Issues (.copy e a b c p) p s) (bad : patternOk (eAll (me s) e) = false) :
    exec (.copy e a b c p) s = .next (afterOp (.copy e a b c p) s (lateNow s .perm 0)) := by
  obtain ⟨t, ht, run⟩ := operate_effect h (execCopy.eq_def e a b c p s)
  dsimp only at ht
  rw [bad, Bool.not_false, if_pos rfl] at ht
  subst ht
  exact run

/-- A COPY to a rack that is not the context's to write. -/
theorem copyRack_none (h : Issues (.copyRack e a b c p) p s) (ht : rackTarget s s.cur.key (readS s b) = none) :
    exec (.copyRack e a b c p) s = .next (afterOp (.copyRack e a b c p) s (lateNow s .rackid (readS s b))) := by
  obtain ⟨t, eq, run⟩ := operate_effect h (execCopyRack.eq_def e a b c p s)
  dsimp only at eq
  rw [ht] at eq
  subst eq
  exact run

variable {j : Job} {id : Nat} {r r' : Rack} (h : Issues (.copyRack e a b c p) p s)
  (ht : rackTarget s s.cur.key (readS s b) = some (j, id, r))
include h ht

theorem copyRack_refused (bad : patternOk (eAll (me s) e) = false ∨ (patternExtent (eAll (me s) e) true).1 < 0 ∨
      (r.size : Int) ≤ (patternExtent (eAll (me s) e) true).2) :
    exec (.copyRack e a b c p) s = .next (afterOp (.copyRack e a b c p) s (lateNow s .perm 0)) := by
  obtain ⟨t, eq, run⟩ := operate_effect h (execCopyRack.eq_def e a b c p s)
  have refused : t = lateNow s .perm 0 := by
    dsimp only at eq
    rw [ht] at eq
    dsimp only at eq
    split at eq
    · exact eq
    · next ok =>
      rw [eq]
      exact openTarget_outside ht (bad.resolve_left fun bad => ok (by rw [bad]; rfl))
  rw [refused] at run
  exact run

variable (ok : patternOk (eAll (me s) e) = true) (hlo : 0 ≤ (patternExtent (eAll (me s) e) true).1)
  (hhi : (patternExtent (eAll (me s) e) true).2 < r.size)
include ok hlo hhi

/-- With a tray free, a COPY to a rack is outstanding toward it. -/
theorem copyRack_opens {tr : Nat} (ho : openTray r (some s.nextId) = (r', some tr)) : ∃ banks,
    exec (.copyRack e a b c p) s = .next (afterOp (.copyRack e a b c p) s (addCopy (setJob s (withRack j id r'))
      (newCopy (setJob s (withRack j id r')) (eAll (me s) e) (readS s a) (trayAddr r' tr) c (longRange (readS s a)) banks
        (some (id, tr))))) := by
  obtain ⟨t, eq, run⟩ := operate_effect h (execCopyRack.eq_def e a b c p s)
  dsimp only at eq
  rw [ht] at eq
  dsimp only at eq
  rw [ok, Bool.not_true, if_neg Bool.false_ne_true, openTarget_opens ht hlo hhi ho] at eq
  subst eq
  exact ⟨_, run⟩

theorem copyRack_drops (ho : openTray r (some s.nextId) = (r', none)) : exec (.copyRack e a b c p) s =
    .next (afterOp (.copyRack e a b c p) s (decrement (setJob s (withRack j id r')) (s.cur.key / 4) c 1)) := by
  obtain ⟨t, eq, run⟩ := operate_effect h (execCopyRack.eq_def e a b c p s)
  dsimp only at eq
  rw [ht] at eq
  dsimp only at eq
  rw [ok, Bool.not_true, if_neg Bool.false_ne_true, openTarget_drops ht hlo hhi ho] at eq
  subst eq
  exact run

end

/-! ## BIND and UNBIND (10 R245, R248) -/

/-- Where the bundle has read none of its streams, an unbinding is the binding's end. -/
theorem unbindNow_plain {s : State} (h : s.cur.pops = []) (n : Nat) :
    unbindNow s n = onCtx s s.cur.key fun c => { c with streams := c.streams.setIfInBounds n none } := by
  unfold unbindNow
  dsimp only
  rw [h, List.contains_nil, if_neg Bool.false_ne_true]

section
variable {s : State} {e : Fin 16} {a : SReg} {n : Fin 8} {out : Bool}

theorem bindStream_refused (bad : bindOk (eAll (me s) e) (readS s a) out = false) : bindStream s e a n out = lateNow s .perm 0 := by
  unfold bindStream
  dsimp only
  rw [bad, Bool.not_false, if_pos rfl]

@[simp] theorem ctxAt_fresh (s : State) (k : Nat) : ctxAt (fresh s) k = ctxAt s k := rfl

/-- The stream that a BIND binds. -/
def boundStream (s : State) (e : Fin 16) (a : SReg) (out : Bool) : Stream :=
  ⟨out, eAll (me s) e, readS s a, 0, [], none, s.cur.h, (me s).epoch, s.nextId⟩

theorem bindStream_binds (ok : bindOk (eAll (me s) e) (readS s a) out = true) (h : s.cur.pops = []) :
    ctxAt (bindStream s e a n out) s.cur.key =
      { ctxAt s s.cur.key with streams := (ctxAt s s.cur.key).streams.setIfInBounds n (some (boundStream s e a out)) } ∧
    OnlyContext s (bindStream s e a n out) s.cur.key := by
  have eq : bindStream s e a n out = onCtx (fresh (onCtx s s.cur.key fun c => { c with streams := c.streams.setIfInBounds n none }))
      s.cur.key fun c => { c with streams := c.streams.setIfInBounds n (some (boundStream s e a out)) } := by
    unfold bindStream
    dsimp only
    rw [ok, Bool.not_true, if_neg Bool.false_ne_true, unbindNow_plain h]
    rfl
  rw [eq]
  refine ⟨?_, fun q hq => ?_, memoryKept_refl s, ⟨fun _ => rfl, fun _ _ => rfl⟩, workKept_refl s,
    ⟨rfl, rfl, rfl, rfl, rfl, rfl, rfl, rfl, rfl, rfl, rfl⟩⟩
  · rw [ctxAt_onCtx_same, ctxAt_fresh, ctxAt_onCtx_same]
    dsimp only
    rw [Vector.setIfInBounds_setIfInBounds]
  · rw [ctxAt_onCtx_ne _ _ hq, ctxAt_fresh, ctxAt_onCtx_ne _ _ hq]

/-- BIND at issue. -/
theorem bind_binds {i : Instr} {p : Tag} (he : exec i s = operate i p s fun s => bindStream s e a n out) (h : Issues i p s)
    (ok : bindOk (eAll (me s) e) (readS s a) out = true) (pops : s.cur.pops = []) :
    ∃ t st, exec i s = .next t ∧ st.out = out ∧ st.pattern = eAll (me s) e ∧ st.base = readS s a ∧ st.pos = 0 ∧ st.queue = [] ∧
      ctxAt t s.cur.key = { ctxAt s s.cur.key with
        streams := (ctxAt s s.cur.key).streams.setIfInBounds n (some st),
        committed := (ctxAt s s.cur.key).committed || commits s s.cur.key i } ∧ OnlyContext s t s.cur.key := by
  obtain ⟨ctx, only⟩ := bindStream_binds (n := n) ok pops
  refine ⟨_, boundStream s e a out, he.trans (operate_issues h _), rfl, rfl, rfl, rfl, rfl, ?_, afterOp_onlyContext i s only⟩
  rw [afterOp_ctx, ctx]

end

/-- Settles O25: each clause is the operation's effect (`copy_legal`, `copyRack_opens`, `bindStream_binds`, …) after its issue. -/
theorem engineOperations : Obligations.EngineOperations := by
  intro e d a b f c n p s
  refine ⟨fun h => ?_, fun h => ?_, fun h ok => ?_, fun h bad => ?_, fun j id r h ht ok hlo hhi r' tr ho => ?_,
    fun j id r r' h ht ok hlo hhi ho => ?_, fun j id r h ht bad => ?_, fun h ht => ?_, fun h ok pops => ?_, fun h ok pops => ?_,
    fun h bad => ?_, fun h bad => ?_, fun h pops => ?_⟩
  · obtain ⟨t, rfl, run⟩ := operate_effect h (execEwr.eq_def e a f p s)
    exact ⟨_, run, sends_result ..⟩
  · obtain ⟨t, rfl, run⟩ := operate_effect h (execErd.eq_def e d f p s)
    exact ⟨_, run, sendsScalar_resultS _ _ _ _ _ _ rfl⟩
  · obtain ⟨banks, run⟩ := copy_legal h ok
    obtain ⟨-, -, -, -, jobs, -⟩ := afterOp_rest (.copy e a b c p) s (addCopy s (newCopy s (eAll (me s) e) (readS s a) (readS s b) c
      (longRange (readS s a) || longRange (readS s b)) banks none))
    exact ⟨_, _, run, addsCopy_addCopy _ s s.jobs _, jobs, ⟨rfl, rfl, rfl, rfl, rfl, rfl, rfl, rfl⟩, rfl, rfl, rfl⟩
  · exact ⟨_, copy_illegal h bad, findsLate_fault ..⟩
  · obtain ⟨banks, run⟩ := copyRack_opens h ht ok hlo hhi ho
    obtain ⟨command, opened, addr⟩ := openTray_opens ho
    obtain ⟨pops, after⟩ := afterOp_uncommitted (i := .copyRack e a b c p) rfl (addCopy (setJob s (withRack j id r'))
      (newCopy (setJob s (withRack j id r')) (eAll (me s) e) (readS s a) (trayAddr r' tr) c (longRange (readS s a)) banks
        (some (id, tr))))
    refine ⟨_, _, run, addsCopy_addCopy _ s (setJob s (withRack j id r')).jobs _, ⟨rfl, rfl, rfl, rfl, rfl, rfl, rfl, rfl⟩, rfl,
      addr, ?_, fun x hx => ?_, command, opened⟩
    · rw [after]
      exact jobOfCtx_setJob (j' := withRack j id r') (rackTarget_job ht) rfl
    · rw [after]
      exact jobAt_setJob_ne (j' := withRack j id r') hx
  · have run := copyRack_drops h ht ok hlo hhi ho
    obtain ⟨pops, after⟩ := afterOp_uncommitted (i := .copyRack e a b c p) rfl
      (decrement (setJob s (withRack j id r')) (s.cur.key / 4) c 1)
    obtain ⟨cores, log, tasks, eq, core⟩ := decrement_changes (setJob s (withRack j id r')) (s.cur.key / 4) c 1
    have job : jobOfCtx (decrement (setJob s (withRack j id r')) (s.cur.key / 4) c 1) s.cur.key = some (withRack j id r') :=
      (jobOfCore_decrement ..).trans (jobOfCtx_setJob (j' := withRack j id r') (rackTarget_job ht) rfl)
    rw [after] at run
    refine ⟨_, run, ?_, ?_, ?_, ?_, job, openTray_drops ho, ?_⟩
    · rw [eq]
      rfl
    · rw [eq]
      rfl
    · rw [eq]
      exact memoryKept_refl s
    · rw [eq]
      exact fun _ _ => rfl
    · exact congrArg Core.counters core
  · exact ⟨_, copyRack_refused h ht bad, findsLate_fault ..⟩
  · exact ⟨_, copyRack_none h ht, findsLate_fault ..⟩
  · exact bind_binds (execBindIn.eq_def e a n p s) h ok pops
  · exact bind_binds (execBindOut.eq_def e a n p s) h ok pops
  · obtain ⟨t, eq, run⟩ := operate_effect h (execBindIn.eq_def e a n p s)
    rw [eq, bindStream_refused bad] at run
    exact ⟨_, run, findsLate_fault ..⟩
  · obtain ⟨t, eq, run⟩ := operate_effect h (execBindOut.eq_def e a n p s)
    rw [eq, bindStream_refused bad] at run
    exact ⟨_, run, findsLate_fault ..⟩
  · obtain ⟨t, eq, run⟩ := operate_effect h (execUnbind.eq_def n p s)
    rw [eq, unbindNow_plain pops] at run
    refine ⟨_, run, ?_, afterOp_onlyContext _ s (onlyContext_onCtx ..)⟩
    rw [afterOp_ctx, ctxAt_onCtx_same, show commits s s.cur.key (.unbind n p) = false from rfl, Bool.or_false]

end Sys2Proof.Machine
end

section
/-! SUPPORT. The steps of a copy (10 R242-R244). -/

namespace Sys2Proof.Machine

/-! ## A copy replaced, and what leaves the copies and the contexts as they are -/

theorem copyAt_id {s : State} {id : Nat} {c : Copy} (h : copyAt s id = some c) : c.id = id :=
  eq_of_beq (List.find?_some (p := fun c : Copy => c.id == id) h)

/-- A copy that replaces the one of its number is found in its place. -/
theorem copyAt_setCopy {s : State} {id : Nat} {c c' : Copy} (h : copyAt s id = some c) (same : c'.id = c.id) :
    copyAt (setCopy s c') id = some c' := by
  obtain rfl : c'.id = id := same.trans (copyAt_id h)
  exact find?_replaced (number := Copy.id) h

theorem copyAt_congr {s t : State} (h : t.copies = s.copies) (id : Nat) : copyAt t id = copyAt s id := by rw [copyAt, copyAt, h]

theorem elementTouch_fetchKept (s : State) (c : Copy) (dst : Bool) (k : Nat) : FetchKept s (elementTouch s c dst k) := by
  unfold elementTouch
  split
  · exact .foldl (touchPage_fetchKept _ _) _ s
  · exact .refl s

theorem elementTouch_kept (s : State) (c : Copy) (dst : Bool) (k : Nat) : ColumnsAndMemoryKept s (elementTouch s c dst k) := by
  unfold elementTouch
  split
  · exact touchRoutes_kept ..
  · exact .refl s

namespace FetchKept

theorem copies {s t : State} (h : FetchKept s t) : t.copies = s.copies := by
  obtain ⟨-, -, copies, -⟩ := h.work
  exact copies

end FetchKept

/-- What serves held requests changes the requests and the full bits alone. -/
theorem serveOne_changes (s : State) (r : Req) : ∃ reqs full, serveOne s r = { s with reqs := reqs, full := full } := by
  unfold serveOne
  split
  · exact ⟨s.reqs, s.full, rfl⟩
  · dsimp only
    split
    · split
      · exact ⟨_, s.full, rfl⟩
      · split
        · exact ⟨_, _, rfl⟩
        · exact ⟨_, s.full, rfl⟩
    · exact ⟨s.reqs, s.full, rfl⟩

theorem serveHeld_changes (s : State) : ∃ reqs full, serveHeld s = { s with reqs := reqs, full := full } := by
  unfold serveHeld
  refine List.foldlRecOn _ _ (motive := fun t : State => ∃ reqs full, t = { s with reqs := reqs, full := full })
    ⟨s.reqs, s.full, rfl⟩ fun t ⟨_, _, ht⟩ r _ => ?_
  obtain ⟨reqs, full, h⟩ := serveOne_changes t r
  exact ⟨reqs, full, by rw [h, ht]⟩

/-! ## The bytes that an engine writes at their places -/

theorem putBytes_nil (s : State) (b : List Byte) : putBytes s [] b = s := by cases b <;> rfl
theorem putBytes_none (s : State) (l : List (Option Nat)) : putBytes s l [] = s := by
  cases l with
  | nil => rfl
  | cons x l => cases x <;> rfl

/-- Byte `v` written at its place by an engine. -/
def putByte (s : State) (x : Option Nat) (v : Byte) : State :=
  x.elim s fun pa => markFull { s with mem := writeByte s.mem pa v } pa 1

theorem putBytes_cons (s : State) (x : Option Nat) (l : List (Option Nat)) (v : Byte) (b : List Byte) :
    putBytes s (x :: l) (v :: b) = putBytes (putByte s x v) l b := by cases x <;> rfl

theorem putByte_some_mem (s : State) (pa : Nat) (v : Byte) : (putByte s (some pa) v).mem = writeByte s.mem pa v := by
  simp [putByte]

theorem putByte_changes (s : State) (x : Option Nat) (v : Byte) : ∃ mem full, putByte s x v = { s with mem := mem, full := full } := by
  cases x with
  | none => exact ⟨_, _, rfl⟩
  | some pa =>
    unfold putByte markFull
    rw [Option.elim_some]
    split <;> exact ⟨_, _, rfl⟩

theorem putBytes_changes (s : State) (l : List (Option Nat)) (b : List Byte) :
    ∃ mem full, putBytes s l b = { s with mem := mem, full := full } := by
  induction l generalizing s b with
  | nil => exact ⟨_, _, putBytes_nil s b⟩
  | cons x l ih =>
    cases b with
    | nil => exact ⟨_, _, putBytes_none s _⟩
    | cons v b =>
      obtain ⟨mem, full, h⟩ := ih (putByte s x v) b
      obtain ⟨mem', full', h'⟩ := putByte_changes s x v
      exact ⟨mem, full, by rw [putBytes_cons, h, h']⟩

theorem putBytes_copies (s : State) (l : List (Option Nat)) (b : List Byte) : (putBytes s l b).copies = s.copies := by
  obtain ⟨_, _, h⟩ := putBytes_changes s l b
  rw [h]

theorem putBytes_ctxs (s : State) (l : List (Option Nat)) (b : List Byte) : (putBytes s l b).ctxs = s.ctxs := by
  obtain ⟨_, _, h⟩ := putBytes_changes s l b
  rw [h]

theorem spoilBytes_nil (s : State) : spoilBytes s [] = s := rfl

/-- The bytes written depend on memory alone. -/
theorem putBytes_mem_congr {s t : State} (h : t.mem = s.mem) (l : List (Option Nat)) (b : List Byte) :
    (putBytes t l b).mem = (putBytes s l b).mem := by
  induction l generalizing s t b with
  | nil => rw [putBytes_nil, putBytes_nil, h]
  | cons x l ih =>
    cases b with
    | nil => rw [putBytes_none, putBytes_none, h]
    | cons v b =>
      rw [putBytes_cons, putBytes_cons]
      refine ih ?_ b
      cases x with
      | none => exact h
      | some pa => rw [putByte_some_mem, putByte_some_mem, h]

theorem readByte_putBytes_out {s : State} {l : List (Option Nat)} {x : Nat} (b : List Byte) (h : some x ∉ l) :
    readByte (putBytes s l b).mem x = readByte s.mem x := by
  induction l generalizing s b with
  | nil => rw [putBytes_nil]
  | cons y l ih =>
    cases b with
    | nil => rw [putBytes_none]
    | cons v b =>
      obtain ⟨hy, hl⟩ := not_or.mp (mt List.mem_cons.mpr h)
      rw [putBytes_cons, ih b hl]
      cases y with
      | none => rfl
      | some pa =>
        rw [putByte_some_mem]
        exact readByte_writeByte_ne s.mem v fun eq => hy (congrArg some eq)

theorem canonical_putByte {s : State} (hm : CanonicalMemory s) (x : Option Nat) (v : Byte) : CanonicalMemory (putByte s x v) := by
  have wf := wfMemory_putBytes hm [x] [v]
  rw [putBytes_cons, putBytes_nil] at wf
  exact wf

/-- Places that do not meet each hold their byte. -/
theorem readByte_putBytes_in {s : State} (hm : CanonicalMemory s) {l : List (Option Nat)} (apart : l.Nodup) {b : List Byte} {i x : Nat}
    {v : Byte} (hl : l[i]? = some (some x)) (hb : b[i]? = some v) : readByte (putBytes s l b).mem x = v := by
  induction l generalizing s b i with
  | nil => cases hl
  | cons y l ih =>
    cases b with
    | nil => cases hb
    | cons w b =>
      obtain ⟨hy, apart⟩ := List.nodup_cons.mp apart
      rw [putBytes_cons]
      cases i with
      | zero =>
        cases hl
        cases hb
        rw [readByte_putBytes_out b hy, putByte_some_mem]
        exact readByte_writeByte_same hm x _
      | succ i => exact ih (canonical_putByte hm y w) apart hl hb

/-! ## An element of a copy (10 R240-R242) -/

/-- The element is neither sent nor suspended, and the copy has not failed. -/
theorem elementReady_fresh {s : State} {c : Copy} {k : Nat} (h : elementReady s c k = true) :
    c.failed = none ∧ c.hasSent k = false ∧ c.holds k = false := by
  unfold elementReady at h
  simp only [Bool.and_eq_true, Bool.not_eq_true'] at h
  obtain ⟨⟨⟨⟨⟨⟨failed, -⟩, -⟩, sent⟩, held⟩, -⟩, -⟩ := h
  exact ⟨Option.isNone_iff_eq_none.mp failed, sent, held⟩

theorem all_none_of {l : List (Option Nat)} (h : ∀ x ∈ l, x ≠ none) : l.any Option.isNone = false :=
  List.any_eq_false.mpr fun x hx none' => h x hx (Option.isNone_iff_eq_none.mp none')

section
variable {s : State} {id k : Nat} {c : Copy} {j : Job} (hc : copyAt s id = some c) (hj : jobOfCtx s c.ctx = some j)
include hc hj

/-- An element whose way is free is moved. -/
theorem commandElement_moves {a b : List (Option Nat)} (calm : elementPaused s c k = false) (ready : elementReady s c k = true)
    (places : elementPlaces s j c k = .ok (a, b)) (freeA : elementFree s a = true) (freeB : elementFree s b = true)
    (here : ∀ x ∈ a, x ≠ none) : commandElement s id k = moveElement s c k a b (elementBytes s a) := by
  obtain ⟨-, sent, -⟩ := elementReady_fresh ready
  unfold commandElement
  rw [hc]
  dsimp only
  rw [calm, if_neg Bool.false_ne_true]
  unfold elementPerform
  rw [hc]
  dsimp only
  rw [hj]
  dsimp only
  rw [sent, if_neg Bool.false_ne_true, ready, Bool.not_true, if_neg Bool.false_ne_true, places]
  dsimp only
  rw [freeA, freeB, Bool.and_self, Bool.not_true, if_neg Bool.false_ne_true, all_none_of here, if_neg Bool.false_ne_true]

/-- One that has been sent lands. -/
theorem commandElement_lands (sent : c.hasSent k = true) : commandElement s id k = landInHost s c k := by
  have calm : elementPaused s c k = false := by
    unfold elementPaused
    rw [sent, Bool.not_true, Bool.false_and]
  unfold commandElement
  rw [hc]
  dsimp only
  rw [calm, if_neg Bool.false_ne_true]
  unfold elementPerform
  rw [hc]
  dsimp only
  rw [hj]
  dsimp only
  rw [sent, if_pos rfl]

end

section
variable {s : State} {k : Nat} {c : Copy} {a b : List (Option Nat)} {data : List Byte}

/-- An element that meets no poison is delivered. -/
theorem moveElement_delivers (cleanA : badPlace s (a.filterMap fun x => x) false = none)
    (cleanB : badPlace s (b.filterMap fun x => x) true = none) :
    moveElement s c k a b data = deliverElement (elementTouch (cached s false (a.filterMap fun x => x)) c false k) c k data b := by
  unfold moveElement
  dsimp only
  rw [show badPlace s (a.filterMap id) false = none from cleanA, show badPlace s (b.filterMap id) true = none from cleanB]
  rfl

/-- Toward host memory the data are on their way. -/
theorem deliverElement_host (here : ∀ x ∈ b, x ≠ none) (host : ∃ pa, some pa ∈ b ∧ inHost pa = true) :
    deliverElement s c k data b = setCopy s { c with sent := c.sent ++ [(k, data)] } := by
  obtain ⟨pa, mem, far⟩ := host
  unfold deliverElement
  dsimp only
  rw [all_none_of here, if_neg Bool.false_ne_true]
  exact if_pos (List.any_eq_true.mpr ⟨some pa, mem, far⟩)

/-- What is changed by the bytes delivered within the part, beside the caches and the requests served. -/
theorem deliverElement_part (here : ∀ x ∈ b, x ≠ none) (part : ∀ pa, some pa ∈ b → inHost pa = false)
    (apart : ∀ pa, some pa ∈ b → inFrame s (c.ctx / 4) pa = false) : ∃ u,
    u.mem = (putBytes s b data).mem ∧ u.copies = s.copies ∧ u.ctxs = s.ctxs ∧
    deliverElement s c k data b = serveHeld (setCopy u (elementDone c k)) := by
  have near : (b.any fun x => x.any inHost) = false := List.any_eq_false.mpr fun x hx far => by
    cases x with
    | none => cases far
    | some pa => exact Bool.false_ne_true ((part pa hx).symm.trans far)
  have framed : (b.filterMap id).filter (inFrame s (c.ctx / 4)) = [] := List.filter_eq_nil_iff.mpr fun pa hpa inside => by
    obtain ⟨x, hx, rfl⟩ := List.mem_filterMap.mp hpa
    exact Bool.false_ne_true ((apart pa hx).symm.trans inside)
  unfold deliverElement
  dsimp only
  rw [all_none_of here, if_neg Bool.false_ne_true, near, if_neg Bool.false_ne_true, framed, spoilBytes_nil]
  refine ⟨_, ?_, ?_, ?_, rfl⟩
  · rw [elementTouch_mem, cached_mem]
    refine putBytes_mem_congr ?_ b data
    rfl
  · rw [(elementTouch_fetchKept ..).copies, (cached_fetchKept ..).copies, putBytes_copies]
  · rw [(elementTouch_fetchKept ..).ctxs, (cached_fetchKept ..).ctxs, putBytes_ctxs]

end

/-! ## The steps of an element -/

theorem inFrame_congr {s t : State} (h : t.ctxs = s.ctxs) (n pa : Nat) : inFrame t n pa = inFrame s n pa := by
  unfold inFrame framePhys
  congr 1
  funext i
  rw [ctxAt_of_ctxs h]

/-- What stands in memory where the bytes of places have been written in the order of the others'. -/
theorem elementBytes_moved {s : State} (hm : CanonicalMemory s) (a b : List (Option Nat)) :
    (∀ x, some x ∉ b → readByte (putBytes s b (elementBytes s a)).mem x = readByte s.mem x) ∧
    (b.Nodup → ∀ (i x y : Nat), b[i]? = some (some x) → a[i]? = some (some y) →
      readByte (putBytes s b (elementBytes s a)).mem x = readByte s.mem y) := by
  refine ⟨fun x hx => readByte_putBytes_out _ hx, fun apart i x y hb ha => readByte_putBytes_in hm apart hb ?_⟩
  rw [elementBytes, List.getElem?_map, ha]
  rfl

section
variable {s : State} {id k : Nat} {c : Copy} {j : Job} (hc : copyAt s id = some c) (hj : jobOfCtx s c.ctx = some j)
include hc hj

/-- An element within the part: its bytes at its places, and the element counted. -/
theorem element_within {a b : List (Option Nat)} (calm : elementPaused s c k = false) (ready : elementReady s c k = true)
    (places : elementPlaces s j c k = .ok (a, b)) (freeA : elementFree s a = true) (freeB : elementFree s b = true)
    (apart : ∀ pa, some pa ∈ b → inFrame s (c.ctx / 4) pa = false) (cleanA : badPlace s (a.filterMap fun x => x) false = none)
    (cleanB : badPlace s (b.filterMap fun x => x) true = none) (hereA : ∀ x ∈ a, x ≠ none) (hereB : ∀ x ∈ b, x ≠ none)
    (part : ∀ pa, some pa ∈ b → inHost pa = false) : ∃ t, exec (.remoteAccessPerform (.element id k)) s = .next t ∧
      copyAt t id = some (elementDone c k) ∧ t.ctxs = s.ctxs ∧ t.mem = (putBytes s b (elementBytes s a)).mem := by
  have kept : FetchKept s (elementTouch (cached s false (a.filterMap fun x => x)) c false k) :=
    (cached_fetchKept ..).trans (elementTouch_fetchKept ..)
  have memory : (elementTouch (cached s false (a.filterMap fun x => x)) c false k).mem = s.mem := by rw [elementTouch_mem, cached_mem]
  obtain ⟨t, ht⟩ : ∃ t, t = commandElement s id k := ⟨_, rfl⟩
  refine ⟨t, congrArg _ ht.symm, ?_⟩
  rw [commandElement_moves hc hj calm ready places freeA freeB hereA, moveElement_delivers cleanA cleanB] at ht
  have apart' : ∀ pa, some pa ∈ b → inFrame (elementTouch (cached s false (a.filterMap fun x => x)) c false k) (c.ctx / 4) pa = false :=
    fun pa hpa => (inFrame_congr kept.ctxs ..).trans (apart pa hpa)
  obtain ⟨u, mem, copies, ctxs, delivered⟩ := deliverElement_part (k := k) (data := elementBytes s a) hereB part apart'
  rw [delivered] at ht
  obtain ⟨reqs, full, served⟩ := serveHeld_changes (setCopy u (elementDone c k))
  rw [served] at ht
  subst ht
  refine ⟨?_, ctxs.trans kept.ctxs, mem.trans (putBytes_mem_congr memory ..)⟩
  refine copyAt_setCopy (c := c) ?_ rfl
  rw [copyAt_congr copies, copyAt_congr kept.copies]
  exact hc

/-- An element toward host memory: its data are on their way. -/
theorem element_outward {a b : List (Option Nat)} (calm : elementPaused s c k = false) (ready : elementReady s c k = true)
    (places : elementPlaces s j c k = .ok (a, b)) (freeA : elementFree s a = true) (freeB : elementFree s b = true)
    (cleanA : badPlace s (a.filterMap fun x => x) false = none) (cleanB : badPlace s (b.filterMap fun x => x) true = none)
    (hereA : ∀ x ∈ a, x ≠ none) (hereB : ∀ x ∈ b, x ≠ none) (host : ∃ pa, some pa ∈ b ∧ inHost pa = true) :
    ∃ t, exec (.remoteAccessPerform (.element id k)) s = .next t ∧
      copyAt t id = some { c with sent := c.sent ++ [(k, elementBytes s a)] } ∧ t.ctxs = s.ctxs ∧ MemoryKept s t := by
  have kept : FetchKept s (elementTouch (cached s false (a.filterMap fun x => x)) c false k) :=
    (cached_fetchKept ..).trans (elementTouch_fetchKept ..)
  have memory : ColumnsAndMemoryKept s (elementTouch (cached s false (a.filterMap fun x => x)) c false k) :=
    (cached_kept ..).trans (elementTouch_kept ..)
  obtain ⟨t, ht⟩ : ∃ t, t = commandElement s id k := ⟨_, rfl⟩
  refine ⟨t, congrArg _ ht.symm, ?_⟩
  rw [commandElement_moves hc hj calm ready places freeA freeB hereA, moveElement_delivers cleanA cleanB,
    deliverElement_host hereB host] at ht
  subst ht
  exact ⟨copyAt_setCopy (c := c) ((copyAt_congr kept.copies id).trans hc) rfl, kept.ctxs, memory.memory⟩

/-- The data of an element that has been sent toward host memory land there. -/
theorem element_lands {x : Nat × List Byte} {b : List (Option Nat)} (found : c.sent.find? (fun y => y.1 == k) = some x)
    (free : c.holds k = false) (places : elementDst s j c k = .ok b) (here : ∀ y ∈ b, y ≠ none)
    (calm : wayPaused s (.unit 28) (.core (c.ctx / 4)) = false) : ∃ t, exec (.remoteAccessPerform (.element id k)) s = .next t ∧
      copyAt t id = some (elementDone c k) ∧ t.ctxs = s.ctxs ∧ t.mem = (putBytes s b x.2).mem := by
  have sent : c.hasSent k = true :=
    List.any_eq_true.mpr ⟨x, List.mem_of_find?_eq_some found, List.find?_some (p := fun y : Nat × List Byte => y.1 == k) found⟩
  obtain ⟨t, ht⟩ : ∃ t, t = commandElement s id k := ⟨_, rfl⟩
  refine ⟨t, congrArg _ ht.symm, ?_⟩
  have lands : landInHost s c k = setCopy (putBytes s b x.2) (elementDone c k) := by
    unfold landInHost
    rw [free, if_neg Bool.false_ne_true, found, hj, Option.map_some, places]
    dsimp only
    rw [all_none_of here, if_neg Bool.false_ne_true, calm, if_neg Bool.false_ne_true]
  rw [commandElement_lands hc hj sent, lands] at ht
  subst ht
  exact ⟨copyAt_setCopy (c := c) ((copyAt_congr (putBytes_copies ..) id).trans hc) rfl, putBytes_ctxs .., rfl⟩

/-- An element whose page the job does not map is suspended, and offered to the service context. -/
theorem element_jobSide {x : Cause} {a : Nat} (ready : elementReady s c k = true) (places : elementPlaces s j c k = .error (.jobSide x a)) :
    ∃ t, exec (.copyElementFault id k) s = .next t ∧ copyAt t id = some { c with suspended := c.suspended ++ [(k, false)] } ∧
      (coreAt t (c.ctx / 4)).services = (coreAt s (c.ctx / 4)).services ++ [.element id k] ∧ MemoryKept s t := by
  obtain ⟨-, sent, -⟩ := elementReady_fresh ready
  have run : execCopyElementFault id k s = .next (onCore (setCopy s { c with suspended := c.suspended ++ [(k, false)] }) (c.ctx / 4)
      fun n => { n with services := n.services ++ [.element id k] }) := by
    unfold execCopyElementFault
    rw [hc]
    dsimp only
    rw [hj]
    dsimp only
    rw [sent, Bool.and_false, Bool.false_and, if_neg Bool.false_ne_true, ready, Bool.not_true, if_neg Bool.false_ne_true, places]
  refine ⟨_, run, copyAt_setCopy (c := c) hc rfl, ?_, memoryKept_refl s⟩
  rw [coreAt_onCore_same]
  rfl

/-- An element sent toward a host page that is not mapped is suspended there. -/
theorem element_hostSide {a : Nat} (failed : c.failed = none) (sent : c.hasSent k = true) (free : c.holds k = false)
    (places : elementDst s j c k = .error (.hostSide a)) : ∃ t, exec (.copyElementFault id k) s = .next t ∧
      copyAt t id = some { c with suspended := c.suspended ++ [(k, true)] } ∧ MemoryKept s t := by
  have toward : (c.failed.isNone && c.hasSent k && !c.holds k) = true := by
    rw [failed, sent, free]
    rfl
  have run : execCopyElementFault id k s = .next (setCopy s { c with suspended := c.suspended ++ [(k, true)] }) := by
    unfold execCopyElementFault
    rw [hc]
    dsimp only
    rw [hj]
    dsimp only
    rw [if_pos toward, places]
  exact ⟨_, run, copyAt_setCopy (c := c) hc rfl, memoryKept_refl s⟩

/-- The copy with element `k` suspended no more. -/
def resumed (c : Copy) (k : Nat) : Copy := { c with suspended := c.suspended.filter fun x => x.1 != k }

/-- The replay toward a host page that is still not mapped fails the copy. -/
theorem replay_hostSide {a : Nat} (sent : c.hasSent k = true) (places : elementDst s j c k = .error (.hostSide a))
    (held : (k, true) ∈ c.suspended) (done : inService s (c.ctx / 4) id k = false) :
    ∃ t, exec (.copyElementReplay id k) s = .next t ∧
      copyAt t id = some { resumed c k with failed := some (.page, BitVec.ofNat 64 a) } ∧ MemoryKept s t := by
  have holds : (c.suspended.any fun x => x.1 == k) = true := List.any_eq_true.mpr ⟨_, held, beq_self_eq_true k⟩
  have run : execCopyElementReplay id k s = .next (setCopy s { resumed c k with failed := some (.page, BitVec.ofNat 64 a) }) := by
    unfold execCopyElementReplay
    rw [hc]
    dsimp only
    rw [hj]
    dsimp only
    rw [holds, done, Bool.not_true, Bool.or_self, if_neg Bool.false_ne_true, sent, if_pos rfl, places]
    dsimp only [Except.map]
    rw [List.contains_iff_mem.mpr held, if_pos rfl]
    rfl
  exact ⟨_, run, copyAt_setCopy (c := c) hc rfl, memoryKept_refl s⟩

/-- An element whose pages are found goes on. -/
theorem replay_resumes {x : List (Option Nat) × List (Option Nat)} (sent : c.hasSent k = false)
    (places : elementPlaces s j c k = .ok x) (held : (k, false) ∈ c.suspended) (done : inService s (c.ctx / 4) id k = false) :
    ∃ t, exec (.copyElementReplay id k) s = .next t ∧ copyAt t id = some (resumed c k) ∧ MemoryKept s t := by
  have holds : (c.suspended.any fun x => x.1 == k) = true := List.any_eq_true.mpr ⟨_, held, beq_self_eq_true k⟩
  have run : execCopyElementReplay id k s = .next (setCopy s (resumed c k)) := by
    unfold execCopyElementReplay
    rw [hc]
    dsimp only
    rw [hj]
    dsimp only
    rw [holds, done, Bool.not_true, Bool.or_self, if_neg Bool.false_ne_true, sent, if_neg Bool.false_ne_true, places]
    rfl
  exact ⟨_, run, copyAt_setCopy (c := c) hc rfl, memoryKept_refl s⟩

omit hj

/-- A pool transaction is tried again, four times at most. -/
theorem pool_retries {a : Word} (pool : poolElement c k = some a) (ready : elementReady s c k = true) (few : look 0 c.retries k < 4) :
    ∃ t, exec (.poolTransactionTimeout id k) s = .next t ∧
      copyAt t id = some { c with retries := put c.retries k (look 0 c.retries k + 1) } ∧ MemoryKept s t := by
  have run : execPoolTransactionTimeout id k s = .next (setCopy s { c with retries := put c.retries k (look 0 c.retries k + 1) }) := by
    unfold execPoolTransactionTimeout
    rw [hc]
    dsimp only
    rw [pool]
    dsimp only
    rw [ready, Bool.not_true, if_neg Bool.false_ne_true, if_pos few]
  exact ⟨_, run, copyAt_setCopy (c := c) hc rfl, memoryKept_refl s⟩

theorem pool_fails {a : Word} (pool : poolElement c k = some a) (ready : elementReady s c k = true) (spent : 4 ≤ look 0 c.retries k) :
    ∃ t x, exec (.poolTransactionTimeout id k) s = .next t ∧ copyAt t id = some { c with failed := some (x, a) } ∧ MemoryKept s t := by
  have run : execPoolTransactionTimeout id k s = .next (openUsed (setCopy s { c with failed := some (openCause s, a) })) := by
    unfold execPoolTransactionTimeout
    rw [hc]
    dsimp only
    rw [pool]
    dsimp only
    rw [ready, Bool.not_true, if_neg Bool.false_ne_true, if_neg (Nat.not_lt.mpr spent)]
  exact ⟨_, _, run, copyAt_setCopy (c := c) hc rfl, memoryKept_refl s⟩

end

/-! ## The byte reports of a copy (15 R323) -/

section
variable {bs : List Barrier} {b q : Barrier} {id n fuel : Nat} {ids : List Nat}

/-- A phase that still expects arrivals or bytes stays. -/
theorem settle_stays (h : bs[id - 1]? = some b) (open' : b.pa ≠ 0 ∨ b.pb ≠ 0) : settle (fuel + 1) (bs, ids) id = (bs, ids) := by
  unfold settle
  dsimp only
  rw [h]
  exact if_pos open'

/-- A phase complete at a barrier without a parent opens the next one, which expects something, and no more. -/
theorem settle_opens (h : bs[id - 1]? = some b) (pa : b.pa = 0) (pb : b.pb = 0) (root : b.parent = 0) (more : b.eb ≠ 0 ∨ b.early < b.ea) :
    settle (fuel + 2) (bs, ids) id = (bs.set (id - 1) (nextPhase b), ids) := by
  have next : (bs.set (id - 1) (nextPhase b))[id - 1]? = some (nextPhase b) :=
    List.getElem?_set_self (List.getElem?_eq_some_iff.mp h).1
  have opens : (nextPhase b).pa ≠ 0 ∨ (nextPhase b).pb ≠ 0 := by
    simp only [nextPhase]
    omega
  rw [settle]
  dsimp only
  rw [h]
  dsimp only
  rw [if_neg (by omega), if_pos root]
  exact settle_stays next opens

theorem settleFuel_eq (bs : List Barrier) : ∃ fuel, settleFuel bs = fuel + 2 := ⟨_, rfl⟩

/-- A barrier that takes a report of no more bytes than it expects. -/
def takesBytes (q : Barrier) (n : Nat) : Barrier := { q with pb := q.pb - n, touched := true }
/-- A barrier whose phase an overrun completes. -/
def overrun (q : Barrier) : Barrier := { q with pa := 0, pb := 0, lastOver := q.phase }

variable (hq : bs[id - 1]? = some q)
include hq

theorem getElem?_set_at (v : Barrier) : (bs.set (id - 1) v)[id - 1]? = some v :=
  List.getElem?_set_self (List.getElem?_eq_some_iff.mp hq).1

theorem takeBytes_within (h : n ≤ q.pb) (open' : q.pa ≠ 0 ∨ n < q.pb) :
    takeBytes bs id n = ((bs.set (id - 1) (takesBytes q n), []), false) := by
  obtain ⟨fuel, eq⟩ := settleFuel_eq bs
  have stays : (takesBytes q n).pa ≠ 0 ∨ (takesBytes q n).pb ≠ 0 := by
    simp only [takesBytes]
    omega
  unfold takeBytes
  rw [hq]
  dsimp only
  rw [if_pos h, eq]
  exact congrArg (·, false) (settle_stays (getElem?_set_at hq _) stays)

theorem takeBytes_completes (h : n = q.pb) (pa : q.pa = 0) (root : q.parent = 0) (more : q.eb ≠ 0 ∨ q.early < q.ea) :
    takeBytes bs id n = ((bs.set (id - 1) (nextPhase (takesBytes q n)), []), false) := by
  obtain ⟨fuel, eq⟩ := settleFuel_eq bs
  have done : (takesBytes q n).pb = 0 := by
    simp only [takesBytes]
    omega
  unfold takeBytes
  rw [hq]
  dsimp only
  rw [if_pos h.le, eq]
  refine congrArg (·, false) ((settle_opens (getElem?_set_at hq (takesBytes q n)) pa done root more).trans ?_)
  rw [List.set_set]

theorem takeBytes_overruns (h : q.pb < n) (root : q.parent = 0) (more : q.eb ≠ 0 ∨ q.early < q.ea) :
    takeBytes bs id n = ((bs.set (id - 1) (nextPhase (overrun q)), []), true) := by
  obtain ⟨fuel, eq⟩ := settleFuel_eq bs
  unfold takeBytes
  rw [hq]
  dsimp only
  rw [if_neg (Nat.not_le.mpr h), eq]
  refine congrArg (·, true) ((settle_opens (getElem?_set_at hq (overrun q)) rfl rfl root more).trans ?_)
  rw [List.set_set]

omit hq

theorem nextPhase_pa (q : Barrier) : (nextPhase q).pa = q.ea - q.early := by
  simp only [nextPhase]
  omega

end

section
variable {s : State}

theorem setBarriers_changes (k : Nat) (bs : List Barrier) : ∃ jobs, setBarriers s k bs = { s with jobs := jobs } := by
  unfold setBarriers
  split <;> exact ⟨_, rfl⟩

theorem tookBarriers_changes (k : Nat) (x : Barriers) : ∃ jobs log, tookBarriers s k x = { s with jobs := jobs, log := log } := by
  obtain ⟨jobs, eq⟩ := setBarriers_changes (s := s) k x.1
  unfold tookBarriers
  rw [eq]
  refine List.foldlRecOn _ _ (motive := fun t : State => ∃ jobs log, t = { s with jobs := jobs, log := log }) ⟨jobs, s.log, rfl⟩
    fun t ⟨_, _, ht⟩ i _ => ?_
  rw [ht]
  exact ⟨_, _, rfl⟩

theorem reportBytes_changes (k b n : Nat) : ∃ jobs log, reportBytes s k b n = { s with jobs := jobs, log := log } := by
  unfold reportBytes
  split
  · exact ⟨s.jobs, s.log, rfl⟩
  · next j hj =>
    dsimp only
    obtain ⟨jobs, log, eq⟩ := tookBarriers_changes (s := s) k (takeBytes j.barriers b n).1
    rw [eq]
    split
    · exact ⟨_, _, rfl⟩
    · exact ⟨_, _, rfl⟩

/-- The barriers of a context's job after a report that completes none of their parents. -/
theorem reportBytes_job {k b n : Nat} {j : Job} {bs : List Barrier} {over' : Bool} (hj : jobOfCtx s k = some j)
    (h : takeBytes j.barriers b n = ((bs, []), over')) :
    jobOfCtx (reportBytes s k b n) k = some { j with barriers := bs } ∧
    (over' = false → (reportBytes s k b n).log = s.log) ∧ (over' = true → ∃ e ∈ (reportBytes s k b n).log, e.kind = 10) := by
  have took : tookBarriers s k (bs, []) = setJob s { j with barriers := bs } := by
    unfold tookBarriers setBarriers
    rw [hj]
    rfl
  have job : jobOfCtx (setJob s { j with barriers := bs }) k = some { j with barriers := bs } := jobOfCtx_setJob hj rfl
  unfold reportBytes
  rw [hj]
  dsimp only
  rw [h]
  dsimp only
  rw [took]
  cases over' with
  | false => exact ⟨job, fun _ => rfl, nofun⟩
  | true => exact ⟨job, nofun, fun _ => ⟨_, List.mem_append_right _ List.mem_cons_self, rfl⟩⟩

end

/-! ## The end and the failure of a copy -/

theorem endTarget_changes (s : State) (k cmd : Nat) (rack : Option (Nat × Nat)) (ok : Bool) :
    ∃ jobs, endTarget s k cmd rack ok = { s with jobs := jobs } := by
  unfold endTarget
  split
  · exact ⟨_, rfl⟩
  · exact ⟨s.jobs, rfl⟩

/-- The tray of a command is published where its writer still has it open. -/
theorem endTarget_publishes {s : State} {k cmd i tr : Nat} {j : Job} {r : Rack} (hj : jobOfCtx s k = some j) (hr : j.racks[i]? = some r)
    (owned : r.command = some cmd) :
    (jobOfCtx (endTarget s k cmd (some (i, tr)) true) k).bind (fun k => k.racks[i]?) = some (publishTray (timeNow s) r tr) := by
  have job := jobOfCtx_setJob (j' := { j with racks := j.racks.modify i (closeTray (timeNow s) cmd true tr) }) hj rfl
  unfold endTarget
  rw [hj]
  dsimp only
  rw [job, Option.bind_some, List.getElem?_modify_eq, hr]
  exact congrArg some ((if_pos owned).trans (if_pos rfl))

/-- The task of a copy that publishes is committed. -/
def ownerCommitted (s : State) (id : Nat) (c : Copy) : State := if publishes s c.ctx id c.rack then commitTask s c.ctx c.taskEnded else s

section
variable {s : State} {id k : Nat} {c : Copy}

theorem ownerCommitted_changes (s : State) (id : Nat) (c : Copy) : ∃ ctxs, ownerCommitted s id c = { s with ctxs := ctxs } := by
  unfold ownerCommitted commitTask
  split
  · split
    · exact ⟨s.ctxs, rfl⟩
    · exact ⟨_, rfl⟩
  · exact ⟨s.ctxs, rfl⟩

theorem ownerCommitted_commits (h : publishes s c.ctx id c.rack = true) (runs : c.taskEnded = false) :
    (ctxAt (ownerCommitted s id c) c.ctx).committed = true := by
  unfold ownerCommitted commitTask
  rw [if_pos h, runs, if_neg Bool.false_ne_true, ctxAt_onCtx_same]

theorem publishes_some {i tr : Nat} {j : Job} {r : Rack} (hj : jobOfCtx s k = some j) (hr : j.racks[i]? = some r)
    (owned : r.command = some id) : publishes s k id (some (i, tr)) = true := by
  unfold publishes
  rw [hj]
  dsimp only
  rw [hr, Option.any_some, owned, beq_self_eq_true]

variable (hc : copyAt s id = some c)
include hc

/-- The end of a copy. -/
theorem copyComplete_runs (fine : c.failed = none) (all : patternElements c.pattern ≤ c.moved.length) (reported : c.unreported = 0)
    (free : completionHeld s (c.ctx / 4) = false) (target : targetHeld s c.ctx c.rack = false) :
    exec (.copyComplete id) s = .next (decrement (endTarget (dropCopy (ownerCommitted s id c) id) c.ctx id c.rack true) (c.ctx / 4)
      c.counter 1) := by
  have done : (c.failed.isSome || decide (c.moved.length < patternElements c.pattern) || decide (c.unreported ≠ 0) ||
      completionHeld s (c.ctx / 4) || targetHeld s c.ctx c.rack) = false := by
    rw [fine, reported, free, target, decide_eq_false (Nat.not_lt.mpr all)]
    rfl
  show execCopyComplete id s = _
  unfold execCopyComplete
  rw [hc]
  dsimp only
  rw [done, if_neg Bool.false_ne_true]
  rfl

/-- The fault that a failed copy leaves. -/
def copyFault (c : Copy) (x : Cause) (a : Word) : FaultRec := ⟨x, 0, a, c.bundle, 9, true, c.epoch, c.id, none⟩

/-- The failure of a copy whose bytes are reported. -/
theorem copyFailure_runs {x : Cause} {a : Word} (failed : c.failed = some (x, a)) (reported : c.unreported = 0)
    (target : targetHeld s c.ctx c.rack = false) (free : failureHeld s c = false) : exec (.copyFailure id) s =
      .next (engineFault (endTarget (dropCopy s id) c.ctx id c.rack false) c.ctx c.taskEnded (copyFault c x a)) := by
  have done : ((decide (c.unreported ≠ 0) && reportHeld s (c.ctx / 4) (bits c.pattern[0] 31 24)) || targetHeld s c.ctx c.rack ||
      failureHeld s c) = false := by
    rw [reported, target, free]
    rfl
  show execCopyFailure id s = _
  unfold execCopyFailure
  rw [hc]
  dsimp only
  rw [failed]
  dsimp only
  rw [done, if_neg Bool.false_ne_true, if_pos reported]
  rfl

omit hc

/-- A late fault of a context that is not in a handler, or whose handler it belongs to, is among those to be delivered. -/
theorem lateFault_appends {f : FaultRec} (once : ¬(f.cause = .ue ∧ retriedTask s k = true)) (own : (ctxAt s k).h = f.inHandler) :
    ∃ x, lateFault s k f = onCtx s k (fun _ => x) ∧ x.late = (ctxAt s k).late ++ [f] := by
  have here : ((ctxAt s k).h && !f.inHandler) = false := by
    rw [own]
    exact Bool.and_not_self _
  unfold lateFault
  rw [if_neg once, here, if_neg Bool.false_ne_true]
  refine ⟨_, rfl, ?_⟩
  split
  · unfold wake
    split <;> rfl
  · rfl

end

section
variable {s : State} {id : Nat} {c : Copy} {j : Job} (hc : copyAt s id = some c) (hj : jobOfCtx s c.ctx = some j)
include hc hj

theorem copy_ends (fine : c.failed = none) (all : patternElements c.pattern ≤ c.moved.length) (reported : c.unreported = 0)
    (free : completionHeld s (c.ctx / 4) = false) (target : targetHeld s c.ctx c.rack = false) :
    ∃ t, exec (.copyComplete id) s = .next t ∧ t.copies = s.copies.filter (fun x => x.id != id) ∧ MemoryKept s t ∧
      (coreAt t (c.ctx / 4)).counters = (coreAt s (c.ctx / 4)).counters.setIfInBounds c.counter
        (((coreAt s (c.ctx / 4)).counters[c.counter]?).getD 0 - 1) ∧
      ∀ i tr r, c.rack = some (i, tr) → j.racks[i]? = some r → r.command = some id →
        (jobOfCtx t c.ctx).bind (fun k => k.racks[i]?) = some (publishTray (timeNow s) r tr) ∧
        (c.taskEnded = false → (ctxAt t c.ctx).committed = true) := by
  have run := copyComplete_runs hc fine all reported free target
  obtain ⟨ctxs, owner⟩ := ownerCommitted_changes s id c
  obtain ⟨jobs, ended⟩ := endTarget_changes (dropCopy (ownerCommitted s id c) id) c.ctx id c.rack true
  obtain ⟨cores, log, tasks, counted, core⟩ :=
    decrement_changes (endTarget (dropCopy (ownerCommitted s id c) id) c.ctx id c.rack true) (c.ctx / 4) c.counter 1
  refine ⟨_, run, ?_, ?_, ?_, fun i tr r hrack hr owned => ⟨?_, fun runs => ?_⟩⟩
  · rw [counted, ended, owner]
    rfl
  · rw [counted, ended, owner]
    exact memoryKept_refl s
  · rw [core, ended, owner]
    rfl
  · have job : jobOfCtx (dropCopy (ownerCommitted s id c) id) c.ctx = some j := by
      rw [owner]
      exact hj
    have time : timeNow (dropCopy (ownerCommitted s id c) id) = timeNow s := by
      rw [owner]
      rfl
    rw [show jobOfCtx _ c.ctx = _ from jobOfCore_decrement .., hrack, ← time]
    exact endTarget_publishes job hr owned
  · have publishes : publishes s c.ctx id c.rack = true := hrack ▸ publishes_some hj hr owned
    rw [counted, ended]
    exact ownerCommitted_commits publishes runs

omit hj

theorem copy_fails {x : Cause} {a : Word} (failed : c.failed = some (x, a)) (runs : c.taskEnded = false) (reported : c.unreported = 0)
    (target : targetHeld s c.ctx c.rack = false) (free : failureHeld s c = false) (own : (ctxAt s c.ctx).h = c.epoch.handler)
    (once : ¬(x = .ue ∧ retriedTask s c.ctx = true)) : ∃ t f, exec (.copyFailure id) s = .next t ∧
      t.copies = s.copies.filter (fun y => y.id != id) ∧ (ctxAt t c.ctx).late = (ctxAt s c.ctx).late ++ [f] ∧ f.cause = x ∧ f.addr = a ∧
      (coreAt t (c.ctx / 4)).counters = (coreAt s (c.ctx / 4)).counters ∧ MemoryKept s t := by
  have run := copyFailure_runs hc failed reported target free
  obtain ⟨jobs, ended⟩ := endTarget_changes (dropCopy s id) c.ctx id c.rack false
  rw [ended, runs] at run
  obtain ⟨y, fault, late⟩ := lateFault_appends (s := { dropCopy s id with jobs := jobs }) (k := c.ctx) (f := copyFault c x a) once own
  refine ⟨_, copyFault c x a, run.trans (congrArg _ fault), rfl, ?_, rfl, rfl, rfl, memoryKept_refl s⟩
  rw [ctxAt_onCtx_same]
  exact late

theorem copy_reports {n : Nat} (some' : n ≠ 0) (h : n ≤ c.unreported)
    (free : reportHeld s (c.ctx / 4) (bits c.pattern[0] 31 24) = false) : exec (.copyByteReport id n) s =
      .next (reportBytes (setCopy s { c with unreported := c.unreported - n }) c.ctx (bits c.pattern[0] 31 24) n) := by
  show execCopyByteReport id n s = _
  unfold execCopyByteReport
  rw [hc]
  dsimp only
  rw [free, if_neg (not_or.mpr ⟨some', not_or.mpr ⟨Nat.not_lt.mpr h, Bool.false_ne_true⟩⟩)]

end

/-- Settles O36: each step of a copy by the lemma that says what it does (`element_within`, `replay_resumes`, `copy_ends`, …). -/
theorem copySteps : Obligations.CopySteps := by
  intro s id k n c j hc hj
  refine ⟨fun a b calm ready places freeA apart freeB cleanA cleanB hereA hereB => ?_, fun x b found free places here calm => ?_,
    fun x a ready places => ?_, fun a failed sent places => ⟨fun free => ?_, fun held done => ?_⟩,
    fun x held sent done places => ?_, fun a pool ready few => ?_, fun a pool ready spent => ?_, fun some' h free => ?_,
    fun q some' h free hx hq => ⟨fun le open' => ?_, fun eq pa root more => ?_, fun gt root more => ?_⟩,
    copy_ends hc hj, fun x a failed runs reported target free own once => copy_fails hc failed runs reported target free own once⟩
  · by_cases host : ∃ pa, some pa ∈ b ∧ inHost pa = true
    · obtain ⟨t, run, copy, ctxs, memory⟩ := element_outward hc hj calm ready places freeA freeB cleanA cleanB hereA hereB host
      obtain ⟨pa, hpa, far⟩ := host
      exact ⟨t, _, run, copy, ctxs, fun near => absurd ((near pa hpa).symm.trans far) Bool.false_ne_true, fun _ => ⟨rfl, rfl, memory⟩⟩
    · have part : ∀ pa, some pa ∈ b → inHost pa = false := fun pa hpa => Bool.eq_false_iff.mpr fun far => host ⟨pa, hpa, far⟩
      obtain ⟨t, run, copy, ctxs, mem⟩ := element_within hc hj calm ready places freeA freeB apart cleanA cleanB hereA hereB part
      refine ⟨t, _, run, copy, ctxs, fun _ => ⟨rfl, mem, fun hm => ?_⟩, fun far => absurd far host⟩
      rw [mem]
      exact elementBytes_moved hm a b
  · obtain ⟨t, run, copy, ctxs, mem⟩ := element_lands hc hj found free places here calm
    refine ⟨t, _, run, copy, rfl, rfl, mem, ctxs, fun hm => ?_⟩
    rw [mem]
    exact ⟨fun y hy => readByte_putBytes_out _ hy, fun apart i y v hb hv => readByte_putBytes_in hm apart hb hv⟩
  · obtain ⟨t, run, copy, services, memory⟩ := element_jobSide hc hj ready places
    exact ⟨t, _, run, copy, rfl, services, memory⟩
  · obtain ⟨t, run, copy, memory⟩ := element_hostSide hc hj failed sent free places
    exact ⟨t, _, run, copy, rfl, rfl, rfl, memory⟩
  · obtain ⟨t, run, copy, memory⟩ := replay_hostSide hc hj sent places held done
    exact ⟨t, _, run, copy, rfl, memory⟩
  · obtain ⟨t, run, copy, memory⟩ := replay_resumes hc hj sent places held done
    exact ⟨t, _, run, copy, rfl, rfl, memory⟩
  · obtain ⟨t, run, copy, memory⟩ := pool_retries hc pool ready few
    obtain ⟨failed, -, -⟩ := elementReady_fresh ready
    exact ⟨t, _, run, copy, look_put_same .., failed, memory⟩
  · obtain ⟨t, x, run, copy, memory⟩ := pool_fails hc pool ready spent
    exact ⟨t, _, x, run, copy, rfl, memory⟩
  · obtain ⟨jobs, log, eq⟩ := reportBytes_changes (s := setCopy s { c with unreported := c.unreported - n }) c.ctx
      (bits c.pattern[0] 31 24) n
    refine ⟨_, _, (copy_reports hc some' h free).trans (congrArg _ eq), copyAt_setCopy (c := c) hc rfl, rfl, memoryKept_refl s⟩
  · obtain ⟨job, log, -⟩ := reportBytes_job (s := setCopy s { c with unreported := c.unreported - n }) hj (takeBytes_within hq le open')
    exact ⟨_, _, copy_reports hc some' h free, job, rfl, log rfl⟩
  · obtain ⟨job, log, -⟩ := reportBytes_job (s := setCopy s { c with unreported := c.unreported - n }) hj
      (takeBytes_completes hq eq pa root more)
    exact ⟨_, _, copy_reports hc some' h free, job, rfl, nextPhase_pa _, rfl, rfl, log rfl⟩
  · obtain ⟨job, -, log⟩ := reportBytes_job (s := setCopy s { c with unreported := c.unreported - n }) hj
      (takeBytes_overruns hq gt root more)
    exact ⟨_, _, copy_reports hc some' h free, job, rfl, rfl, nextPhase_pa _, rfl, log rfl⟩

end Sys2Proof.Machine
end

section
/-! SUPPORT. The steps of a stream (10 R246-R248). -/

namespace Sys2Proof.Machine

/-! ## The bytes of a vector at their places -/

/-- The bytes of `v`, the lowest first. -/
def bytesOf (v n : Nat) : List Byte := (List.range n).map fun i => BitVec.ofNat 8 (v / 256 ^ i)

theorem bytesOf_succ (v n : Nat) : bytesOf v (n + 1) = BitVec.ofNat 8 v :: bytesOf (v / 256) n := by
  have shift : (fun i => BitVec.ofNat 8 (v / 256 ^ i)) ∘ Nat.succ = fun i => BitVec.ofNat 8 (v / 256 / 256 ^ i) := by
    funext i
    rw [Function.comp, Nat.pow_succ', Nat.div_div_eq_div_mul]
  rw [bytesOf, List.range_succ_eq_map, List.map_cons, List.map_map, shift, Nat.pow_zero, Nat.div_one]
  rfl

/-- A vector's bytes are written as an engine writes bytes at places of this part. -/
theorem scatterBytesAt_eq_putBytes (s : State) (v : Nat) (l : List Nat) :
    scatterBytesAt s v l = putBytes s (l.map some) (bytesOf v l.length) := by
  induction l generalizing s v with
  | nil => rfl
  | cons a l ih =>
    rw [List.length_cons, bytesOf_succ, List.map_cons, putBytes_cons, ← ih]
    rfl

theorem scatterBytesAt_places {s : State} (hm : CanonicalMemory s) (v : Nat) (l : List Nat) :
    (∀ x, x ∉ l → readByte (scatterBytesAt s v l).mem x = readByte s.mem x) ∧
    (l.Nodup → ∀ (i x : Nat), l[i]? = some x → readByte (scatterBytesAt s v l).mem x = BitVec.ofNat 8 (v / 256 ^ i)) := by
  rw [scatterBytesAt_eq_putBytes]
  refine ⟨fun x hx => readByte_putBytes_out _ fun mem => hx ?_, fun apart i x hx => ?_⟩
  · obtain ⟨y, hy, same⟩ := List.mem_map.mp mem
    exact Option.some.inj same ▸ hy
  · have inside : i < l.length := (List.getElem?_eq_some_iff.mp hx).1
    refine readByte_putBytes_in hm (apart.map (Option.some_injective _)) (i := i) ?_ ?_
    · rw [List.getElem?_map, hx]
      rfl
    · rw [bytesOf, List.getElem?_map, List.getElem?_range inside]
      rfl

/-! ## What the transfer of a vector touches (13 R279, R281) -/

theorem streamTouch_fetchKept (s : State) (j : Job) (n : Nat) (st : Stream) (pos : Nat) : FetchKept s (streamTouch s j n st pos) :=
  (cached_fetchKept ..).trans (.foldl (touchPage_fetchKept j n) _ _)

theorem streamTouch_kept (s : State) (j : Job) (n : Nat) (st : Stream) (pos : Nat) : ColumnsAndMemoryKept s (streamTouch s j n st pos) :=
  (cached_kept ..).trans (touchRoutes_kept ..)

/-- With no core asleep an access to slices wakes none. -/
theorem cached_awake {s : State} (awake : ∀ m, (coreAt s m).gated = false) (write : Bool) (l : List Nat) :
    CachesTouched s (cached s write l) := by
  have still : (((l.filter inSlice).map (· / 2 ^ 22)).foldl include1 []).foldl wakeSlice s = s :=
    List.foldlRecOn _ _ (motive := (· = s)) rfl fun t ht m _ => by
      rw [ht, wakeSlice, awake m, if_neg Bool.false_ne_true]
  unfold cached
  rw [still]
  exact .foldl (touchLine_touched write l) _ s

theorem streamTouch_awake {s : State} (awake : ∀ m, (coreAt s m).gated = false) (j : Job) (n : Nat) (st : Stream) (pos : Nat) :
    CachesTouched s (streamTouch s j n st pos) :=
  (cached_awake awake ..).trans (touchRoutes_touched ..)

/-- A vector that meets no fate is written at its places. -/
theorem streamWrite_ok {s u : State} {j : Job} {st : Stream} {pos : Nat} {v : VWord} (h : streamWrite s j st pos v = .ok u) :
    streamFate s j st pos = none ∧ ∃ bad, u = scatterBytesAt { s with bad := bad } v.toNat (placesOf j st.out (streamAddrs st pos)) := by
  unfold streamWrite at h
  split at h
  · cases h
  · next fate =>
    cases h
    exact ⟨fate, _, rfl⟩

/-! ## The binding of a register -/

/-- The stream bound to register `56 + n` of context `k`, replaced. -/
def bindNow (s : State) (k n : Nat) (x : Option Stream) : State := onCtx s k fun c => { c with streams := c.streams.setIfInBounds n x }

theorem ctxAt_bindNow (s : State) (k n : Nat) (x : Option Stream) :
    ctxAt (bindNow s k n x) k = { ctxAt s k with streams := (ctxAt s k).streams.setIfInBounds n x } := ctxAt_onCtx_same ..

/-- What becomes of an input stream by what its next bytes are found to be. -/
def foundAhead (s : State) (j : Job) (k : Nat) (n : Fin 8) (st : Stream) (pos : Nat) :
    Except (Cause × Word) VWord → Host.Outcome State Fault Refusal
  | .error e => .next (if walkable e then streamService s k n st
      else poisonTouch (bindNow s k n (some { st with fault := some (streamFaultRec st e) })) j (k / 4) st pos e)
  | .ok v => .next (streamTouch (bindNow s k n (some { st with queue := st.queue ++ [v] })) j (k / 4) st pos)

section
variable {s : State} {k : Nat} {n : Fin 8} {st : Stream} {j : Job} (hj : jobOfCtx s k = some j) (hst : (ctxAt s k).streams[n] = some st)
include hst

theorem boundStream_eq : ((ctxAt s k).streams[n.val]?).getD none = some st := by
  rw [Vector.getElem?_eq_getElem n.isLt]
  exact hst

include hj

section
variable (inward : st.out = false) (fine : st.fault = none) (room : st.queue.length < 8)
  (more : st.pos + 256 * st.queue.length < patternBytes st.pattern) (free : streamHeld s j k st (st.pos + 256 * st.queue.length) = false)
  (clear' : streamBehind s k st (st.pos + 256 * st.queue.length) = false)
include inward fine room more free clear'

/-- What a read-ahead that nothing holds up makes of what it finds. -/
theorem readAhead_next : execStreamReadAhead k n s =
    foundAhead s j k n st (st.pos + 256 * st.queue.length) (streamRead s j st (st.pos + 256 * st.queue.length)) := by
  have pos : transferPos st = st.pos + 256 * st.queue.length := by
    rw [transferPos, inward]
    rfl
  have goes : (st.out || st.fault.isSome || decide (8 ≤ st.queue.length) || decide (patternBytes st.pattern ≤ transferPos st) ||
      streamHeld s j k st (transferPos st) || streamBehind s k st (transferPos st)) = false := by
    rw [pos, inward, fine, free, clear', decide_eq_false (Nat.not_le.mpr room), decide_eq_false (Nat.not_le.mpr more)]
    rfl
  unfold execStreamReadAhead foundAhead
  rw [hj, boundStream_eq hst]
  dsimp only
  rw [goes, if_neg Bool.false_ne_true, pos]
  rfl

/-- The next vector of an input stream joins its queue. -/
theorem readAhead_reads {v : VWord} (read : streamRead s j st (st.pos + 256 * st.queue.length) = .ok v) :
    exec (.streamReadAhead k n) s = .next (streamTouch (bindNow s k n (some { st with queue := st.queue ++ [v] })) j (k / 4) st
      (st.pos + 256 * st.queue.length)) := by
  show execStreamReadAhead k n s = _
  rw [readAhead_next hj hst inward fine room more free clear', read]
  rfl

/-- What an input stream meets goes to the service context, or is held. -/
theorem readAhead_meets {e : Cause × Word} (read : streamRead s j st (st.pos + 256 * st.queue.length) = .error e) :
    exec (.streamReadAhead k n) s = .next (if walkable e then streamService s k n st
      else poisonTouch (bindNow s k n (some { st with fault := some (streamFaultRec st e) })) j (k / 4) st
        (st.pos + 256 * st.queue.length) e) := by
  show execStreamReadAhead k n s = _
  rw [readAhead_next hj hst inward fine room more free clear', read]
  rfl

end

/-- The head vector of an output stream is written. -/
theorem drainWrite_writes {v : VWord} {q : List VWord} {u : State} (outward : st.out = true) (queue : st.queue = v :: q)
    (free : streamHeld s j k st st.pos = false) (clear' : streamBehind s k st st.pos = false)
    (write : streamWrite s j st st.pos v = .ok u) : exec (.streamDrainWrite k n) s = .next (serveHeld (drainOne s k n)) := by
  have pos : transferPos st = st.pos := by
    rw [transferPos, outward]
    rfl
  have goes : (!st.out || st.drained || streamHeld s j k st st.pos || streamBehind s k st st.pos) = false := by
    rw [outward, Stream.drained, queue, free, clear']
    rfl
  have fate : nextFate s j st = none := by
    rw [nextFate, queue, List.isEmpty_cons, Bool.and_false, if_neg Bool.false_ne_true, pos]
    exact (streamWrite_ok write).1
  show execStreamDrainWrite k n s = _
  unfold execStreamDrainWrite
  rw [hj, boundStream_eq hst]
  dsimp only
  rw [goes, if_neg Bool.false_ne_true, fate]

/-- What is left of an output stream when its head vector is written. -/
def afterDrain (s : State) (k : Nat) (st : Stream) (q : List VWord) : Option Stream :=
  if patternBytes st.pattern ≤ st.pos + 256 ∨ ((ctxAt s k).status = .ending ∧ q = []) then none
  else some { st with pos := st.pos + 256, queue := q }

theorem drainOne_writes {v : VWord} {q : List VWord} {u : State} (queue : st.queue = v :: q) (write : streamWrite s j st st.pos v = .ok u) :
    drainOne s k n = bindNow (streamTouch u j (k / 4) st st.pos) k n (afterDrain (streamTouch u j (k / 4) st st.pos) k st q) := by
  have rest : (if (decide (patternBytes st.pattern ≤ st.pos + 256) || (ctxAt (streamTouch u j (k / 4) st st.pos) k).status == .ending &&
      q.isEmpty) = true then none else some { st with pos := st.pos + 256, queue := q }) =
      afterDrain (streamTouch u j (k / 4) st st.pos) k st q :=
    if_congr (by simp only [Bool.or_eq_true, decide_eq_true_eq, Bool.and_eq_true, beq_iff_eq, List.isEmpty_iff]) rfl rfl
  unfold drainOne
  rw [hj, boundStream_eq hst]
  dsimp only
  rw [queue]
  dsimp only
  rw [write]
  dsimp only
  rw [← rest]
  rfl

end

section
variable {s : State} {k : Nat} {n : Fin 8} {st : Stream} {j : Job}

/-- A page that the walker cannot find is offered to the service context, and its context waits for it. -/
theorem streamService_serves (idle : (coreAt s (k / 4)).services = []) (free : (coreAt s (k / 4)).service = none)
    (runs : (ctxAt s k).status ≠ .idle) (goes : (ctxAt s k).status ≠ .ending) :
    (coreAt (streamService s k n st) (k / 4)).services = [.stream k n st.order] ∧
    ctxAt (streamService s k n st) k = { ctxAt s k with status := .serviced } ∧ MemoryKept s (streamService s k n st) := by
  have offers : streamService s k n st = toService s k (.stream k n st.order) := by
    unfold streamService
    dsimp only
    rw [idle, free]
    rfl
  have waits : ctxAt (toService s k (.stream k n st.order)) k = { ctxAt s k with status := .serviced } := by
    show ctxAt (onCtx s k fun c => if c.status = .idle ∨ c.status = .ending then c else { c with status := .serviced }) k = _
    rw [ctxAt_onCtx_same, if_neg (not_or.mpr ⟨runs, goes⟩)]
  rw [offers]
  refine ⟨?_, waits, memoryKept_refl s⟩
  unfold toService
  rw [coreAt_onCore_same]
  exact congrArg (· ++ [_]) idle

/-- A fate held for its reader changes the binding alone, and what its bytes' access touches where they are poisoned. -/
theorem poisonTouch_keeps (st' : Option Stream) (pos : Nat) (e : Cause × Word) :
    let t := poisonTouch (bindNow s k n st') j (k / 4) st pos e
    t.ctxs = (bindNow s k n st').ctxs ∧ MemoryKept s t ∧ WorkKept s t ∧ (e.1 ≠ .ue → OnlyContext s t k) := by
  have bound : OnlyContext s (bindNow s k n st') k := onlyContext_onCtx ..
  unfold poisonTouch
  by_cases poison : e.1 = .ue
  · rw [if_pos poison]
    have kept := streamTouch_fetchKept (bindNow s k n st') j (k / 4) st pos
    have memory := (streamTouch_kept (bindNow s k n st') j (k / 4) st pos).memory
    exact ⟨kept.ctxs, memory, kept.work, fun other => absurd poison other⟩
  · rw [if_neg poison]
    exact ⟨rfl, memoryKept_refl s, workKept_refl s, fun _ => bound⟩

end

/-- Settles O37: a read-ahead by what it finds (`readAhead_reads`, `readAhead_meets`), a drain by `drainOne_writes`. -/
theorem streamSteps : Obligations.StreamSteps := by
  intro s k n st j hj hst
  refine ⟨fun inward fine room more free clear' => ⟨fun v read awake => ?_, fun x a meets walks idle service runs goes => ?_,
    fun x a meets stays => ?_⟩, fun v q u outward queue free clear' write => ?_⟩
  · have run := readAhead_reads hj hst inward fine room more free clear' read
    obtain ⟨t, ht⟩ : ∃ t, t = bindNow s k n (some { st with queue := st.queue ++ [v] }) := ⟨_, rfl⟩
    have ctx := ctxAt_bindNow s k n (some { st with queue := st.queue ++ [v] })
    have bound : OnlyContext s t k := ht ▸ onlyContext_onCtx ..
    rw [← ht] at run ctx
    obtain ⟨lines, queue, asleep, resting, routes, touched⟩ :=
      streamTouch_awake (s := t) (ht ▸ awake) j (k / 4) st (st.pos + 256 * st.queue.length)
    rw [touched] at run
    obtain ⟨others, memory, cores, work, queues, completions, images, packets, log, portB, -, columns, links, health, clock⟩ := bound
    exact ⟨_, run, others, memory, cores, work,
      ⟨queues, completions, images, packets, log, portB, rfl, columns, links, health, clock⟩, congrArg Ctx.streams ctx, (congrArg Ctx.v ctx :)⟩
  · have run := readAhead_meets hj hst inward fine room more free clear' meets
    rw [if_pos walks] at run
    exact ⟨_, run, streamService_serves idle service runs goes⟩
  · have run := readAhead_meets hj hst inward fine room more free clear' meets
    rw [stays, if_neg Bool.false_ne_true] at run
    obtain ⟨ctxs, memory, work, only⟩ := poisonTouch_keeps (s := s) (k := k) (n := n) (st := st) (j := j)
      (some { st with fault := some (streamFaultRec st (x, a)) }) (st.pos + 256 * st.queue.length) (x, a)
    have ctx := (ctxAt_of_ctxs ctxs k).trans (ctxAt_bindNow ..)
    refine ⟨_, streamFaultRec st (x, a), run, fun q hq => ?_, memory, work, only, congrArg Ctx.streams ctx, rfl, rfl, (congrArg Ctx.late ctx :)⟩
    exact (ctxAt_of_ctxs ctxs q).trans (othersKept_onCtx s k _ q hq)
  · have run := drainWrite_writes hj hst outward queue free clear' write
    obtain ⟨-, bad, written⟩ := streamWrite_ok write
    obtain ⟨reqs, full, served⟩ := serveHeld_changes (drainOne s k n)
    have touched := streamTouch_fetchKept u j (k / 4) st st.pos
    have ctxs : u.ctxs = s.ctxs := by
      rw [written, scatterBytesAt_eq_putBytes]
      exact putBytes_ctxs ..
    have ctx : ctxAt (streamTouch u j (k / 4) st st.pos) k = ctxAt s k := (ctxAt_of_ctxs touched.ctxs k).trans (ctxAt_of_ctxs ctxs k)
    have mem : (serveHeld (drainOne s k n)).mem = u.mem := by
      rw [serveHeld_mem, drainOne_writes hj hst queue write]
      exact (onCtx_mem ..).trans (streamTouch_mem ..)
    refine ⟨_, run, mem, fun hm => ?_, ?_⟩
    · rw [mem, written, outward]
      exact scatterBytesAt_places (s := { s with bad := bad }) hm v.toNat _
    · have left : afterDrain (streamTouch u j (k / 4) st st.pos) k st q = afterDrain s k st q := by rw [afterDrain, afterDrain, ctx]
      have bound : ctxAt (serveHeld (drainOne s k n)) k = ctxAt (drainOne s k n) k := by
        rw [served]
        rfl
      rw [bound, drainOne_writes hj hst queue write, ctxAt_bindNow, ctx, left]
      rfl

end Sys2Proof.Machine
end
